-- ==== Sys2Proof/Word.lean ====
section
/-! DEFINITION. The word types of the ZA-2048L: 64-bit registers (05), bytes of memory (00 R3), 32-bit grid and accumulator elements (06 R123, 08 R183). -/

namespace Sys2Proof

/-- A control-core register, a doubleword of a command (03 R46). -/
abbrev Word := BitVec 64

/-- One byte of memory. -/
abbrev Byte := BitVec 8

/-- One element of the vector grid or of an accumulator tile. -/
abbrev Elem := BitVec 32

end Sys2Proof
end

