-- ==== Sys2Proof/Syntax.lean ====
section
/-! DEFINITION. Syntax of the four instruction records (03) and of the device's steps that have no encoding (95): one constructor of `Instr` for each row of spec/opcode_table.json. Register and field numbers are natural numbers bounded by WellFormed; immediates and offsets are kept as the unsigned field the record holds, and the meaning extends them (03 R53). The steps that only the agenda can name stand last: compiled code can build no constructor beyond the 244th. -/

namespace Sys2Proof

/-- The guard of a record: predicate number and the neg bit (03 R52, R57). -/
structure Guard where
  p : Nat
  neg : Bool
  deriving DecidableEq, Repr

/-- Direction of a grid operand (03 R59). -/
inductive Dir where
  | row | column | diagonal | antidiagonal
  deriving DecidableEq, Repr

/-- A vector operand (03 R59). `stride` is signed; a scratchpad's `step` is its two-bit code; an immediate holds its 22 bits. -/
inductive VOp where
  | grid (dir : Dir) (index : Nat) (stride : Int) (rot : Bool) (off : Nat)
  | scalar (n : Nat)
  | imm (v : Nat)
  | scratch (step base : Nat) (stride : Int) (off : Nat)
  deriving DecidableEq, Repr

/-- The fields that every vector word has (03 R57). -/
structure VHdr where
  guard : Guard
  slot : Nat
  pop : Nat
  push : Nat
  deriving DecidableEq, Repr

/-- The accumulator field of VACLD and VACZ (07 R159). -/
structure AccField where
  tile : Nat
  offset : Nat
  stride : Int
  deriving DecidableEq, Repr

/-- The count of a VLOOP: a scalar register or an immediate (07 R162). -/
inductive VCount where
  | scalar (n : Nat)
  | imm (v : Nat)
  deriving DecidableEq, Repr

/-- The fields that every matrix word has (03 R64). -/
structure MHdr where
  guard : Nat
  pop : Nat
  push : Nat
  deriving DecidableEq, Repr

/-- The fields of a tile step (03 R64); `m`, `n`, `k` are the counts themselves. mode.S, mode.G and the gather flags follow from the opcode (R65). -/
structure MTile where
  slotA : Nat
  slotB : Nat
  slotC : Nat
  absorb : Bool
  m : Nat
  n : Nat
  k : Nat
  tile : Nat
  acc : Bool
  offset : Nat
  genA : Nat
  offA : Int
  genB : Nat
  offB : Int
  deriving DecidableEq, Repr

/-- The loop an MFMT or VFMT names: none, L0 or L1 (07 R162, 08 R205). -/
inductive LoopSel where
  | none | l0 | l1
  deriving DecidableEq, Repr

/-- A declared set of lines (03 R71). -/
structure LineSet where
  start : Nat
  length : Nat
  deriving DecidableEq, Repr

/-- A predecessor reference (03 R70): queue code and 19-bit sequence. -/
structure PredRef where
  queue : Nat
  seq : Nat
  deriving DecidableEq, Repr

/-- A successor reference (03 R70). -/
structure SuccRef where
  core : Nat
  queue : Nat
  seq : Nat
  deriving DecidableEq, Repr

/-- The fields of d0 to d6 and d12 to d15 that software writes (03 R67 to R72). -/
structure CmdHdr where
  kind : Nat
  prio : Nat
  det : Bool
  nonstrict : Bool
  pinned : Bool
  wait : Nat
  signal : Nat
  pred0 : PredRef
  pred1 : PredRef
  pred2 : PredRef
  release : Nat
  dep : Nat
  demand : Nat
  absOperand : Nat
  absValue : Nat
  absResult : Nat
  succ : List SuccRef
  rs0 : LineSet
  rs1 : LineSet
  rs2 : LineSet
  rs3 : LineSet
  ws0 : LineSet
  ws1 : LineSet
  slack : Nat
  deriving DecidableEq, Repr

/-- The operand doublewords d7 to d11 of a command, as written. Each opcode's meaning reads its own fields from them. -/
structure CmdOps where
  d7 : Nat
  d8 : Nat
  d9 : Nat
  d10 : Nat
  d11 : Nat
  deriving DecidableEq, Repr

/-- A core that holds a queue or a context: a compute core's identifier 0 to 2047 (01 R10), or 2048 for the harbour core (24 R409). -/
abbrev CoreId := Nat

/-- A queue of the module (13 R261). -/
inductive QueueId where
  | mq (core : Nat)
  | vq (core : Nat)
  | cq (core : Nat)
  | oq (ofu : Nat)
  | lq (die : Nat)
  deriving DecidableEq, Repr

/-- One instruction of a record, or one step of the device that the opcode table lists without an encoding. -/
inductive Instr where
  /-- ADD (R90). Writes the 64-bit sum of x[ra] and x[rb] to x[rd] when the guard holds. -/
  | add (rd ra rb : Nat) (g : Guard)
  /-- SUB (R90). Writes x[ra] minus x[rb], modulo 2^64, to x[rd] when the guard holds. -/
  | sub (rd ra rb : Nat) (g : Guard)
  /-- AND (R90). Writes the bitwise AND of x[ra] and x[rb] to x[rd] when the guard holds. -/
  | and (rd ra rb : Nat) (g : Guard)
  /-- OR (R90). Writes the bitwise OR of x[ra] and x[rb] to x[rd] when the guard holds. -/
  | or (rd ra rb : Nat) (g : Guard)
  /-- XOR (R90). Writes the bitwise XOR of x[ra] and x[rb] to x[rd] when the guard holds. -/
  | xor (rd ra rb : Nat) (g : Guard)
  /-- SLL (R90). Shifts x[ra] left by x[rb][5:0] into x[rd] when the guard holds. -/
  | sll (rd ra rb : Nat) (g : Guard)
  /-- SRL (R90). Shifts x[ra] right logically by x[rb][5:0] into x[rd] when the guard holds. -/
  | srl (rd ra rb : Nat) (g : Guard)
  /-- SRA (R90). Shifts x[ra] right arithmetically by x[rb][5:0] into x[rd] when the guard holds. -/
  | sra (rd ra rb : Nat) (g : Guard)
  /-- MUL (R90). Writes the low 64 bits of the product of x[ra] and x[rb] to x[rd], ready 4 cycles later. -/
  | mul (rd ra rb : Nat) (g : Guard)
  /-- MULH (R90). Writes the high 64 bits of the signed 128-bit product to x[rd]. -/
  | mulh (rd ra rb : Nat) (g : Guard)
  /-- DIV (R90). Writes the signed quotient truncated toward zero, or all ones on division by zero, to x[rd]. -/
  | div (rd ra rb : Nat) (g : Guard)
  /-- DIVU (R90). Writes the unsigned quotient, or all ones on division by zero, to x[rd]. -/
  | divu (rd ra rb : Nat) (g : Guard)
  /-- REM (R90). Writes the signed remainder with the sign of the dividend to x[rd]. -/
  | rem (rd ra rb : Nat) (g : Guard)
  /-- MIN (R90). Writes the signed minimum of x[ra] and x[rb] to x[rd]. -/
  | min (rd ra rb : Nat) (g : Guard)
  /-- MAX (R90). Writes the signed maximum of x[ra] and x[rb] to x[rd]. -/
  | max (rd ra rb : Nat) (g : Guard)
  /-- ADDI (R91). Adds the sign-extended immediate to x[ra] into x[rd]. -/
  | addi (rd ra imm : Nat)
  /-- ANDI (R91). ANDs x[ra] with the zero-extended immediate into x[rd]. -/
  | andi (rd ra imm : Nat)
  /-- ORI (R91). ORs x[ra] with the zero-extended immediate into x[rd]. -/
  | ori (rd ra imm : Nat)
  /-- XORI (R91). XORs x[ra] with the zero-extended immediate into x[rd]. -/
  | xori (rd ra imm : Nat)
  /-- SLLI (R91). Shifts x[ra] left by an immediate amount into x[rd]. -/
  | slli (rd ra sh : Nat)
  /-- SRLI (R91). Shifts x[ra] right logically by an immediate amount into x[rd]. -/
  | srli (rd ra sh : Nat)
  /-- SRAI (R91). Shifts x[ra] right arithmetically by an immediate amount into x[rd]. -/
  | srai (rd ra sh : Nat)
  /-- LUI (R91). Writes the sign-extended immediate shifted left by 15 to x[rd]. -/
  | lui (rd imm : Nat)
  /-- CEQ (R92). Sets p[pd] to whether x[ra] equals x[rb]. -/
  | ceq (pd ra rb : Nat) (g : Guard)
  /-- CNE (R92). Sets p[pd] to whether x[ra] differs from x[rb]. -/
  | cne (pd ra rb : Nat) (g : Guard)
  /-- CLT (R92). Sets p[pd] to whether x[ra] is below x[rb], signed. -/
  | clt (pd ra rb : Nat) (g : Guard)
  /-- CLTU (R92). Sets p[pd] to whether x[ra] is below x[rb], unsigned. -/
  | cltu (pd ra rb : Nat) (g : Guard)
  /-- CGE (R92). Sets p[pd] to whether x[ra] is at least x[rb], signed. -/
  | cge (pd ra rb : Nat) (g : Guard)
  /-- CGEU (R92). Sets p[pd] to whether x[ra] is at least x[rb], unsigned. -/
  | cgeu (pd ra rb : Nat) (g : Guard)
  /-- CEQI (R92). Sets p[pd] to whether x[ra] equals the sign-extended immediate. -/
  | ceqi (pd ra imm : Nat)
  /-- CLTI (R92). Sets p[pd] to whether x[ra] is below the sign-extended immediate, signed. -/
  | clti (pd ra imm : Nat)
  /-- PAND (R93). Writes the AND of two optionally negated predicates to p[pd]. -/
  | pand (pd pa pb : Nat) (na nb : Bool) (g : Guard)
  /-- POR (R93). Writes the OR of two optionally negated predicates to p[pd]. -/
  | por (pd pa pb : Nat) (na nb : Bool) (g : Guard)
  /-- B (R94). Branches PC-relative when p[guard] XOR neg is 1; a branch to the iteration-end address ends the iteration. -/
  | b (g : Guard) (off : Nat)
  /-- J (R94). Jumps PC-relative unconditionally. -/
  | j (off : Nat)
  /-- JAL (R94). Jumps PC-relative and writes PC + 4 to x31. -/
  | jal (off : Nat)
  /-- JR (R94). Jumps to x[ra] when the guard holds. -/
  | jr (ra : Nat) (g : Guard)
  /-- JALR (R94). Jumps to x[ra] and writes PC + 4 to x[rd] when the guard holds. -/
  | jalr (rd ra : Nat) (g : Guard)
  /-- LD (R97). Plain load of 1, 2, 4 or 8 bytes, sign-extended into x[rd], after alignment, privilege, translation and range checks. -/
  | ld (rd base size off : Nat)
  /-- ST (R97). Plain store of 1, 2, 4 or 8 bytes through the store buffer, logging the old bytes. -/
  | st (rd base size off : Nat)
  /-- LDA (R96). Acquire load at device or system scope. -/
  | lda (rd base size off : Nat)
  /-- STL (R96). Release store at device or system scope. -/
  | stl (rd base size off : Nat)
  /-- LDS (R96). Strong relaxed load. -/
  | lds (rd base size off : Nat)
  /-- STS (R96). Strong relaxed store. -/
  | sts (rd base size off : Nat)
  /-- AMOADD (R99). Atomically adds x[rb] to the word or doubleword at x[ra], returning the old value. -/
  | amoadd (rd ra rb : Nat) (dbl : Bool) (scope : Nat) (g : Guard)
  /-- AMOAND (R99). Atomically ANDs x[rb] into memory, returning the old value. -/
  | amoand (rd ra rb : Nat) (dbl : Bool) (scope : Nat) (g : Guard)
  /-- AMOOR (R99). Atomically ORs x[rb] into memory, returning the old value. -/
  | amoor (rd ra rb : Nat) (dbl : Bool) (scope : Nat) (g : Guard)
  /-- AMOMAX (R99). Atomically writes the signed maximum of memory and x[rb], returning the old value. -/
  | amomax (rd ra rb : Nat) (dbl : Bool) (scope : Nat) (g : Guard)
  /-- AMOSWP (R99). Atomically swaps x[rb] with memory, returning the old value. -/
  | amoswp (rd ra rb : Nat) (dbl : Bool) (scope : Nat) (g : Guard)
  /-- AMOCAS (R99). Atomic compare-and-swap writing x[rb] when memory equals x[rd], returning the old value. -/
  | amocas (rd ra rb : Nat) (dbl : Bool) (scope : Nat) (g : Guard)
  /-- FENCE (R101). Orders all earlier memory accesses of the context before all later ones at the named scope. -/
  | fence (scope : Nat) (g : Guard)
  /-- ACQ (R105). Reads a release count and acquires the stores published to the bound regions by the observed releases. -/
  | acq (ra scope : Nat) (g : Guard)
  /-- REL (R104). Makes earlier stores to bound regions visible at the scope and increments the release count. -/
  | rel (ra scope : Nat) (g : Guard)
  /-- BIND (R103). Ties a byte region to a release object in the core's bind table, or removes its entries. -/
  | bind (rd ra rb : Nat) (g : Guard)
  /-- CSET (R55). Writes a field of a command register from x[ra]. -/
  | cset (c width pos ra : Nat)
  /-- CSETI (R55). Writes a field of a command register from a sign-extended immediate. -/
  | cseti (c width pos imm : Nat)
  /-- CCLR (R55). Clears a range of command registers. -/
  | cclr (first last : Nat)
  /-- PUSH (R107). Checks the image in c0-c15, waits while the queue is full, releases earlier stores and enqueues it in MQ, VQ or CQ of the own core, returning its sequence number. -/
  | push (rd queue : Nat) (g : Guard)
  /-- RPUSH (R108). Reads a 128-byte command block and enqueues it in a named queue of any core, OQ or LQ, returning its sequence number. -/
  | rpush (rd ra rb : Nat) (g : Guard)
  /-- FPOP (R110). Removes the oldest element of a result queue into x[rd], waiting while empty, and acquires that command's writes. -/
  | fpop (rd source : Nat) (g : Guard)
  /-- ZPOP (R111). Removes the oldest entry of a ring into x[rd], waiting up to the ring timeout, and acquires what its producer released. -/
  | zpop (rd z : Nat) (g : Guard)
  /-- ZPUSH (R111). Releases earlier stores and appends x[rb] to a ring, waiting up to the ring timeout while full. -/
  | zpush (z rb : Nat) (g : Guard)
  /-- GJOIN (R301). Joins a group, optionally requesting lockstep, writing the member index or all ones if refused. -/
  | gjoin (rd ra : Nat) (lockstep : Bool) (g : Guard)
  /-- GLEAVE (R303). Leaves a group, dissolving it when it becomes empty and possibly flipping its tied barrier. -/
  | gleave (ra : Nat) (g : Guard)
  /-- BARR (R313). Releases earlier stores, arrives at a barrier object and waits for its phase to flip. -/
  | barr (rd ra : Nat) (g : Guard)
  /-- SIG (R316). Releases earlier stores and ORs event bits into an object's or the core's event word. -/
  | sig (ra rb : Nat) (g : Guard)
  /-- WAITS (R316). Waits until all mask bits are set in an event word, then acquires and returns the word. -/
  | waits (rd ra rb : Nat) (g : Guard)
  /-- TMARK (R382). Opens a new undo window with a register checkpoint and snapshots the selected accumulator tiles. -/
  | tmark (rd mask : Nat)
  /-- CSRR (R119). Reads a CSR into x[rd], trapping for unassigned or privileged numbers. -/
  | csrr (rd csr : Nat)
  /-- CSRW (R119). Writes x[ra] to a CSR under its access codes; the write of any register without a row of its own. -/
  | csrw (ra csr : Nat)
  /-- TRAP (R120). Takes trap cause 0x0F with the immediate recorded, returning after the TRAP. -/
  | trap (imm : Nat)
  /-- RFE (R121). Restores registers, level and return address from the trap frame, clears busy and resumes any stopped streams. -/
  | rfe
  /-- CONTEXT_WAIT_COMPLETE (R233). A waiting instruction's wait on memory, a queue, a ring, a barrier or events completes and the instruction takes its effects. -/
  | contextWaitComplete (core ctx : Nat)
  /-- INTERRUPT_TAKE (R122). A pending enabled interrupt is taken between instructions or at a waiting instruction with cause 0x10. -/
  | interruptTake (core ctx : Nat)
  /-- TKPUSH (R113). A CSRW to TKPUSH releases X's stores and pushes tokens to xv and/or xm, waiting for room. -/
  | tkpush (ra : Nat)
  /-- TKVX (R113). A CSRR of TKVX pops one vx token, waiting while empty, and acquires what its pusher released. -/
  | tkvx (rd : Nat)
  /-- TKMX (R113). A CSRR of TKMX pops one mx token, waiting while empty, and acquires what its pusher released. -/
  | tkmx (rd : Nat)
  /-- TCMP_WRITE (R239). A write of TCMP arms the timer compare, raising the interrupt at once if the time is past. -/
  | tcmpWrite (ra : Nat)
  /-- VADD_F (R133). Floating add per active lane, landing after 4 cycles. -/
  | vaddF (h : VHdr) (d a b : VOp)
  /-- VSUB_F (R133). Floating subtract per active lane. -/
  | vsubF (h : VHdr) (d a b : VOp)
  /-- VMUL_F (R133). Floating multiply per active lane. -/
  | vmulF (h : VHdr) (d a b : VOp)
  /-- VFMA_F (R133). Fused multiply-add a·b + d with one rounding per active lane. -/
  | vfmaF (h : VHdr) (d a b : VOp)
  /-- VMIN_F (R134). Selects the smaller floating operand per lane. -/
  | vminF (h : VHdr) (d a b : VOp)
  /-- VMAX_F (R134). Selects the larger floating operand per lane. -/
  | vmaxF (h : VHdr) (d a b : VOp)
  /-- VDIV_F (R133). Floating division on the shared divider, latency 12, spaced at least 12 cycles. -/
  | vdivF (h : VHdr) (d a b : VOp)
  /-- VSQRT_F (R133). Floating square root on the shared divider, latency 12. -/
  | vsqrtF (h : VHdr) (d a : VOp)
  /-- VABS_F (R135). Clears the sign bit per lane. -/
  | vabsF (h : VHdr) (d a : VOp)
  /-- VNEG_F (R135). Inverts the sign bit per lane. -/
  | vnegF (h : VHdr) (d a : VOp)
  /-- VADD_I (R136). Integer add per lane with wrap or clamp. -/
  | vaddI (h : VHdr) (d a b : VOp)
  /-- VSUB_I (R136). Integer subtract per lane. -/
  | vsubI (h : VHdr) (d a b : VOp)
  /-- VMUL_I (R136). Integer multiply per lane. -/
  | vmulI (h : VHdr) (d a b : VOp)
  /-- VMAC_I (R136). Integer multiply-accumulate into D per lane. -/
  | vmacI (h : VHdr) (d a b : VOp)
  /-- VAND (R136). 32-bit bitwise AND per lane. -/
  | vand (h : VHdr) (d a b : VOp)
  /-- VOR (R136). 32-bit bitwise OR per lane. -/
  | vor (h : VHdr) (d a b : VOp)
  /-- VXOR (R136). 32-bit bitwise XOR per lane. -/
  | vxor (h : VHdr) (d a b : VOp)
  /-- VSHL (R136). 32-bit shift left per lane. -/
  | vshl (h : VHdr) (d a b : VOp)
  /-- VSHR (R136). 32-bit logical shift right per lane. -/
  | vshr (h : VHdr) (d a b : VOp)
  /-- VSRA (R136). 32-bit arithmetic shift right per lane. -/
  | vsra (h : VHdr) (d a b : VOp)
  /-- VMIN_I (R136). Integer minimum per lane. -/
  | vminI (h : VHdr) (d a b : VOp)
  /-- VMAX_I (R136). Integer maximum per lane. -/
  | vmaxI (h : VHdr) (d a b : VOp)
  /-- VCMP_F (R137). Floating compare writing a lane predicate. -/
  | vcmpF (h : VHdr) (pd rel : Nat) (a b : VOp)
  /-- VCMP_I (R137). Integer compare writing a lane predicate. -/
  | vcmpI (h : VHdr) (pd rel : Nat) (a b : VOp)
  /-- VSEL (R139). Selects A or B per lane by a selector predicate. -/
  | vsel (h : VHdr) (d a b : VOp)
  /-- VCVT (R141). Converts each lane from the source slot format to the destination slot format. -/
  | vcvt (h : VHdr) (d a : VOp) (src : Nat)
  /-- VPACK (R143). Converts 64 lanes and writes their packed byte image to the first lanes of D. -/
  | vpack (h : VHdr) (d a : VOp) (src : Nat)
  /-- VUNPK (R144). Reads a packed image and converts each element into a lane. -/
  | vunpk (h : VHdr) (d a : VOp) (src : Nat)
  /-- VCMUL (R145). Complex CF16 multiply per lane. -/
  | vcmul (h : VHdr) (d a b : VOp)
  /-- VCFMA (R145). Complex CF16 fused multiply-add per lane. -/
  | vcfma (h : VHdr) (d a b : VOp)
  /-- VTWID (R146). Multiplies each lane by a hardware-generated twiddle factor. -/
  | vtwid (h : VHdr) (d a b : VOp)
  /-- VREDS (R147). Sums the lanes in a fixed tree into a scalar register. -/
  | vreds (h : VHdr) (sd : Nat) (a : VOp)
  /-- VREDM (R148). Selects the max, min or its index across lanes into a scalar register. -/
  | vredm (h : VHdr) (sd : Nat) (a : VOp) (mode : Nat)
  /-- VPERM (R149). Permutes lanes of A by the lane indices in B. -/
  | vperm (h : VHdr) (d a b : VOp)
  /-- VBCST (R149). Broadcasts one lane of A to every active lane. -/
  | vbcst (h : VHdr) (d a b : VOp)
  /-- VMOVG (R149). Moves A to D per lane. -/
  | vmovg (h : VHdr) (d a : VOp)
  /-- VCLMP (R150). Clamps each lane to a symmetric range. -/
  | vclmp (h : VHdr) (d a b : VOp)
  /-- VPOPC (R149). Counts active lanes with a non-zero value into a scalar register. -/
  | vpopc (h : VHdr) (sd : Nat) (a : VOp)
  /-- VTOPK (R177). Merges lane candidates into a running top 64 held in two rows. -/
  | vtopk (h : VHdr) (d a b : VOp)
  /-- VNMS (R178). Non-maximum suppression in rank order writing a keep predicate. -/
  | vnms (h : VHdr) (pd : Nat) (a b : VOp)
  /-- VBOXD (R179). Computes the overlap ratio of two boxes per lane. -/
  | vboxd (h : VHdr) (d a b : VOp)
  /-- VDWC (R180). Three-tap depthwise multiply-accumulate into D. -/
  | vdwc (h : VHdr) (d a b : VOp)
  /-- VLUT (R181). Linear interpolation in a 64-entry row table. -/
  | vlut (h : VHdr) (d a b : VOp)
  /-- VLD (R155). Loads 4 bytes per active lane from SRAM into the grid. -/
  | vld (h : VHdr) (d a : VOp)
  /-- VST (R155). Stores 4 bytes per active lane to SRAM, logging the old bytes. -/
  | vst (h : VHdr) (d a : VOp)
  /-- VGATH (R156). Gathers 4-byte elements through an index vector. -/
  | vgath (h : VHdr) (d a b : VOp)
  /-- VSCAT (R156). Scatters 4-byte elements through an index vector. -/
  | vscat (h : VHdr) (d a b : VOp)
  /-- VACLD (R159). Samples accumulator elements into the grid. -/
  | vacld (h : VHdr) (d : VOp) (f : AccField)
  /-- VACZ (R159). Zeroes accumulator elements. -/
  | vacz (h : VHdr) (f : AccField)
  /-- VSADD (R161). Adds two scalar registers. -/
  | vsadd (h : VHdr) (sd sa sb : Nat)
  /-- VSADDI (R161). Adds an immediate to a scalar register. -/
  | vsaddi (h : VHdr) (sd sa v : Nat)
  /-- VSMOV (R161). Moves a scalar, immediate or lane 0 into a scalar register. -/
  | vsmov (h : VHdr) (sd : Nat) (a : VOp)
  /-- VLOOP (R163). Starts hardware loop L0 or L1, optionally rotating with drain. -/
  | vloop (slot pop push : Nat) (loop : Nat) (rot : Bool) (drain : Nat) (count : VCount) (off : Nat)
  /-- VLBR (R168). Ends an iteration of a rotating loop, rotating the base and stage predicates. -/
  | vlbr (slot pop push : Nat) (loop : Nat)
  /-- VBR (R166). Branches on any or all lanes of a predicate. -/
  | vbr (slot pop push : Nat) (g : Guard) (all : Bool) (off : Nat)
  /-- VJ (R166). Unconditional vector-stream jump. -/
  | vj (slot pop push : Nat) (off : Nat)
  /-- VTOK (R170). Pops np tokens and pushes nq tokens. -/
  | vtok (h : VHdr) (np nq : Nat)
  /-- VRDV (R171). Rendezvous with the matrix stream's MRDV, writing the count. -/
  | vrdv (slot pop push : Nat) (sd : Nat)
  /-- VFMT_SELECT (R174). Sets the format row base and the loop that drives it. -/
  | vfmtSelect (slot pop push : Nat) (loop : LoopSel) (base : Nat)
  /-- VFMT_LOAD (R174). Loads eight slot entries from memory into a format row at t + 8. -/
  | vfmtLoad (slot pop push : Nat) (row sn : Nat)
  /-- VKAC (R175). Known-answer sounding that folds lanes and fences the core on mismatch. -/
  | vkac (h : VHdr) (a : VOp) (const : Nat)
  /-- VWAIT (R172). Waits with the counter frozen until mask bits are set in the core event word. -/
  | vwait (slot pop push : Nat) (a : VCount)
  /-- VSIG (R172). Releases the stream's writes and sets event bits at t + 1. -/
  | vsig (slot pop push : Nat) (a : VCount)
  /-- VSTOP (R173). Issues no further word; the stream ends once in-flight effects complete. -/
  | vstop (slot pop push : Nat)
  /-- VNOP (R170). Does nothing but pop and push its tokens. -/
  | vnop (h : VHdr)
  /-- VECTOR_LANDING (R124). Results, flags, tokens and landing-time stops due at a vector schedule cycle take effect. -/
  | vectorLanding (core : Nat)
  /-- STREAM_END (R173). A stopped stream's in-flight results, stores and tokens complete and the stream ends; the job retires when both have ended. -/
  | streamEnd (core : Nat) (matrix : Bool)
  /-- MMA (R196). Matrix tile step summing A·B into an accumulator tile over T cycles. -/
  | mma (h : MHdr) (t : MTile)
  /-- MMA_S (R198). Tile step with A in 2:4 sparse form. -/
  | mmaS (h : MHdr) (t : MTile)
  /-- MMA_G (R200). Tile step with A rows taken through the gather latch. -/
  | mmaG (h : MHdr) (t : MTile)
  /-- MMA_T (R196). Tile step with A read transposed. -/
  | mmaT (h : MHdr) (t : MTile)
  /-- MWIN (R202). 3x3 convolution through the exact Winograd transform. -/
  | mwin (h : MHdr) (t : MTile)
  /-- MCONV (R201). Direct convolution walking the window taps inside the step. -/
  | mconv (h : MHdr) (t : MTile)
  /-- MZERO (R203). Writes zeros to a region of an accumulator tile. -/
  | mzero (h : MHdr) (slotC m n tile offset : Nat)
  /-- MLDI (R200). Loads up to 512 INT32 indices into the gather latch. -/
  | mldi (h : MHdr) (gen : Nat) (off : Int) (count : Nat)
  /-- MLOOP (R206). Starts a matrix hardware loop. -/
  | mloop (h : MHdr) (loop count off : Nat)
  /-- MLBR (R206). Backs a running matrix loop up at once. -/
  | mlbr (h : MHdr) (loop : Nat)
  /-- MBR (R206). Branches on a matrix predicate. -/
  | mbr (h : MHdr) (p : Nat) (neg : Bool) (off : Nat)
  /-- MJ (R206). Unconditional matrix-stream jump. -/
  | mj (h : MHdr) (off : Nat)
  /-- MTOK (R207). Pops and pushes its single tokens. -/
  | mtok (h : MHdr)
  /-- MRDV (R207). Rendezvous with the vector stream's VRDV. -/
  | mrdv (h : MHdr)
  /-- MSTOP (R207). Ends the matrix stream once its tokens are delivered. -/
  | mstop (h : MHdr)
  /-- MFMT (R206). Sets the matrix format row base and its loop. -/
  | mfmt (h : MHdr) (loop : LoopSel) (base : Nat)
  /-- MKAT (R204). Known-answer matrix sounding that fences the core on mismatch. -/
  | mkat (h : MHdr) (slotA slotB slotC m n k gen : Nat) (off : Int) (const : Nat)
  /-- MSIG (R207). Releases accumulator writes and sets event bits. -/
  | msig (h : MHdr) (mask : Nat)
  /-- MATRIX_STEP_LAST_CYCLE (R186). At a word's last cycle its accumulator writes, flags, token push and any step-end stop take effect. -/
  | matrixStepLastCycle (core : Nat)
  /-- MLDI_LANDING (R200). Gather indices land in the latch and the gather unit pushes a gm token. -/
  | mldiLanding (core : Nat)
  /-- K_COPY (R279). Copies rows of bytes from source to destination and writes tile summaries. -/
  | kCopy (h : CmdHdr) (o : CmdOps)
  /-- K_GATHER (R279). Gathers indexed source rows into consecutive destination rows. -/
  | kGather (h : CmdHdr) (o : CmdOps)
  /-- K_SCATTER (R279). Scatters consecutive source rows to indexed destination rows. -/
  | kScatter (h : CmdHdr) (o : CmdOps)
  /-- K_FILL (R279). Fills rows with a 64-bit pattern. -/
  | kFill (h : CmdHdr) (o : CmdOps)
  /-- K_FEED (R279). Appends sign-extended source elements to a ring, waiting while full. -/
  | kFeed (h : CmdHdr) (o : CmdOps)
  /-- K_JOB (R281). Resets and starts a vector stream and a matrix stream at schedule cycle 0. -/
  | kJob (h : CmdHdr) (o : CmdOps)
  /-- K_NEST (R208). Runs one matrix word over a six-level loop nest. -/
  | kNest (h : CmdHdr) (o : CmdOps)
  /-- K_OFT (R367). Runs frames through an optical Fourier unit, writing CF16 output and ov tokens. -/
  | kOft (h : CmdHdr) (o : CmdOps)
  /-- K_OMASK (R373). Reads a mask image and loads it into a unit's bank. -/
  | kOmask (h : CmdHdr) (o : CmdOps)
  /-- K_OCAL_RUN (R374). Runs the unit's built-in calibration. -/
  | kOcalRun (h : CmdHdr) (o : CmdOps)
  /-- K_OCAL_WRITE (R374). Installs a calibration block as the unit's calibration. -/
  | kOcalWrite (h : CmdHdr) (o : CmdOps)
  /-- K_OCAL_READ (R374). Writes the calibration in force into a block. -/
  | kOcalRead (h : CmdHdr) (o : CmdOps)
  /-- K_ALLRED (R352). All-reduce across ranks by a left fold in rank order. -/
  | kAllred (h : CmdHdr) (o : CmdOps)
  /-- K_ALLGATH (R352). All-gather of every rank's block. -/
  | kAllgath (h : CmdHdr) (o : CmdOps)
  /-- K_REDSCAT (R352). Reduce-scatter across ranks. -/
  | kRedscat (h : CmdHdr) (o : CmdOps)
  /-- K_BCAST (R352). Broadcast of the root rank's block. -/
  | kBcast (h : CmdHdr) (o : CmdOps)
  /-- K_ALLTOALL (R352). All-to-all exchange of blocks. -/
  | kAlltoall (h : CmdHdr) (o : CmdOps)
  /-- K_TOPKM (R352). Merges top-64 sets of all ranks. -/
  | kTopkm (h : CmdHdr) (o : CmdOps)
  /-- K_MIGR (R337). Migrates, compresses or decompresses page entries while readable. -/
  | kMigr (h : CmdHdr) (o : CmdOps)
  /-- K_DISCARD (R337). Discards pages, releasing their frames. -/
  | kDiscard (h : CmdHdr) (o : CmdOps)
  /-- K_KERNEL (R293). Reads, checks and places a kernel record in a kernel queue. -/
  | kKernel (h : CmdHdr) (o : CmdOps)
  /-- K_EVENT (R282). At retirement sets event bits in a named object or the core event word. -/
  | kEvent (h : CmdHdr) (o : CmdOps)
  /-- K_NOP (R282). Does nothing and retires at once, serving as a join. -/
  | kNop (h : CmdHdr) (o : CmdOps)
  /-- K_PREFETCH (R283). Brings translations and tile entries of a region into caches and raises heat. -/
  | kPrefetch (h : CmdHdr) (o : CmdOps)
  /-- ARM_ARRIVAL (R265). A successor arm reaches its target queue and records the producer or waits in the pending table. -/
  | armArrival (q : QueueId)
  /-- SUCCESSOR_DECREMENT (R266). A decrement reaches its target and lowers the dependence count, re-evaluating the absorb rule. -/
  | successorDecrement (q : QueueId)
  /-- EBB_ARRIVAL (R271). An ebb lowers a producer's demand and withdraws it when demand reaches 0 and it is not pinned. -/
  | ebbArrival (q : QueueId)
  /-- COMMAND_START (R269). An engine starts the first ready command in the ready order, checking declared sets and popping its token. -/
  | commandStart (q : QueueId)
  /-- COMMAND_RETIRE (R276). A command's work completes: d15, summaries, token, decrements, signals and report leave in order. -/
  | commandRetire (q : QueueId) (seq : Nat)
  /-- COMMAND_FAULT (R276). A running command's work faults; d15 cause is written, the queue fault bit set and it holds its entry. -/
  | commandFault (q : QueueId) (seq : Nat)
  /-- RESULT_ELEMENT_APPEND (R109). A held report element is appended to a result queue when room appears. -/
  | resultElementAppend (core source : Nat)
  /-- DEFERRED_TOKEN_PUSH (R280). A token held for room is pushed when its queue drops below 15 tokens. -/
  | deferredTokenPush (core tokenQueue : Nat)
  /-- PREEMPT_SAVED (R248). Running work drains, frames, queues and the cut are saved and the core settles in state saved. -/
  | preemptSaved (core : Nat)
  /-- RESUME_SETTLED (R248). Every context has returned to its saved state and the core settles in state running. -/
  | resumeSettled (core : Nat)
  /-- STREAM_STOP_TRAP (R244). The pushing context takes the trap of a stopped stream at its next instruction boundary. -/
  | streamStopTrap (core : Nat)
  /-- LOCKSTEP_ROUND_START (R304). Every member's lockstep job starts in one cycle once all are ready. -/
  | lockstepRoundStart (group : Nat)
  /-- KERNEL_START (R296). A kernel at the head of its queue with its release passed becomes running. -/
  | kernelStart (kq : Nat)
  /-- ITERATION_HANDOFF (R290). A walker hands an iteration to a free core, preloading registers and starting contexts. -/
  | iterationHandoff (kq : Nat)
  /-- KERNEL_RETIRE (R297). All iterations and their commands end; the completion doubleword is written and irq raised. -/
  | kernelRetire (kq : Nat)
  /-- TSQ_POP (R411). A CSRR of TSQ pops the oldest tile service request. -/
  | tsqPop (rd : Nat)
  /-- TSDONE (R411). Releases every access waiting on the answered tile entry. -/
  | tsdone (ra : Nat)
  /-- TINV (R326). Invalidates every translation and tile cache, completing when all accesses using old entries are done. -/
  | tinv (ra : Nat)
  /-- CMCLR (R403). Clears the live conflict matrix. -/
  | cmclr (ra : Nat)
  /-- WRCTL_WRITE (R408). Holds or releases the wrack record. -/
  | wrctlWrite (ra : Nat)
  /-- OFU_FRAME_DONE (R367). A frame's light ends; its output is written and its ov token pushed. -/
  | ofuFrameDone (unit : Nat)
  /-- OFU_MASK_SET_DONE (R373). A bank finishes loading 2 µs after its image is read. -/
  | ofuMaskSetDone (unit : Nat)
  /-- HCTL_WRITE (R420). Sets a pseudo-channel's mode, draining accesses in flight before training. -/
  | hctlWrite (ra : Nat)
  /-- HREP_WRITE (R421). Installs lane repairs on the spares when written in training mode. -/
  | hrepWrite (ra : Nat)
  /-- HWDT_WRITE (R410). Sets the watchdog period and restarts its count. -/
  | hwdtWrite (ra : Nat)
  /-- HOST_MEM_ACCESS (R230). A host CXL.mem read or write of device memory. -/
  | hostMemAccess (write : Bool) (location size value : Nat)
  /-- BOOT_STAGE_DONE (R412). A boot stage completes or fails, and the next begins. -/
  | bootStageDone (pass : Bool) (node : Nat)
  /-- HBM_TEST_DONE (R420). A training test ends, setting valid and the fail bits. -/
  | hbmTestDone (stack channel pc : Nat)
  /-- ILLEGAL_INSTRUCTION (R74). A control-core word with an unassigned opcode or a violated field rule is issued and traps precisely with 0x01. -/
  | illegalInstruction (word : Nat)
  /-- ILLEGAL_VECTOR_WORD (R74). A vector word with an unassigned opcode or an illegal field reaches issue and stops the stream with 0x01. -/
  | illegalVectorWord (word : Nat)
  /-- ILLEGAL_MATRIX_WORD (R74). A matrix word with an unassigned opcode or mode bits that disagree with its opcode reaches issue and stops the stream with 0x01. -/
  | illegalMatrixWord (word : Nat)
  /-- LOAD_RETURN (R247). An outstanding context load returns data, or poison that traps at the load and cancels later instructions. -/
  | loadReturn (core ctx : Nat)
  /-- STORE_BUFFER_DRAIN (R88). A store buffer entry is performed to memory. -/
  | storeBufferDrain (core ctx : Nat)
  /-- RING_TIMEOUT (R89). A ZPUSH or ZPOP wait exceeds the ring timeout and traps with 0x0C. -/
  | ringTimeout (core ctx : Nat)
  /-- TIMER_INTERRUPT (R239). TIME reaches a non-zero TCMP, setting the timer IPEND bit and clearing TCMP. -/
  | timerInterrupt (core ctx time : Nat)
  /-- ELASTIC_DATA_ARRIVAL (R294). A variable-latency result arrives; a counter frozen on exhausted slack or the stall wire resumes. -/
  | elasticDataArrival (core : Nat)
  /-- TIMER_WHEEL_RELEASE (R292). TIME reaches a held release time of a command or kernel. -/
  | timerWheelRelease (time : Nat)
  /-- QCTL_RETRY (R277). Returns a faulted MQ, VQ or CQ command to waiting to start again. -/
  | qctlRetry (q : QueueId) (seq : Nat)
  /-- QCTL_CANCEL (R277). Moves a faulted command to ebbed with no decrements or signals. -/
  | qctlCancel (q : QueueId) (seq : Nat)
  /-- PCTL_PREEMPT (R249). Begins pre-emption of the core PSEL names, or sets refused when PSNAP is zero. -/
  | pctlPreempt (core : Nat)
  /-- PCTL_RESUME (R249). Begins resuming a saved core from its snapshot region. -/
  | pctlResume (core : Nat)
  /-- INTERRUPT_STREAM_STOP (R244). An interrupt with IEN[3] set stops the pushing context's job streams at the next cycle with frames written. -/
  | interruptStreamStop (core : Nat)
  /-- OBJECT_OPERATION (R312). A BARR, SIG, WAITS or K.EVENT operation is carried out at the object's home unit. -/
  | objectOperation (op : Nat) (core ctx : Nat) (object value : Nat)
  /-- KQADDR_WRITE (R414). The host places a kernel record in a kernel queue, or the write is dropped when the queue is full. -/
  | kqaddrWrite (kq address : Nat)
  /-- PAGE_WALK (R325). A translation miss walks the page table or tile table and fills a cache or faults. `ctx` 0 to 2 is a context whose page holds `va`; 3 the memory ports of the core, for the tile entry at byte address `va`. -/
  | pageWalk (core ctx : Nat) (va : Nat)
  /-- UNCORRECTABLE_ERROR (R335). An uncorrectable error poisons its line and the page, whose entry `entry` names; an `entry` of 2^64 or more, which is no entry's place, tells of a read that correction mended, which its DRAM row's count takes (R338), or CNTST.corr of its scratchpad's core (R399). -/
  | uncorrectableError (location entry : Nat)
  /-- SCRUB_PASS (R399). The scrubber reads lines in idle bank cycles, correcting or poisoning them. -/
  | scrubPass (core : Nat) (corrected : Nat) (lines groups : List Nat)
  /-- HEAT_EPOCH (R336). At each heat epoch boundary every page heat counter is halved. -/
  | heatEpoch
  /-- LOG_RECORD_MOVE (R387). Staged undo records move to the log region, or logging is disabled on a bad page. -/
  | logRecordMove (core ctx : Nat)
  /-- PHASE_RERUN (R398). An eligible phase meeting poison is cancelled, refetches run and it restarts. -/
  | phaseRerun (q : QueueId) (seq : Nat)
  /-- CNTCTL_UNFENCE (R401). The harbour core lifts a core's fence. -/
  | cntctlUnfence (core : Nat)
  /-- BREAKPOINT_CYCLE (R404). The stream reaches the BPCYC cycle and stops with cause 0x0D. -/
  | breakpointCycle (core : Nat)
  /-- DEBUG_STOP (R404). Crecheot stops a stream, writing its frame without a trap. -/
  | debugStop (core : Nat)
  /-- DEBUG_RESUME (R404). Crecheot resumes a debug-stopped stream at its stop cycle. -/
  | debugResume (core : Nat)
  /-- REWIND (R392). Restores memory and registers of a context or group to a window's checkpoint. -/
  | rewind (group : Option Nat) (core ctx window : Nat)
  /-- STEPBACK (R393). Rewinds and replays a scope to n instructions back. -/
  | stepback (group : Option Nat) (core ctx n : Nat)
  /-- FREEZE_RELEASE (R250). The harbour core lifts a freeze of a context, queue or host function. -/
  | freezeRelease (kind : Nat) (core which : Nat)
  /-- LCTL_ENABLE (R347). Enables a Strand port into training. -/
  | lctlEnable (port : Nat)
  /-- LCTL_RETRAIN (R347). Retrains a Strand port. -/
  | lctlRetrain (port : Nat)
  /-- LCTL_EXCLUDE (R347). Excludes a Strand port, losing unacknowledged flits. -/
  | lctlExclude (port : Nat)
  /-- LCTL_CLEAR_SUSPECT (R347). Returns a suspect port to up or degraded. -/
  | lctlClearSuspect (port : Nat)
  /-- STRAND_TRAINING_DONE (R346). Lane training ends in up, degraded, another attempt or excluded. -/
  | strandTrainingDone (port lanes peer : Nat)
  /-- FLIT_RECEIVE (R345). A flit arrives and is checked, delivered in order, forwarded or discarded with an acknowledgement. -/
  | flitReceive (port : Nat) (flit : List Nat)
  /-- FLIT_RETRY_LIMIT (R345). A flit sent eight times without acknowledgement makes the port retrain. -/
  | flitRetryLimit (port : Nat)
  /-- CXL_PORT_TRAINED (R342). A CXL port completes training or trains down and raises the link interrupt. -/
  | cxlPortTrained (port width : Nat)
  /-- FAR_TIER_TIMEOUT (R343). A far-tier access misses its completion timeout: reads return poison, writes are dropped. -/
  | farTierTimeout (write : Bool) (location port : Nat)
  /-- COLLECTIVE_MATCH (R351). Every module's command of a collective is running, or a mismatch faults them with 0x01. `cause` 0: they agree; else the cause that faults them, 0x03 to 0x06 from another module (R356). -/
  | collectiveMatch (q : QueueId) (seq cause : Nat)
  /-- CHUNK_CONTRIBUTION (R354). A chunk contribution arrives and is folded in rank order or held. -/
  | chunkContribution (q : QueueId) (seq rank chunk : Nat) (bytes : List Nat)
  /-- CHUNK_ACK (R354). A chunk is acknowledged once every destination write for it completes. -/
  | chunkAck (q : QueueId) (seq chunk : Nat)
  /-- COLLECTIVE_TIMEOUT (R354). The oldest open chunk lacks a contribution for CTIME and its link becomes suspect; collectives reroute. -/
  | collectiveTimeout (q : QueueId) (seq port : Nat)
  /-- CAUSEWAY_TIMEOUT (R356). No causeway route within CTIME faults every command of the collective with 0x0C. -/
  | causewayTimeout (q : QueueId) (seq : Nat)
  /-- OCFG_ENABLE (R359). Powers an optical unit into warming. -/
  | ocfgEnable (unit : Nat)
  /-- OCFG_DISABLE (R359). Darkens an optical unit once its running command ends. -/
  | ocfgDisable (unit : Nat)
  /-- OCTL_RETRY (R361). Retries a faulted OQ command from its start. -/
  | octlRetry (unit seq : Nat)
  /-- OCTL_CANCEL (R361). Cancels a faulted OQ command. -/
  | octlCancel (unit seq : Nat)
  /-- OFU_WARMUP_DONE (R359). The source stabilises; banks are set to identity and calibration begins. -/
  | ofuWarmupDone (unit : Nat)
  /-- OFU_CALIBRATION_DONE (R359). Calibration passes to ready with a new epoch, or fails to faulted. -/
  | ofuCalibrationDone (unit : Nat) (pass : Bool)
  /-- OFU_VALIDITY_LAPSE (R362). The validity timer reaches 0 and the unit becomes stale. -/
  | ofuValidityLapse (unit : Nat)
  /-- OFU_TEMPERATURE_DRIFT (R362). The temperature moves over 2 °C from calibration and the unit becomes stale. -/
  | ofuTemperatureDrift (unit : Nat)
  /-- HPAT_READ_TEST (R420). Starts a read training test, or sets bad outside mode 1. -/
  | hpatReadTest (stack channel pc : Nat)
  /-- HPAT_WRITE_READ_TEST (R420). Starts a write-then-read training test, or sets bad outside mode 1. -/
  | hpatWriteReadTest (stack channel pc : Nat)
  /-- HWDT_EXPIRE (R410). The watchdog expires: wrack event 10, record held, harbour core reset. -/
  | hwdtExpire
  /-- DOORBELL (R414). Completes prior mailbox writes, sets doorbell event bits and raises the host interrupt. -/
  | doorbell (mask : Nat)
  /-- HOST_WINDOW_ACCESS (R414). A host access to a window register without a row of its own. -/
  | hostWindowAccess (write : Bool) (offset size value : Nat)
  /-- HRESET_WARM (R413). Warm reset repeating boot stages 2-5 with stored values. -/
  | hresetWarm
  /-- HRESET_POWER_ON (R412). Requests a power-on reset. -/
  | hresetPowerOn
  /-- POWER_ON_RESET (R412). Power-on reset starts the boot stages. -/
  | powerOnReset
  /-- SUPPLY_SAG (R417). A supply-sag detection raises a die's undertow step. -/
  | supplySag (die : Nat)
  /-- UNDERTOW_RECOVER (R417). 10 µs without sag lowers the undertow step toward the floor. -/
  | undertowRecover (die : Nat)
  /-- THERMAL_STEP (R416). A temperature above its limit raises the undertow floor or doubles HBM refresh. -/
  | thermalStep (hbm : Bool) (which degrees : Nat)
  /-- POWER_TRIP (R416). Input sag or overtemperature trips the module, stopping clocks and holding the wrack record. -/
  | powerTrip
  /-- TRACE_SAMPLE (R405). When TRCTL's sample period of 64-cycle units runs out, the trace unit writes a kind 1 PC-sample record. -/
  | traceSample (core : Nat) (source : Nat)
  deriving DecidableEq, Repr

end Sys2Proof
end

