-- ==== Sys2Proof/WellFormed.lean ====
section
/-! DEFINITION. Which terms of `Instr` stand for a record: the field widths and reserved values of 03 R51 to R72, and the numbering of the device's parties for the steps without an encoding. -/

namespace Sys2Proof

/-- A predicate number of four bits (03 R52). -/
def Guard.wf (g : Guard) : Bool := decide (g.p < 16)

/-- Register numbers of five bits. -/
def reg (n : Nat) : Bool := decide (n < 32)

/-- An R-form instruction's three registers and guard (03 R51). -/
def rForm (rd ra rb : Nat) (g : Guard) : Bool := reg rd && reg ra && reg rb && g.wf

/-- A predicate destination and two registers (03 R52). -/
def cmpForm (pd ra rb : Nat) (g : Guard) : Bool := decide (pd < 16) && reg ra && reg rb && g.wf

/-- An I-form immediate (03 R51). -/
def imm15 (v : Nat) : Bool := decide (v < 2 ^ 15)

/-- An M-form instruction (03 R51, R53). -/
def mForm (rd base size off : Nat) : Bool := reg rd && reg base && decide (size < 4) && decide (off < 2 ^ 13)

/-- A scope code; 5 to 7 are reserved (03 R54). -/
def scopeOk (n : Nat) : Bool := decide (n < 5)

/-- The field selector of CSET and CSETI (03 R55). -/
def fieldOk (c width pos : Nat) : Bool := decide (c < 16) && decide (width < 4) && decide (pos < 2 ^ width)

/-- CSRs whose write has a row of its own in the opcode table. -/
def writeRows : List Nat := [0x290, 0x80A, 0x98E, 0x933, 0x263, 0x977, 0x981, 0x985, 0x98B]

/-- CSRs whose read has a row of its own in the opcode table. -/
def readRows : List Nat := [0x291, 0x292, 0x98D]

/-- A signed field of four bits. -/
def stride4 (s : Int) : Bool := decide (-8 ≤ s ∧ s ≤ 7)

/-- A vector operand's fields (03 R59); only a row may rotate. -/
def VOp.wf : VOp → Bool
  | .grid d i s r o => decide (i < 64) && stride4 s && decide (o < 64) && (!r || decide (d = .row))
  | .scalar n => reg n
  | .imm v => decide (v < 2 ^ 22)
  | .scratch t b s o => decide (t < 4) && reg b && stride4 s && decide (o < 512)

def VOp.isGrid : VOp → Bool
  | .grid .. => true
  | _ => false

def VOp.isScalar : VOp → Bool
  | .scalar _ => true
  | _ => false

def VOp.isImm : VOp → Bool
  | .imm _ => true
  | _ => false

/-- A row operand (03 R59). -/
def VOp.isRow : VOp → Bool
  | .grid .row .. => true
  | _ => false

/-- A row operand without rotation. -/
def VOp.isFixedRow : VOp → Bool
  | .grid .row _ _ r _ => !r
  | _ => false

/-- A scratchpad operand (03 R62). -/
def VOp.isScratch : VOp → Bool
  | .scratch .. => true
  | _ => false

/-- A scratchpad operand with step code 0 (07 R156). -/
def VOp.isUnitScratch : VOp → Bool
  | .scratch 0 .. => true
  | _ => false

/-- A grid operand, well formed. -/
def gridOp (o : VOp) : Bool := o.wf && o.isGrid
/-- A scalar operand, well formed. -/
def scalarOp (o : VOp) : Bool := o.wf && o.isScalar
/-- A source anywhere: grid, scalar or immediate (03 R62). -/
def source (o : VOp) : Bool := o.wf && !o.isScratch
/-- A grid or scalar source. -/
def gridOrScalar (o : VOp) : Bool := o.wf && (o.isGrid || o.isScalar)
/-- A scalar or immediate source. -/
def scalarOrImm (o : VOp) : Bool := o.wf && (o.isScalar || o.isImm)

/-- The token queues that a vector word may pop and push (03 R58). -/
def vecTokens (pop push : Nat) : Bool := [0, 1, 6, 8, 12].contains pop && [0, 2, 5, 9].contains push

/-- The token queues that a matrix word may pop and push (03 R58). -/
def matTokens (pop push : Nat) : Bool := [0, 3, 5, 7, 10].contains pop && [0, 4, 6, 11].contains push

/-- The common fields of a vector word (03 R57, R58). -/
def VHdr.wf (h : VHdr) : Bool := h.guard.wf && decide (h.slot < 8) && vecTokens h.pop h.push

/-- The common fields of a control word of the vector stream, whose guard is zero. -/
def flowHdr (slot pop push : Nat) : Bool := decide (slot < 8) && vecTokens pop push

/-- The accumulator field of VACLD and VACZ (07 R159). -/
def AccField.wf (f : AccField) : Bool := decide (f.tile < 8) && decide (f.offset < 131072) && stride4 f.stride

/-- The mask or count of a control word: a scalar register or an immediate of `bits` bits (07 R162). -/
def VCount.wf (bits : Nat) : VCount → Bool
  | .scalar n => reg n
  | .imm v => decide (v < 2 ^ bits)

/-- A D, A, B word whose sources are any operands (06 R133, R136). -/
def triOp (h : VHdr) (d a b : VOp) : Bool := h.wf && gridOp d && source a && source b

/-- The common fields of a matrix word (03 R64). -/
def MHdr.wf (h : MHdr) : Bool := decide (h.guard < 16) && matTokens h.pop h.push

/-- A signed element offset of 32 bits (03 R64). -/
def off32 (o : Int) : Bool := decide (-(2 ^ 31) ≤ o ∧ o < 2 ^ 31)

/-- The counts of a tile step (03 R64). -/
def dims (m n k : Nat) : Bool := decide (1 ≤ m ∧ m ≤ 512) && decide (1 ≤ n ∧ n ≤ 256) && decide (1 ≤ k ∧ k ≤ 1024)

/-- The fields of a tile step (03 R64). -/
def MTile.wf (t : MTile) : Bool :=
  decide (t.slotA < 8) && decide (t.slotB < 8) && decide (t.slotC < 8) && dims t.m t.n t.k && decide (t.tile < 8)
    && decide (t.offset < 131072) && decide (t.genA < 8) && off32 t.offA && decide (t.genB < 8) && off32 t.offB

/-- A predecessor reference; queue 0 names none (03 R70). -/
def PredRef.wf (r : PredRef) : Bool := decide (r.queue < 4) && decide (r.seq < 2 ^ 19) && (decide (r.queue ≠ 0) || decide (r.seq = 0))

/-- A successor reference (03 R70). -/
def SuccRef.wf (r : SuccRef) : Bool := decide (r.core < 2048) && decide (r.queue < 3) && decide (r.seq < 2 ^ 19)

/-- A declared set lies in the slice (03 R71). -/
def LineSet.wf (l : LineSet) : Bool := decide (l.start < 65536) && decide (l.length < 65536) && decide (l.start + l.length ≤ 65536)

/-- The software fields of a command (03 R67 to R72). -/
def CmdHdr.wf (h : CmdHdr) : Bool :=
  decide (1 ≤ h.kind ∧ h.kind ≤ 5) && decide (h.prio < 16) && decide (h.wait < 2 ^ 32) && decide (h.signal < 2 ^ 32)
    && h.pred0.wf && h.pred1.wf && h.pred2.wf && decide (h.release < 2 ^ 64) && decide (h.dep < 65536) && decide (h.demand < 65536)
    && decide (h.absOperand < 4) && decide (h.absValue < 3) && decide (h.absResult < 3)
    && (h.nonstrict || (decide (h.absOperand = 0) && decide (h.absValue = 0) && decide (h.absResult = 0)))
    && decide (h.succ.length ≤ 4) && h.succ.all SuccRef.wf && h.rs0.wf && h.rs1.wf && h.rs2.wf && h.rs3.wf && h.ws0.wf
    && h.ws1.wf && decide (h.slack ≤ 64)

/-- Operand doublewords. -/
def CmdOps.wf (o : CmdOps) : Bool :=
  decide (o.d7 < 2 ^ 64) && decide (o.d8 < 2 ^ 64) && decide (o.d9 < 2 ^ 64) && decide (o.d10 < 2 ^ 64) && decide (o.d11 < 2 ^ 64)

/-- A command of an opcode whose kind is fixed (03 R68). -/
def cmdWf (kind : Nat) (h : CmdHdr) (o : CmdOps) : Bool := decide (h.kind = kind) && h.wf && o.wf

/-- A core's number, the harbour core's among them (01 R10, 24 R409). -/
def coreOk (c : Nat) : Bool := decide (c ≤ 2048)

/-- A context's core and number. -/
def ctxOk (c n : Nat) : Bool := coreOk c && decide (n < 3)

/-- A queue's number (13 R261). -/
def QueueId.wf : QueueId → Bool
  | .mq c | .vq c | .cq c => coreOk c
  | .oq u => decide (u < 16)
  | .lq d => decide (d < 8)

/-- A pseudo-channel (24 R419). -/
def hbmOk (stack channel pc : Nat) : Bool := decide (stack < 12) && decide (channel < 32) && decide (pc < 2)

/-- Whether a term stands for a record or a step. -/
def wellFormed : Instr → Bool
  | .add rd ra rb g | .sub rd ra rb g | .and rd ra rb g | .or rd ra rb g | .xor rd ra rb g | .sll rd ra rb g
  | .srl rd ra rb g | .sra rd ra rb g | .mul rd ra rb g | .mulh rd ra rb g | .div rd ra rb g | .divu rd ra rb g
  | .rem rd ra rb g | .min rd ra rb g | .max rd ra rb g => rForm rd ra rb g
  | .addi rd ra imm | .andi rd ra imm | .ori rd ra imm | .xori rd ra imm => reg rd && reg ra && imm15 imm
  | .slli rd ra sh | .srli rd ra sh | .srai rd ra sh => reg rd && reg ra && decide (sh < 64)
  | .lui rd imm => reg rd && imm15 imm
  | .ceq pd ra rb g | .cne pd ra rb g | .clt pd ra rb g | .cltu pd ra rb g | .cge pd ra rb g | .cgeu pd ra rb g =>
    cmpForm pd ra rb g
  | .ceqi pd ra imm | .clti pd ra imm => decide (pd < 16) && reg ra && imm15 imm
  | .pand pd pa pb _ _ g | .por pd pa pb _ _ g => decide (pd < 16) && decide (pa < 16) && decide (pb < 16) && g.wf
  | .b g off => g.wf && decide (off < 2 ^ 20)
  | .j off | .jal off => decide (off < 2 ^ 25)
  | .jr ra g => reg ra && g.wf
  | .jalr rd ra g => reg rd && reg ra && g.wf
  | .ld rd b s o | .st rd b s o | .lda rd b s o | .stl rd b s o | .lds rd b s o | .sts rd b s o => mForm rd b s o
  | .amoadd rd ra rb _ sc g | .amoand rd ra rb _ sc g | .amoor rd ra rb _ sc g | .amomax rd ra rb _ sc g
  | .amoswp rd ra rb _ sc g | .amocas rd ra rb _ sc g => rForm rd ra rb g && scopeOk sc
  | .fence sc g => scopeOk sc && g.wf
  | .acq ra sc g | .rel ra sc g => reg ra && scopeOk sc && g.wf
  | .bind rd ra rb g => rForm rd ra rb g
  | .cset c w p ra => fieldOk c w p && reg ra
  | .cseti c w p imm => fieldOk c w p && imm15 imm
  | .cclr first last => decide (first < 16) && decide (last < 16) && decide (first ≤ last)
  | .push rd q g => reg rd && decide (q < 3) && g.wf
  | .rpush rd ra rb g => rForm rd ra rb g
  | .fpop rd src g => reg rd && decide (src < 4) && g.wf
  | .zpop rd z g => reg rd && decide (z < 8) && g.wf
  | .zpush z rb g => decide (z < 8) && reg rb && g.wf
  | .gjoin rd ra _ g => reg rd && reg ra && g.wf
  | .gleave ra g => reg ra && g.wf
  | .barr rd ra g => reg rd && reg ra && g.wf
  | .sig ra rb g => reg ra && reg rb && g.wf
  | .waits rd ra rb g => rForm rd ra rb g
  | .tmark rd mask => reg rd && decide (mask < 256)
  | .csrr rd csr => reg rd && decide (csr < 4096) && !readRows.contains csr
  | .csrw ra csr => reg ra && decide (csr < 4096) && !writeRows.contains csr
  | .trap imm => imm15 imm
  | .rfe => true
  | .contextWaitComplete c x | .loadReturn c x | .storeBufferDrain c x | .ringTimeout c x | .interruptTake c x => ctxOk c x
  | .timerInterrupt c x time => ctxOk c x && decide (time < 2 ^ 64)
  | .tkpush ra => reg ra
  | .tkvx rd | .tkmx rd => reg rd
  | .tcmpWrite ra => reg ra
  | .vaddF h d a b | .vsubF h d a b | .vmulF h d a b | .vfmaF h d a b | .vminF h d a b | .vmaxF h d a b | .vdivF h d a b =>
    triOp h d a b
  | .vsqrtF h d a | .vabsF h d a | .vnegF h d a => h.wf && gridOp d && source a
  | .vaddI h d a b | .vsubI h d a b | .vmulI h d a b | .vmacI h d a b | .vand h d a b | .vor h d a b | .vxor h d a b
  | .vshl h d a b | .vshr h d a b | .vsra h d a b | .vminI h d a b | .vmaxI h d a b => triOp h d a b
  | .vcmpF h pd rel a b => h.wf && decide (pd < 8) && decide (rel < 7) && source a && source b
  | .vcmpI h pd rel a b => h.wf && decide (pd < 8) && decide (rel < 8) && source a && source b
  | .vsel h d a b => triOp h d a b
  | .vcvt h d a src | .vpack h d a src => h.wf && gridOp d && gridOrScalar a && decide (src < 8)
  | .vunpk h d a src => h.wf && gridOp d && gridOp a && decide (src < 8)
  | .vcmul h d a b | .vcfma h d a b => h.wf && gridOp d && gridOrScalar a && gridOrScalar b
  | .vtwid h d a b => h.wf && gridOp d && gridOrScalar a && source b
  | .vreds h sd a => h.wf && reg sd && gridOp a
  | .vredm h sd a mode => h.wf && reg sd && gridOp a && decide (mode < 4)
  | .vperm h d a b => h.wf && gridOp d && gridOp a && source b
  | .vbcst h d a b => h.wf && gridOp d && gridOp a && scalarOrImm b
  | .vmovg h d a => h.wf && gridOp d && source a
  | .vclmp h d a b => triOp h d a b
  | .vpopc h sd a => h.wf && reg sd && source a
  | .vtopk h d a b => h.wf && d.wf && d.isFixedRow && gridOp a && gridOp b
  | .vnms h pd a b => h.wf && decide (pd < 8) && a.wf && a.isFixedRow && scalarOrImm b
  | .vboxd h d a b => h.wf && gridOp d && gridOp a && gridOrScalar b
  | .vdwc h d a b => h.wf && gridOp d && a.wf && a.isRow && b.wf && b.isRow
  | .vlut h d a b => h.wf && gridOp d && gridOrScalar a && gridOp b
  | .vld h d a => h.wf && gridOp d && a.wf && a.isScratch
  | .vst h d a => h.wf && d.wf && d.isScratch && gridOrScalar a
  | .vgath h d a b => h.wf && gridOp d && a.wf && a.isUnitScratch && gridOp b
  | .vscat h d a b => h.wf && d.wf && d.isUnitScratch && gridOrScalar a && gridOp b
  | .vacld h d f => h.wf && gridOp d && f.wf
  | .vacz h f => h.wf && f.wf
  | .vsadd h sd sa sb => h.wf && reg sd && reg sa && reg sb
  | .vsaddi h sd sa v => h.wf && reg sd && reg sa && decide (v < 2 ^ 22)
  | .vsmov h sd a => h.wf && reg sd && source a
  | .vloop s p q l rot drain count off =>
    flowHdr s p q && decide (l < 2) && decide (drain < 8) && (rot || decide (drain = 0)) && count.wf 21
      && decide (1 ≤ off ∧ off < 65536)
  | .vlbr s p q l => flowHdr s p q && decide (l < 2)
  | .vbr s p q g _ off => flowHdr s p q && g.wf && decide (off < 65536)
  | .vj s p q off => flowHdr s p q && decide (off < 65536)
  | .vtok h np nq => h.wf && decide (np < 16) && decide (nq < 16) && decide (np = 0 ↔ h.pop = 0) && decide (nq = 0 ↔ h.push = 0)
  | .vrdv s p q sd => flowHdr s p q && reg sd
  | .vfmtSelect s p q _ base => flowHdr s p q && decide (base < 16)
  | .vfmtLoad s p q row sn => flowHdr s p q && decide (row < 16) && reg sn
  | .vkac h a const => h.wf && gridOp a && decide (const < 2 ^ 22)
  | .vwait s p q a | .vsig s p q a => flowHdr s p q && a.wf 22
  | .vstop s p q => flowHdr s p q
  | .vnop h => h.wf
  | .vectorLanding c | .elasticDataArrival c => coreOk c
  | .streamEnd c _ => coreOk c
  | .mma h t | .mmaS h t | .mmaG h t | .mmaT h t => h.wf && t.wf
  | .mwin h t | .mconv h t => h.wf && t.wf && !t.absorb
  | .mzero h sc m n tile off => h.wf && decide (sc < 8) && dims m n 1 && decide (tile < 8) && decide (off < 131072)
  | .mldi h gen off count => h.wf && decide (gen < 8) && off32 off && decide (1 ≤ count ∧ count ≤ 512)
  | .mloop h l count off => h.wf && decide (l < 2) && decide (count < 2 ^ 22) && decide (1 ≤ off ∧ off < 65536)
  | .mlbr h l => h.wf && decide (l < 2)
  | .mbr h p _ off => h.wf && decide (p < 16) && decide (off < 65536)
  | .mj h off => h.wf && decide (off < 65536)
  | .mtok h | .mrdv h | .mstop h => h.wf
  | .mfmt h _ base => h.wf && decide (base < 16)
  | .mkat h a b c m n k gen off const =>
    h.wf && decide (a < 8) && decide (b < 8) && decide (c < 8) && dims m n k && decide (gen < 8) && off32 off
      && decide (const < 2 ^ 32)
  | .msig h mask => h.wf && decide (mask < 2 ^ 32)
  | .matrixStepLastCycle c | .mldiLanding c => coreOk c
  | .kCopy h o | .kGather h o | .kScatter h o | .kFill h o | .kFeed h o | .kMigr h o | .kDiscard h o | .kKernel h o
  | .kPrefetch h o => cmdWf 3 h o
  | .kJob h o => cmdWf 2 h o
  | .kNest h o => cmdWf 1 h o
  | .kOft h o | .kOmask h o => cmdWf 4 h o
  | .kOcalRun h o => cmdWf 4 h o && decide (o.d8 % 4 = 0)
  | .kOcalWrite h o => cmdWf 4 h o && decide (o.d8 % 4 = 1)
  | .kOcalRead h o => cmdWf 4 h o && decide (o.d8 % 4 = 2)
  | .kAllred h o | .kAllgath h o | .kRedscat h o | .kBcast h o | .kAlltoall h o | .kTopkm h o => cmdWf 5 h o
  | .kEvent h o | .kNop h o => h.wf && o.wf
  | .armArrival q | .successorDecrement q | .ebbArrival q => q.wf
  | .timerWheelRelease time => decide (time < 2 ^ 64)
  | .commandStart q => q.wf
  | .commandRetire q _ | .commandFault q _ | .qctlRetry q _ | .qctlCancel q _ | .phaseRerun q _ => q.wf
  | .resultElementAppend c src => coreOk c && decide (src < 4)
  | .deferredTokenPush c t => coreOk c && decide (t < 13)
  | .pctlPreempt c | .pctlResume c | .preemptSaved c | .resumeSettled c | .interruptStreamStop c | .streamStopTrap c => coreOk c
  | .lockstepRoundStart g => decide (g < 4096)
  | .objectOperation op c x _ value => decide (op < 4) && ctxOk c x && decide (value < 2 ^ 32)
  | .kqaddrWrite kq a => decide (kq < 16) && decide (a < 2 ^ 64)
  | .kernelStart kq | .iterationHandoff kq | .kernelRetire kq => decide (kq < 16)
  | .pageWalk c x va => (ctxOk c x || (x == 3 && decide (va % 8 = 0) && ctxOk c 0)) && decide (va < 2 ^ 52)
  | .tsqPop rd => reg rd
  | .tsdone ra | .tinv ra | .cmclr ra | .wrctlWrite ra | .hctlWrite ra | .hrepWrite ra | .hwdtWrite ra => reg ra
  | .uncorrectableError _ _ => true
  | .scrubPass c _ _ _ => coreOk c
  | .heatEpoch => true
  | .logRecordMove c x => ctxOk c x
  | .cntctlUnfence c | .breakpointCycle c | .debugStop c | .debugResume c => coreOk c
  | .rewind g c x _ | .stepback g c x _ => ctxOk c x && (match g with | none => true | some n => decide (n < 4096))
  | .freezeRelease kind c which => decide (kind < 3) && coreOk c && decide (which < 8)
  | .lctlEnable p | .lctlRetrain p | .lctlExclude p | .lctlClearSuspect p | .strandTrainingDone p _ _ | .flitRetryLimit p =>
    decide (p < 18)
  | .flitReceive p flit => decide (p < 18) && flit.all fun b => decide (b < 256)
  | .cxlPortTrained p _ => decide (p < 4)
  | .farTierTimeout _ _ p => decide (p < 4)
  | .hostMemAccess _ _ size _ => decide (1 ≤ size ∧ size ≤ 64)
  | .collectiveMatch q _ _ | .chunkAck q _ _ | .collectiveTimeout q _ _ | .causewayTimeout q _ => q.wf
  | .chunkContribution q _ _ _ bytes => q.wf && bytes.all fun b => decide (b < 2 ^ 32)
  | .ocfgEnable u | .ocfgDisable u | .ofuWarmupDone u | .ofuCalibrationDone u _ | .ofuValidityLapse u
  | .ofuTemperatureDrift u | .ofuFrameDone u | .ofuMaskSetDone u => decide (u < 16)
  | .octlRetry u _ | .octlCancel u _ => decide (u < 16)
  | .hpatReadTest s c p | .hpatWriteReadTest s c p | .hbmTestDone s c p => hbmOk s c p
  | .hwdtExpire => true
  | .doorbell mask => decide (mask < 2 ^ 32)
  | .hostWindowAccess _ off size _ => decide (off < 2 ^ 16) && decide (1 ≤ size)
  | .hresetWarm | .hresetPowerOn | .powerOnReset | .bootStageDone _ _ => true
  | .supplySag d | .undertowRecover d => decide (d < 8)
  | .thermalStep hbm which _ => if hbm then decide (which < 12) else decide (which < 8)
  | .powerTrip => true
  | .illegalInstruction w => decide (w < 2 ^ 32)
  | .illegalVectorWord w => decide (w < 2 ^ 96)
  | .illegalMatrixWord w => decide (w < 2 ^ 192)
  | .traceSample c _ => coreOk c

end Sys2Proof
end

