-- ==== Sys2Proof/Decode.lean ====
section
/-! DEFINITION. Reading the four records into instructions (03 R46 to R72), refusing by name what is none, and after it the encoder, written from the same tables. -/

namespace Sys2Proof

/-- Why a word is no instruction (03 R47, R74). -/
inductive DecodeError where
  | unassignedOpcode
  | reservedField
  deriving DecidableEq, Repr

/-- The instruction, if its record breaks no field rule. -/
def need (ok : Bool) (i : Instr) : Except DecodeError Instr := if ok then .ok i else .error .reservedField

/-- The n-bit field of a word at bit lo. -/
def fld (w lo n : Nat) : Nat := w / 2 ^ lo % 2 ^ n

/-- A bit of a word as a condition. -/
def flag (w lo : Nat) : Bool := decide (w / 2 ^ lo % 2 = 1)

/-- A bit as a number. -/
def bitNat (b : Bool) : Nat := if b then 1 else 0

/-- An n-bit field read as two's complement. -/
def signed (n v : Nat) : Int := if v < 2 ^ (n - 1) then v else (v : Int) - 2 ^ n

/-- The n-bit field of an integer. -/
def unsigned (n : Nat) (v : Int) : Nat := (v % 2 ^ n).toNat

/-! ### Control-core instructions -/

/-- The guard of an R-form instruction (03 R51). -/
def guardR (w : Nat) : Guard := { p := fld w 6 4, neg := flag w 5 }

/-- Reads a control-core instruction (03 R51 to R56). (DEDUCED, safe: notes/assumptions/27.md) -/
def decodeControl (w : Nat) : Except DecodeError Instr :=
  let rd := fld w 20 5
  let ra := fld w 15 5
  let rb := fld w 10 5
  let g := guardR w
  let fn := fld w 0 5
  let imm := fld w 0 15
  let size := fld w 13 2
  let off := fld w 0 13
  let pd := fld w 20 4
  match fld w 25 7 with
  | 0x01 => need (fn == 0) (.add rd ra rb g)
  | 0x02 => need (fn == 0) (.sub rd ra rb g)
  | 0x03 => need (fn == 0) (.and rd ra rb g)
  | 0x04 => need (fn == 0) (.or rd ra rb g)
  | 0x05 => need (fn == 0) (.xor rd ra rb g)
  | 0x06 => need (fn == 0) (.sll rd ra rb g)
  | 0x07 => need (fn == 0) (.srl rd ra rb g)
  | 0x08 => need (fn == 0) (.sra rd ra rb g)
  | 0x09 => need (fn == 0) (.mul rd ra rb g)
  | 0x0A => need (fn == 0) (.mulh rd ra rb g)
  | 0x0B => need (fn == 0) (.div rd ra rb g)
  | 0x0C => need (fn == 0) (.divu rd ra rb g)
  | 0x0D => need (fn == 0) (.rem rd ra rb g)
  | 0x0E => need (fn == 0) (.min rd ra rb g)
  | 0x0F => need (fn == 0) (.max rd ra rb g)
  | 0x10 => .ok (.addi rd ra imm)
  | 0x11 => .ok (.andi rd ra imm)
  | 0x12 => .ok (.ori rd ra imm)
  | 0x13 => .ok (.xori rd ra imm)
  | 0x14 => need (fld w 6 9 == 0) (.slli rd ra (fld w 0 6))
  | 0x15 => need (fld w 6 9 == 0) (.srli rd ra (fld w 0 6))
  | 0x16 => need (fld w 6 9 == 0) (.srai rd ra (fld w 0 6))
  | 0x17 => need (ra == 0) (.lui rd imm)
  | 0x18 => need (fld w 24 1 == 0 && fn == 0) (.ceq pd ra rb g)
  | 0x19 => need (fld w 24 1 == 0 && fn == 0) (.cne pd ra rb g)
  | 0x1A => need (fld w 24 1 == 0 && fn == 0) (.clt pd ra rb g)
  | 0x1B => need (fld w 24 1 == 0 && fn == 0) (.cltu pd ra rb g)
  | 0x1C => need (fld w 24 1 == 0 && fn == 0) (.cge pd ra rb g)
  | 0x1D => need (fld w 24 1 == 0 && fn == 0) (.cgeu pd ra rb g)
  | 0x1E => need (fld w 24 1 == 0) (.ceqi pd ra imm)
  | 0x1F => need (fld w 24 1 == 0) (.clti pd ra imm)
  | 0x20 => need (fld w 24 1 == 0 && fld w 19 1 == 0 && fld w 14 1 == 0 && fld w 2 3 == 0) (.pand pd (fld w 15 4) (fld w 10 4) (flag w 1) (flag w 0) g)
  | 0x21 => need (fld w 24 1 == 0 && fld w 19 1 == 0 && fld w 14 1 == 0 && fld w 2 3 == 0) (.por pd (fld w 15 4) (fld w 10 4) (flag w 1) (flag w 0) g)
  | 0x22 => .ok (.b { p := fld w 21 4, neg := flag w 20 } (fld w 0 20))
  | 0x23 => .ok (.j (fld w 0 25))
  | 0x24 => .ok (.jal (fld w 0 25))
  | 0x25 => need (rd == 0 && rb == 0 && fn == 0) (.jr ra g)
  | 0x26 => need (rb == 0 && fn == 0) (.jalr rd ra g)
  | 0x27 => .ok (.ld rd ra size off)
  | 0x28 => .ok (.st rd ra size off)
  | 0x29 => .ok (.lda rd ra size off)
  | 0x2A => .ok (.stl rd ra size off)
  | 0x2B => .ok (.lds rd ra size off)
  | 0x2C => .ok (.sts rd ra size off)
  | 0x2D => need (fld w 3 1 == 0 && scopeOk (fld w 0 3)) (.amoadd rd ra rb (flag w 4) (fld w 0 3) g)
  | 0x2E => need (fld w 3 1 == 0 && scopeOk (fld w 0 3)) (.amoand rd ra rb (flag w 4) (fld w 0 3) g)
  | 0x2F => need (fld w 3 1 == 0 && scopeOk (fld w 0 3)) (.amoor rd ra rb (flag w 4) (fld w 0 3) g)
  | 0x30 => need (fld w 3 1 == 0 && scopeOk (fld w 0 3)) (.amomax rd ra rb (flag w 4) (fld w 0 3) g)
  | 0x31 => need (fld w 3 1 == 0 && scopeOk (fld w 0 3)) (.amoswp rd ra rb (flag w 4) (fld w 0 3) g)
  | 0x32 => need (fld w 3 1 == 0 && scopeOk (fld w 0 3)) (.amocas rd ra rb (flag w 4) (fld w 0 3) g)
  | 0x33 => need (rd == 0 && ra == 0 && rb == 0 && fld w 3 2 == 0 && scopeOk (fld w 0 3)) (.fence (fld w 0 3) g)
  | 0x34 => need (rd == 0 && rb == 0 && fld w 3 2 == 0 && scopeOk (fld w 0 3)) (.acq ra (fld w 0 3) g)
  | 0x35 => need (rd == 0 && rb == 0 && fld w 3 2 == 0 && scopeOk (fld w 0 3)) (.rel ra (fld w 0 3) g)
  | 0x36 => need (fn == 0) (.bind rd ra rb g)
  | 0x37 => need (fieldOk (fld w 21 4) (fld w 19 2) (fld w 15 4) && fld w 0 10 == 0) (.cset (fld w 21 4) (fld w 19 2) (fld w 15 4) rb)
  | 0x38 => need (fieldOk (fld w 21 4) (fld w 19 2) (fld w 15 4)) (.cseti (fld w 21 4) (fld w 19 2) (fld w 15 4) imm)
  | 0x39 => need (fld w 15 6 == 0 && fld w 4 11 == 0 && decide (fld w 21 4 ≤ fld w 0 4)) (.cclr (fld w 21 4) (fld w 0 4))
  | 0x3A => need (ra == 0 && rb == 0 && fld w 2 3 == 0 && fld w 0 2 != 3) (.push rd (fld w 0 2) g)
  | 0x3B => need (fn == 0) (.rpush rd ra rb g)
  | 0x3C => need (ra == 0 && rb == 0 && fld w 2 3 == 0) (.fpop rd (fld w 0 2) g)
  | 0x3D => need (fld w 18 2 == 0 && rb == 0 && fn == 0) (.zpop rd (fld w 15 3) g)
  | 0x3E => need (fld w 23 2 == 0 && ra == 0 && fn == 0) (.zpush (fld w 20 3) rb g)
  | 0x3F => need (rb == 0 && fld w 1 4 == 0) (.gjoin rd ra (flag w 0) g)
  | 0x40 => need (rd == 0 && rb == 0 && fn == 0) (.gleave ra g)
  | 0x41 => need (rb == 0 && fn == 0) (.barr rd ra g)
  | 0x42 => need (rd == 0 && fn == 0) (.sig ra rb g)
  | 0x43 => need (fn == 0) (.waits rd ra rb g)
  | 0x44 => need (ra == 0 && fld w 8 7 == 0) (.tmark rd (fld w 0 8))
  | 0x45 => need (ra == 0 && fld w 12 3 == 0)
      (match fld w 0 12 with
        | 0x291 => .tkvx rd
        | 0x292 => .tkmx rd
        | 0x98D => .tsqPop rd
        | n => .csrr rd n)
  | 0x46 => need (rd == 0 && fld w 12 3 == 0)
      (match fld w 0 12 with
        | 0x290 => .tkpush ra
        | 0x80A => .tcmpWrite ra
        | 0x98E => .tsdone ra
        | 0x933 => .tinv ra
        | 0x263 => .cmclr ra
        | 0x977 => .wrctlWrite ra
        | 0x981 => .hctlWrite ra
        | 0x985 => .hrepWrite ra
        | 0x98B => .hwdtWrite ra
        | n => .csrw ra n)
  | 0x47 => need (rd == 0 && ra == 0) (.trap imm)
  | 0x48 => need (fld w 0 25 == 0) .rfe
  | _ => .error .unassignedOpcode

/-! ### Vector words -/

/-- A direction's code (03 R59). -/
def dirCode : Dir → Nat
  | .row => 0 | .column => 1 | .diagonal => 2 | .antidiagonal => 3

/-- The direction of a code. -/
def dirOf (n : Nat) : Dir := match n with | 0 => .row | 1 => .column | 2 => .diagonal | _ => .antidiagonal

/-- Reads an operand field (03 R59). -/
def decodeVOp (f : Nat) : Option VOp :=
  match fld f 22 2 with
  | 0 =>
    if fld f 6 3 = 0 ∧ (flag f 9 = false ∨ fld f 20 2 = 0) then
      some (.grid (dirOf (fld f 20 2)) (fld f 14 6) (signed 4 (fld f 10 4)) (flag f 9) (fld f 0 6))
    else none
  | 1 => if fld f 19 3 = 0 ∧ fld f 0 14 = 0 then some (.scalar (fld f 14 5)) else none
  | 2 => some (.imm (fld f 0 22))
  | _ => if fld f 19 1 = 0 ∧ fld f 9 1 = 0 then some (.scratch (fld f 20 2) (fld f 14 5) (signed 4 (fld f 10 4)) (fld f 0 9)) else none

/-- The accumulator field of VACLD and VACZ (07 R159). -/
def decodeAcc (f : Nat) : AccField := { tile := fld f 21 3, offset := fld f 4 17, stride := signed 4 (fld f 0 4) }

/-- The loop an MFMT or VFMT names; code 3 is reserved (07 R162). -/
def loopSel (n : Nat) : LoopSel := match n with | 0 => .none | 1 => .l0 | _ => .l1

/-- An instruction with one decoded operand. -/
def withOp (f : Nat) (ok : VOp → Bool) (k : VOp → Except DecodeError Instr) : Except DecodeError Instr :=
  match decodeVOp f with
  | some o => if ok o then k o else .error .reservedField
  | none => .error .reservedField

/-- A word with a destination and two sources (03 R62): an operand of a kind that the word does not take is refused here, before the slot is
checked (06 R151, 03 R48). (DESIGN CHOICE, unsafe: notes/assumptions/64.md) -/
def word3 (w : Nat) (okD okA okB : VOp → Bool) (k : VOp → VOp → VOp → Instr) : Except DecodeError Instr :=
  withOp (fld w 48 24) okD fun d => withOp (fld w 24 24) okA fun a => withOp (fld w 0 24) okB fun b => .ok (k d a b)

/-- A word with a destination and one source; B is zero. -/
def word2 (w : Nat) (okD okA : VOp → Bool) (k : VOp → VOp → Instr) : Except DecodeError Instr :=
  withOp (fld w 48 24) okD fun d => withOp (fld w 24 24) okA fun a => need (fld w 0 24 == 0) (k d a)

/-- A word that writes a scalar register from one source; B is zero. -/
def wordS (w : Nat) (okA : VOp → Bool) (k : Nat → VOp → Instr) : Except DecodeError Instr :=
  withOp (fld w 48 24) VOp.isScalar fun d => withOp (fld w 24 24) okA fun a =>
    match d with
    | .scalar n => need (fld w 0 24 == 0) (k n a)
    | _ => .error .reservedField

/-- A word with three operands that its own rule reads. -/
def wordSS (w : Nat) (k : VOp → VOp → VOp → Except DecodeError Instr) : Except DecodeError Instr :=
  withOp (fld w 48 24) (fun _ => true) fun d => withOp (fld w 24 24) (fun _ => true) fun a => withOp (fld w 0 24) (fun _ => true) fun b => k d a b

/-- A conversion: B is an immediate that names the source slot (06 R140). -/
def wordC (w : Nat) (okA : VOp → Bool) (k : VOp → VOp → Nat → Instr) : Except DecodeError Instr :=
  withOp (fld w 48 24) VOp.isGrid fun d => withOp (fld w 24 24) okA fun a =>
    need (fld w 3 21 == 2 ^ 20) (k d a (fld w 0 3))

/-- A compare: D holds the predicate and the relation (06 R137). -/
def wordP (w : Nat) (relBound : Nat) (okA okB : VOp → Bool) (k : Nat → Nat → VOp → VOp → Instr) : Except DecodeError Instr :=
  withOp (fld w 24 24) okA fun a => withOp (fld w 0 24) okB fun b =>
    need (fld w 68 4 == 0 && fld w 61 3 == 0 && fld w 48 10 == 0 && decide (fld w 64 4 < 8) && decide (fld w 58 3 < relBound))
      (k (fld w 64 4) (fld w 58 3) a b)

/-- The count or mask operand of a control word: a scalar, or an immediate of `bits` bits (07 R162). -/
def decodeCount (bits f : Nat) : Option VCount :=
  match decodeVOp f with
  | some (.scalar n) => some (.scalar n)
  | some (.imm v) => if v < 2 ^ bits then some (.imm v) else none
  | _ => none

/-- A control word whose A is a count or mask. -/
def withCount (bits f : Nat) (ok : Bool) (k : VCount → Instr) : Except DecodeError Instr :=
  match decodeCount bits f with
  | some c => need ok (k c)
  | none => .error .reservedField

/-- Grid or scalar. -/
def okGS (o : VOp) : Bool := o.isGrid || o.isScalar
/-- Scalar or immediate. -/
def okSI (o : VOp) : Bool := o.isScalar || o.isImm
/-- Any source. -/
def okSrc (o : VOp) : Bool := !o.isScratch

/-- Reads a vector word (03 R57 to R63, 06, 07 R162). An immediate as A of VPACK is refused: a word that converts no format has no reading for
it (R59, R143). (DESIGN CHOICE, unsafe: notes/assumptions/64.md) -/
def decodeVector (w : Nat) : Except DecodeError Instr :=
  let g : Guard := { p := fld w 84 4, neg := flag w 83 }
  let slot := fld w 80 3
  let pop := fld w 76 4
  let push := fld w 72 4
  let h : VHdr := { guard := g, slot := slot, pop := pop, push := push }
  let g0 := fld w 83 5 == 0
  let d0 := fld w 48 24 == 0
  let a0 := fld w 24 24 == 0
  let b0 := fld w 0 24 == 0
  if !vecTokens pop push then (if fld w 88 8 = 0 ∨ fld w 88 8 > 0x40 then .error .unassignedOpcode else .error .reservedField)
  else match fld w 88 8 with
  | 0x01 => word3 w VOp.isGrid okSrc okSrc (.vaddF h)
  | 0x02 => word3 w VOp.isGrid okSrc okSrc (.vsubF h)
  | 0x03 => word3 w VOp.isGrid okSrc okSrc (.vmulF h)
  | 0x04 => word3 w VOp.isGrid okSrc okSrc (.vfmaF h)
  | 0x05 => word3 w VOp.isGrid okSrc okSrc (.vminF h)
  | 0x06 => word3 w VOp.isGrid okSrc okSrc (.vmaxF h)
  | 0x07 => word3 w VOp.isGrid okSrc okSrc (.vdivF h)
  | 0x08 => word2 w VOp.isGrid okSrc (.vsqrtF h)
  | 0x09 => word2 w VOp.isGrid okSrc (.vabsF h)
  | 0x0A => word2 w VOp.isGrid okSrc (.vnegF h)
  | 0x0B => word3 w VOp.isGrid okSrc okSrc (.vaddI h)
  | 0x0C => word3 w VOp.isGrid okSrc okSrc (.vsubI h)
  | 0x0D => word3 w VOp.isGrid okSrc okSrc (.vmulI h)
  | 0x0E => word3 w VOp.isGrid okSrc okSrc (.vmacI h)
  | 0x0F => word3 w VOp.isGrid okSrc okSrc (.vand h)
  | 0x10 => word3 w VOp.isGrid okSrc okSrc (.vor h)
  | 0x11 => word3 w VOp.isGrid okSrc okSrc (.vxor h)
  | 0x12 => word3 w VOp.isGrid okSrc okSrc (.vshl h)
  | 0x13 => word3 w VOp.isGrid okSrc okSrc (.vshr h)
  | 0x14 => word3 w VOp.isGrid okSrc okSrc (.vsra h)
  | 0x15 => word3 w VOp.isGrid okSrc okSrc (.vminI h)
  | 0x16 => word3 w VOp.isGrid okSrc okSrc (.vmaxI h)
  | 0x17 => wordP w 7 okSrc okSrc (.vcmpF h)
  | 0x18 => wordP w 8 okSrc okSrc (.vcmpI h)
  | 0x19 => word3 w VOp.isGrid okSrc okSrc (.vsel h)
  | 0x1A => wordC w okGS (.vcvt h)
  | 0x1B => wordC w okGS (.vpack h)
  | 0x1C => wordC w VOp.isGrid (.vunpk h)
  | 0x1D => word3 w VOp.isGrid okGS okGS (.vcmul h)
  | 0x1E => word3 w VOp.isGrid okGS okGS (.vcfma h)
  | 0x1F => word3 w VOp.isGrid okGS okSrc (.vtwid h)
  | 0x20 => wordS w VOp.isGrid (.vreds h)
  | 0x21 => withOp (fld w 48 24) VOp.isScalar fun d => withOp (fld w 24 24) VOp.isGrid fun a =>
      match d with
      | .scalar n => need (fld w 2 22 == 2 ^ 21) (.vredm h n a (fld w 0 2))
      | _ => .error .reservedField
  | 0x22 => word3 w VOp.isGrid VOp.isGrid okSrc (.vperm h)
  | 0x23 => word3 w VOp.isGrid VOp.isGrid okSI (.vbcst h)
  | 0x24 => word2 w VOp.isGrid okSrc (.vmovg h)
  | 0x25 => word3 w VOp.isGrid okSrc okSrc (.vclmp h)
  | 0x26 => wordS w okSrc (.vpopc h)
  | 0x27 => word3 w VOp.isFixedRow VOp.isGrid VOp.isGrid (.vtopk h)
  | 0x28 => wordP w 1 VOp.isFixedRow okSI (fun pd _ a b => .vnms h pd a b)
  | 0x29 => word3 w VOp.isGrid VOp.isGrid okGS (.vboxd h)
  | 0x2A => word3 w VOp.isGrid VOp.isRow VOp.isRow (.vdwc h)
  | 0x2B => word3 w VOp.isGrid okGS VOp.isGrid (.vlut h)
  | 0x2C => word2 w VOp.isGrid VOp.isScratch (.vld h)
  | 0x2D => word2 w VOp.isScratch okGS (.vst h)
  | 0x2E => word3 w VOp.isGrid VOp.isUnitScratch VOp.isGrid (.vgath h)
  | 0x2F => word3 w VOp.isUnitScratch okGS VOp.isGrid (.vscat h)
  | 0x30 => withOp (fld w 48 24) VOp.isGrid fun d => need b0 (.vacld h d (decodeAcc (fld w 24 24)))
  | 0x31 => need (a0 && b0) (.vacz h (decodeAcc (fld w 48 24)))
  | 0x32 => wordSS w (fun d a b => match d, a, b with
      | .scalar n, .scalar x, .scalar y => .ok (.vsadd h n x y)
      | _, _, _ => .error .reservedField)
  | 0x33 => wordSS w (fun d a b => match d, a, b with
      | .scalar n, .scalar x, .imm v => .ok (.vsaddi h n x v)
      | _, _, _ => .error .reservedField)
  | 0x34 => wordS w okSrc (.vsmov h)
  | 0x35 => withCount 21 (fld w 24 24)
      (g0 && fld w 66 6 == 0 && fld w 51 13 == 0 && fld w 16 8 == 0 && fld w 0 16 != 0 && (flag w 64 || fld w 48 3 == 0))
      (fun c => .vloop slot pop push (fld w 65 1) (flag w 64) (fld w 48 3) c (fld w 0 16))
  | 0x36 => need (g0 && fld w 66 6 == 0 && fld w 48 17 == 0 && a0 && b0) (.vlbr slot pop push (fld w 65 1))
  | 0x37 => need (fld w 66 6 == 0 && fld w 48 17 == 0 && a0 && fld w 16 8 == 0) (.vbr slot pop push g (flag w 65) (fld w 0 16))
  | 0x38 => need (g0 && d0 && a0 && fld w 16 8 == 0) (.vj slot pop push (fld w 0 16))
  | 0x39 => need (d0 && fld w 28 20 == 2 ^ 19 && fld w 4 20 == 2 ^ 19 && decide (fld w 24 4 = 0 ↔ pop = 0)
        && decide (fld w 0 4 = 0 ↔ push = 0)) (.vtok h (fld w 24 4) (fld w 0 4))
  | 0x3A => need (g0 && fld w 53 19 == 0 && a0 && b0) (.vrdv slot pop push (fld w 48 5))
  | 0x3B =>
      if flag w 67 then
        withOp (fld w 24 24) VOp.isScalar fun a => match a with
          | .scalar n => need (g0 && fld w 68 4 == 0 && fld w 52 15 == 0 && b0) (.vfmtLoad slot pop push (fld w 48 4) n)
          | _ => .error .reservedField
      else need (g0 && fld w 68 4 == 0 && fld w 52 13 == 0 && a0 && b0 && fld w 65 2 != 3)
        (.vfmtSelect slot pop push (loopSel (fld w 65 2)) (fld w 48 4))
  | 0x3C => withOp (fld w 24 24) VOp.isGrid fun a => need (d0 && fld w 22 2 == 2) (.vkac h a (fld w 0 22))
  | 0x3D => withCount 22 (fld w 24 24) (g0 && d0 && b0) (.vwait slot pop push)
  | 0x3E => withCount 22 (fld w 24 24) (g0 && d0 && b0) (.vsig slot pop push)
  | 0x3F => need (g0 && d0 && a0 && b0) (.vstop slot pop push)
  | 0x40 => need (d0 && a0 && b0) (.vnop h)
  | _ => .error .unassignedOpcode

/-! ### Matrix words -/

/-- The tile-step fields of a matrix word (03 R64). -/
def decodeTile (w : Nat) : MTile :=
  { slotA := fld w 173 3, slotB := fld w 170 3, slotC := fld w 167 3, absorb := flag w 165, m := fld w 151 9 + 1, n := fld w 143 8 + 1,
    k := fld w 133 10 + 1, tile := fld w 130 3, acc := flag w 129, offset := fld w 112 17, genA := fld w 109 3,
    offA := signed 32 (fld w 76 32), genB := fld w 53 3, offB := signed 32 (fld w 20 32) }

/-- A tile step: S and G as the opcode says, Z only where it may be set, reserved bits zero (03 R64, R65). -/
def tileWord (w : Nat) (s g z : Bool) (i : Instr) : Except DecodeError Instr :=
  need (flag w 166 == s && flag w 164 == g && flag w 108 == g && (z || !flag w 165) && fld w 56 20 == 0 && fld w 52 1 == 0
    && fld w 0 20 == 0) i

/-- The bits of a flow word outside opcode, tokens, guard and B field are zero (03 R65). -/
def flowWord (w : Nat) : Bool := fld w 164 12 == 0 && fld w 56 104 == 0

/-- Reads a matrix word (03 R64 to R66, 08 R205). -/
def decodeMatrix (w : Nat) : Except DecodeError Instr :=
  let h : MHdr := { guard := fld w 160 4, pop := fld w 180 4, push := fld w 176 4 }
  let t := decodeTile w
  if !matTokens h.pop h.push then (if fld w 184 8 = 0 ∨ fld w 184 8 > 0x12 then .error .unassignedOpcode else .error .reservedField)
  else match fld w 184 8 with
  | 0x01 => tileWord w false false true (.mma h t)
  | 0x02 => tileWord w true false true (.mmaS h t)
  | 0x03 => tileWord w false true true (.mmaG h t)
  | 0x04 => tileWord w false false true (.mmaT h t)
  | 0x05 => tileWord w false false false (.mwin h t)
  | 0x06 => tileWord w false false false (.mconv h t)
  | 0x07 => need (fld w 170 6 == 0 && fld w 164 3 == 0 && fld w 133 10 == 0 && !t.acc && fld w 0 112 == 0)
      (.mzero h t.slotC t.m t.n t.tile t.offset)
  | 0x08 => need (fld w 164 12 == 0 && fld w 112 39 == 0 && fld w 108 1 == 0 && fld w 0 76 == 0)
      (.mldi h t.genA t.offA t.m)
  | 0x09 => need (flowWord w && fld w 54 2 != 2 && fld w 54 2 != 3 && fld w 16 16 == 0 && fld w 0 16 != 0)
      (.mloop h (fld w 54 2) (fld w 32 22) (fld w 0 16))
  | 0x0A => need (flowWord w && fld w 54 2 != 2 && fld w 54 2 != 3 && fld w 0 54 == 0) (.mlbr h (fld w 54 2))
  | 0x0B => need (flowWord w && fld w 16 35 == 0) (.mbr h (fld w 52 4) (flag w 51) (fld w 0 16))
  | 0x0C => need (flowWord w && fld w 16 40 == 0) (.mj h (fld w 0 16))
  | 0x0D => need (flowWord w && fld w 0 56 == 0) (.mtok h)
  | 0x0E => need (flowWord w && fld w 0 56 == 0) (.mrdv h)
  | 0x0F => need (flowWord w && fld w 0 56 == 0) (.mstop h)
  | 0x10 => need (flowWord w && fld w 54 2 != 3 && fld w 0 50 == 0) (.mfmt h (loopSel (fld w 54 2)) (fld w 50 4))
  | 0x11 => need (fld w 164 3 == 0 && fld w 112 21 == 0 && fld w 108 1 == 0 && fld w 56 20 == 0 && fld w 0 24 == 0)
      (.mkat h t.slotA t.slotB t.slotC t.m t.n t.k t.genA t.offA (fld w 24 32))
  | 0x12 => need (flowWord w && fld w 32 24 == 0) (.msig h (fld w 0 32))
  | _ => .error .unassignedOpcode

/-! ### Commands -/

/-- Doubleword j of a command as a number. -/
def cmdD (w j : Nat) : Nat := fld w (64 * j) 64

/-- A predecessor reference from its 21 bits (03 R70). -/
def decodePred (f : Nat) : PredRef := { queue := fld f 19 2, seq := fld f 0 19 }

/-- A successor reference from its 32 bits (03 R70). -/
def decodeSucc (f : Nat) : SuccRef := { core := fld f 21 11, queue := fld f 19 2, seq := fld f 0 19 }

/-- A declared set from its 32 bits (03 R71). -/
def decodeSet (f : Nat) : LineSet := { start := fld f 16 16, length := fld f 0 16 }

/-- The four successor fields of d5 and d6. -/
def succFields (w : Nat) : List Nat := [fld (cmdD w 5) 0 32, fld (cmdD w 5) 32 32, fld (cmdD w 6) 0 32, fld (cmdD w 6) 32 32]

/-- The software fields of a command (03 R67 to R72). -/
def decodeHdr (w : Nat) : CmdHdr :=
  let d0 := cmdD w 0
  let d4 := cmdD w 4
  { kind := fld d0 8 4, prio := fld d0 12 4, det := flag d0 16, nonstrict := flag d0 17, pinned := flag d0 18,
    wait := fld (cmdD w 1) 0 32, signal := fld (cmdD w 1) 32 32, pred0 := decodePred (fld (cmdD w 2) 0 21),
    pred1 := decodePred (fld (cmdD w 2) 21 21), pred2 := decodePred (fld (cmdD w 2) 42 21), release := cmdD w 3,
    dep := fld d4 0 16, demand := fld d4 16 16, absOperand := fld d4 38 2, absValue := fld d4 36 2, absResult := fld d4 32 4,
    succ := ((succFields w).take (fld d4 40 3)).map decodeSucc, rs0 := decodeSet (fld (cmdD w 12) 0 32),
    rs1 := decodeSet (fld (cmdD w 12) 32 32), rs2 := decodeSet (fld (cmdD w 13) 0 32), rs3 := decodeSet (fld (cmdD w 13) 32 32),
    ws0 := decodeSet (fld (cmdD w 14) 0 32), ws1 := decodeSet (fld (cmdD w 14) 32 32), slack := fld (cmdD w 15) 0 16 }

/-- The operand doublewords of a command. -/
def decodeOps (w : Nat) : CmdOps := { d7 := cmdD w 7, d8 := cmdD w 8, d9 := cmdD w 9, d10 := cmdD w 10, d11 := cmdD w 11 }

/-- The reserved bits of the header are zero and references beyond the count are zero (03 R67 to R72). Bits that hardware writes are not looked at. -/
def hdrReserved (w : Nat) : Bool :=
  fld (cmdD w 0) 24 8 == 0 && fld (cmdD w 2) 63 1 == 0 && fld (cmdD w 4) 43 21 == 0 && decide (fld (cmdD w 4) 40 3 ≤ 4)
    && ((succFields w).drop (fld (cmdD w 4) 40 3)).all (· == 0)

/-- Reads a command (03 R67 to R72; operand rules beyond the record's own are checked at push, 13). -/
def decodeCommand (w : Nat) : Except DecodeError Instr :=
  let h := decodeHdr w
  let o := decodeOps w
  let c (i : Instr) : Except DecodeError Instr := need (hdrReserved w && wellFormed i) i
  match fld (cmdD w 0) 0 8 with
  | 0x01 => c (.kCopy h o)
  | 0x02 => c (.kGather h o)
  | 0x03 => c (.kScatter h o)
  | 0x04 => c (.kFill h o)
  | 0x05 => c (.kFeed h o)
  | 0x06 => c (.kJob h o)
  | 0x07 => c (.kNest h o)
  | 0x08 => c (.kOft h o)
  | 0x09 => c (.kOmask h o)
  | 0x0A => match fld o.d8 0 2 with
    | 0 => c (.kOcalRun h o)
    | 1 => c (.kOcalWrite h o)
    | 2 => c (.kOcalRead h o)
    | _ => .error .reservedField
  | 0x0B => c (.kAllred h o)
  | 0x0C => c (.kAllgath h o)
  | 0x0D => c (.kRedscat h o)
  | 0x0E => c (.kBcast h o)
  | 0x0F => c (.kAlltoall h o)
  | 0x10 => c (.kTopkm h o)
  | 0x11 => c (.kMigr h o)
  | 0x12 => c (.kDiscard h o)
  | 0x13 => c (.kKernel h o)
  | 0x14 => c (.kEvent h o)
  | 0x15 => c (.kNop h o)
  | 0x16 => c (.kPrefetch h o)
  | _ => .error .unassignedOpcode

/-- The instruction that a table row's bits stand for; the record is told by its length (03 R46). -/
def decodeTableWord (nbits w : Nat) : Option Instr :=
  (if nbits ≤ 32 then decodeControl w else if nbits ≤ 96 then decodeVector w else if nbits ≤ 192 then decodeMatrix w
    else decodeCommand w).toOption

/-! ### Encoding -/

/-- An R-form word (03 R51). -/
def encR (op rd ra rb : Nat) (g : Guard) (fn : Nat) : Nat :=
  op * 2 ^ 25 + rd * 2 ^ 20 + ra * 2 ^ 15 + rb * 2 ^ 10 + g.p * 2 ^ 6 + bitNat g.neg * 2 ^ 5 + fn

/-- An I-form word (03 R51). -/
def encI (op rd ra imm : Nat) : Nat := op * 2 ^ 25 + rd * 2 ^ 20 + ra * 2 ^ 15 + imm

/-- An M-form word (03 R51). -/
def encM (op rd base size off : Nat) : Nat := op * 2 ^ 25 + rd * 2 ^ 20 + base * 2 ^ 15 + size * 2 ^ 13 + off

/-- An operand field (03 R59). -/
def encodeVOp : VOp → Nat
  | .grid d i s r o => dirCode d * 2 ^ 20 + i * 2 ^ 14 + unsigned 4 s * 2 ^ 10 + bitNat r * 2 ^ 9 + o
  | .scalar n => 2 ^ 22 + n * 2 ^ 14
  | .imm v => 2 * 2 ^ 22 + v
  | .scratch t b s o => 3 * 2 ^ 22 + t * 2 ^ 20 + b * 2 ^ 14 + unsigned 4 s * 2 ^ 10 + o

/-- The accumulator field (07 R159). -/
def encodeAcc (f : AccField) : Nat := f.tile * 2 ^ 21 + f.offset * 2 ^ 4 + unsigned 4 f.stride

/-- A count or mask operand. -/
def encodeCount : VCount → Nat
  | .scalar n => encodeVOp (.scalar n)
  | .imm v => encodeVOp (.imm v)

/-- A vector word (03 R57). -/
def encV (op : Nat) (h : VHdr) (d a b : Nat) : Nat :=
  op * 2 ^ 88 + h.guard.p * 2 ^ 84 + bitNat h.guard.neg * 2 ^ 83 + h.slot * 2 ^ 80 + h.pop * 2 ^ 76 + h.push * 2 ^ 72 + d * 2 ^ 48
    + a * 2 ^ 24 + b

/-- The header of a control word of the vector stream, whose guard is zero. -/
def flowVHdr (slot pop push : Nat) : VHdr := { guard := { p := 0, neg := false }, slot := slot, pop := pop, push := push }

/-- The D field of a compare (06 R137). -/
def encPd (pd rel : Nat) : Nat := pd * 2 ^ 16 + rel * 2 ^ 10

/-- A loop's code in VFMT and MFMT. -/
def loopCode : LoopSel → Nat
  | .none => 0 | .l0 => 1 | .l1 => 2

/-- A three-operand vector word. -/
def encV3 (op : Nat) (h : VHdr) (d a b : VOp) : Nat := encV op h (encodeVOp d) (encodeVOp a) (encodeVOp b)

/-- A two-operand vector word. -/
def encV2 (op : Nat) (h : VHdr) (d a : VOp) : Nat := encV op h (encodeVOp d) (encodeVOp a) 0

/-- A matrix word's opcode, tokens and guard (03 R64). -/
def encMat (op : Nat) (h : MHdr) : Nat := op * 2 ^ 184 + h.pop * 2 ^ 180 + h.push * 2 ^ 176 + h.guard * 2 ^ 160

/-- A tile step (03 R64). -/
def encTile (op : Nat) (h : MHdr) (t : MTile) (s g : Bool) : Nat :=
  encMat op h + t.slotA * 2 ^ 173 + t.slotB * 2 ^ 170 + t.slotC * 2 ^ 167 + bitNat s * 2 ^ 166 + bitNat t.absorb * 2 ^ 165
    + bitNat g * 2 ^ 164 + (t.m - 1) * 2 ^ 151 + (t.n - 1) * 2 ^ 143 + (t.k - 1) * 2 ^ 133 + t.tile * 2 ^ 130 + bitNat t.acc * 2 ^ 129
    + t.offset * 2 ^ 112 + t.genA * 2 ^ 109 + bitNat g * 2 ^ 108 + unsigned 32 t.offA * 2 ^ 76 + t.genB * 2 ^ 53
    + unsigned 32 t.offB * 2 ^ 20

/-- A predecessor reference (03 R70). -/
def encPred (r : PredRef) : Nat := r.queue * 2 ^ 19 + r.seq

/-- A successor reference (03 R70). -/
def encSucc (r : SuccRef) : Nat := r.core * 2 ^ 21 + r.queue * 2 ^ 19 + r.seq

/-- A declared set (03 R71). -/
def encSet (l : LineSet) : Nat := l.start * 2 ^ 16 + l.length

/-- Successor field j of a command. -/
def encSuccAt (h : CmdHdr) (j : Nat) : Nat := match h.succ[j]? with | some r => encSucc r | none => 0

/-- A command's sixteen doublewords (03 R67 to R72). -/
def cmdDs (op : Nat) (h : CmdHdr) (o : CmdOps) : List Nat :=
  [ op + h.kind * 2 ^ 8 + h.prio * 2 ^ 12 + bitNat h.det * 2 ^ 16 + bitNat h.nonstrict * 2 ^ 17 + bitNat h.pinned * 2 ^ 18,
    h.wait + h.signal * 2 ^ 32,
    encPred h.pred0 + encPred h.pred1 * 2 ^ 21 + encPred h.pred2 * 2 ^ 42,
    h.release,
    h.dep + h.demand * 2 ^ 16 + h.absResult * 2 ^ 32 + h.absValue * 2 ^ 36 + h.absOperand * 2 ^ 38 + h.succ.length * 2 ^ 40,
    encSuccAt h 0 + encSuccAt h 1 * 2 ^ 32,
    encSuccAt h 2 + encSuccAt h 3 * 2 ^ 32,
    o.d7, o.d8, o.d9, o.d10, o.d11,
    encSet h.rs0 + encSet h.rs1 * 2 ^ 32,
    encSet h.rs2 + encSet h.rs3 * 2 ^ 32,
    encSet h.ws0 + encSet h.ws1 * 2 ^ 32,
    h.slack ]

/-- Doublewords joined, the first lowest. -/
def joinDs : List Nat → Nat
  | [] => 0
  | d :: ds => d + 2 ^ 64 * joinDs ds

/-- A command's 1024 bits. -/
def encCmd (op : Nat) (h : CmdHdr) (o : CmdOps) : Nat := joinDs (cmdDs op h o)

/-- The words of an instruction. A step without an encoding has none and encodes as zero, which no record's opcode is. -/
def encode : Instr → Nat
  | .add rd ra rb g => encR 0x01 rd ra rb g 0
  | .sub rd ra rb g => encR 0x02 rd ra rb g 0
  | .and rd ra rb g => encR 0x03 rd ra rb g 0
  | .or rd ra rb g => encR 0x04 rd ra rb g 0
  | .xor rd ra rb g => encR 0x05 rd ra rb g 0
  | .sll rd ra rb g => encR 0x06 rd ra rb g 0
  | .srl rd ra rb g => encR 0x07 rd ra rb g 0
  | .sra rd ra rb g => encR 0x08 rd ra rb g 0
  | .mul rd ra rb g => encR 0x09 rd ra rb g 0
  | .mulh rd ra rb g => encR 0x0A rd ra rb g 0
  | .div rd ra rb g => encR 0x0B rd ra rb g 0
  | .divu rd ra rb g => encR 0x0C rd ra rb g 0
  | .rem rd ra rb g => encR 0x0D rd ra rb g 0
  | .min rd ra rb g => encR 0x0E rd ra rb g 0
  | .max rd ra rb g => encR 0x0F rd ra rb g 0
  | .addi rd ra v => encI 0x10 rd ra v
  | .andi rd ra v => encI 0x11 rd ra v
  | .ori rd ra v => encI 0x12 rd ra v
  | .xori rd ra v => encI 0x13 rd ra v
  | .slli rd ra v => encI 0x14 rd ra v
  | .srli rd ra v => encI 0x15 rd ra v
  | .srai rd ra v => encI 0x16 rd ra v
  | .lui rd imm => encI 0x17 rd 0 imm
  | .ceq pd ra rb g => encR 0x18 pd ra rb g 0
  | .cne pd ra rb g => encR 0x19 pd ra rb g 0
  | .clt pd ra rb g => encR 0x1A pd ra rb g 0
  | .cltu pd ra rb g => encR 0x1B pd ra rb g 0
  | .cge pd ra rb g => encR 0x1C pd ra rb g 0
  | .cgeu pd ra rb g => encR 0x1D pd ra rb g 0
  | .ceqi pd ra imm => encI 0x1E pd ra imm
  | .clti pd ra imm => encI 0x1F pd ra imm
  | .pand pd pa pb na nb g => encR 0x20 pd pa pb g (bitNat na * 2 + bitNat nb)
  | .por pd pa pb na nb g => encR 0x21 pd pa pb g (bitNat na * 2 + bitNat nb)
  | .b g off => 0x22 * 2 ^ 25 + g.p * 2 ^ 21 + bitNat g.neg * 2 ^ 20 + off
  | .j off => 0x23 * 2 ^ 25 + off
  | .jal off => 0x24 * 2 ^ 25 + off
  | .jr ra g => encR 0x25 0 ra 0 g 0
  | .jalr rd ra g => encR 0x26 rd ra 0 g 0
  | .ld rd base size off => encM 0x27 rd base size off
  | .st rd base size off => encM 0x28 rd base size off
  | .lda rd base size off => encM 0x29 rd base size off
  | .stl rd base size off => encM 0x2A rd base size off
  | .lds rd base size off => encM 0x2B rd base size off
  | .sts rd base size off => encM 0x2C rd base size off
  | .amoadd rd ra rb dbl scope g => encR 0x2D rd ra rb g (bitNat dbl * 16 + scope)
  | .amoand rd ra rb dbl scope g => encR 0x2E rd ra rb g (bitNat dbl * 16 + scope)
  | .amoor rd ra rb dbl scope g => encR 0x2F rd ra rb g (bitNat dbl * 16 + scope)
  | .amomax rd ra rb dbl scope g => encR 0x30 rd ra rb g (bitNat dbl * 16 + scope)
  | .amoswp rd ra rb dbl scope g => encR 0x31 rd ra rb g (bitNat dbl * 16 + scope)
  | .amocas rd ra rb dbl scope g => encR 0x32 rd ra rb g (bitNat dbl * 16 + scope)
  | .fence scope g => encR 0x33 0 0 0 g scope
  | .acq ra scope g => encR 0x34 0 ra 0 g scope
  | .rel ra scope g => encR 0x35 0 ra 0 g scope
  | .bind rd ra rb g => encR 0x36 rd ra rb g 0
  | .cset c width pos ra => 0x37 * 2 ^ 25 + c * 2 ^ 21 + width * 2 ^ 19 + pos * 2 ^ 15 + ra * 2 ^ 10
  | .cseti c width pos imm => 0x38 * 2 ^ 25 + c * 2 ^ 21 + width * 2 ^ 19 + pos * 2 ^ 15 + imm
  | .cclr first last => 0x39 * 2 ^ 25 + first * 2 ^ 21 + last
  | .push rd queue g => encR 0x3A rd 0 0 g queue
  | .rpush rd ra rb g => encR 0x3B rd ra rb g 0
  | .fpop rd source g => encR 0x3C rd 0 0 g source
  | .zpop rd z g => encR 0x3D rd z 0 g 0
  | .zpush z rb g => encR 0x3E z 0 rb g 0
  | .gjoin rd ra lockstep g => encR 0x3F rd ra 0 g (bitNat lockstep)
  | .gleave ra g => encR 0x40 0 ra 0 g 0
  | .barr rd ra g => encR 0x41 rd ra 0 g 0
  | .sig ra rb g => encR 0x42 0 ra rb g 0
  | .waits rd ra rb g => encR 0x43 rd ra rb g 0
  | .tmark rd mask => encI 0x44 rd 0 mask
  | .csrr rd csr => encI 0x45 rd 0 csr
  | .tkvx rd => encI 0x45 rd 0 0x291
  | .tkmx rd => encI 0x45 rd 0 0x292
  | .tsqPop rd => encI 0x45 rd 0 0x98D
  | .csrw ra csr => encI 0x46 0 ra csr
  | .tkpush ra => encI 0x46 0 ra 0x290
  | .tcmpWrite ra => encI 0x46 0 ra 0x80A
  | .tsdone ra => encI 0x46 0 ra 0x98E
  | .tinv ra => encI 0x46 0 ra 0x933
  | .cmclr ra => encI 0x46 0 ra 0x263
  | .wrctlWrite ra => encI 0x46 0 ra 0x977
  | .hctlWrite ra => encI 0x46 0 ra 0x981
  | .hrepWrite ra => encI 0x46 0 ra 0x985
  | .hwdtWrite ra => encI 0x46 0 ra 0x98B
  | .trap imm => encI 0x47 0 0 imm
  | .rfe => 0x48 * 2 ^ 25
  | .illegalInstruction w => w
  | .vaddF h d a b => encV3 0x01 h d a b
  | .vsubF h d a b => encV3 0x02 h d a b
  | .vmulF h d a b => encV3 0x03 h d a b
  | .vfmaF h d a b => encV3 0x04 h d a b
  | .vminF h d a b => encV3 0x05 h d a b
  | .vmaxF h d a b => encV3 0x06 h d a b
  | .vdivF h d a b => encV3 0x07 h d a b
  | .vsqrtF h d a => encV2 0x08 h d a
  | .vabsF h d a => encV2 0x09 h d a
  | .vnegF h d a => encV2 0x0A h d a
  | .vaddI h d a b => encV3 0x0B h d a b
  | .vsubI h d a b => encV3 0x0C h d a b
  | .vmulI h d a b => encV3 0x0D h d a b
  | .vmacI h d a b => encV3 0x0E h d a b
  | .vand h d a b => encV3 0x0F h d a b
  | .vor h d a b => encV3 0x10 h d a b
  | .vxor h d a b => encV3 0x11 h d a b
  | .vshl h d a b => encV3 0x12 h d a b
  | .vshr h d a b => encV3 0x13 h d a b
  | .vsra h d a b => encV3 0x14 h d a b
  | .vminI h d a b => encV3 0x15 h d a b
  | .vmaxI h d a b => encV3 0x16 h d a b
  | .vcmpF h pd rel a b => encV 0x17 h (encPd pd rel) (encodeVOp a) (encodeVOp b)
  | .vcmpI h pd rel a b => encV 0x18 h (encPd pd rel) (encodeVOp a) (encodeVOp b)
  | .vsel h d a b => encV3 0x19 h d a b
  | .vcvt h d a src => encV3 0x1A h d a (.imm src)
  | .vpack h d a src => encV3 0x1B h d a (.imm src)
  | .vunpk h d a src => encV3 0x1C h d a (.imm src)
  | .vcmul h d a b => encV3 0x1D h d a b
  | .vcfma h d a b => encV3 0x1E h d a b
  | .vtwid h d a b => encV3 0x1F h d a b
  | .vreds h sd a => encV2 0x20 h (.scalar sd) a
  | .vredm h sd a mode => encV3 0x21 h (.scalar sd) a (.imm mode)
  | .vperm h d a b => encV3 0x22 h d a b
  | .vbcst h d a b => encV3 0x23 h d a b
  | .vmovg h d a => encV2 0x24 h d a
  | .vclmp h d a b => encV3 0x25 h d a b
  | .vpopc h sd a => encV2 0x26 h (.scalar sd) a
  | .vtopk h d a b => encV3 0x27 h d a b
  | .vnms h pd a b => encV 0x28 h (encPd pd 0) (encodeVOp a) (encodeVOp b)
  | .vboxd h d a b => encV3 0x29 h d a b
  | .vdwc h d a b => encV3 0x2A h d a b
  | .vlut h d a b => encV3 0x2B h d a b
  | .vld h d a => encV2 0x2C h d a
  | .vst h d a => encV2 0x2D h d a
  | .vgath h d a b => encV3 0x2E h d a b
  | .vscat h d a b => encV3 0x2F h d a b
  | .vacld h d f => encV 0x30 h (encodeVOp d) (encodeAcc f) 0
  | .vacz h f => encV 0x31 h (encodeAcc f) 0 0
  | .vsadd h sd sa sb => encV3 0x32 h (.scalar sd) (.scalar sa) (.scalar sb)
  | .vsaddi h sd sa v => encV3 0x33 h (.scalar sd) (.scalar sa) (.imm v)
  | .vsmov h sd a => encV2 0x34 h (.scalar sd) a
  | .vloop s p q l rot drain c off =>
    encV 0x35 (flowVHdr s p q) (l * 2 ^ 17 + bitNat rot * 2 ^ 16 + drain) (encodeCount c) off
  | .vlbr s p q l => encV 0x36 (flowVHdr s p q) (l * 2 ^ 17) 0 0
  | .vbr s p q g all off => encV 0x37 { guard := g, slot := s, pop := p, push := q } (bitNat all * 2 ^ 17) 0 off
  | .vj s p q off => encV 0x38 (flowVHdr s p q) 0 0 off
  | .vtok h np nq => encV 0x39 h 0 (encodeVOp (.imm np)) (encodeVOp (.imm nq))
  | .vrdv s p q sd => encV 0x3A (flowVHdr s p q) sd 0 0
  | .vfmtSelect s p q l base => encV 0x3B (flowVHdr s p q) (loopCode l * 2 ^ 17 + base) 0 0
  | .vfmtLoad s p q row sn => encV 0x3B (flowVHdr s p q) (2 ^ 19 + row) (encodeVOp (.scalar sn)) 0
  | .vkac h a const => encV 0x3C h 0 (encodeVOp a) (encodeVOp (.imm const))
  | .vwait s p q c => encV 0x3D (flowVHdr s p q) 0 (encodeCount c) 0
  | .vsig s p q c => encV 0x3E (flowVHdr s p q) 0 (encodeCount c) 0
  | .vstop s p q => encV 0x3F (flowVHdr s p q) 0 0 0
  | .vnop h => encV 0x40 h 0 0 0
  | .illegalVectorWord w => w
  | .mma h t => encTile 0x01 h t false false
  | .mmaS h t => encTile 0x02 h t true false
  | .mmaG h t => encTile 0x03 h t false true
  | .mmaT h t => encTile 0x04 h t false false
  | .mwin h t => encTile 0x05 h t false false
  | .mconv h t => encTile 0x06 h t false false
  | .mzero h sc m n tile off => encMat 0x07 h + sc * 2 ^ 167 + (m - 1) * 2 ^ 151 + (n - 1) * 2 ^ 143 + tile * 2 ^ 130 + off * 2 ^ 112
  | .mldi h gen off count => encMat 0x08 h + (count - 1) * 2 ^ 151 + gen * 2 ^ 109 + unsigned 32 off * 2 ^ 76
  | .mloop h l count off => encMat 0x09 h + l * 2 ^ 54 + count * 2 ^ 32 + off
  | .mlbr h l => encMat 0x0A h + l * 2 ^ 54
  | .mbr h p neg off => encMat 0x0B h + p * 2 ^ 52 + bitNat neg * 2 ^ 51 + off
  | .mj h off => encMat 0x0C h + off
  | .mtok h => encMat 0x0D h
  | .mrdv h => encMat 0x0E h
  | .mstop h => encMat 0x0F h
  | .mfmt h l base => encMat 0x10 h + loopCode l * 2 ^ 54 + base * 2 ^ 50
  | .mkat h a b c m n k gen off const =>
    encMat 0x11 h + a * 2 ^ 173 + b * 2 ^ 170 + c * 2 ^ 167 + (m - 1) * 2 ^ 151 + (n - 1) * 2 ^ 143 + (k - 1) * 2 ^ 133 + gen * 2 ^ 109
      + unsigned 32 off * 2 ^ 76 + const * 2 ^ 24
  | .msig h mask => encMat 0x12 h + mask
  | .illegalMatrixWord w => w
  | .kCopy h o => encCmd 0x01 h o
  | .kGather h o => encCmd 0x02 h o
  | .kScatter h o => encCmd 0x03 h o
  | .kFill h o => encCmd 0x04 h o
  | .kFeed h o => encCmd 0x05 h o
  | .kJob h o => encCmd 0x06 h o
  | .kNest h o => encCmd 0x07 h o
  | .kOft h o => encCmd 0x08 h o
  | .kOmask h o => encCmd 0x09 h o
  | .kAllred h o => encCmd 0x0B h o
  | .kAllgath h o => encCmd 0x0C h o
  | .kRedscat h o => encCmd 0x0D h o
  | .kBcast h o => encCmd 0x0E h o
  | .kAlltoall h o => encCmd 0x0F h o
  | .kTopkm h o => encCmd 0x10 h o
  | .kMigr h o => encCmd 0x11 h o
  | .kDiscard h o => encCmd 0x12 h o
  | .kKernel h o => encCmd 0x13 h o
  | .kEvent h o => encCmd 0x14 h o
  | .kNop h o => encCmd 0x15 h o
  | .kPrefetch h o => encCmd 0x16 h o
  | .kOcalRun h o | .kOcalWrite h o | .kOcalRead h o => encCmd 0x0A h o
  | .contextWaitComplete .. => 0
  | .interruptTake .. => 0
  | .vectorLanding .. => 0
  | .streamEnd .. => 0
  | .matrixStepLastCycle .. => 0
  | .mldiLanding .. => 0
  | .armArrival .. => 0
  | .successorDecrement .. => 0
  | .ebbArrival .. => 0
  | .commandStart .. => 0
  | .commandRetire .. => 0
  | .commandFault .. => 0
  | .resultElementAppend .. => 0
  | .deferredTokenPush .. => 0
  | .preemptSaved .. => 0
  | .resumeSettled .. => 0
  | .streamStopTrap .. => 0
  | .lockstepRoundStart .. => 0
  | .kernelStart .. => 0
  | .iterationHandoff .. => 0
  | .kernelRetire .. => 0
  | .ofuFrameDone .. => 0
  | .ofuMaskSetDone .. => 0
  | .bootStageDone .. => 0
  | .loadReturn .. => 0
  | .storeBufferDrain .. => 0
  | .ringTimeout .. => 0
  | .timerInterrupt .. => 0
  | .elasticDataArrival .. => 0
  | .timerWheelRelease .. => 0
  | .qctlRetry .. => 0
  | .qctlCancel .. => 0
  | .pctlPreempt .. => 0
  | .pctlResume .. => 0
  | .interruptStreamStop .. => 0
  | .objectOperation .. => 0
  | .kqaddrWrite .. => 0
  | .pageWalk .. => 0
  | .uncorrectableError .. => 0
  | .scrubPass .. => 0
  | .heatEpoch => 0
  | .logRecordMove .. => 0
  | .phaseRerun .. => 0
  | .cntctlUnfence .. => 0
  | .breakpointCycle .. => 0
  | .debugStop .. => 0
  | .debugResume .. => 0
  | .rewind .. => 0
  | .stepback .. => 0
  | .freezeRelease .. => 0
  | .lctlEnable .. => 0
  | .lctlRetrain .. => 0
  | .lctlExclude .. => 0
  | .lctlClearSuspect .. => 0
  | .strandTrainingDone .. => 0
  | .flitReceive .. => 0
  | .flitRetryLimit .. => 0
  | .cxlPortTrained .. => 0
  | .farTierTimeout .. => 0
  | .hostMemAccess .. => 0
  | .collectiveMatch .. => 0
  | .chunkContribution .. => 0
  | .chunkAck .. => 0
  | .collectiveTimeout .. => 0
  | .causewayTimeout .. => 0
  | .ocfgEnable .. => 0
  | .ocfgDisable .. => 0
  | .octlRetry .. => 0
  | .octlCancel .. => 0
  | .ofuWarmupDone .. => 0
  | .ofuCalibrationDone .. => 0
  | .ofuValidityLapse .. => 0
  | .ofuTemperatureDrift .. => 0
  | .hpatReadTest .. => 0
  | .hpatWriteReadTest .. => 0
  | .hbmTestDone .. => 0
  | .hwdtExpire => 0
  | .doorbell .. => 0
  | .hostWindowAccess .. => 0
  | .hresetWarm => 0
  | .hresetPowerOn => 0
  | .powerOnReset => 0
  | .supplySag .. => 0
  | .undertowRecover .. => 0
  | .thermalStep .. => 0
  | .powerTrip => 0
  | .traceSample .. => 0

end Sys2Proof
end

