-- ==== Sys2Proof/Config.lean ====
section
/-! DEFINITION. What the spec leaves to each part or to chance, as constants without a body: nothing can be proved about their values. Each is named in notes/assumptions/. -/

namespace Sys2Proof.Config

/-- Byte `i` of the n-th built-in calibration, which no rule gives a value (20 R374). Log 8. -/
opaque calibrationByte : Nat → Nat → Byte

/-- Error of element `i` of the n-th optical frame that carries light, real and imaginary, in units of 2^-96 of the input's scale: analogue, bounded and never exact (20 R370). Log 9. -/
opaque opticalError : Nat → Nat → Int × Int

/-- The silicon revision in the host window's ID register (24 R414). Log 10. -/
opaque siliconRevision : Byte

/-- The address of the harbour core's boot ROM, which no rule gives (24 R410, R412). Log 23. -/
opaque bootRom : Word

/-- The event code of the wrack entry of a failed boot stage, which R407's list does not hold (24 R412). Log 23. -/
opaque bootFailEvent : BitVec 8

/-- The write or read delay of a lane of a pseudo-channel that boot's stored values and training leave it with (24 R412). Log 11. -/
opaque trainedDelay : Nat → Nat → Bool → BitVec 7

/-- The first and last read delay and the first and last write delay at which lane `l` of a pseudo-channel compares right: what the part and its wiring are (24 R420, 25 R424). Log 11. -/
opaque laneWindow : Nat → Nat → Nat × Nat × Nat × Nat

/-- Whether every 1 KiB block of the page in the n-th compression fits in 512 bytes (17 R332). Log 12. -/
opaque compressible : Nat → Bool

/-- The port on which the n-th transmission leaves, or the flit that comes n-th is forwarded; none where no flit leaves (19 R344, R355). Log 15. -/
opaque sentOn : Nat → Option Nat

/-- How many data flits the n-th transmission takes (19 R344). Log 15. -/
opaque sentFlits : Nat → Nat

/-- Frames of the type 3 expander on CXL port 1, 2 or 3 (19 R343). Log 66. -/
opaque farFrames : Nat → Nat

/-- Flits that the peer of a port can take when a link comes up for the n-th time, before it returns any credit (19 R344). Log 75. -/
opaque firstCredits : Nat → Nat

/-- The zeroed pool as firmware fills it in the n-th boot: ring offset in doublewords, low mark, frames (24 R412, R415). Log 81. -/
opaque bootPool : Nat → BitVec 18 × BitVec 12 × BitVec 12

/-- The i-th frame of the zeroed pool that the n-th boot fills (24 R412). Log 81. -/
opaque poolFrame : Nat → Nat → BitVec 28

/-- Lanes with which a CXL port trains in the n-th boot, none where it does not train (19 R342, 24 R412). Log 81. -/
opaque bootWidth : Nat → Nat → Option Nat

/-- How often a requester was held at a scratchpad bank, as the n-th reading of such a counter finds it (23 R402). Log 77. -/
opaque bankHeld : Nat → BitVec 32

/-- The DRAM row of a tier-0 location, as bits 59 to 28 of its row-retirement record: stack, channel, pseudo-channel, bank, row (17 R338). Log 70. -/
opaque rowOf : Nat → BitVec 32

/-- The 64-bit check of a Strand flit over its bytes 0 to 247, whose polynomial no rule gives (19 R344). Log 14. -/
opaque flitCheck : List Nat → Nat

end Sys2Proof.Config
end

