-- ==== Sys2Proof/Machine/State.lean ====
section
/-! DEFINITION. The state of the module as plain data: every register, queue, stream and unit that spec/ names, the reasons a step can stop, and the state after reset. Sparse tables list only what differs from a default, in ascending key order. -/

namespace Sys2Proof.Machine

/-- A sparse table: keys ascending, no entry equal to the table's default (see Machine/Table.lean). -/
abbrev Tbl (α : Type) := List (Nat × α)

/-- States of a control context (10 R233, R236). -/
inductive CtxSt where
  | idle | running | waiting | handler | frozen | saved
  deriving DecidableEq, Repr

/-- What an entry of a store buffer does when it leaves (05 R88): a store, the OR of a SIG, the entry of a ZPUSH that becomes visible, the
increment of a REL. -/
inductive SbKind where
  | store | signal | ring | release
  deriving DecidableEq, Repr

/-- One entry of a context's store buffer (05 R88). A store: location of the first byte, bytes written, value. A signal: with size 4 the object's
location and the bits, with size 0 the core whose event word takes them. A ring entry: the core in `loc`, the ring in `size`, its count. A
release: the location of the doubleword that grows by 1. -/
structure SbEntry where
  kind : SbKind
  loc : Nat
  size : Nat
  value : Word
  iret : Nat
  deriving DecidableEq, Repr

/-- The registers that a late load fault restores (10 R247): what the context held when the load issued. -/
structure LoadMark where
  x : Tbl Word
  p : Tbl Bool
  c : Tbl Word
  pc : Word
  sbuf : Nat
  iret : Nat
  counters : List Nat
  deriving DecidableEq, Repr

/-- An outstanding load (10 R247). -/
structure OutLoad where
  rd : Nat
  loc : Nat
  size : Nat
  addr : Word
  mark : LoadMark
  deriving DecidableEq, Repr

/-- States of an undo window (22 R385). -/
inductive WinSt where
  | opened | closed | reversible | sealed | dropped
  deriving DecidableEq, Repr

/-- An undo window (22 R381, R385) with its checkpoint's registers. `joint` is the model's own: the group and the number of the opening, where
one opening opened a window in every member (22 R392). -/
structure Window where
  num : Nat
  st : WinSt
  pushed : Bool
  opener : Nat
  x : Tbl Word
  p : Tbl Bool
  c : Tbl Word
  pc : Word
  counters : List Nat
  iret : Nat
  nextM : Nat
  nextV : Nat
  nextC : Nat
  joint : Option (Nat × Nat)
  deriving DecidableEq, Repr

/-- What supplied a value that a record holds, where another party's instruction had to come first (22 R394): the entry of a ring by its
count, the phase of a barrier, a command (its result, or what it wrote) by its result queue and number, a store, atomic, SIG or REL of a context
by its IRET. -/
inductive InputSrc where
  | other
  | ring (core z count : Nat)
  | barrier (loc phase : Nat)
  | result (core source seq : Nat)
  | write (core ctx iret : Nat)
  deriving DecidableEq, Repr

/-- An undo record (22 R383, R384). `at_` is its byte offset in the log region once it has moved there; `put`, `pc` and `src` are the model's own: the
place and the first word that memory holds of it, in the staging area or in the region (log 41), the
instruction that left a kind 6 record, and what supplied its value (log 22). -/
structure Rec where
  kind : Nat
  size : Nat
  loc : Nat
  window : Nat
  body : List Word
  at_ : Option Nat
  put : Option (Nat × Word)
  pc : Word
  src : InputSrc
  deriving DecidableEq, Repr

/-- A context's undo log and its CSRs (22 R381, R388). `replay` is the instruction count a STEPBACK replays to, `inputs` the recorded values still to be taken and `irqs` the counts at which recorded interrupts are taken, with whether each had stopped the streams of a job (R393). -/
structure UndoLog where
  /-- Window counter (22 R381). -/
  counter : Nat
  /-- Windows: number, state, first checkpoint, see Window (22 R381, R385, R395). -/
  windows : List Window
  /-- Undo records, staged and moved, see Rec (22 R384). -/
  recs : List Rec
  /-- IRET (22 R388). -/
  iret : Nat
  /-- LOGBASE (22 R388). -/
  base : Word
  /-- LOGLEN (22 R388). -/
  len : Word
  /-- LOGHEAD (22 R388). -/
  head : Word
  /-- LOGTAIL (22 R388). -/
  tail : Word
  /-- LOGCTL en (22 R388). -/
  en : Bool
  /-- LOGCTL stall (22 R388). -/
  stall : Bool
  /-- The IRET to which a replay runs (22 R393). -/
  replay : Option Nat
  /-- Recorded inputs that a replay takes (22 R386, R393). -/
  inputs : List Rec
  /-- Recorded interrupts that a replay takes: the count, and whether it was taken as a stream stop (22 R386, R393). -/
  irqs : List (Nat × Bool)
  /-- The member that a group's STEPBACK names, while another member replays (22 R394). -/
  lead : Option (Nat × Nat)
  /-- First words of checkpoints in the region whose windows have been dropped, at their offsets, still to be written (22 R385). -/
  dead : List (Nat × Word)
  deriving DecidableEq, Repr

/-- What a context waits for at an object's home unit (16 R314, R316). A notified waiter holds the event word the operation left. -/
inductive Waiter where
  | phase (obj n : Nat)
  | mask (obj mask : Nat)
  | notified (obj value : Nat)
  | flipped (obj n : Nat)
  deriving DecidableEq, Repr

/-- BPEND, the pending arrival of a BARR (16 R315). -/
structure Bpend where
  valid : Bool
  harbour : Bool
  obj : Nat
  phase : Nat
  deriving DecidableEq, Repr

/-- A flip that waits for a context to complete its BARR (16 R314): the barrier, the phase, and the lockstep group that it was tied to. -/
structure FlipMark where
  loc : Nat
  phase : Nat
  group : Option Nat
  deriving DecidableEq, Repr

/-- The iteration a context runs (14 R290): kernel queue, placement number of the record, iteration number. -/
structure IterRef where
  kq : Nat
  record : Nat
  i : Nat
  deriving DecidableEq, Repr

/-- A control context (05, 10). `block` holds the command block that a waiting RPUSH has read (05 R108). `dbg` is set while a debug stop holds the context (22 R392, R393). `lateLoads` is the model's own: the memory system answers this context's loads after they issue. -/
structure Ctx where
  /-- x0 to x31; x0 reads 0 (03 R52, 05 R88). -/
  x : Tbl Word
  /-- p0 to p15; p0 reads 1 (03 R52, 05 R88). -/
  p : Tbl Bool
  /-- c0 to c15, the command registers (03 R55, 05 R106). -/
  c : Tbl Word
  /-- Program counter (05 R94). -/
  pc : Word
  /-- CTXCTL state and frozen (10 R236). -/
  st : CtxSt
  /-- Privilege level, CTXCTL priv (10 R234). -/
  priv : Bool
  /-- CTXCTL ppriv (10 R236). -/
  ppriv : Bool
  /-- CTXCTL busy (10 R236). -/
  busy : Bool
  /-- CTXCTL sporen (10 R236). -/
  sporen : Bool
  /-- TVEC (10 R235). -/
  tvec : Word
  /-- TSTAT (10 R235). -/
  tstat : Word
  /-- TINFO (10 R235). -/
  tinfo : Word
  /-- IEN (10 R239). -/
  ien : Word
  /-- IPEND (10 R239). -/
  ipend : Word
  /-- TCMP (10 R235). -/
  tcmp : Word
  /-- SPOR (10 R238). -/
  spor : Word
  /-- Store buffer (05 R97, 09 R226). -/
  sbuf : List SbEntry
  /-- Outstanding loads (10 R247). -/
  loads : List OutLoad
  /-- Model's own: whether its plain loads return later (log 4). -/
  lateLoads : Bool
  /-- BPEND, the barrier signal that the context owes (16 R315). -/
  bpend : Bpend
  /-- The flip that this context's BARR still holds up (16 R314). -/
  flip : Option FlipMark
  /-- Model's own: how many writes to memory its fetches see, see `State.overwritten` (03 R50). -/
  codeSince : Nat
  /-- The writes that a FENCE has made visible to its fetches from the next taken jump on (03 R50). -/
  codeFenced : Option Nat
  /-- The block that a waiting RPUSH has read (05 R108). -/
  block : Option (List Word)
  /-- The object it waits at (16 R313, R316). -/
  waiter : Option Waiter
  /-- WPOBJ (16 R320). -/
  wpobj : Word
  /-- WPCTL (16 R320). -/
  wpctl : Word
  /-- WPCYC (16 R320). -/
  wpcyc : Word
  /-- BPADDR (23 R404). -/
  bpaddr : Word
  /-- GSEL (15 R309). -/
  gsel : Word
  /-- LSEL (19 R347). -/
  lsel : Word
  /-- OSEL (20 R360). -/
  osel : Word
  /-- CMSEL (23 R403). -/
  cmsel : Word
  /-- HSEL (24 R419). -/
  hsel : Word
  /-- PSEL (10 R249). -/
  psel : Word
  /-- Undo log, see UndoLog (22). -/
  log : UndoLog
  /-- The iteration it runs (14 R290). -/
  iter : Option IterRef
  /-- The watchpoint trap that a hit owes (16 R321). -/
  wpTrap : Bool
  /-- The state in which a pre-emption saved it (10 R248). -/
  savedSt : CtxSt
  /-- Held by the debug port (22 R392, 23 R404). -/
  dbg : Bool
  deriving DecidableEq, Repr

/-- States of a command (03 R67, 13 R276). -/
inductive CmdSt where
  | pushed | waiting | ready | running | retired | ebbed | faulted | saved
  deriving DecidableEq, Repr

/-- How far the work of a running command has come: the summary of its d15 and of each tile it will write (tensor, tile, bits), or the cause it fails with. -/
inductive Work where
  | pending
  | done (valid zero finite : Bool) (tiles : List (Nat × Nat × Nat))
  | failed (cause : Nat) (freeze : Bool)
  deriving DecidableEq, Repr

/-- One entry of a queue (13 R261 to R276). -/
structure Entry where
  /-- Sequence number (13 R263). -/
  seq : Nat
  /-- d0 to d15 (03 R67). -/
  image : List Word
  /-- State of the entry (13 R276). -/
  st : CmdSt
  /-- Current priority (13 R267, R269). -/
  prio : Nat
  /-- Times that it was passed by (13 R269). -/
  passes : Nat
  /-- Dependence counter (13 R265). -/
  dep : Nat
  /-- Current demand count (13 R267, R271). -/
  demand : Nat
  /-- Producer list (13 R265, R271). -/
  producers : List (QueueId × Nat)
  /-- Pushing core (13 R261). -/
  core : CoreId
  /-- Pushing context (13 R261). -/
  ctx : Nat
  /-- Iteration of the pushing context (14 R290). -/
  iter : Option IterRef
  /-- Privilege at the push (13 R261). -/
  priv : Bool
  /-- Generator snapshot of a K.JOB or K.NEST (08 R192, R208). -/
  snapshot : List Word
  /-- Shape records taken (13 R279, 17 R328). -/
  shapes : List (Nat × List Word)
  /-- Its token is held (13 R280). -/
  hasToken : Bool
  /-- Outcome of its work (13 R276). -/
  work : Work
  /-- How far its work has come (13 R279, 17 R337, 19 R354). -/
  progress : Nat
  /-- The checks of its start have passed (13 R279). -/
  begun : Bool
  /-- Reruns of a copy or phase (23 R398). -/
  reruns : Nat
  /-- Locations of the poisoned lines that the cancelled run of a phase met (23 R398). -/
  met : List Nat
  /-- Refetches that a phase's rerun still needs: the copy's sequence number and image, and its units written (23 R398). -/
  refetches : Option (List (Nat × List Word × Nat))
  /-- The phase has made an escape (23 R397). -/
  escaped : Bool
  /-- Members of a collective that have matched (19 R350, R351). -/
  members : List (Nat × Nat)
  /-- Whether every other module has matched (19 R351). -/
  peers : Bool
  /-- Contributions of other ranks to the chunks (19 R353, R354). -/
  chunks : List (Nat × Nat × List Nat)
  /-- Chunks acknowledged (19 R354). -/
  acked : Nat
  /-- Ranks of a collective, kept from its start: modules, ranks in all, first rank of this module (19 R349). -/
  ranks : Option (Nat × Nat × Nat)
  /-- TIME at which a collective's oldest open chunk last moved, or its link became suspect (19 R354, R356). -/
  since : Nat
  deriving DecidableEq, Repr

/-- An arm or a decrement that waits for its target's push (13 R265, R266). -/
structure Pend where
  arm : Bool
  seq : Nat
  fromQ : QueueId
  fromSeq : Nat
  deriving DecidableEq, Repr

/-- A command queue (13 R261, R262). `fired` lists the commands that left by their absorb rule (R266, R272); `pushers` the context (core, context) that pushed each command (22 R392). -/
structure Queue where
  /-- Entries, oldest first, see Entry (13 R261). -/
  entries : List Entry
  /-- Next sequence number (13 R262). -/
  next : Nat
  /-- Fault flag (13 R262, R277). -/
  fault : Bool
  /-- Stale flag (13 R262, 20 R363). -/
  stale : Bool
  /-- Frozen flag (13 R262, R277). -/
  frozen : Bool
  /-- Pending table of arms and decrements (13 R266). -/
  pending : List Pend
  /-- Sequence numbers whose successors were told (13 R271). -/
  fired : List Nat
  /-- Pushers of commands that have left, for their completion (13 R277). -/
  pushers : List (Nat × Nat × Nat)
  deriving DecidableEq, Repr

/-- Kinds of message between queues (13 R265, R266, R271). -/
inductive MsgKind where
  | arm | decrement | ebb
  deriving DecidableEq, Repr

/-- A message in flight between queues (13 R284). -/
structure Msg where
  kind : MsgKind
  target : QueueId
  seq : Nat
  fromQ : QueueId
  fromSeq : Nat
  deriving DecidableEq, Repr

/-- A ring z0 to z7 (05 R111, R112; 10 R237). `entries` hold the counts from `pops` on; `pushes` is the count the next ZPUSH writes; counts below `visible` may be popped (10 R247). -/
structure Ring where
  /-- RINGCFG timeout (10 R237). -/
  timeout : Nat
  /-- RINGCFG depth (10 R237). -/
  depth : Nat
  /-- RINGCFG prod (10 R237). -/
  prod : Nat
  /-- RINGCFG cons (10 R237). -/
  cons : Nat
  /-- Elements (05 R111). -/
  entries : List Word
  /-- Pops made (05 R112). -/
  pops : Nat
  /-- Pushes made (05 R112). -/
  pushes : Nat
  /-- Pushes that the consumer can see (05 R112, 09 R223). -/
  visible : Nat
  deriving DecidableEq, Repr

/-- A hardware loop (06 R123, 07 R163, 11 R252). -/
structure HwLoop where
  start : Nat
  stop : Nat
  remaining : Nat
  drain : Nat
  rot : Bool
  index : Nat
  deriving DecidableEq, Repr

/-- Where a vector result lands (12 R256). -/
inductive LandDest where
  | grid (dir : Dir) (index off : Nat)
  | scalar (n : Nat)
  | pred (n : Nat)
  | accum (tile : Nat)
  | fmtRow (row : Nat)
  | event
  | tokens
  deriving DecidableEq, Repr

/-- What a landing does: write values, write loaded values, or stop the stream (12 R256). -/
inductive LandKind where
  | result | load | stop (cause : Nat)
  deriving DecidableEq, Repr

/-- A result in flight of a vector stream (06 R124, 12 R256). `second` is the second row that a VTOPK writes (07 R177), which no record has room for (log 33); `active` are the active lanes at its word's issue and `lanes` those that it writes (log 33); `word` is the index of its word; `addrs` are the lane addresses of a load; `poison` that a lane met a poisoned line; `arrived` is false while a variable-latency result has not come (14 R294). -/
structure Landing where
  due : Nat
  kind : LandKind
  dest : LandDest
  lanes : Word
  active : Word
  word : Nat
  values : List Elem
  second : List Elem
  addrs : List Nat
  push : Nat
  flags : Nat
  poison : Bool
  arrived : Bool
  fence : Bool
  deriving DecidableEq, Repr

/-- Life of a stream (06, 08, 10 R244). -/
inductive StreamSt where
  | absent | running | stopped | ended
  deriving DecidableEq, Repr

/-- A vector stream (06 R123). `stopIssued` is set once a VSTOP has issued (07 R173). While the stream runs, `atStop` is a stop to take at its next stop point: 1 + cause, and 256 more where the pushing context is to trap; while it is stopped, a non-zero `atStop` is a stop that the pushing context has not yet taken (10 R244). -/
structure VStream where
  /-- Absent, running, stopped or ended (06 R123). -/
  st : StreamSt
  /-- VEND or a stop has issued; results still land (07 R173). -/
  stopIssued : Bool
  /-- Code address (06 R123). -/
  base : Nat
  /-- Stream pc (06 R123). -/
  pc : Nat
  /-- Schedule cycle (06 R124). -/
  cycle : Nat
  /-- Model's own: cycles of the core's clock that this stream's counter was frozen for while other streams counted (06 R125; log 7). -/
  lead : Nat
  /-- Clock held by late data (07 R153). -/
  frozen : Bool
  /-- The cause that the stop reports (10 R245). -/
  atStop : Nat
  /-- Grid of 64 x 64 elements (06 R123, 03 R60). -/
  grid : Tbl Elem
  /-- s0 to s31 (06 R123). -/
  s : Tbl Word
  /-- p0 to p15 (06 R123). -/
  p : Tbl Word
  /-- Loop L0, see HwLoop (07 R163). -/
  l0 : HwLoop
  /-- Loop L1 (07 R163). -/
  l1 : HwLoop
  /-- Rotating base (07 R167). -/
  rotBase : Nat
  /-- Format table 16 rows x 8 slots (02 R37). -/
  fmt : Tbl Elem
  /-- Row base of the format table (02 R39, 07 R174). -/
  fmtRow : Nat
  /-- Loop that steps the row (02 R39, 07 R174). -/
  fmtLoop : LoopSel
  /-- Results in flight, see Landing (06 R124, 12 R256). -/
  land : List Landing
  /-- Divider's last issue (06 R128). -/
  lastDiv : Option Nat
  /-- Rendezvous met (07 R171). -/
  rdv : Nat
  /-- Waits at a rendezvous (07 R171). -/
  atRdv : Bool
  /-- Cause of its stop (10 R244). -/
  cause : Nat
  /-- The word that raised the enabled flags of a stop with 0x12, and those flags (02 R26). -/
  raiser : Nat × Nat
  deriving DecidableEq, Repr

/-- What a matrix step writes at its last cycle (08 R196, R203): nothing, zeros, or for each element the rounded group sums to be added in order. -/
inductive StepWrites where
  | nothing
  | zeros (elems : List Nat)
  | sums (acc integer : Bool) (elems : List (Nat × List Elem))
  deriving DecidableEq, Repr

/-- A matrix word in flight (08 R186): its last cycle and what happens there; `word` is its index, `bad` the locations of the poisoned bytes that its issue met (23 R398). `event` holds the bits that an MSIG sets after it (08 R207). -/
structure MatStep where
  due : Nat
  tile : Nat
  writes : StepWrites
  slotC : Elem
  flags : Nat
  stop : Option Nat
  fence : Bool
  push : Nat
  event : Nat
  word : Nat
  bad : List Nat
  deriving DecidableEq, Repr

/-- An MLDI in flight (08 R200). -/
structure MldiFly where
  due : Nat
  values : List Elem
  addrs : List Nat
  poison : Bool
  arrived : Bool
  deriving DecidableEq, Repr

/-- A matrix stream (08 R183). `stopCycle` is the stop cycle of its frame: the last cycle of the step it stopped after, or the issue cycle of the word it stopped at (08 R186). -/
structure MStream where
  /-- Absent, running, stopped or ended (08 R183). -/
  st : StreamSt
  /-- MEND or a stop has issued (08 R205). -/
  stopIssued : Bool
  /-- Code address (08 R183). -/
  base : Nat
  /-- Stream pc (08 R183). -/
  pc : Nat
  /-- Schedule cycle (08 R186). -/
  cycle : Nat
  /-- Model's own: cycles of the core's clock that this stream's counter was frozen for while other streams counted (06 R125; log 7). -/
  lead : Nat
  /-- Clock held by late data (07 R153, 08 R187). -/
  frozen : Bool
  /-- Loop L0 (08 R206). -/
  l0 : HwLoop
  /-- Loop L1 (08 R206). -/
  l1 : HwLoop
  /-- p1 to p7, p12 to p15 (08 R185). -/
  preds : Nat
  /-- Gather latch of 512 indices and its count (08 R200). -/
  latch : List Elem
  /-- Format table (02 R37). -/
  fmt : Tbl Elem
  /-- Row base (02 R39, 08 R205). -/
  fmtRow : Nat
  /-- Loop that steps the row (02 R39, 08 R205). -/
  fmtLoop : LoopSel
  /-- Generator snapshot (08 R192). -/
  snapshot : List Word
  /-- Matrix word in flight, see MatStep (08 R186). -/
  step : Option MatStep
  /-- MLDI gathers in flight, see MldiFly (08 R200). -/
  mldi : List MldiFly
  /-- Rendezvous met (07 R171). -/
  rdv : Nat
  /-- Waits at a rendezvous (07 R171). -/
  atRdv : Bool
  /-- Cause of its stop (10 R244). -/
  cause : Nat
  /-- The cause that the stop reports (10 R245). -/
  atStop : Nat
  /-- Cycle at which it stopped (10 R246). -/
  stopCycle : Nat
  /-- The word that raised the enabled flags of a stop with 0x12, and those flags (02 R26). -/
  raiser : Nat × Nat
  deriving DecidableEq, Repr

/-- The job whose streams run (13 R281). -/
structure Job where
  /-- The command's sequence number in MQ or VQ (13 R281). -/
  seq : Nat
  /-- Pushing core (13 R281). -/
  core : CoreId
  /-- Pushing context (13 R281). -/
  ctx : Nat
  /-- Iteration (14 R290). -/
  iter : Option IterRef
  /-- Privilege (13 R281). -/
  priv : Bool
  /-- Deterministic job (13 R275, 07 R158). -/
  det : Bool
  /-- Slack register (07 R153, 14 R294). -/
  slack : Nat
  /-- Declared read sets (13 R274). -/
  reads : List LineSet
  /-- Declared write sets (13 R274). -/
  writes : List LineSet
  /-- Lockstep group (15 R304). -/
  group : Option Nat
  /-- Shape records taken (13 R281). -/
  shapes : List (Nat × List Word)
  /-- Stopped by the debug port (23 R404). -/
  debug : Bool
  /-- Model's own: memory as it stood when the streams started or resumed, which their words are read from (03 R50; log 74). -/
  code : List Host.Cell
  deriving DecidableEq, Repr

/-- A result element that waits for room (05 R109). -/
structure HeldResult where
  source : Nat
  elem : Word
  deriving DecidableEq, Repr

/-- PCTL and PSNAP of a core (10 R249). `streams` is the model's own: pre-emption stopped the job's streams, and its resume restarts them (R248). -/
structure Preempt where
  state : Nat
  refused : Bool
  psnap : Word
  streams : Bool
  deriving DecidableEq, Repr

/-- The accumulator store as it stood before the VACZ landings of a vector cycle, and the elements that they cleared: a step's last cycle in
the same cycle reads C before them and leaves their zeros (08 R211). -/
structure ZeroedAt where
  time : Nat
  acc : Tbl Elem
  poison : Tbl Bool
  keys : List Nat
  deriving DecidableEq, Repr

/-- A core: compute core or harbour core. `faultLog` lists the faulted commands of MQ, VQ and CQ (queue code, sequence) in the order in which they faulted (13 R277); `cmMerge` the cycle of the core's clock in which the running job took its last snapshot of the conflict matrix, and where the trace holds that snapshot's record (23 R403); vfstHeld and mfstHeld hold a status written while no stream runs (10 R235). -/
structure Core where
  /-- CYCLE (10 R235). -/
  cycle : Nat
  /-- Contexts A (0), X (1), S (2), see Ctx (05 R88, 10 R232). -/
  ctxs : Tbl Ctx
  /-- Event word (13 R262). -/
  evw : Elem
  /-- Queue MQ, see Queue (13 R261). -/
  mq : Queue
  /-- Queue VQ, see Queue (13 R261). -/
  vq : Queue
  /-- Queue CQ, see Queue (13 R261). -/
  cq : Queue
  /-- Result queues matrix, vector, copy, optical of 16 elements (05 R109). -/
  results : Tbl (List Word)
  /-- Result elements that await room (05 R109). -/
  held : List HeldResult
  /-- Rings z0 to z7, see Ring (05 R111, 10 R237). -/
  rings : Tbl Ring
  /-- Token queues cv vc cm mc vm mv gm xv vx xm mx ov (03 R58). -/
  tokens : Tbl Nat
  /-- Tokens of retired commands that await room (13 R280). -/
  deferred : Tbl Nat
  /-- Generators AGT AGO AGR AGC AGL0-5 AGW of ag0 to ag7, NCA, NCB, NTA, NTB (08 R188 to R191). -/
  gens : Tbl Word
  /-- Bind table of 32 entries: object, first line, lines (05 R103). -/
  bind : List (Nat × Nat × Nat)
  /-- Objects bound to all memory (05 R103). -/
  bindAll : List Nat
  /-- Faulted commands of MQ, VQ and CQ in the order in which they faulted (13 R277). -/
  faultLog : List (Nat × Nat)
  /-- VFST (02 R25). -/
  vfst : Elem
  /-- A VFST value written while no stream runs, for the next job (10 R235). -/
  vfstHeld : Option Elem
  /-- MFST (02 R25). -/
  mfst : Elem
  /-- The same for MFST (10 R235). -/
  mfstHeld : Option Elem
  /-- TDIR (17 R327). -/
  tdir : Word
  /-- The vector stream, see VStream (06 R123). -/
  vs : VStream
  /-- The matrix stream, see MStream (08 R183). -/
  ms : MStream
  /-- The running K.JOB, see Job (13 R281). -/
  job : Option Job
  /-- Accumulator tiles a0 to a7 of 131072 elements (08 R195, 09 R217). -/
  acc : Tbl Elem
  /-- Poison of each 64-byte group of an accumulator (23 R399). -/
  accPoison : Tbl Bool
  /-- Model's own: what the last VACZ landings cleared, see ZeroedAt (08 R211). -/
  zeroed : Option ZeroedAt
  /-- Fence of the core (23 R400). -/
  fenced : Bool
  /-- CNTST reruns (23 R401). -/
  reruns : Nat
  /-- CNTST corrected (23 R401). -/
  corrected : Nat
  /-- CNTCTL scrub (23 R401). -/
  scrub : Nat
  /-- CNTCTL max (23 R401). -/
  maxRerun : Nat
  /-- CNTCTL rerun enable (23 R401). -/
  rerunEn : Bool
  /-- Refetch table of 16 retired copies (23 R398). -/
  refetch : List (Nat × List Word)
  /-- Conflict matrix 16 x 65 (23 R402). -/
  cm : Tbl Nat
  /-- Its snapshot (23 R403). -/
  cmSnapVals : Tbl Nat
  /-- CMSNAP (23 R403). -/
  cmSnap : Word
  /-- The clock cycle of the running job's last snapshot and the place of its trace record (23 R403, R405). -/
  cmMerge : Option (Nat × Option Nat)
  /-- BPCYC (23 R404). -/
  bpcyc : Word
  /-- TRCTL (23 R405). -/
  trctl : Word
  /-- TRBASE (23 R405). -/
  trbase : Word
  /-- TRLEN (23 R405). -/
  trlen : Word
  /-- TRHEAD (23 R405). -/
  trhead : Word
  /-- Trace records dropped since the last drop record (23 R406). -/
  trdrops : Nat
  /-- PCTL state and refused, PSNAP, see Preempt (10 R249). -/
  preempt : Preempt
  deriving DecidableEq, Repr

/-- Kinds of group (15 R299). -/
inductive GroupKind where
  | empty | opened | lockstep
  deriving DecidableEq, Repr

/-- A group (15 R298, R310). Members are (index, core, context); `flip` holds while a flip of its barrier is in progress, `stall` lists the cores that hold the stall wire and the cycle of the clock in which each raised it, `barriers` the tied barriers at which an arrival was counted (R306). -/
structure Group where
  /-- Empty, open or lockstep (15 R298, R299). -/
  kind : GroupKind
  /-- Recorded die (15 R298, R309). -/
  die : Nat
  /-- Members by index: index, core, context (15 R298, R300). -/
  members : List (Nat × Nat × Nat)
  /-- Flip in progress (15 R309, R310). -/
  flip : Bool
  /-- Holders of the stall wire, and the clock's cycle in which each raised it (14 R295, 15 R309). -/
  stall : List (Nat × Nat)
  /-- Barriers of the group (15 R306). -/
  barriers : List Nat
  deriving DecidableEq, Repr

/-- States of a kernel (14 R296). -/
inductive KernelSt where
  | armed | running | retired | faulted | preempted
  deriving DecidableEq, Repr

/-- A kernel record held by a kernel queue (14 R286, R296). `owner` is the context that placed it (none: the host), `priv` the level it placed it at, `placer` the K.KERNEL that waits for its end; `live` lists (core, iteration) under way, `ran` that it has been running. -/
structure Kernel where
  /-- Which record it is (14 R288). -/
  id : Nat
  /-- The 256-byte record (14 R286). -/
  record : List Word
  /-- The K.KERNEL that placed it (14 R293). -/
  placer : Option (QueueId × Nat)
  /-- Pushing core and context (14 R293). -/
  owner : Option (Nat × Nat)
  /-- Privilege of the placer (14 R287). -/
  priv : Bool
  /-- It has started (14 R296). -/
  ran : Bool
  /-- Armed, running, retired, faulted or pre-empted (14 R296). -/
  st : KernelSt
  /-- Cause of its fault (14 R297). -/
  cause : Nat
  /-- Iterations handed out (14 R289). -/
  handed : Nat
  /-- Iterations ended (14 R290). -/
  ended : Nat
  /-- Next iteration of each core of a deterministic kernel (14 R289). -/
  nextOf : Tbl Nat
  /-- Iterations that run: core and iteration (14 R290). -/
  live : List (Nat × Nat)
  deriving DecidableEq, Repr

/-- States of a Strand port (19 R346). -/
inductive PortSt where
  | down | training | up | degraded | suspect | excluded
  deriving DecidableEq, Repr

/-- A Strand port (19 R345 to R347). -/
structure Strand where
  /-- Down, training, up, degraded, suspect or excluded (19 R346). -/
  st : PortSt
  /-- Lanes in use (19 R344, R346). -/
  lanes : Nat
  /-- Peer node (19 R346, R347). -/
  peer : Nat
  /-- Replay count (19 R347). -/
  replays : Nat
  /-- Training attempts (19 R346). -/
  attempts : Nat
  /-- Next sequence expected (19 R344). -/
  rxSeq : Nat
  /-- Next sequence to send (19 R344). -/
  txSeq : Nat
  /-- Flits that await acknowledgement: sequence, channel, times sent (19 R345). -/
  window : List (Nat × Nat × Nat)
  /-- Channels of the data flits that a full window holds back (19 R345). -/
  waiting : List Nat
  /-- Payloads delivered (19 R344). -/
  delivered : List (List Nat)
  /-- Receive-buffer credits of the peer that are left (19 R344). -/
  credits : Nat
  deriving DecidableEq, Repr

/-- States of an optical unit (20 R359). -/
inductive OfuSt where
  | dark | warming | calibrating | ready | stale | faulted
  deriving DecidableEq, Repr

/-- An optical Fourier unit (20 R359 to R374). `banks` holds (bank·65,536 + bin) to 12-bit code; `cal` is the number of the free calibration in force or the installed block's words. -/
structure Ofu where
  /-- Dark, warming, calibrating, ready, stale or faulted (20 R359). -/
  st : OfuSt
  /-- Epoch (20 R360). -/
  epoch : Nat
  /-- What remains of the validity (20 R362). -/
  valid : Nat
  /-- OCFG validity (20 R361). -/
  validity : Nat
  /-- OCFG auto (20 R361). -/
  auto : Bool
  /-- OCFG enable (20 R361). -/
  enable : Bool
  /-- OQ, see Queue (13 R261). -/
  queue : Queue
  /-- Mask banks 0 to 63 of 65536 bins (20 R373). -/
  banks : Tbl Nat
  /-- Number of the built-in calibration in force (20 R374). -/
  calFree : Option Nat
  /-- Calibration block that K.OCAL wrote (20 R374). -/
  calBlock : Tbl Byte
  /-- The block that a K.OCAL has read and that its retirement installs (20 R359). -/
  calNext : Option (Tbl Byte)
  /-- Disable awaits the running command (20 R359, R361). -/
  darkPending : Bool
  /-- Input frame whose light is under way (20 R365, R367). -/
  frameBuf : Option (Nat × List Elem)
  /-- The next frame and its input, or the fault of its read, read while the light of the frame before is under way (20 R367). -/
  frameNext : Option (Nat × (List Elem ⊕ (Nat × Bool)))
  /-- Mask whose write is under way (20 R373). -/
  maskBuf : Option (Nat × List Nat)
  deriving DecidableEq, Repr

/-- The delays at which a lane of a pseudo-channel compares right: first and last read delay, first and last write delay (25 R424). -/
structure LaneWindow where
  rdLo : Nat
  rdHi : Nat
  wrLo : Nat
  wrHi : Nat
  deriving DecidableEq, Repr

/-- A pseudo-channel's training registers (24 R419). A lane delay that is not listed is 64, or once boot has trained the channel the part's own. -/
structure Hbm where
  /-- HCTL mode (24 R419). -/
  mode : Nat
  /-- Boot has trained the channel (24 R412). -/
  trained : Bool
  /-- HDLY write delay of each of 34 lanes (24 R419). -/
  wr : Tbl Nat
  /-- HDLY read delay of each lane (24 R419). -/
  rd : Tbl Nat
  /-- HPAT seed (24 R419). -/
  pattern : Nat
  /-- HPAT bursts (24 R419). -/
  bursts : Nat
  /-- HPAT kind (24 R419). -/
  kind : Nat
  /-- HCMP valid (24 R419). -/
  valid : Bool
  /-- HCMP bad (24 R419). -/
  bad : Bool
  /-- HCMP failing lanes (24 R419). -/
  fail : Nat
  /-- HREP (24 R419, R421). -/
  rep : Nat
  /-- The op of the test under way, 0 for none (24 R419, R420). -/
  test : Nat
  /-- Windows of the lanes that are given; the part's own elsewhere (25 R424). -/
  windows : Tbl (Option LaneWindow)
  deriving DecidableEq, Repr

/-- A die's undertow state (24 R417, R418). -/
structure Undertow where
  /-- Step of the die (24 R417). -/
  k : Nat
  /-- Greatest step since UTST was read (24 R418). -/
  kmax : Nat
  /-- Events counted (24 R418). -/
  events : Nat
  deriving DecidableEq, Repr

/-- An access that waits on a tile entry (17 R329): the context, queue or stream that made it. -/
inductive TileWaiter where
  | command (q : QueueId) (seq : Nat)
  | stream (core : Nat)
  deriving DecidableEq, Repr

/-- The harbour core's and the device's management registers (24). `hwdtDue` is the TIME at which the watchdog expires; `hostRead` and `hostPoison` are
what the host's last read returned. -/
structure Mgmt where
  /-- BSTAT stage (24 R412, R414). -/
  stage : Nat
  /-- Thermal trip (24 R417). -/
  tripped : Bool
  /-- Boot halted by a failed stage (24 R412). -/
  halted : Bool
  /-- BSTAT dropped mask (24 R412, R414). -/
  dropped : Nat
  /-- HWDT period (24 R410). -/
  hwdt : Nat
  /-- TIME at which the watchdog expires (24 R410). -/
  hwdtDue : Nat
  /-- HIRQ enable (24 R411). -/
  hirqEnable : Nat
  /-- HIRQ pending (24 R411). -/
  hirqPending : Nat
  /-- Tile service queue: core and entry (24 R411). -/
  tsq : List (Nat × Nat)
  /-- Requests popped and not answered (24 R411). -/
  tsAnswering : List Nat
  /-- Accesses that wait for an answer (17 R329, 24 R411). -/
  tsWaiters : List (Nat × TileWaiter)
  /-- ZPBASE (24 R415). -/
  zpbase : Nat
  /-- ZPLEN low (24 R415). -/
  zplow : Nat
  /-- ZPLEN length (24 R415). -/
  zplen : Nat
  /-- ZPHEAD (24 R415). -/
  zphead : Nat
  /-- ZPTAIL (24 R415). -/
  zptail : Nat
  /-- RRCTL window (17 R338, 24 R415). -/
  rrWindow : Nat
  /-- RRCTL threshold (17 R338, 24 R415). -/
  rrThreshold : Nat
  /-- PWRCTL floors (24 R418). -/
  pwrctl : Nat
  /-- Stacks whose refresh is doubled by heat (24 R417). -/
  refreshDouble : List Nat
  /-- Interrupts raised to the host (24 R414). -/
  hostIrq : Nat
  /-- Host function frozen (10 R250). -/
  hostFrozen : Bool
  /-- What the host's last read returned (09 R230, 24 R414). -/
  hostRead : Nat
  /-- Whether that read was of poison (09 R230). -/
  hostPoison : Bool
  /-- Row-retirement list in flash (17 R338, 24 R412). -/
  flash : List Word
  /-- Corrected DRAM errors: row and TIME (17 R338, 24 R415). -/
  rowErrors : List (Nat × Nat)
  /-- Host writes held for the zeroed pool: location, size, value (17 R332). -/
  hostHeld : List (Nat × Nat × Nat)
  deriving DecidableEq, Repr

/-- The wrack record (23 R407, R408). Entries are the four doublewords of each. -/
structure Wrack where
  /-- Entries 0 to 4095 (23 R407). -/
  entries : Tbl (List Word)
  /-- WRCTL head (23 R408). -/
  head : Nat
  /-- WRCTL hold (23 R408). -/
  hold : Bool
  /-- WRCTL lost (23 R408). -/
  lost : Nat
  /-- WRSEL (23 R408). -/
  sel : Nat
  deriving DecidableEq, Repr

/-- Which party moves next. The model's own data: the spec leaves the interleaving of parties open (09). -/
inductive Turn where
  | ctx (core ctx : Nat)
  | vec (core : Nat)
  | mat (core : Nat)
  | cmd (q : QueueId) (seq : Nat)
  | ev (i : Instr)
  deriving DecidableEq, Repr

/-- A translation that a cache holds (17 R326): a context's page of a core, by its page number, or a tile entry of a core's memory ports, by
its byte address; with the location of the entry and the entry as it was when the walk filled it. -/
structure Cached where
  tile : Bool
  core : Nat
  key : Nat
  loc : Nat
  entry : Nat
  large : Bool
  deriving DecidableEq, Repr

/-- A write of `size` bytes at a location by a context, stream, command or host, with the bytes that it overwrote, which a fetch may still see
(03 R50), and with what wrote it (22 R394). -/
structure Overwrite where
  loc : Nat
  size : Nat
  old : Nat
  src : InputSrc
  deriving DecidableEq, Repr

/-- The party an instruction acts for: its core, its context, and the running command when a command acts. -/
structure Focus where
  core : CoreId
  ctx : Nat
  queue : QueueId
  seq : Nat
  deriving DecidableEq, Repr

/-- The machine's state. `halves` holds which halves of a tier-0 frame hold a compressed page (17 R332), `moves` the state from which the entry at a
location is migrating (17 R334). `agenda`, `turns` and `fresh` are the model's own: which parties move next, how many default turns were taken, and the number of the next free value (notes/assumptions/1.md, 5.md). -/
structure State where
  /-- Memory bytes: 2048 slices of 4 MiB, harbour SRAM of 4 MiB, frames of tiers 0 to 2 (09 R214, 24 R409, 17 R323). -/
  mem : List Host.Cell
  /-- Model's own: the writes to memory, newest first, with what they overwrote (03 R50; log 59). -/
  overwritten : List Overwrite
  /-- Poison flag of each 64-byte line (17 R335, 23 R399). -/
  poison : Tbl Bool
  /-- Halves of a tier-0 frame that hold a compressed page (17 R332). -/
  halves : Tbl Nat
  /-- The state from which a migrating entry came (17 R334). -/
  moves : Tbl Nat
  /-- Translations that caches hold, see Cached (17 R326). -/
  tlb : List Cached
  /-- TIME (10 R235). -/
  time : Nat
  /-- Compute cores 0 to 2047 and the harbour core, see Core (01 R9, 24 R409). -/
  cores : Tbl Core
  /-- Groups 0 to 4095, see Group (15 R298). -/
  groups : Tbl Group
  /-- Kernel queues KQ0 to KQ15 of up to 16 records, see Kernel (14 R288). -/
  kqs : Tbl (List Kernel)
  /-- Number of kernel records placed, which names the next one (14 R288). -/
  kernelIds : Nat
  /-- Model's own: openings that opened a window in every member of a group, which names the next one (22 R392). -/
  openings : Nat
  /-- Strand ports 0 to 17, see Strand (19 R344, R346). -/
  strands : Tbl Strand
  /-- NODE (19 R347). -/
  node : Nat
  /-- CTIME (19 R347). -/
  ctime : Nat
  /-- CXL ports 0 to 3: trained width (19 R342). -/
  cxl : Tbl Nat
  /-- Optical units 0 to 15, see Ofu (20 R359, R360). -/
  ofus : Tbl Ofu
  /-- Link queues LQ0 to LQ7, see Queue (13 R261). -/
  lqs : Tbl Queue
  /-- Arms, decrements and ebb messages under way between queues (13 R265, R266, R271, R284). -/
  msgs : List Msg
  /-- PTBR (17 R327). -/
  ptbr : Elem
  /-- HEPOCH (17 R327). -/
  hepoch : Elem
  /-- HBM4E pseudo-channels 12 x 32 x 2, see Hbm (24 R419). -/
  hbm : Tbl Hbm
  /-- Undertow of each die, see Undertow (24 R417, R418). -/
  undertow : Tbl Undertow
  /-- Management registers, see Mgmt (24 R410 to R418). -/
  mgmt : Mgmt
  /-- The wrack record, see Wrack (23 R407, R408). -/
  wrack : Wrack
  /-- Model's own: the party that the present instruction acts for (log 1). -/
  focus : Focus
  /-- Model's own: the turns to come (log 1). -/
  agenda : List Turn
  /-- Model's own: default turns taken (log 1). -/
  turns : Nat
  /-- Model's own: number of the next free value (log 5). -/
  fresh : Nat
  deriving DecidableEq, Repr

/-- Why the machine stops. Every trap, stop and command fault of the spec is a next state; these are the model's own. -/
inductive Fault where
  /-- Raised by `step` when the agenda gives a turn to a core, context or unit that the module does not have (01 R9). Safe: no hardware party corresponds to it. -/
  | noSuchParty
  deriving DecidableEq, Repr

/-- Why an instruction gets no meaning. -/
inductive Refusal where
  /-- Raised by an arm of `exec` whose instruction is not modelled. Safe: nothing is claimed of it. -/
  | notModelled (mnemonic : String)
  deriving DecidableEq, Repr

/-- An empty queue (13 R261). -/
def Queue.reset : Queue :=
  { entries := [], next := 0, fault := false, stale := false, frozen := false, pending := [], fired := [], pushers := [] }

/-- The undo log after reset (22 R381, R388). -/
def UndoLog.reset : UndoLog :=
  { counter := 0, windows := [], recs := [], iret := 0, base := 0, len := 0, head := 0, tail := 0, en := false,
    stall := false, replay := none, inputs := [], irqs := [], lead := none, dead := [] }

/-- BPEND after reset (16 R315). -/
def Bpend.reset : Bpend := { valid := false, harbour := false, obj := 0, phase := 0 }

/-- A context after reset: idle (24 R412), unprivileged (10 R234), every other register at 0 (notes/assumptions/2.md). -/
def Ctx.reset : Ctx :=
  { x := [], p := [], c := [], pc := 0, st := .idle, priv := false, ppriv := false, busy := false, sporen := false,
    tvec := 0, tstat := 0, tinfo := 0, ien := 0, ipend := 0, tcmp := 0, spor := 0, sbuf := [], loads := [],
    lateLoads := false, bpend := Bpend.reset, flip := none, codeSince := 0, codeFenced := none, block := none, waiter := none, wpobj := 0, wpctl := 0, wpcyc := 0, bpaddr := 0, gsel := 0,
    lsel := 0, osel := 0, cmsel := 0, hsel := 0, psel := 0, log := UndoLog.reset, iter := none,
    wpTrap := false, savedSt := .idle, dbg := false }

/-- A loop that was never started (06 R123). -/
def HwLoop.reset : HwLoop := { start := 0, stop := 0, remaining := 0, drain := 0, rot := false, index := 0 }

/-- A vector stream's state at job start (06 R123), absent until a job starts it. -/
def VStream.reset : VStream :=
  { st := .absent, stopIssued := false, base := 0, pc := 0, cycle := 0, lead := 0, frozen := false, atStop := 0, grid := [], s := [], p := [],
    l0 := HwLoop.reset, l1 := HwLoop.reset, rotBase := 0, fmt := [], fmtRow := 0, fmtLoop := .none, land := [],
    lastDiv := none, rdv := 0, atRdv := false, cause := 0, raiser := (0, 0) }

/-- A matrix stream's state at job start (08 R183), absent until a job starts it. -/
def MStream.reset : MStream :=
  { st := .absent, stopIssued := false, base := 0, pc := 0, cycle := 0, lead := 0, frozen := false, l0 := HwLoop.reset, l1 := HwLoop.reset, preds := 0,
    latch := [], fmt := [], fmtRow := 0, fmtLoop := .none, snapshot := [], step := none, mldi := [], rdv := 0,
    atRdv := false, cause := 0, atStop := 0, stopCycle := 0, raiser := (0, 0) }

/-- A core after boot stage 3 (24 R412) with the register reset values of 10 R235, 23 R401. -/
def Core.reset : Core :=
  { cycle := 0, ctxs := [], evw := 0, mq := Queue.reset, vq := Queue.reset, cq := Queue.reset, results := [], held := [],
    rings := [], tokens := [], deferred := [], gens := [], bind := [], bindAll := [], faultLog := [], vfst := 0, vfstHeld := none,
    mfst := 0, mfstHeld := none, tdir := 0, vs := VStream.reset, ms := MStream.reset, job := none, acc := [],
    accPoison := [], zeroed := none, fenced := false, reruns := 0, corrected := 0, scrub := 1000, maxRerun := 2, rerunEn := false,
    refetch := [], cm := [], cmSnapVals := [], cmSnap := 0, cmMerge := none, bpcyc := 0, trctl := 0, trbase := 0, trlen := 0, trhead := 0,
    trdrops := 0, preempt := { state := 0, refused := false, psnap := 0, streams := false } }

/-- An empty group (15 R298). -/
def Group.reset : Group := { kind := .empty, die := 0, members := [], flip := false, stall := [], barriers := [] }

/-- A Strand port after reset: down (24 R412 stage 4). -/
def Strand.reset : Strand :=
  { st := .down, lanes := 0, peer := 0, replays := 0, attempts := 0, rxSeq := 0, txSeq := 0, window := [],
    waiting := [], delivered := [], credits := 0 }

/-- An optical unit after reset: dark, validity period 50 ms (20 R361). -/
def Ofu.reset : Ofu :=
  { st := .dark, epoch := 0, valid := 0, validity := 50, auto := false, enable := false, queue := Queue.reset, banks := [],
    calFree := none, calBlock := [], calNext := none, darkPending := false, frameBuf := none, frameNext := none, maskBuf := none }

/-- A pseudo-channel after reset (24 R419). -/
def Hbm.reset : Hbm :=
  { mode := 0, trained := false, wr := [], rd := [], pattern := 0, bursts := 0, kind := 0, valid := false, bad := false, fail := 0, rep := 0,
    test := 0, windows := [] }

/-- Undertow after reset (notes/assumptions/2.md). -/
def Undertow.reset : Undertow := { k := 0, kmax := 0, events := 0 }

/-- The management registers after reset (24 R410 to R418). -/
def Mgmt.reset : Mgmt :=
  { stage := 0, tripped := false, halted := false, dropped := 0, hwdt := 1000, hwdtDue := 1000000000, hirqEnable := 0,
    hirqPending := 0, tsq := [], tsAnswering := [], tsWaiters := [], zpbase := 0, zplow := 0, zplen := 0, zphead := 0,
    zptail := 0, rrWindow := 1440, rrThreshold := 16, pwrctl := 0, refreshDouble := [], hostIrq := 0, hostFrozen := false, hostRead := 0, hostPoison := false,
    flash := [], rowErrors := [], hostHeld := [] }

/-- The wrack record after a power-on reset (23 R408). -/
def Wrack.reset : Wrack := { entries := [], head := 0, hold := false, lost := 0, sel := 0 }

/-- The machine right after a power-on reset (24 R412): no boot stage completed, every queue, ring and context idle. (DESIGN CHOICE, unsafe: notes/assumptions/2.md) -/
def State.reset : State :=
  { mem := [], overwritten := [], poison := [], halves := [], moves := [], tlb := [], time := 0, cores := [], groups := [], kqs := [], kernelIds := 0, openings := 0, strands := [], node := 0,
    ctime := 200, cxl := [], ofus := [], lqs := [], msgs := [], ptbr := 0, hepoch := 0, hbm := [], undertow := [],
    mgmt := Mgmt.reset, wrack := Wrack.reset, focus := { core := 0, ctx := 0, queue := .cq 0, seq := 0 }, agenda := [],
    turns := 0, fresh := 0 }

end Sys2Proof.Machine
end

