-- ==== Sys2Proof/Machine/Table.lean ====
section
/-! DEFINITION. Reading and writing sparse tables: a key that no entry lists reads as the table's default, and writing the default removes the entry, so that equal tables are equal data. -/

namespace Sys2Proof.Machine

/-- The value at a key. -/
def Tbl.get {α : Type} (d : α) : Tbl α → Nat → α
  | [], _ => d
  | (k', v) :: t, k => if k' = k then v else Tbl.get d t k

/-- The table without a key. -/
def Tbl.erase {α : Type} : Tbl α → Nat → Tbl α
  | [], _ => []
  | (k', v) :: t, k => if k' = k then Tbl.erase t k else (k', v) :: Tbl.erase t k

/-- Puts an entry before the first larger key. -/
def Tbl.insert {α : Type} (t : Tbl α) (k : Nat) (v : α) : Tbl α :=
  match t with
  | [] => [(k, v)]
  | (k', v') :: t' => if k < k' then (k, v) :: (k', v') :: t' else (k', v') :: Tbl.insert t' k v

/-- Writes a key, keeping the canonical form. -/
def Tbl.set {α : Type} [DecidableEq α] (d : α) (t : Tbl α) (k : Nat) (v : α) : Tbl α :=
  if v = d then Tbl.erase t k else Tbl.insert (Tbl.erase t k) k v

/-- Clears the keys lo to lo + n - 1 to the default. -/
def Tbl.clear {α : Type} (t : Tbl α) (lo n : Nat) : Tbl α :=
  t.filter fun e => decide (e.1 < lo ∨ lo + n ≤ e.1)

/-- The canonical form: keys strictly rising and no entry equal to the default. -/
def Tbl.wf {α : Type} [DecidableEq α] (d : α) (t : Tbl α) : Bool :=
  decide (t.Pairwise fun a b => a.1 < b.1) && t.all fun e => decide (e.2 ≠ d)

end Sys2Proof.Machine
end

