-- ==== Sys2Proof/Machine/Base.lean ====
section
/-! DEFINITION. Access to the parts of the state: cores, contexts, registers, memory, and the wrack record. Every later meaning goes through these. -/

namespace Sys2Proof.Machine

/-- The harbour core's number in the model (24 R409); compute cores are 0 to 2047 (01 R10). -/
def harbourId : Nat := 2048

/-- Bits hi down to lo of a natural number (00 R3). -/
def bitsOf (w hi lo : Nat) : Nat := w / 2 ^ lo % 2 ^ (hi + 1 - lo)

/-- Bit i of a natural number. -/
def bitOf (w i : Nat) : Bool := w / 2 ^ i % 2 == 1

/-- A bit as a number. -/
def b2n (b : Bool) : Nat := if b then 1 else 0

/-- The w-bit field v read as two's complement. -/
def sextNat (w v : Nat) : Int := if v % 2 ^ w < 2 ^ (w - 1) then (v % 2 ^ w : Nat) else (v % 2 ^ w : Nat) - (2 ^ w : Nat)

/-- sext(v, 64) of a w-bit field (00 R7). -/
def sextWord (w v : Nat) : Word := BitVec.ofInt 64 (sextNat w v)

/-- Puts an n-bit field into a number at bit lo. -/
def putBits (w lo n v : Nat) : Nat := w - (w / 2 ^ lo % 2 ^ n) * 2 ^ lo + v % 2 ^ n * 2 ^ lo

/-- The core with an identifier. -/
def State.core (s : State) (c : Nat) : Core := Tbl.get Core.reset s.cores c

/-- Replaces a core. -/
def State.setCore (s : State) (c : Nat) (k : Core) : State := { s with cores := Tbl.set Core.reset s.cores c k }

/-- Changes a core. -/
def State.modCore (s : State) (c : Nat) (f : Core → Core) : State := s.setCore c (f (s.core c))

/-- A context of a core. -/
def Core.ctx (k : Core) (n : Nat) : Ctx := Tbl.get Ctx.reset k.ctxs n

/-- Replaces a context of a core. -/
def Core.setCtx (k : Core) (n : Nat) (c : Ctx) : Core := { k with ctxs := Tbl.set Ctx.reset k.ctxs n c }

/-- A context of the module. -/
def State.ctx (s : State) (c n : Nat) : Ctx := (s.core c).ctx n

/-- Replaces a context of the module. -/
def State.setCtx (s : State) (c n : Nat) (x : Ctx) : State := s.setCore c ((s.core c).setCtx n x)

/-- Changes a context of the module. -/
def State.modCtx (s : State) (c n : Nat) (f : Ctx → Ctx) : State := s.setCtx c n (f (s.ctx c n))

/-- The context that acts. -/
def State.cur (s : State) : Ctx := s.ctx s.focus.core s.focus.ctx

/-- The core that acts. -/
def State.here (s : State) : Core := s.core s.focus.core

/-- Changes the acting context. -/
def State.modCur (s : State) (f : Ctx → Ctx) : State := s.modCtx s.focus.core s.focus.ctx f

/-- Changes the acting core. -/
def State.modHere (s : State) (f : Core → Core) : State := s.modCore s.focus.core f

/-- Whether a context runs privileged; the harbour core's always do (10 R234, 24 R409). -/
def State.privileged (s : State) (c n : Nat) : Bool := c == harbourId || (s.ctx c n).priv

/-- Register x[n]; x0 reads zero (03 R52). -/
def Ctx.getX (c : Ctx) (n : Nat) : Word := if n = 0 then 0 else Tbl.get 0 c.x n

/-- Writes x[n]; a write to x0 is discarded (03 R52). -/
def Ctx.setX (c : Ctx) (n : Nat) (v : Word) : Ctx := if n = 0 then c else { c with x := Tbl.set 0 c.x n v }

/-- Predicate p[n]; p0 reads one (03 R52, 05). -/
def Ctx.getP (c : Ctx) (n : Nat) : Bool := if n = 0 then true else Tbl.get false c.p n

/-- Writes p[n]; a write to p0 is discarded (03 R52). -/
def Ctx.setP (c : Ctx) (n : Nat) (v : Bool) : Ctx := if n = 0 then c else { c with p := Tbl.set false c.p n v }

/-- Command register c[n] (03 R55). -/
def Ctx.getC (c : Ctx) (n : Nat) : Word := Tbl.get 0 c.c n

/-- Writes command register c[n]. -/
def Ctx.setC (c : Ctx) (n : Nat) (v : Word) : Ctx := { c with c := Tbl.set 0 c.c n v }

/-- x[n] of the acting context. -/
def State.x (s : State) (n : Nat) : Word := s.cur.getX n

/-- p[n] of the acting context. -/
def State.p (s : State) (n : Nat) : Bool := s.cur.getP n

/-- Writes x[n] of the acting context. -/
def State.setX (s : State) (n : Nat) (v : Word) : State := s.modCur fun c => c.setX n v

/-- Writes p[n] of the acting context. -/
def State.setP (s : State) (n : Nat) (v : Bool) : State := s.modCur fun c => c.setP n v

/-- Whether a guard holds: p[guard] XOR neg = 1 (03 R52). -/
def State.holds (s : State) (g : Guard) : Bool := xor (s.p g.p) g.neg

/-! ### Memory -/

/-- First physical location of the harbour core's SRAM (24 R409): beside the flat window, reached by its alias alone. -/
def harbourBase : Nat := 2 ^ 33

/-- First physical location of frame fn (17 R323); which frames are memory, `frameExists` says (notes/assumptions/66.md). -/
def frameBase (fn : Nat) : Nat := if fn / 2 ^ 28 = 3 then fn % 2 ^ 17 * 65536 else 2 ^ 52 + fn * 65536

/-- Frames of tier 0: twelve stacks of 128 GB, where DRAM capacities are decimal (00 R4, 01 R9, R14). -/
def hbmFrames : Nat := 12 * (128 * 10 ^ 9 / 65536)

/-- Frames of the expanders on ports below `p`, the first index of port p's range (19 R343). -/
def farBase (p : Nat) : Nat := (List.range p).foldl (fun n i => if i = 0 then n else n + Config.farFrames i) 0

/-- Frames of tier 1: what the expanders on ports 1 to 3 hold, at most 6 TB, a decimal capacity (00 R4, 01 R14, 19 R343). -/
def farTotal : Nat := min (farBase 4) (6 * 10 ^ 12 / 65536)

/-- Whether a frame of tiers 0 to 3 is memory that the module has; in tier 2 the host answers for every frame. An entry or pointer that names
another frame acts as a malformed one. (DESIGN CHOICE, unsafe: notes/assumptions/66.md) -/
def frameExists (fn : Nat) : Bool :=
  if fn / 2 ^ 28 = 0 then decide (fn < hbmFrames) else if fn / 2 ^ 28 = 1 then decide (fn % 2 ^ 28 < farTotal) else true

/-- The port whose expander holds a location of tier 1 (19 R343). -/
def farPort (loc : Nat) : Option Nat :=
  let fn := (loc - 2 ^ 52) / 65536
  if loc < 2 ^ 52 ∨ fn / 2 ^ 28 ≠ 1 ∨ farTotal ≤ fn % 2 ^ 28 then none
  else [1, 2, 3].find? fun p => decide (farBase p ≤ fn % 2 ^ 28 ∧ fn % 2 ^ 28 < farBase (p + 1))

/-- First location of a compressed page's plain bytes, which stay inside the HBM4E controller (17 R332). -/
def imageBase (fn half : Nat) : Nat := 2 ^ 53 + (fn * 2 + half) * 65536

/-- Key of a pseudo-channel named by its stack, channel and pseudo-channel numbers. -/
def pseudoKey (stack channel pc : Nat) : Nat := stack * 64 + channel * 2 + pc

/-- The pseudo-channel that holds a location of tier 0, by the DRAM row in which it lies (17 R338). (DESIGN CHOICE, safe: notes/assumptions/40.md) -/
def pseudoOf (loc : Nat) : Nat :=
  let r := (Config.rowOf loc).toNat
  pseudoKey (bitsOf r 31 28) (bitsOf r 27 23) (bitsOf r 22 22)

/-- Whether a location is in DRAM: a frame of tier 0 or a compressed page's image. -/
def inDram (loc : Nat) : Bool := decide (2 ^ 52 ≤ loc ∧ loc < frameBase hbmFrames) || decide (2 ^ 53 ≤ loc ∧ loc < 2 ^ 54)

/-- Whether an access to a location waits for its pseudo-channel: one in mode 0 or 1, and every one while boot stage 2 trains them (24 R412, R420). -/
def State.channelHeld (s : State) (loc : Nat) : Bool :=
  inDram loc && (decide (s.mgmt.stage = 1) || s.hbm.any fun e => decide (e.2.mode ≠ 2) && decide (e.1 = pseudoOf loc))

/-- The byte at a physical location; an unlisted location reads zero (24 R412; notes/assumptions/3.md). (DESIGN CHOICE, unsafe: notes/assumptions/3.md) -/
def State.byte (s : State) (loc : Nat) : Byte := Tbl.get 0 s.mem loc

/-- Writes the byte at a physical location. -/
def State.setByte (s : State) (loc : Nat) (b : Byte) : State := { s with mem := Tbl.set 0 s.mem loc b }

/-- The n bytes at a location, little-endian (00 R3). -/
def State.read (s : State) (loc : Nat) : Nat → Nat
  | 0 => 0
  | n + 1 => (s.byte loc).toNat + 256 * s.read (loc + 1) n

/-- Writes the low n bytes of v at a location, little-endian. -/
def State.write (s : State) (loc : Nat) : Nat → Nat → State
  | 0, _ => s
  | n + 1, v => (s.setByte loc (BitVec.ofNat 8 v)).write (loc + 1) n (v / 256)

/-- The doubleword at a location. -/
def State.readD (s : State) (loc : Nat) : Word := BitVec.ofNat 64 (s.read loc 8)

/-- Writes a doubleword. -/
def State.writeD (s : State) (loc : Nat) (v : Word) : State := s.write loc 8 v.toNat

/-- n doublewords from a location. -/
def State.readDs (s : State) (loc : Nat) : Nat → List Word
  | 0 => []
  | n + 1 => s.readD loc :: s.readDs (loc + 8) n

/-- Writes doublewords one after another. -/
def State.writeDs (s : State) (loc : Nat) : List Word → State
  | [] => s
  | v :: vs => (s.writeD loc v).writeDs (loc + 8) vs

/-- Writes bytes one after another. -/
def State.writeBytes (s : State) (loc : Nat) : List Byte → State
  | [] => s
  | v :: vs => (s.setByte loc v).writeBytes (loc + 1) vs

/-- The n bytes from a location. -/
def State.bytes (s : State) (loc : Nat) : Nat → List Byte
  | 0 => []
  | n + 1 => s.byte loc :: s.bytes (loc + 1) n

/-- Sets n bytes to zero. -/
def State.zeroBytes (s : State) (loc n : Nat) : State := { s with mem := Tbl.clear s.mem loc n }

/-- The memory's canonical form. -/
abbrev Memory.wf (m : List Host.Cell) : Prop := Tbl.wf (0 : Byte) m = true

/-- Whether the line of a location is poisoned (17 R335). -/
def State.poisoned (s : State) (loc : Nat) : Bool := Tbl.get false s.poison (loc / 64)

/-- Poisons or cleans the line of a location. -/
def State.setPoison (s : State) (loc : Nat) (v : Bool) : State := { s with poison := Tbl.set false s.poison (loc / 64) v }

/-- Cleans the lines that a write of n bytes covers whole (17 R335). -/
def State.cleanLines (s : State) (loc n : Nat) : State :=
  { s with poison := s.poison.filter fun e => decide (e.1 * 64 < loc ∨ loc + n < e.1 * 64 + 64) }

/-- Whether some of n bytes lies in a poisoned line. -/
def State.anyPoison (s : State) (loc n : Nat) : Bool :=
  s.poison.any fun e => decide (loc < e.1 * 64 + 64 ∧ e.1 * 64 < loc + n)

/-- First location of a core's slice; the harbour core's SRAM is its own (09 R214, 24 R409). -/
def sliceBase (core : Nat) : Nat := if core = harbourId then harbourBase else core * 2 ^ 22

/-- Location of offset `off` in a core's system area or slice (10 R243). -/
def sliceLoc (core off : Nat) : Nat := sliceBase core + off

/-! ### Small state changes -/

/-- A free value's number: each use takes a fresh one. (DESIGN CHOICE, safe: notes/assumptions/5.md) -/
def State.takeFresh (s : State) : Nat × State := (s.fresh, { s with fresh := s.fresh + 1 })

/-- Raises source b of HIRQ (24 R411). -/
def State.hirq (s : State) (b : Nat) : State :=
  { s with mgmt := { s.mgmt with hirqPending := s.mgmt.hirqPending ||| 2 ^ b } }

/-- Writes a wrack record entry (23 R407, R408): held records only count; events 9 and 10 hold the record. -/
def State.wrackAdd (s : State) (event cause kind source : Nat) (detail : Word) (cycle : Nat) : State :=
  if s.wrack.hold then { s with wrack := { s.wrack with lost := min 65535 (s.wrack.lost + 1) } }
  else
    let d1 := event * 2 ^ 56 + cause * 2 ^ 48 + kind * 2 ^ 44 + source
    let e : List Word := [BitVec.ofNat 64 s.time, BitVec.ofNat 64 d1, detail, BitVec.ofNat 64 cycle]
    { s with wrack := { s.wrack with
        entries := Tbl.set [] s.wrack.entries s.wrack.head e
        head := (s.wrack.head + 1) % 4096
        hold := decide (event = 9 ∨ event = 10) } }

/-- The source field of a wrack entry for a context or queue of a core: number in [12:11], core in [10:0] (23 R407); the harbour core's is told
by bit 13, as in its SELF (24 R409). (DEDUCED, unsafe: notes/assumptions/52.md) -/
def wrackSource (core which : Nat) : Nat := which * 2 ^ 11 + if core = harbourId then 2 ^ 13 else core % 2 ^ 11

/-- Sets bits of a core's event word (13 R262). -/
def State.signal (s : State) (core mask : Nat) : State :=
  s.modCore core fun k => { k with evw := k.evw ||| BitVec.ofNat 32 mask }

/-- Replaces entry i of a list. -/
def setAt {α : Type} (l : List α) (i : Nat) (v : α) : List α := l.set i v

/-- Default of a ring's configuration (10 R237). -/
def Ring.reset (z : Nat) : Ring :=
  { timeout := 0, depth := if z < 3 then 16 else 0, prod := if z = 1 then 1 else 0,
    cons := if z = 0 then 1 else if z = 1 ∨ z = 2 then 2 else 0, entries := [], pops := 0, pushes := 0, visible := 0 }

/-- Ring z of a core. -/
def Core.ring (k : Core) (z : Nat) : Ring := Tbl.get (Ring.reset z) k.rings z

/-- Replaces ring z of a core. -/
def Core.setRing (k : Core) (z : Nat) (r : Ring) : Core := { k with rings := Tbl.set (Ring.reset z) k.rings z r }

/-- Tokens in a queue (03 R58). -/
def Core.token (k : Core) (q : Nat) : Nat := Tbl.get 0 k.tokens q

/-- Replaces the token count of a queue. -/
def Core.setToken (k : Core) (q n : Nat) : Core := { k with tokens := Tbl.set 0 k.tokens q n }

/-- Reset value of a generator or nest CSR (08 R189 to R191). -/
def genDefault (csr : Nat) : Word :=
  if csr < 0x180 ∧ csr % 16 = 10 then 0x0001000100000000
  else if csr = 0x180 then 0x0001000100010001
  else if csr = 0x181 then 0x0000000000010001
  else 0

/-- A generator or nest CSR of a core (08 R188). -/
def Core.gen (k : Core) (csr : Nat) : Word := Tbl.get (genDefault csr) k.gens csr

/-- Replaces a generator or nest CSR of a core. -/
def Core.setGen (k : Core) (csr : Nat) (v : Word) : Core := { k with gens := Tbl.set (genDefault csr) k.gens csr v }

/-- The 92 registers of a snapshot, in the order of 08 R188. -/
def snapshotCsrs : List Nat :=
  ((List.range 8).flatMap fun g => (List.range 11).map fun j => 0x100 + 16 * g + j) ++ [0x180, 0x181, 0x182, 0x183]

/-- A core's snapshot (08 R192). -/
def Core.snapshot (k : Core) : List Word := snapshotCsrs.map k.gen

/-- A queue of the module. -/
def State.queue (s : State) : QueueId → Queue
  | .mq c => (s.core c).mq
  | .vq c => (s.core c).vq
  | .cq c => (s.core c).cq
  | .oq u => (Tbl.get Ofu.reset s.ofus u).queue
  | .lq d => Tbl.get Queue.reset s.lqs d

/-- An optical unit. -/
def State.ofu (s : State) (u : Nat) : Ofu := Tbl.get Ofu.reset s.ofus u

/-- Replaces an optical unit. -/
def State.setOfu (s : State) (u : Nat) (v : Ofu) : State := { s with ofus := Tbl.set Ofu.reset s.ofus u v }

/-- Replaces a queue of the module. -/
def State.setQueue (s : State) (q : QueueId) (v : Queue) : State :=
  match q with
  | .mq c => s.modCore c fun k => { k with mq := v }
  | .vq c => s.modCore c fun k => { k with vq := v }
  | .cq c => s.modCore c fun k => { k with cq := v }
  | .oq u => s.setOfu u { s.ofu u with queue := v }
  | .lq d => { s with lqs := Tbl.set Queue.reset s.lqs d v }

/-- Changes a queue of the module. -/
def State.modQueue (s : State) (q : QueueId) (f : Queue → Queue) : State := s.setQueue q (f (s.queue q))

/-- A queue's entry with a sequence number. -/
def Queue.find (q : Queue) (seq : Nat) : Option Entry := q.entries.find? fun e => e.seq == seq

/-- Changes the entry with a sequence number. -/
def Queue.modEntry (q : Queue) (seq : Nat) (f : Entry → Entry) : Queue :=
  { q with entries := q.entries.map fun e => if e.seq = seq then f e else e }

/-- Removes the entry with a sequence number. -/
def Queue.free (q : Queue) (seq : Nat) : Queue :=
  { q with entries := q.entries.filter fun e => decide (e.seq ≠ seq) }

/-- Doubleword j of a command image. -/
def Entry.d (e : Entry) (j : Nat) : Nat := (e.image.getD j 0).toNat

/-- Replaces doubleword j of a command image. -/
def Entry.setD (e : Entry) (j : Nat) (v : Nat) : Entry := { e with image := setAt e.image j (BitVec.ofNat 64 v) }

/-- The core that a command's alias addresses, events and tokens belong to (09 R215, 13 R268). -/
def homeCore (q : QueueId) (e : Entry) : Nat :=
  match q with
  | .mq c => c
  | .vq c => c
  | .cq c => c
  | _ => e.core

/-- A set of lines in a doubleword's half (03 R71). -/
def setOf (w : Nat) : LineSet := { start := bitsOf w 31 16, length := bitsOf w 15 0 }

/-- Read sets of a command. -/
def Entry.readSets (e : Entry) : List LineSet :=
  [setOf (e.d 12 % 2 ^ 32), setOf (e.d 12 / 2 ^ 32), setOf (e.d 13 % 2 ^ 32), setOf (e.d 13 / 2 ^ 32)]

/-- Write sets of a command. -/
def Entry.writeSets (e : Entry) : List LineSet := [setOf (e.d 14 % 2 ^ 32), setOf (e.d 14 / 2 ^ 32)]

/-- MQ, VQ and CQ of a core. -/
def coreQueues (core : Nat) : List QueueId := [.mq core, .vq core, .cq core]

end Sys2Proof.Machine
end

