-- ==== Sys2Proof/Machine/Translate.lean ====
section
/-! DEFINITION. What an address reaches: the flat window and the alias (09 R214, R215), the page walk and page states (17 R325 to R333), and the tile path of tensors (17 R328, R329). -/

namespace Sys2Proof.Machine

/-- What a byte address names for a party of a core, before any page is looked at. -/
inductive Place where
  | sram (loc : Nat)
  | outOfRange
  | paged
  | notCanonical
  deriving DecidableEq, Repr

/-- The ranges of 09 R214, with the alias resolved as R215 gives. -/
def place (core a : Nat) : Place :=
  if a < 2 ^ 33 then .sram a
  else if a < 2 ^ 33 + 2 ^ 22 then .sram (sliceLoc core (a - 2 ^ 33))
  else if a < 2 ^ 44 then .outOfRange
  else if a < 2 ^ 52 then .paged
  else .notCanonical

/-- Whether an address lies in the top 128 KiB of a slice, flat or alias (09 R216). -/
def inSystemArea (a : Nat) : Bool := decide (a < 2 ^ 33 + 2 ^ 22) && decide (0x3E0000 ≤ a % 2 ^ 22)

/-- The flat form of an address: an alias address as the flat address of its slice (22 R384). The harbour core's SRAM keeps its alias. -/
def flatten (core a : Nat) : Nat :=
  match place core a with
  | .sram l => l
  | _ => a

/-- A page entry's state field (17 R324). -/
def peState (e : Nat) : Nat := bitsOf e 55 53

/-- Replaces the state field of a page entry. -/
def peSetState (e st : Nat) : Nat := putBits e 53 3 st

/-- A page entry's frame number. -/
def peFrame (e : Nat) : Nat := e % 2 ^ 32

/-- Whether a page entry is malformed where it stands: reserved bits, reserved tier, a tier not legal there, or large out of place (17 R324);
so is one whose frame is no memory. (DESIGN CHOICE, unsafe: notes/assumptions/66.md) -/
def peMalformed (e : Nat) (tile level2 : Bool) : Bool :=
  decide (bitsOf e 44 32 ≠ 0) || decide (peFrame e / 2 ^ 28 > 3) || (decide (peFrame e / 2 ^ 28 = 3) && !tile)
    || (decide (peFrame e / 2 ^ 28 = 3) && decide (bitsOf e 27 17 ≠ 0)) || (bitOf e 48 && !level2)
    || !frameExists (peFrame e) || (bitOf e 48 && !frameExists (peFrame e + 31))

/-- A page-table pointer is usable: valid, reserved bits zero, a legal tier (17 R325). -/
def pointerOk (e : Nat) : Bool :=
  bitOf e 63 && decide (bitsOf e 62 48 = 0) && decide (bitsOf e 47 40 = 0) && decide (peFrame e / 2 ^ 28 ≤ 2) && frameExists (peFrame e)

/-- Location of the table a pointer names (17 R325). -/
def pointerTable (e : Nat) : Nat := frameBase (peFrame e) + 256 * bitsOf e 39 32

/-- What the walk of 17 R325 finds: where the page entry stands, the entry, and the offset in its page. -/
structure Walk where
  entryLoc : Nat
  entry : Nat
  off : Nat
  large : Bool
  deriving DecidableEq, Repr

/-- The three-level walk (17 R325). -/
def State.walk (s : State) (va : Nat) : Option Walk :=
  let e1 := s.read (frameBase s.ptbr.toNat + 8 * bitsOf va 51 36) 8
  if !frameExists (s.ptbr.toNat + 7) || !pointerOk e1 then none
  else
    let l2 := pointerTable e1 + 8 * bitsOf va 35 21
    let e2 := s.read l2 8
    if bitOf e2 48 then some { entryLoc := l2, entry := e2, off := bitsOf va 20 0, large := true }
    else if !pointerOk e2 then none
    else
      let l3 := pointerTable e2 + 8 * bitsOf va 20 16
      some { entryLoc := l3, entry := s.read l3 8, off := bitsOf va 15 0, large := false }

/-- Where a walk reads: the locations of the entries of its levels (17 R325). -/
def State.walkLocs (s : State) (va : Nat) : List Nat :=
  let l1 := frameBase s.ptbr.toNat + 8 * bitsOf va 51 36
  let e1 := s.read l1 8
  let l2 := pointerTable e1 + 8 * bitsOf va 35 21
  let e2 := s.read l2 8
  if !pointerOk e1 then [l1] else if bitOf e2 48 || !pointerOk e2 then [l1, l2] else [l1, l2, pointerTable e2 + 8 * bitsOf va 20 16]

/-- Whether an access may go through an entry as a cache holds it: one that changes no entry (17 R326, R330). Every other access reads the
table. -/
def cachedServes (entry : Nat) (write : Bool) : Bool :=
  match peState entry with
  | 2 | 6 => true
  | 1 | 4 | 5 => !write
  | _ => false

/-- The cached translation of a key, if it serves the access (17 R326). -/
def State.cached (s : State) (tile : Bool) (core key : Nat) (write : Bool) : Option Cached :=
  (s.tlb.find? fun c => c.tile == tile && c.core == core && c.key == key).filter fun c => cachedServes c.entry write

/-- The translation of a paged address: a context's access goes through the entry that its core's cache holds, every other walks the table
(17 R325, R326). -/
def State.translation (s : State) (va : Nat) (write engine : Bool) : Option Walk :=
  match (if engine then none else s.cached false s.focus.core (va / 65536) write) with
  | some c => some { entryLoc := c.loc, entry := c.entry, off := if c.large then bitsOf va 20 0 else bitsOf va 15 0, large := c.large }
  | none => s.walk va

/-- Fills a cache, in place of what it held of the key (17 R326). -/
def State.fill (s : State) (c : Cached) : State :=
  { s with tlb := s.tlb.filter (fun d => !(d.tile == c.tile && d.core == c.core && d.key == c.key)) ++ [c] }

/-- A page entry as the device itself changes it: no cache keeps the old one (17 R326, R331). -/
def State.writeEntry (s : State) (loc v : Nat) : State :=
  { s.write loc 8 v with tlb := s.tlb.filter fun c => decide (c.loc ≠ loc) }

/-- Where an access to a page ends. `wait` is an engine's wait for the zeroed pool (17 R332). -/
inductive Access where
  | loc (l : Nat) (s : State)
  | zero
  | fault (cause : Nat)
  | wait (entryLoc : Nat)
  deriving DecidableEq, Repr

/-- Entries in the zeroed pool (24 R415). -/
def State.poolCount (s : State) : Nat :=
  if s.mgmt.zplen = 0 then 0 else (s.mgmt.zptail + s.mgmt.zplen - s.mgmt.zphead % s.mgmt.zplen) % s.mgmt.zplen

/-- Whether the zeroed pool stands below its low mark (24 R415). -/
def State.poolLow (s : State) : Bool := decide (s.poolCount < s.mgmt.zplow)

/-- A change to the pool's registers, t, that brings the pool below its low mark interrupts the harbour core (24 R415). -/
def State.lowMark (s t : State) : State := if t.poolLow && !s.poolLow then t.hirq 2 else t

/-- Takes a frame from the zeroed pool at ZPHEAD, interrupting the harbour core below the low mark (24 R415; notes/assumptions/25.md). The entry is taken as
it stands: one that names a frame which the module does not have serves all the same. (DESIGN CHOICE, unsafe: notes/assumptions/66.md) -/
def State.takeFrame (s : State) : Option (Nat × State) :=
  if s.poolCount = 0 then none
  else
    let fn := s.read (harbourBase + s.mgmt.zpbase + 4 * (s.mgmt.zphead % s.mgmt.zplen)) 4
    let s1 := { s with mgmt := { s.mgmt with zphead := (s.mgmt.zphead + 1) % s.mgmt.zplen } }
    some (fn, if s1.poolLow then s1.hirq 2 else s1)

/-- Copies n bytes and their poison from one location to another, both multiples of 64. -/
def State.copyRaw (s : State) (src dst n : Nat) : State :=
  let moved := (s.mem.filter fun e => decide (src ≤ e.1 ∧ e.1 < src + n)).map fun e => (e.1 - src + dst, e.2)
  let cells := moved.foldl (fun m e => Tbl.set 0 m e.1 e.2) (Tbl.clear s.mem dst n)
  let dirty := (s.poison.filter fun e => decide (src ≤ e.1 * 64 ∧ e.1 * 64 < src + n)).map fun e => ((e.1 * 64 - src + dst) / 64, e.2)
  let lines := dirty.foldl (fun m e => Tbl.set false m e.1 e.2) (Tbl.clear s.poison (dst / 64) (n / 64))
  { s with mem := cells, poison := lines }

/-- Sets n bytes to zero and cleans their lines. -/
def State.zeroFrame (s : State) (loc n : Nat) : State :=
  { s.zeroBytes loc n with poison := Tbl.clear s.poison (loc / 64) (n / 64) }

/-- Whether a half of a tier-0 frame holds a compressed page (17 R332). -/
def State.halfUsed (s : State) (fn half : Nat) : Bool := bitOf (Tbl.get 0 s.halves fn) half

/-- Marks a half of a frame as used or free. -/
def State.setHalf (s : State) (fn half : Nat) (on : Bool) : State :=
  { s with halves := Tbl.set 0 s.halves fn (putBits (Tbl.get 0 s.halves fn) half 1 (b2n on)) }

/-- The state in which an entry's bytes are held: its own, or that from which it migrates (17 R334). -/
def State.heldState (s : State) (entryLoc entry : Nat) : Nat := if peState entry = 3 then Tbl.get 2 s.moves entryLoc else peState entry

/-- First location of a page's bytes: the half-frame image of a compressed page, and of one that an error has poisoned since, else the
frame (17 R332, R335). (DEDUCED, unsafe: notes/assumptions/54.md) -/
def State.pageBase (s : State) (entryLoc entry : Nat) : Nat :=
  let fn := peFrame entry
  let half := bitsOf entry 45 45
  let st := s.heldState entryLoc entry
  if st = 4 ∨ (st = 6 ∧ s.halfUsed fn half = true) then imageBase fn half else frameBase fn

/-- The access that a page entry allows (17 R330 to R333): `engine` parties wait where the zeroed pool is empty, contexts fault. (DEDUCED, safe: notes/assumptions/26.md) -/
def State.pageAccess (s : State) (entryLoc entry off cause : Nat) (write engine : Bool) : Access :=
  let fn := peFrame entry
  let half := bitsOf entry 45 45
  let at_ := s.pageBase entryLoc entry + off
  let live (s : State) (e : Nat) : State := s.writeEntry entryLoc (peSetState e 2)
  match peState entry with
  | 1 => if write then .loc at_ (live s entry) else .zero
  | 2 => .loc at_ s
  | 3 =>
    if s.heldState entryLoc entry = 1 then
      if write then .loc at_ { s with moves := Tbl.set 2 s.moves entryLoc 2 } else .zero
    else .loc at_ s
  | 4 =>
    if write then
      match s.takeFrame with
      | none => if engine then .wait entryLoc else .fault cause
      | some (nf, s1) =>
        let s2 := s1.copyRaw (s.pageBase entryLoc entry) (frameBase nf) 65536
        .loc (frameBase nf + off) (live (s2.setHalf fn half false) (putBits entry 0 32 nf))
    else .loc at_ s
  | 5 =>
    if write then
      match s.takeFrame with
      | none => if engine then .wait entryLoc else .fault cause
      | some (nf, s1) => .loc (frameBase nf + off) (live (s1.zeroFrame (frameBase nf) 65536) (putBits entry 0 32 nf))
    else .zero
  | 6 => .loc at_ s
  | _ => .fault cause

/-- A paged byte address (17 R325): walk, permissions, page state; cause 0x04. -/
def State.pagedAccess (s : State) (va : Nat) (write priv engine : Bool) : Access :=
  match s.translation va write engine with
  | none => .fault 0x04
  | some w =>
    if peMalformed w.entry false w.large then .fault 0x04
    else if write && !bitOf w.entry 47 then .fault 0x04
    else if bitOf w.entry 46 && !priv then .fault 0x04
    else if w.large && (decide (peFrame w.entry % 32 ≠ 0) || decide (peState w.entry = 4) || decide (peState w.entry = 5)) then .fault 0x04
    else s.pageAccess w.entryLoc w.entry w.off 0x04 write engine

/-- Whether an access to a paged address waits for a pseudo-channel, at a level of its walk or at the byte (24 R420). -/
def State.pagedHeld (s : State) (va : Nat) (write priv engine : Bool) : Bool :=
  (decide (s.mgmt.stage = 1) || s.hbm.any fun e => decide (e.2.mode ≠ 2)) &&
    ((engine || (s.cached false s.focus.core (va / 65536) write).isNone) && (s.walkLocs va).any s.channelHeld ||
      match s.pagedAccess va write priv engine with
      | .loc l _ => s.channelHeld l
      | _ => false)

/-- Heat raised by a translation fill (17 R336), saturating at 255; free and retired entries are never filled. -/
def State.addHeat (s : State) (entryLoc n : Nat) : State :=
  let e := s.read entryLoc 8
  if peState e = 0 ∨ peState e = 7 then s else s.write entryLoc 8 (putBits e 56 8 (min 255 (bitsOf e 63 56 + n)))

/-! ### Tensors -/

/-- A tensor shape record (17 R328) as its eight doublewords. -/
structure Shape where
  format : Nat
  rank : Nat
  e0 : Nat
  e1 : Nat
  e2 : Nat
  p1 : Nat
  p2 : Nat
  table : Nat
  tiles : Nat
  deriving DecidableEq, Repr

/-- The fields of a shape record; extents beyond the rank are 1 (17 R328). -/
def Shape.of (ds : List Word) : Shape :=
  let d (i : Nat) : Nat := (ds.getD i 0).toNat
  let rank := bitsOf (d 0) 5 4 + 1
  { format := bitsOf (d 0) 3 0, rank := rank, e0 := bitsOf (d 1) 20 0,
    e1 := if rank ≥ 2 then bitsOf (d 1) 41 21 else 1, e2 := if rank ≥ 3 then bitsOf (d 1) 62 42 else 1,
    p1 := bitsOf (d 2) 39 0, p2 := bitsOf (d 3) 47 0, table := d 4, tiles := bitsOf (d 5) 31 0 }

/-- The refusal that a shape record earns at push, if any (17 R328): 0x01 for a broken record, 0x07 for a reserved format. -/
def shapeCause (ds : List Word) : Option Nat :=
  let d (i : Nat) : Nat := (ds.getD i 0).toNat
  let h := Shape.of ds
  let ok (e : Nat) : Bool := decide (1 ≤ e ∧ e ≤ 1048575)
  if decide (bitsOf (d 0) 63 6 ≠ 0) || decide (bitsOf (d 0) 5 4 = 3) || bitOf (d 1) 63 || decide (bitsOf (d 2) 63 40 ≠ 0)
      || decide (bitsOf (d 3) 63 48 ≠ 0) || decide (d 4 % 8 ≠ 0) || decide (bitsOf (d 5) 63 32 ≠ 0) || decide (d 6 ≠ 0)
      || decide (d 7 ≠ 0) || !ok h.e0 || !ok h.e1 || !ok h.e2
      || (decide (h.rank < 2) && decide (bitsOf (d 1) 41 21 ≠ 1)) || (decide (h.rank < 3) && decide (bitsOf (d 1) 62 42 ≠ 1))
      || decide (h.p1 < h.e0) || decide (h.p2 < h.p1 * h.e1) then some 0x01
  else if h.format ≥ 12 then some 0x07
  else none

/-- Byte position and sub-position of element e in a tensor's tile space (17 R329, 02 R20). -/
def elementPos (fmt e : Nat) : Nat × Nat :=
  match fmt with
  | 0 | 3 | 9 => (4 * e, 0)
  | 1 | 2 | 4 | 10 => (2 * e, 0)
  | 5 | 11 => (e, 0)
  | 6 => (e / 2, e % 2)
  | 8 => (e / 5, e % 5)
  | _ => (65536 * (e / 4 / 21845) + 3 * (e / 4 % 21845), e % 4)

/-- What stands for an entry where an access waits for its pseudo-channel and not for the harbour core (24 R420): no byte address. -/
def holdMark : Nat := 2 ^ 60

/-- Where a tile-path access ends: a location, zeros, a fault, or a wait for the harbour core's answer about an entry (17 R329). -/
inductive TileAccess where
  | loc (l : Nat) (s : State)
  | zero
  | fault (cause : Nat)
  | service (entry : Nat)
  deriving DecidableEq, Repr

/-- The tile entry of a tensor: read at the table's byte address at the privileged level (17 R329). -/
inductive TileEntry where
  | entry (loc value : Nat)
  | free
  | fault (cause : Nat)
  deriving DecidableEq, Repr

/-- Reads the tile entry at a byte address (17 R329). -/
def State.entryAt (s : State) (core a : Nat) : TileEntry :=
  match place core a with
  | .sram l => if s.poisoned l then .fault 0x06 else .entry l (s.read l 8)
  | .paged =>
    match s.pagedAccess a false true true with
    | .loc l _ => if s.poisoned l then .fault 0x06 else .entry l (s.read l 8)
    | .zero => .free
    | _ => .fault 0x05
  | _ => .fault 0x05

/-- Reads tile entry `tile` of a table (17 R329). -/
def State.tileEntry (s : State) (core : Nat) (h : Shape) (tile : Nat) : TileEntry :=
  if tile ≥ h.tiles then .fault 0x05 else s.entryAt core (h.table + 8 * tile)

/-- The tile entry that an access uses: one that the core's memory ports hold, or the table's (17 R326, R329). -/
def State.usedEntry (s : State) (core : Nat) (h : Shape) (tile : Nat) (write : Bool) : TileEntry :=
  match (if tile ≥ h.tiles then none else s.cached true core (h.table + 8 * tile) write) with
  | some c => .entry c.loc c.entry
  | none => s.tileEntry core h tile

/-- The tile path (17 R329): tile entry, its permissions with cause 0x05, its frame and its state. -/
def State.tileAccess (s : State) (core : Nat) (h : Shape) (b : Nat) (write priv : Bool) : TileAccess :=
  let tile := b / 65536
  match s.usedEntry core h tile write with
  | .fault c => .fault c
  | .free => .service (h.table + 8 * tile)
  | .entry l e =>
    if s.channelHeld l && (s.cached true core (h.table + 8 * tile) write).isNone then .service holdMark
    else if peMalformed e true false then .fault 0x05
    else if peState e = 0 then .service (h.table + 8 * tile)
    else if (write && !bitOf e 47) || (bitOf e 46 && !priv) then .fault 0x05
    else if decide (peFrame e / 2 ^ 28 = 3) && decide (0x3E0000 ≤ peFrame e % 2 ^ 17 * 65536 % 2 ^ 22) then .fault 0x05
    else
      match s.pageAccess l e (b % 65536) 0x05 write true with
      | .loc l s' => if s.channelHeld l then .service holdMark else .loc l s'
      | .zero => .zero
      | .fault c => .fault c
      | .wait _ => .service (h.table + 8 * tile)

/-- Posts a tile service request unless one for that entry is queued or unanswered; a full queue holds no more (24 R411). A request names its
entry by 52 bits. -/
def State.raiseTsq (s : State) (core named : Nat) (w : TileWaiter) : State :=
  if named = holdMark then s else
  let entry := named % 2 ^ 52
  let s1 := { s with mgmt := { s.mgmt with
    tsWaiters := if s.mgmt.tsWaiters.contains (entry, w) then s.mgmt.tsWaiters else s.mgmt.tsWaiters ++ [(entry, w)] } }
  if s.mgmt.tsq.any (fun q => q.2 == entry) || s.mgmt.tsAnswering.contains entry || decide (s.mgmt.tsq.length ≥ 256) then s1
  else { s1 with mgmt := { s1.mgmt with tsq := s1.mgmt.tsq ++ [(core, entry)] } }.hirq 3

end Sys2Proof.Machine
end

