-- ==== Sys2Proof/Machine/Ops.lean ====
section
/-! DEFINITION. The named operations of the control contexts: undo windows and records (22), groups and iterations (14, 15), TAKING AN EXCEPTION and returning from one (10 R241, R242), and how an instruction finishes. -/

namespace Sys2Proof.Machine

/-- Every (core, context) that the state lists. -/
def State.listed (s : State) : List (Nat × Nat) :=
  s.cores.flatMap fun e => e.2.ctxs.map fun f => (e.1, f.1)

/-- Changes every listed context. -/
def State.mapCtxs (s : State) (f : Nat → Nat → Ctx → Ctx) : State :=
  s.listed.foldl (fun s e => s.modCtx e.1 e.2 (f e.1 e.2)) s

/-- Every queue of the module that can hold entries: three of each listed core, the optical units' and the dies'. -/
def State.allQueues (s : State) : List QueueId :=
  (s.cores.flatMap fun e => [.mq e.1, .vq e.1, .cq e.1]) ++ s.ofus.map (fun e => .oq e.1) ++ s.lqs.map fun e => .lq e.1

/-- Whether a command that a context pushed is still in some queue (22 R391). -/
def State.hasCommands (s : State) (core ctx : Nat) : Bool :=
  s.allQueues.any fun q => (s.queue q).entries.any fun e => e.core == core && e.ctx == ctx

/-! ### Undo log -/

/-- The code of a window state (22 R385). -/
def WinSt.code : WinSt → Nat
  | .opened => 0 | .closed => 1 | .reversible => 2 | .sealed => 3 | .dropped => 4

/-- The window a context is in. -/
def UndoLog.current (l : UndoLog) : Option Window := l.windows.find? fun w => w.num == l.counter

/-- Bytes of a record (22 R384). -/
def Rec.bytes (r : Rec) : Nat := 16 + 8 * r.body.length

/-- Bytes that the kept records take. -/
def UndoLog.used (l : UndoLog) : Nat := (l.recs.map Rec.bytes).sum

/-- Bytes of the log region (22 R388). -/
def UndoLog.room (l : UndoLog) : Nat := l.len.toNat % 2 ^ 20 * 65536

/-- The oldest window that still has records. -/
def UndoLog.oldest (l : UndoLog) : Option Nat := (l.windows.find? fun w => decide (w.st ≠ .dropped)).map (·.num)

/-- The state bits of a window's checkpoint header: opener, pushed, state (22 R385). -/
def Window.bits (v : Window) : Nat := v.opener * 256 + b2n v.pushed * 8 + v.st.code

/-- The header of a record (22 R384); a checkpoint's carries its window's state as it is now (22 R385). -/
def Rec.header (r : Rec) (ws : List Window) : List Word :=
  let where_ := if r.kind = 5 then
      match ws.find? fun (v : Window) => v.num == r.window with
      | some v => v.bits
      | none => r.loc
    else r.loc
  [BitVec.ofNat 64 (r.kind * 2 ^ 60 + (if r.kind = 1 then r.size * 2 ^ 56 else 0) + where_ % 2 ^ 52), BitVec.ofNat 64 (r.window * 2 ^ 32 + r.body.length)]

/-- The first words to be written over the moved checkpoints among some records, as their windows are now (22 R385). -/
def deadWords (ws : List Window) (rs : List Rec) : List (Nat × Word) :=
  rs.filterMap fun r => if r.kind = 5 then r.at_.map fun o => (o, (r.header ws).headD 0) else none

/-- Drops a window: LOGTAIL passes its records, and what stands before them (22 R389, R395). -/
def UndoLog.drop (l : UndoLog) (w : Nat) : UndoLog :=
  let kept := (l.recs.reverse.takeWhile fun r => decide (r.window ≠ w)).reverse
  let gone := l.recs.take (l.recs.length - kept.length)
  let moved := ((gone.filter fun r => r.at_.isSome).map Rec.bytes).sum
  let ws := l.windows.map fun v => if v.num = w then { v with st := .dropped } else v
  { l with
    windows := ws
    recs := kept
    dead := l.dead ++ deadWords ws gone
    tail := if l.room = 0 then l.tail else BitVec.ofNat 64 ((l.tail.toNat + moved) % l.room) }

/-- Drops the oldest windows until n more bytes fit (22 R389). `fuel` bounds the number of windows. -/
def UndoLog.makeRoom (l : UndoLog) (n : Nat) : Nat → UndoLog
  | 0 => l
  | fuel + 1 =>
    if l.used + n ≤ l.room then l
    else match l.oldest with
      | none => l
      | some w => (l.drop w).makeRoom n fuel

/-- Whether a record of n body doublewords must wait: the log is full and LOGCTL.stall is set (22 R389). -/
def UndoLog.blocks (l : UndoLog) (n : Nat) : Bool := l.en && l.stall && decide (l.room < l.used + 16 + 8 * n)

/-- Appends a record of the current window (22 R383, R387, R389). -/
def UndoLog.append (l : UndoLog) (kind size loc : Nat) (body : List Word) (pc : Word) (src : InputSrc) : UndoLog :=
  if !l.en then l
  else
    let l1 := if l.stall then l else l.makeRoom (16 + 8 * body.length) (l.windows.length + 1)
    match l1.current with
    | none => l1
    | some w =>
      if w.st = .dropped then l1
      else { l1 with recs := l1.recs ++ [{ kind := kind, size := size, loc := loc, window := l1.counter, body := body, at_ := none, put := none, pc := pc, src := src }] }

/-- Appends a record to a context's log. -/
def State.logRec (s : State) (core ctx kind size loc : Nat) (body : List Word) : State :=
  s.modCtx core ctx fun c => { c with log := c.log.append kind size loc body c.pc .other }

/-- Leaves a kind 6 record of a value that enters the acting context, with what supplied it (22 R386, R394). -/
def State.logFrom (s : State) (src : InputSrc) (v : Word) : State :=
  s.modCur fun c => { c with log := c.log.append 6 0 c.log.iret [v] c.pc src }

/-- Leaves a kind 6 record of a value that enters the acting context (22 R386). -/
def State.logInput (s : State) (v : Word) : State := s.logFrom .other v

/-- Words of 32 bits packed two to a doubleword. -/
def pack32 : List Nat → List Word
  | [] => []
  | [a] => [BitVec.ofNat 64 (a % 2 ^ 32)]
  | a :: b :: t => BitVec.ofNat 64 (a % 2 ^ 32 + b % 2 ^ 32 * 2 ^ 32) :: pack32 t

/-- p0 to p15 as sixteen bits, p0 reading one. -/
def Ctx.pbits (c : Ctx) : Nat := (List.range 16).foldl (fun n i => n + b2n (c.getP i) * 2 ^ i) 0

/-- The body of a checkpoint record (22 R385). -/
def Window.body (w : Window) : List Word :=
  let c : Ctx := { Ctx.reset with x := w.x, p := w.p, c := w.c }
  (List.range 32).map c.getX ++ [BitVec.ofNat 64 c.pbits, w.pc] ++ pack32 w.counters ++
    [BitVec.ofNat 64 w.iret, BitVec.ofNat 64 (w.nextM % 2 ^ 32 + w.nextV % 2 ^ 32 * 2 ^ 32), BitVec.ofNat 64 (w.nextC % 2 ^ 32)] ++
    (List.range 16).map c.getC

/-- The push counters of a core's rings. -/
def Core.counters (k : Core) : List Nat := (List.range 8).map fun z => (k.ring z).pushes

/-- Opens an undo window in a context, as part of a joint opening or alone (22 R381, R385, R391, R395). -/
def State.openWindowIn (s : State) (core ctx opener : Nat) (pc : Word) (joint : Option (Nat × Nat)) : State :=
  let k := s.core core
  let c := k.ctx ctx
  let n := (c.log.counter + 1) % 2 ^ 32
  let st : WinSt := if !c.log.en then .dropped else if s.hasCommands core ctx then .closed else .opened
  let w : Window :=
    { num := n, st := st, pushed := false, opener := opener, x := c.x, p := c.p, c := c.c, pc := pc, counters := k.counters,
      iret := c.log.iret, nextM := k.mq.next, nextV := k.vq.next, nextC := k.cq.next, joint := joint }
  let olds : List Window := c.log.windows.map fun v => if v.st = .opened then { v with st := .reversible } else v
  let l := { c.log with counter := n, windows := olds.filter (fun (v : Window) => decide (v.num ≠ n)) ++ [w] }
  s.setCtx core ctx { c with log := l.append 5 0 (opener * 256 + st.code) w.body pc .other }

/-- Opens an undo window in a context alone. -/
def State.openWindow (s : State) (core ctx opener : Nat) (pc : Word) : State := s.openWindowIn core ctx opener pc none

/-- Whether a seal finds something to act on: logging is on, or some window has not been dropped (22 R390, R395; notes/assumptions/13.md). (DEDUCED, unsafe: notes/assumptions/13.md) -/
def UndoLog.sealable (l : UndoLog) : Bool := l.en || l.windows.any fun v => decide (v.st ≠ .dropped)

/-- Seals a context's windows (22 R390). -/
def State.sealCtx (s : State) (core ctx code : Nat) : State :=
  let c := s.ctx core ctx
  if !c.log.sealable then s
  else
    let ws := c.log.windows.map fun v => if v.st = .dropped then v else { v with st := .sealed }
    let s1 := s.setCtx core ctx { c with log := ({ c.log with windows := ws }).append 7 0 code [] c.pc .other }
    s1.openWindow core ctx 5 c.pc

/-- Marks the current window as having pushed (22 R385). -/
def State.markPushed (s : State) (core ctx : Nat) : State :=
  s.modCtx core ctx fun c => { c with log := { c.log with windows := c.log.windows.map fun v => if v.num = c.log.counter then { v with pushed := true } else v } }

/-! ### Groups and synchronisation objects (15, 16) -/

/-- A group. -/
def State.group (s : State) (g : Nat) : Group := Tbl.get Group.reset s.groups g

/-- Replaces a group. -/
def State.setGroup (s : State) (g : Nat) (v : Group) : State := { s with groups := Tbl.set Group.reset s.groups g v }

/-- The member index of a context in a group. -/
def Group.indexOf (g : Group) (core ctx : Nat) : Option Nat := (g.members.find? fun m => m.2.1 == core && m.2.2 == ctx).map (·.1)

/-- Opens a window in every member of a group, as one joint opening (22 R381, R392). -/
def State.openAll (s : State) (g opener : Nat) : State :=
  (s.group g).members.foldl (fun t m => t.openWindowIn m.2.1 m.2.2 opener (t.ctx m.2.1 m.2.2).pc (some (g, s.openings))) { s with openings := s.openings + 1 }

/-- Runs what the acting instruction does to the windows as of the instruction after it: the checkpoint of a window that the
instruction opens resumes there and counts it as completed (22 R382). -/
def State.ahead (s : State) (f : State → State) : State :=
  (f (s.modCur fun c => { c with pc := c.pc + 4, log := { c.log with iret := c.log.iret + 1 } })).modCur fun c =>
    { c with log := { c.log with iret := c.log.iret - 1 } }

/-- A barrier's fields, from its four doublewords (16 R311). -/
structure SyncObj where
  kind : Nat
  scope : Nat
  tied : Bool
  group : Nat
  expected : Nat
  phase : Nat
  arrivals : Nat
  events : Nat
  malformed : Bool
  deriving DecidableEq, Repr

/-- Reads a synchronisation object (16 R311). -/
def State.syncObj (s : State) (loc : Nat) : SyncObj :=
  let h := s.read loc 8
  let st := s.read (loc + 8) 8
  let ev := s.read (loc + 16) 8
  let kind := bitsOf h 63 56
  let scope := bitsOf h 50 48
  let tied := bitOf h 44
  let expected := bitsOf h 31 0
  { kind := kind, scope := scope, tied := tied, group := bitsOf h 43 32, expected := expected, phase := bitsOf st 63 32,
    arrivals := bitsOf st 31 0, events := bitsOf ev 31 0,
    malformed := decide (kind ≠ 1 ∧ kind ≠ 2) || decide (scope = 0 ∨ scope > 3) || decide (bitsOf h 55 51 ≠ 0)
      || decide (bitsOf h 47 45 ≠ 0) || decide (bitsOf ev 63 32 ≠ 0) || decide (s.read (loc + 24) 8 ≠ 0)
      || (decide (kind = 1) && (tied || decide (bitsOf h 43 32 ≠ 0) || decide (expected ≠ 0)))
      || (decide (kind = 2) && tied && decide (expected ≠ 0))
      || (decide (kind = 2) && !tied && (decide (expected = 0) || decide (bitsOf h 43 32 ≠ 0))) }

/-- The arrivals a phase awaits: expected, or the member count of the tied group now (16 R313, 15 R306). -/
def State.target (s : State) (o : SyncObj) : Nat := if o.tied then (s.group o.group).members.length else o.expected

/-- Whether an operation on the events of an object fires a watchpoint of a mask: an arrival sets a bit of the mask, a last arrival first
leaves every bit of it set (16 R321). -/
def eventFires (sel mask set before after : Nat) : Bool :=
  (sel == 1 && decide (set &&& mask ≠ 0)) ||
    (sel == 2 && decide (mask ≠ 0) && decide (after &&& mask = mask) && decide (before &&& mask ≠ mask))

/-- A watched transition of an object: hit is set, WPCYC written and the owner's trap made pending (16 R320, R321). Transition 4 is an
operation on its events that sets bits `set`. -/
def State.watch (s : State) (loc home transition set before after : Nat) : State :=
  s.mapCtxs fun core _ c =>
    let harbour := bitOf c.wpobj.toNat 33
    let watched := if harbour then harbourBase + bitsOf c.wpobj.toNat 32 0 else bitsOf c.wpobj.toNat 32 0
    let sel := bitsOf c.wpctl.toNat 1 0
    let fires := decide (watched = loc) && (!harbour || core == harbourId) && !bitOf c.wpctl.toNat 4 &&
      (if transition = 4 then eventFires sel (bitsOf c.wpctl.toNat 63 32) set before after else decide (sel ≠ 0) && decide (sel = transition))
    if fires then
      let ctl := if bitOf c.wpctl.toNat 5 then putBits c.wpctl.toNat 0 2 0 else c.wpctl.toNat
      { c with wpctl := BitVec.ofNat 64 (putBits ctl 4 1 1), wpcyc := BitVec.ofNat 64 (s.core home).cycle, wpTrap := true }
    else c

/-- The core whose slice holds a location (16 R312). -/
def homeOf (loc : Nat) : Nat := if loc ≥ harbourBase then harbourId else loc / 2 ^ 22

/-- After an operation at an object's home unit, every waiter whose mask its event word completes is notified with that word (16 R316, R319). -/
def State.serve (s : State) (loc : Nat) : State :=
  let w := (s.syncObj loc).events
  s.mapCtxs fun _ _ c =>
    match c.waiter with
    | some (.mask l m) => if l = loc ∧ w &&& m = m then { c with waiter := some (.notified l w) } else c
    | _ => c

/-- The operation of a SIG or K.EVENT at the home unit: the bits are set and every waiter whose mask they complete is notified (16 R316). -/
def State.signalObject (s : State) (loc mask : Nat) : State :=
  if mask = 0 then s
  else
    let before := (s.syncObj loc).events
    let after := before ||| mask
    ((s.write (loc + 16) 4 after).serve loc).watch loc (homeOf loc) 4 mask before after

/-! ### Flips (16 R314) -/

/-- The name of an object in BPEND: flat address, or offset in the harbour core's SRAM (16 R315). -/
def bpendOf (loc phase : Nat) : Bpend :=
  { valid := true, harbour := decide (harbourBase ≤ loc), obj := if harbourBase ≤ loc then loc - harbourBase else loc, phase := phase }

/-- Whether BPEND names an object (16 R313, R315). -/
def Bpend.names (b : Bpend) (loc : Nat) : Bool := let v := bpendOf loc 0; b.valid && b.harbour == v.harbour && b.obj == v.obj

/-- Whether a context still has a BARR of phase n at a barrier to complete: its arrival is counted and the context can go on (16 R314, R315). -/
def Ctx.owes (c : Ctx) (loc n : Nat) : Bool :=
  c.bpend.names loc && decide (c.bpend.phase = n) && decide (c.st = .running ∨ c.st = .waiting ∨ c.st = .handler ∨ c.st = .saved)

/-- Whether a flip of a lockstep group's barrier is in progress (15 R309, 16 R314). -/
def State.flipping (s : State) (g : Nat) : Bool :=
  s.listed.any fun e => match (s.ctx e.1 e.2).flip with | some m => m.group == some g | none => false

/-- The flip of the present phase of a barrier, with the lockstep group that it is tied to. -/
def State.flipMark (s : State) (loc : Nat) (o : SyncObj) : FlipMark :=
  { loc := loc, phase := o.phase, group := if o.tied && decide ((s.group o.group).kind = .lockstep) then some o.group else none }

/-- Ends a flip that no context holds up any more: transition 3 fires, and the members of a lockstep group open windows (16 R314, R321, 15 R306). -/
def State.settleFlip (s : State) (m : FlipMark) : State :=
  if s.listed.any (fun e => match (s.ctx e.1 e.2).flip with | some f => f.loc == m.loc && f.phase == m.phase | none => false) then s
  else
    let s1 := s.watch m.loc (homeOf m.loc) 3 0 0 0
    match m.group with
    | none => s1
    | some g => (s1.setGroup g { s1.group g with flip := s1.flipping g }).openAll g 3

/-- A flip of the present phase of the barrier at loc (16 R314): phase + 1, arrivals 0, every waiter of the phase notified. It is in
progress until every context whose arrival it counted has completed its BARR. -/
def State.flip (s : State) (loc : Nat) (o : SyncObj) : State :=
  let m := s.flipMark loc o
  let s1 := s.write (loc + 8) 8 ((o.phase + 1) % 2 ^ 32 * 2 ^ 32)
  let s2 := s1.mapCtxs fun _ _ c =>
    let d := if c.owes loc o.phase then { c with flip := some m } else c
    if c.waiter = some (.phase loc o.phase) then { d with waiter := some (.flipped loc o.phase) } else d
  let s3 := match m.group with
    | some g => s2.setGroup g { s2.group g with flip := true }
    | none => s2
  s3.settleFlip m

/-- A context no longer holds up the flip that it was notified of (16 R314). -/
def State.clearFlip (s : State) (core ctx : Nat) : State :=
  match (s.ctx core ctx).flip with
  | none => s
  | some m => (s.modCtx core ctx fun c => { c with flip := none }).settleFlip m

/-- Whether n bytes at l meet the state doubleword of the object at loc. -/
def touchesState (loc l n : Nat) : Bool := decide (l < loc + 16) && decide (loc + 8 < l + n)

/-- An ordinary write of n bytes at l as the object units see it: a phase that now differs from a waiter's completes its BARR, and a write to
the state doubleword ends a flip (16 R318, R322; notes/assumptions/68.md). (DEDUCED, unsafe: notes/assumptions/68.md) -/
def State.notice (s : State) (l n : Nat) : State :=
  let s1 := s.mapCtxs fun _ _ c =>
    let d := match c.waiter with
      | some (.phase obj ph) => if touchesState obj l n && decide ((s.syncObj obj).phase ≠ ph) then { c with waiter := some (.flipped obj ph) } else c
      | _ => c
    match c.flip with
    | some m => if touchesState m.loc l n then { d with flip := none } else d
    | none => d
  s1.groups.foldl (fun t e => if e.2.flip && !s1.flipping e.1 then t.setGroup e.1 { t.group e.1 with flip := false } else t) s1

/-! ### Stores that have not reached memory -/

/-- What an entry of a store buffer does to memory (05 R88): a store's bytes, the bits of a SIG on an object, the increment of a REL. -/
def State.effect (s : State) (e : SbEntry) : State :=
  match e.kind with
  | .store => s.write e.loc e.size e.value.toNat
  | .signal => if e.size = 0 then s else s.write (e.loc + 16) 4 ((s.syncObj e.loc).events ||| e.value.toNat % 2 ^ 32)
  | .ring => s
  | .release => s.write e.loc 8 ((s.read e.loc 8 + 1) % 2 ^ 64)

/-- The n bytes at a location as a context sees them, behind its buffered entries (09 R227, Coherence). -/
def State.seen (s : State) (sb : List SbEntry) (loc n : Nat) : Nat := (sb.foldl State.effect s).read loc n

/-- A write of n bytes takes effect: what it overwrites is noted, as fetches may still see it (03 R50), and the object units see the new
bytes (16 R318). Stores, commands, streams and the host write memory through it. -/
def State.storeBy (s : State) (src : InputSrc) (loc n v : Nat) : State :=
  ({ s with overwritten := { loc := loc, size := n, old := s.read loc n, src := src } :: s.overwritten }.write loc n v).notice loc n

/-- A write by a party that no replay makes again. -/
def State.storeAt (s : State) (loc n v : Nat) : State := s.storeBy .other loc n v

/-- What wrote the n bytes at a location last, as far as it is known (22 R394). -/
def State.supplier (s : State) (loc n : Nat) : InputSrc :=
  match s.overwritten.find? fun e => decide (e.loc < loc + n) && decide (loc < e.loc + e.size) with
  | some e => e.src
  | none => .other

/-- What stands for the event word of a core among the places written: no byte address. -/
def evwMark (core : Nat) : Nat := 2 ^ 59 + 4 * core

/-- Notes what set bits of a core's event word or of an object's (22 R394). -/
def State.noteEvents (s : State) (src : InputSrc) (place : Nat) : State :=
  { s with overwritten := { loc := place, size := 4, old := s.read place 4, src := src } :: s.overwritten }

/-- Whether a write of n bytes at l stays within a command's write sets, in the slice of its core (23 R397). -/
def Entry.covers (e : Entry) (home l n : Nat) : Bool :=
  decide (sliceBase home ≤ l ∧ l + n ≤ sliceBase home + 2 ^ 22) && e.writeSets.any fun r =>
    decide (r.start ≤ l % 2 ^ 22 / 64) && decide ((l % 2 ^ 22 + n - 1) / 64 < r.start + r.length)

/-- Whether a command runs for a context whose write it does not cover. -/
def Entry.leftBy (e : Entry) (q : QueueId) (core ctx l n : Nat) : Bool :=
  decide (e.st = .running) && e.core == core && e.ctx == ctx && !e.covers (homeCore q e) l n

/-- A write by a context escapes from each running phase that it pushed and that does not cover it (23 R397). (DEDUCED, safe: notes/assumptions/69.md) -/
def State.escapes (s : State) (core ctx l n : Nat) : State :=
  s.allQueues.foldl (fun t q =>
    if (s.queue q).entries.any (fun e => e.leftBy q core ctx l n) then
      t.modQueue q fun v => { v with entries := v.entries.map fun e => if e.leftBy q core ctx l n then { e with escaped := true } else e }
    else t) s

/-- A write of n bytes by a context takes effect, and escapes from its phases that do not cover it (23 R397). -/
def State.writeFor (s : State) (core ctx iret loc n v : Nat) : State := (s.storeBy (.write core ctx iret) loc n v).escapes core ctx loc n

/-- A ring entry reaches its consumer (05 R112, 10 R247). -/
def Core.showEntry (k : Core) (z count : Nat) : Core := k.setRing z { k.ring z with visible := max (k.ring z).visible (count + 1) }

/-- Performs one buffered entry of a context (05 R88). -/
def State.perform (s : State) (core ctx : Nat) (e : SbEntry) : State :=
  match e.kind with
  | .store => s.writeFor core ctx e.iret e.loc e.size e.value.toNat
  | .signal =>
    if e.size = 0 then (s.noteEvents (.write core ctx e.iret) (evwMark e.loc)).signal e.loc e.value.toNat
    else (s.noteEvents (.write core ctx e.iret) (e.loc + 16)).signalObject e.loc (e.value.toNat % 2 ^ 32)
  | .ring => s.modCore e.loc fun k => k.showEntry e.size e.value.toNat
  | .release => s.writeFor core ctx e.iret e.loc 8 ((s.read e.loc 8 + 1) % 2 ^ 64)

/-- Performs every buffered entry of a context, oldest first: a release (05 R88, R101, R104). -/
def State.drain (s : State) (core ctx : Nat) : State :=
  ((s.ctx core ctx).sbuf.foldl (fun t e => t.perform core ctx e) s).modCtx core ctx fun c => { c with sbuf := [] }

/-- Releases the acting context's earlier stores. (DEDUCED, unsafe: notes/assumptions/6.md) -/
def State.release (s : State) : State := s.drain s.focus.core s.focus.ctx

/-- Performs the buffered stores of every context that holds one to a page: the accesses that have been translated (17 R326). -/
def State.settlePages (s : State) : State :=
  s.listed.foldl (fun t p => if (s.ctx p.1 p.2).sbuf.any (fun e => decide (2 ^ 52 ≤ e.loc)) then t.drain p.1 p.2 else t) s

/-- Puts an entry into the acting context's store buffer (05 R88). -/
def State.buffer (s : State) (kind : SbKind) (loc size : Nat) (value : Word) : State :=
  s.modCur fun c => { c with sbuf := c.sbuf ++ [{ kind := kind, loc := loc, size := size, value := value, iret := c.log.iret }] }

/-- Whether the acting context's store buffer takes no further entry (05 R88). -/
def State.bufferFull (s : State) : Bool := decide (16 ≤ s.cur.sbuf.length)

/-! ### Leaving a group (15 R303) -/

/-- The barriers that memory holds tied to a group: every object in SRAM whose kind byte is 2 (16 R311). -/
def State.tiedTo (s : State) (g : Nat) : List Nat :=
  (s.mem.filterMap fun e => if e.1 % 32 = 7 ∧ e.2 = 2 ∧ e.1 < harbourBase + 2 ^ 22 then some (e.1 - 7) else none).filter fun l =>
    let o := s.syncObj l
    decide (o.kind = 2) && o.tied && decide (o.group = g)

/-- Removes a context from a group (15 R303, R306, R308): a tied barrier whose remaining members have all arrived flips. -/
def State.leaveGroup (s : State) (g core ctx : Nat) : State :=
  let v := s.group g
  if (v.indexOf core ctx).isNone then s
  else
    let rest := v.members.filter fun m => decide (¬(m.2.1 = core ∧ m.2.2 = ctx))
    let s1 := s.setGroup g (if rest.isEmpty then Group.reset else { v with members := rest, stall := v.stall.filter fun c => decide (c.1 ≠ core) })
    let s2 := (s1.openAll g 4).openWindow core ctx 4 (s1.ctx core ctx).pc
    (s.tiedTo g).foldl (fun s l =>
      let o := s.syncObj l
      if o.kind = 2 ∧ o.tied = true ∧ o.group = g ∧ 0 < o.arrivals ∧ s.target o ≤ o.arrivals then (s.flip l o).serve l else s) s2

/-! ### Kernels and iterations that a context can end -/

/-- Kernel `id` of a queue. -/
def State.kernel (s : State) (kq id : Nat) : Option Kernel := (Tbl.get [] s.kqs kq).find? fun k => k.id == id

/-- Changes a kernel. -/
def State.modKernel (s : State) (kq id : Nat) (f : Kernel → Kernel) : State :=
  { s with kqs := Tbl.set [] s.kqs kq ((Tbl.get [] s.kqs kq).map fun k => if k.id = id then f k else k) }

/-- Faults the kernel of a context's iteration (14 R296). -/
def State.kernelFault (s : State) (it : Option IterRef) (cause : Nat) : State :=
  match it with
  | none => s
  | some r => s.modKernel r.kq r.record fun k => if k.st = .faulted then k else { k with st := .faulted, cause := cause }


/-- Removes a context from every group (15 R303). -/
def State.leaveAll (s : State) (core ctx : Nat) : State :=
  s.groups.foldl (fun s e => s.leaveGroup e.1 core ctx) s

/-- The context's part of its iteration ends (05 R95, 14 R290): its stores are performed, then it is idle. With its last context the iteration
ends, and the core's contexts leave their groups (15 R303). -/
def State.endPart (s : State) (core ctx : Nat) : State :=
  let it := (s.ctx core ctx).iter
  let s1 := ((s.drain core ctx).clearFlip core ctx).modCtx core ctx fun c => { c with st := .idle, iter := none }
  match it with
  | none => s1
  | some r =>
    if [0, 1, 2].any fun n => decide ((s1.ctx core n).iter = some r) then s1
    else ([0, 1, 2].foldl (fun s n => s.leaveAll core n) s1).modKernel r.kq r.record fun k =>
      { k with ended := k.ended + 1, live := k.live.filter fun p => decide (p ≠ (core, r.i)) }

/-! ### Taking an exception -/

/-- The iteration-end address (05 R95). -/
def iterationEnd : Word := 0xFFFFFFFFFFFFFFFC

/-- A waiter that stops waiting, at a trap or a pre-emption: once notified, it holds up its flip no longer (16 R314). -/
def State.dropWaiter (s : State) (core ctx : Nat) : State :=
  let s1 := s.modCtx core ctx fun c => { c with waiter := none, block := none }
  match (s.ctx core ctx).waiter with
  | some (.flipped _ _) => s1.clearFlip core ctx
  | _ => s1

/-- Freezes a context (10 R250): issue stops, a wrack entry is written, the harbour core is interrupted, its kernel faults (14 R296). -/
def State.freezeCtx (s : State) (core ctx cause : Nat) : State :=
  let it := (s.ctx core ctx).iter
  let s1 := ((s.modCtx core ctx fun c => { c with st := .frozen }).dropWaiter core ctx).clearFlip core ctx
  ((s1.wrackAdd 1 cause 0 (wrackSource core ctx) 0 (s1.core core).cycle).hirq 0).kernelFault it cause

/-- Location of a context's frame (10 R243). -/
def frameLoc (core ctx : Nat) : Nat := sliceLoc core (0x3EE000 + 0x400 * ctx)

/-- BPEND as a register reads it (16 R315). -/
def Bpend.word (b : Bpend) : Nat := b2n b.valid * 2 ^ 63 + b2n b.harbour * 2 ^ 60 + b.obj / 32 * 2 ^ 32 + b.phase

/-- BPEND from its word (16 R315). -/
def Bpend.of (w : Nat) : Bpend :=
  { valid := bitOf w 63, harbour := bitOf w 60, obj := 32 * bitsOf w (if bitOf w 60 then 48 else 59) 32, phase := w % 2 ^ 32 }

/-- Writes a context's frame (10 R241, R243): registers, return address, TSTAT, TINFO, the level, ring counters, BPEND, command registers. -/
def State.writeFrame (s : State) (core ctx : Nat) (ret tstat tinfo : Word) : State :=
  let k := s.core core
  let c := k.ctx ctx
  let b := frameLoc core ctx
  let s1 := s.writeDs b ((List.range 32).map c.getX)
  let s2 := s1.writeDs (b + 0x100) ([BitVec.ofNat 64 c.pbits, ret, tstat, tinfo, BitVec.ofNat 64 (b2n (s.privileged core ctx))] ++ pack32 k.counters ++ [BitVec.ofNat 64 c.bpend.word])
  s2.writeDs (b + 0x180) ((List.range 16).map c.getC)

/-- Takes a trap in a context (10 R241): a double trap freezes it; else the frame is written, TSTAT and TINFO set, busy and the
level raised, and the handler at TVEC is next. `source` is 0 instruction, 1 interrupt, 2 to 4 streams. -/
def State.takeTrap (s : State) (core ctx cause : Nat) (tinfo : Word) (source : Nat) (ret : Word) : State :=
  if (s.ctx core ctx).busy then s.freezeCtx core ctx cause
  else
    let tstat := BitVec.ofNat 64 (source * 2 ^ 16 + cause)
    let s1 := (s.drain core ctx).writeFrame core ctx ret tstat tinfo
    let s2 := s1.modCtx core ctx fun c =>
      { c with tstat := tstat, tinfo := tinfo, busy := true, ppriv := c.priv, priv := true, pc := c.tvec, st := .handler }
    s2.dropWaiter core ctx

/-- Sets the push counter of a ring from 32 stored bits; entries from it on are held back (05 R112, 10 R247). -/
def Ring.restore (r : Ring) (v : Nat) : Ring :=
  let n := r.pushes - r.pushes % 2 ^ 32 + v % 2 ^ 32
  { r with pushes := n, visible := min r.visible n }

/-- Restores the push counters of the rings whose producer is a context (10 R242). -/
def Core.restoreCounters (k : Core) (ctx : Nat) (vs : List Nat) : Core :=
  (List.range 8).foldl (fun k z => if (k.ring z).prod = ctx then k.setRing z ((k.ring z).restore (vs.getD z 0)) else k) k

/-- The registers of a context as a frame holds them. -/
def State.restoreRegs (s : State) (core ctx : Nat) : State :=
  let b := frameLoc core ctx
  let pw := s.read (b + 0x100) 8
  let s1 := s.modCtx core ctx fun c =>
    let c1 := (List.range 32).foldl (fun c n => c.setX n (s.readD (b + 8 * n))) c
    let c2 := (List.range 16).foldl (fun c n => c.setP n (bitOf pw n)) c1
    (List.range 16).foldl (fun c n => c.setC n (s.readD (b + 0x180 + 8 * n))) c2
  s1.modCore core fun k => k.restoreCounters ctx ((List.range 8).map fun z => s.read (b + 0x128 + 4 * z) 4)

/-- Returns a context from its frame (10 R242): registers, ring counters and the level; busy clears. -/
def State.returnFromTrap (s : State) (core ctx : Nat) : State :=
  let b := frameLoc core ctx
  let s1 := (s.drain core ctx).restoreRegs core ctx
  s1.modCtx core ctx fun c =>
    { c with pc := s1.readD (b + 0x108), priv := bitOf (s1.read (b + 0x120) 8) 0, busy := false, st := .running }

/-! ### How an instruction of a context finishes -/

/-- What an instruction's meaning answers before the program counter moves. `trapIn` is a trap after an effect that stays, such as the record in SPOR (05 R97). -/
inductive CtxRes where
  | done (s : State)
  | jump (s : State) (target : Word)
  | trap (cause : Nat) (info : Word)
  | trapIn (s : State) (cause : Nat) (info : Word)
  | wait (s : State)

/-- The acting context's next instruction is at pc; the instruction counts as completed (22 R388) and a wait is over (10 R233). -/
def State.retire (s : State) (pc : Word) : State :=
  s.modCur fun c => { c with pc := pc, st := if c.st = .waiting then (if c.busy then .handler else .running) else c.st,
                             log := { c.log with iret := c.log.iret + 1 } }

/-- A trap at the acting context's instruction, whose return address is the instruction itself (05 R120). -/
def State.trapHere (s : State) (cause : Nat) (info : Word) : State :=
  s.takeTrap s.focus.core s.focus.ctx cause info 0 s.cur.pc

/-- The acting context waits at its instruction (05 R89, 10 R233). -/
def State.waitHere (s : State) : State := s.modCur fun c => { c with st := .waiting }

/-- Finishes an instruction begun in s. A taken target that is no multiple of 4 traps at the jump (05 R94); the iteration-end
address ends the context's part (R95). -/
def finish (s : State) (r : CtxRes) : Host.Outcome State Fault Refusal :=
  match r with
  | .done t => .next (t.retire (s.cur.pc + 4))
  | .jump t target =>
    if target.toNat % 4 ≠ 0 then .next (s.trapHere 0x03 target)
    else if target = iterationEnd then .next ((t.retire target).endPart s.focus.core s.focus.ctx)
    else .next (t.retire target)
  | .trap c i => .next (s.trapHere c i)
  | .trapIn t c i => .next (t.trapHere c i)
  | .wait t => .next t.waitHere

/-- Finishes a guarded instruction: guarded off, it changes nothing and the next instruction follows (03 R52). -/
def guarded (s : State) (g : Guard) (r : CtxRes) : Host.Outcome State Fault Refusal :=
  finish s (if s.holds g then r else .done s)

/-! ### Values that enter a context, and their replay (22 R386, R393) -/

/-- Whether the acting context replays. -/
def State.replaying (s : State) : Bool := s.cur.log.replay.isSome

/-- The recorded value of the instruction being replayed, if the next record is its own (22 R393). -/
def State.takeInput (s : State) : Option (Rec × State) :=
  match s.cur.log.inputs with
  | [] => none
  | r :: rest =>
    if r.loc = s.cur.log.iret ∧ r.pc = s.cur.pc then some (r, s.modCur fun c => { c with log := { c.log with inputs := rest } }) else none

/-- Whether a recorded value still waits for instructions of the member that a group's STEPBACK names, which its replay has not come to: the
entry of a ring, what it wrote itself, or what that member's own remaining records name: a phase, a command (22 R394). (DEDUCED, safe: notes/assumptions/22.md) -/
def State.unsupplied (s : State) (r : Rec) : Bool :=
  match s.cur.log.lead, r.src with
  | none, _ => false
  | _, .other => false
  | _, .ring core z count => decide (((s.core core).ring z).pushes ≤ count)
  | some m, .write core ctx iret => decide (m = (core, ctx)) && decide ((s.ctx core ctx).log.iret ≤ iret)
  | some m, src => (s.ctx m.1 m.2).log.inputs.any fun i => i.src == src

/-- An instruction whose result enters from outside: in replay the recorded value is taken and nothing else happens (22 R393), once it is
supplied (R394). -/
def withInput (s : State) (rd : Nat) (r : CtxRes) : CtxRes :=
  if s.replaying then
    match s.takeInput with
    | none => r
    | some (i, t) => let v := i.body.headD 0; if s.unsupplied i then .wait s else .done ((t.setX rd v).logFrom i.src v)
  else r

end Sys2Proof.Machine
end

