-- ==== Sys2Proof/Machine/Flags.lean ====
section
/-! DEFINITION. Number formats, exact arithmetic, rounding, and the status flags each operation raises (02 R19 to R45). Flags are a number whose bits are those of R25: 0 inexact, 1 underflow, 2 overflow, 3 division by zero, 4 invalid, 5 bad code, 6 saturated. -/

namespace Sys2Proof.Machine

def fInexact : Nat := 1
def fUnderflow : Nat := 2
def fOverflow : Nat := 4
def fDivzero : Nat := 8
def fInvalid : Nat := 16
def fBadcode : Nat := 32
def fSat : Nat := 64

/-- A value: a NaN, an infinity, or (-1)^neg · m · 2^e exactly. -/
inductive Val where
  | nan (signalling : Bool)
  | inf (neg : Bool)
  | num (neg : Bool) (m : Nat) (e : Int)
  deriving DecidableEq, Repr

/-- Plus zero. -/
def Val.zero : Val := .num false 0 0

/-- An exact integer. -/
def Val.ofInt (i : Int) : Val := .num (decide (i < 0)) i.natAbs 0

/-- The value with its sign inverted. -/
def Val.negate : Val → Val
  | .nan q => .nan q
  | .inf n => .inf (!n)
  | .num n m e => .num (!n) m e

/-- The value times 2^k, exactly. -/
def Val.scaled (v : Val) (k : Int) : Val :=
  match v with
  | .num n m e => .num n m (e + k)
  | v => v

def Val.isNan : Val → Bool
  | .nan _ => true
  | _ => false

def Val.isZero : Val → Bool
  | .num _ 0 _ => true
  | _ => false

def Val.isInf : Val → Bool
  | .inf _ => true
  | _ => false

def Val.neg : Val → Bool
  | .nan _ => false
  | .inf n => n
  | .num n _ _ => n

/-- Invalid, for a signalling NaN operand (R22). -/
def Val.sigFlag : Val → Nat
  | .nan true => fInvalid
  | _ => 0

/-- A format-table entry (R37). -/
structure Slot where
  fmt : Nat
  scale : Int
  rnd : Nat
  sat : Bool
  zabs : Bool
  badtrap : Bool
  flush : Bool
  deriving DecidableEq, Repr

/-- The fields of a format-table entry (R37). -/
def Slot.of (e : Nat) : Slot :=
  { fmt := bitsOf e 3 0, scale := sextNat 8 (bitsOf e 11 4), rnd := bitsOf e 13 12, sat := bitOf e 14, zabs := bitOf e 15,
    badtrap := bitOf e 16, flush := bitOf e 17 }

/-- A reserved format code or reserved bits in an entry (R40). -/
def slotReserved (e : Nat) : Bool := decide (bitsOf e 31 18 ≠ 0) || decide (bitsOf e 3 0 ≥ 12)

/-- Fraction bits of a floating format (R21). -/
def fracBits (fmt : Nat) : Nat := if fmt = 0 then 23 else if fmt = 1 then 7 else 10

/-- Exponent bits of a floating format (R21). -/
def expBits (fmt : Nat) : Nat := if fmt = 2 then 5 else 8

/-- Bits below the sign of a floating format. -/
def magBits (fmt : Nat) : Nat := fracBits fmt + expBits fmt

/-- Exponent of the smallest normal number (R21). -/
def expMin (fmt : Nat) : Int := 2 - 2 ^ (expBits fmt - 1)

def isFloat (fmt : Nat) : Bool := decide (fmt ≤ 2)
def isInteger (fmt : Nat) : Bool := decide (fmt = 3 ∨ fmt = 4 ∨ fmt = 5 ∨ fmt = 6 ∨ fmt = 11)
def isComplex (fmt : Nat) : Bool := decide (fmt = 9 ∨ fmt = 10)

/-- The canonical quiet NaN (R21, R22). -/
def canonicalNan (fmt : Nat) : Nat := (2 ^ expBits fmt - 1) * 2 ^ fracBits fmt + 2 ^ (fracBits fmt - 1)

/-- The infinity of a sign. -/
def infBits (fmt : Nat) (neg : Bool) : Nat := b2n neg * 2 ^ magBits fmt + (2 ^ expBits fmt - 1) * 2 ^ fracBits fmt

/-- The largest finite value of a sign. -/
def maxFinite (fmt : Nat) (neg : Bool) : Nat := infBits fmt neg - 1

/-- The value of a floating code; a flushing slot reads subnormals as zeros (R21, R23). -/
def fpVal (fmt : Nat) (flush : Bool) (w : Nat) : Val :=
  let neg := bitOf w (magBits fmt)
  let f := w % 2 ^ fracBits fmt
  let e := w / 2 ^ fracBits fmt % 2 ^ expBits fmt
  if e = 2 ^ expBits fmt - 1 then
    if f = 0 then .inf neg else .nan (decide (f < 2 ^ (fracBits fmt - 1)))
  else if e = 0 then .num neg (if flush then 0 else f) (expMin fmt - fracBits fmt)
  else .num neg (f + 2 ^ fracBits fmt) (expMin fmt - fracBits fmt + (e : Int) - 1)

/-- m / 2^sh rounded by a mode (R37), and whether that changed the value. -/
def roundShift (rnd : Nat) (neg : Bool) (m sh : Nat) : Nat × Bool :=
  let q := m / 2 ^ sh
  let r := m % 2 ^ sh
  let up := match rnd with
    | 0 => decide (2 * r > 2 ^ sh) || (decide (2 * r = 2 ^ sh) && decide (q % 2 = 1))
    | 1 => false
    | 2 => neg && decide (r ≠ 0)
    | _ => !neg && decide (r ≠ 0)
  (q + b2n up, decide (r ≠ 0))

/-- m · 2^e rounded to a multiple of 2^q: the multiple, and whether that changed the value. -/
def roundAt (rnd : Nat) (neg : Bool) (m : Nat) (e q : Int) : Nat × Bool :=
  if q ≤ e then (m * 2 ^ (e - q).toNat, false) else roundShift rnd neg m (q - e).toNat

/-- Rounds a finite value into a floating format (R23, R24; underflow judged after rounding, R25). (DEDUCED, unsafe: notes/assumptions/30.md) -/
def roundFp (fmt rnd : Nat) (sat flush neg : Bool) (m : Nat) (e : Int) : Nat × Nat :=
  let sign := b2n neg * 2 ^ magBits fmt
  if m = 0 then (sign, 0)
  else
    let fb := fracBits fmt
    let top : Int := (Nat.log2 m : Nat) + e
    let q : Int := max top (expMin fmt) - fb
    let r := roundAt rnd neg m e q
    let code := (q - (expMin fmt - fb)).toNat * 2 ^ fb + r.1
    let wide := roundAt rnd neg m e (top - fb)
    let tiny := decide (top < expMin fmt) && !(decide (wide.1 = 2 ^ (fb + 1)) && decide (top = expMin fmt - 1))
    if code ≥ (2 ^ expBits fmt - 1) * 2 ^ fb then
      let big := !sat && (decide (rnd = 0) || (decide (rnd = 2) && neg) || (decide (rnd = 3) && !neg))
      (if big then infBits fmt neg else maxFinite fmt neg, fOverflow + fInexact)
    else if flush && decide (code < 2 ^ fb) && decide (code ≠ 0) then (sign, fUnderflow + fInexact)
    else (sign + code, b2n r.2 * fInexact + b2n (tiny && r.2) * fUnderflow)

/-- Writes a value in a floating format under a slot's options; a NaN becomes canonical (R22). -/
def fpBits (fmt : Nat) (s : Slot) : Val → Nat × Nat
  | .nan q => (canonicalNan fmt, if q then fInvalid else 0)
  | .inf n => (infBits fmt n, 0)
  | .num n m e => roundFp fmt s.rnd s.sat s.flush n m e

/-! ### Exact sums -/

/-- Whether a list of signs holds both, or the sum of its zeros is negative: the sign of an exact zero (R133). -/
def zeroSign (rnd : Nat) (signs : List Bool) : Bool :=
  if signs.all id then !signs.isEmpty else if signs.any id then decide (rnd = 2) else false

/-- The exact product of two values, and invalid for a zero times an infinity (R43, R133). Where the slot has zabs set, a zero times
anything is +0 and raises nothing (R37, R43). (DEDUCED, unsafe: notes/assumptions/60.md) -/
def mulVal (zabs : Bool) (a b : Val) : Val × Nat :=
  let f := a.sigFlag ||| b.sigFlag
  let s := xor a.neg b.neg
  if zabs && (a.isZero || b.isZero) then (.zero, 0)
  else if (a.isInf && b.isZero) || (a.isZero && b.isInf) then (.nan false, f ||| fInvalid)
  else if a.isNan || b.isNan then (.nan false, f)
  else match a, b with
    | .num _ m e, .num _ m' e' => (.num s (m * m') (e + e'), f)
    | _, _ => (.inf s, f)

/-- A signed magnitude at an exponent, for exact addition. -/
def addExact (x y : Int × Int) : Int × Int :=
  if x.2 ≤ y.2 then (x.1 + y.1 * 2 ^ (y.2 - x.2).toNat, x.2) else (x.1 * 2 ^ (x.2 - y.2).toNat + y.1, y.2)

/-- The signed numerator of a finite value. -/
def Val.signed : Val → Int × Int
  | .num n m e => (if n then -(m : Int) else m, e)
  | _ => (0, 0)

/-- The exact sum of values: infinities of both signs give a NaN and invalid, also beside a NaN (R43, R145); an exact zero takes its sign
from R133. -/
def sumVals (rnd : Nat) (vs : List Val) : Val × Nat :=
  let is := vs.filter Val.isInf
  let opposed := is.any Val.neg && !is.all Val.neg
  let f := vs.foldl (fun n v => n ||| v.sigFlag) (if opposed then fInvalid else 0)
  if vs.any Val.isNan || opposed then (.nan false, f)
  else if !is.isEmpty then (.inf (is.any Val.neg), f)
  else
    let nz := vs.filter fun v => !v.isZero
    if nz.isEmpty then (.num (zeroSign rnd (vs.map Val.neg)) 0 0, f)
    else
      let t := nz.foldl (fun t v => addExact t v.signed) (0, (nz.headD Val.zero).signed.2)
      if t.1 = 0 then (.num (decide (rnd = 2)) 0 0, f) else (.num (decide (t.1 < 0)) t.1.natAbs t.2, f)

/-- The exact sum of products and addends, before its one rounding (R44). -/
def sumExact (rnd : Nat) (zabs : Bool) (ps : List (Val × Val)) (as : List Val) : Val × Nat :=
  let qs := ps.map fun p => mulVal zabs p.1 p.2
  let adds := as.map fun v => if v.isNan then Val.nan false else v
  let f := qs.foldl (fun n q => n ||| q.2) (as.foldl (fun n v => n ||| v.sigFlag) 0)
  let r := sumVals rnd (qs.map (·.1) ++ adds)
  (r.1, f ||| r.2)

/-- sumExact rounded once into a floating format under a slot (R44). -/
def sumRounded (fmt : Nat) (s : Slot) (ps : List (Val × Val)) (as : List Val) : Nat × Nat :=
  let r := sumExact s.rnd s.zabs ps as
  let b := fpBits fmt s r.1
  (b.1, r.2 ||| b.2)

/-- A quotient of two positive integers times 2^e, with a sticky last bit below any rounding point. -/
def quotient (m n : Nat) (e : Int) : Nat × Int :=
  let k := Nat.log2 n + 40
  let q := m * 2 ^ k / n
  (2 * q + b2n (decide (m * 2 ^ k % n ≠ 0)), e - k - 1)

/-- Division (R133). -/
def divRounded (fmt : Nat) (s : Slot) (a b : Val) : Nat × Nat :=
  let f := a.sigFlag ||| b.sigFlag
  let g := xor a.neg b.neg
  if a.isNan || b.isNan then (canonicalNan fmt, f)
  else if (a.isInf && b.isInf) || (a.isZero && b.isZero) then (canonicalNan fmt, fInvalid)
  else if a.isInf then (infBits fmt g, 0)
  else if b.isZero then (infBits fmt g, fDivzero)
  else if a.isZero || b.isInf then (b2n g * 2 ^ magBits fmt, 0)
  else match a, b with
    | .num _ m e, .num _ m' e' => let q := quotient m m' (e - e'); roundFp fmt s.rnd s.sat s.flush g q.1 q.2
    | _, _ => (canonicalNan fmt, f)

/-- Integer square root by bits, `k` of them. -/
def isqrt (m r : Nat) : Nat → Nat
  | 0 => r
  | k + 1 => if (r + 2 ^ k) * (r + 2 ^ k) ≤ m then isqrt m (r + 2 ^ k) k else isqrt m r k

/-- Square root (R133). -/
def sqrtRounded (fmt : Nat) (s : Slot) (a : Val) : Nat × Nat :=
  match a with
  | .nan q => (canonicalNan fmt, if q then fInvalid else 0)
  | .inf n => if n then (canonicalNan fmt, fInvalid) else (infBits fmt false, 0)
  | .num n m e =>
    if m = 0 then (b2n n * 2 ^ magBits fmt, 0)
    else if n then (canonicalNan fmt, fInvalid)
    else
      let odd := e % 2
      let big := m * 2 ^ (80 + odd.toNat)
      let r := isqrt big 0 56
      roundFp fmt s.rnd s.sat s.flush false (2 * r + b2n (decide (r * r ≠ big))) ((e - odd - 80) / 2 - 1)

/-- Order of two values that are no NaN: their signed numerators at one exponent; infinities beyond all (R138). -/
def cmpVal (a b : Val) : Int :=
  let tier (v : Val) : Int := if v.isInf then (if v.neg then -1 else 1) else 0
  if tier a ≠ tier b then tier a - tier b
  else if a.isInf then 0
  else (addExact a.signed b.negate.signed).1

/-- Sign-magnitude order of floating codes with −0 below +0 (R134). -/
def orderKey (fmt w : Nat) : Int :=
  let m : Nat := w % 2 ^ magBits fmt
  if bitOf w (magBits fmt) then -(m : Int) - 1 else m

/-- A floating code as read: flushed, with the bits above the format dropped. -/
def readBits (fmt : Nat) (flush : Bool) (w : Nat) : Nat :=
  let v := w % 2 ^ (magBits fmt + 1)
  if (fpVal fmt flush v).isZero then b2n (bitOf v (magBits fmt)) * 2 ^ magBits fmt else v

/-- VMIN.F and VMAX.F (R134). -/
def minmaxFp (fmt : Nat) (s : Slot) (max : Bool) (x y : Nat) : Nat × Nat :=
  let a := fpVal fmt s.flush x
  let b := fpVal fmt s.flush y
  let f := a.sigFlag ||| b.sigFlag
  let u := readBits fmt s.flush x
  let v := readBits fmt s.flush y
  if a.isNan && b.isNan then (canonicalNan fmt, f)
  else if a.isNan then (v, f)
  else if b.isNan then (u, f)
  else if max then (if orderKey fmt u < orderKey fmt v then v else u, f)
  else (if orderKey fmt v < orderKey fmt u then v else u, f)

/-- A relation of VCMP.F (R138). -/
def relFp (rel : Nat) (a b : Val) : Bool × Nat :=
  if a.isNan || b.isNan then
    if rel = 0 then (false, a.sigFlag ||| b.sigFlag)
    else if rel = 1 ∨ rel = 6 then (true, a.sigFlag ||| b.sigFlag)
    else (false, fInvalid)
  else
    let c := cmpVal a b
    (match rel with
      | 0 => decide (c = 0) | 1 => decide (c ≠ 0) | 2 => decide (c < 0) | 3 => decide (c ≤ 0)
      | 4 => decide (c > 0) | 5 => decide (c ≥ 0) | _ => false, 0)

/-! ### Integer formats -/

/-- Width of an integer format. -/
def intWidth (fmt : Nat) : Nat := if fmt = 3 then 32 else if fmt = 4 then 16 else if fmt = 6 then 4 else 8

/-- Least value of an integer format (R27). -/
def intMin (fmt : Nat) : Int := if fmt = 11 then 0 else -(2 ^ (intWidth fmt - 1) : Nat)

/-- Greatest value of an integer format (R27). -/
def intMax (fmt : Nat) : Int := if fmt = 11 then 255 else (2 ^ (intWidth fmt - 1) : Nat) - 1

/-- The integer an element holds (R131, R132). -/
def intOf (fmt w : Nat) : Int := if fmt = 11 then (w % 256 : Nat) else sextNat (intWidth fmt) w

/-- The element that holds an integer of a format: sign-extended, UINT8 zero-extended (R131). -/
def intElem (fmt : Nat) (v : Int) : Nat := if fmt = 11 then (v % 256).toNat else (v % 2 ^ 32).toNat

/-- An exact integer result clamped or wrapped (R27). -/
def intResult (s : Slot) (v : Int) : Nat × Nat :=
  if intMin s.fmt ≤ v ∧ v ≤ intMax s.fmt then (intElem s.fmt v, 0)
  else if s.sat then (intElem s.fmt (if v < intMin s.fmt then intMin s.fmt else intMax s.fmt), fSat)
  else (intElem s.fmt (intOf s.fmt (v % 2 ^ 32).toNat), 0)

/-- A relation of VCMP.I (R138): 2 to 5 in the format's own signedness, 6 and 7 unsigned. -/
def relInt (fmt rel x y : Nat) : Bool :=
  let a := intOf fmt x
  let b := intOf fmt y
  let u := x % 2 ^ intWidth fmt
  let v := y % 2 ^ intWidth fmt
  match rel with
  | 0 => decide (a = b) | 1 => decide (a ≠ b) | 2 => decide (a < b) | 3 => decide (a ≤ b) | 4 => decide (a > b)
  | 5 => decide (a ≥ b) | 6 => decide (u < v) | _ => decide (u ≥ v)

/-- A finite value rounded to an integer, and whether that changed it. -/
def roundToInt (rnd : Nat) (n : Bool) (m : Nat) (e : Int) : Int × Bool :=
  let r := roundAt rnd n m e 0
  (if n then -(r.1 : Int) else r.1, r.2)

/-- Conversion into an integer format (R28). -/
def toInteger (s : Slot) (v : Val) : Nat × Nat :=
  let out (n : Int) (f : Nat) : Nat × Nat :=
    if intMin s.fmt ≤ n ∧ n ≤ intMax s.fmt then (intElem s.fmt n, f)
    else if s.sat then (intElem s.fmt (if n < intMin s.fmt then intMin s.fmt else intMax s.fmt), f ||| fSat)
    else (intElem s.fmt (intMin s.fmt), f ||| fInvalid)
  match v with
  | .nan _ => (0, fInvalid)
  | .inf n => out (if n then intMin s.fmt - 1 else intMax s.fmt + 1) 0
  | .num n m e => let r := roundToInt s.rnd n m e; out r.1 (b2n r.2 * fInexact)

/-! ### L6 and T3 -/

/-- The summation table T (R29). -/
def l6Table (i : Nat) : Nat := match i with | 0 => 0x8000 | 1 => 0x9838 | 2 => 0xB505 | _ => 0xD745

/-- A log field plus 16: 0 for the codes of zero and NaR. -/
def l6Field (c : Nat) : Nat := (c % 32 + 16) % 32

/-- Magnitude of a code with field u + 1, in units of 2^-19 (R29). -/
def l6Mag (u : Nat) : Nat := l6Table (u % 4) * 2 ^ (u / 4)

/-- The value of an L6 code before scale (R29). -/
def l6Val (c : Nat) : Val :=
  if l6Field c = 0 then (if bitOf c 5 then .nan false else .zero) else .num (bitOf c 5) (l6Mag (l6Field c)) (-19)

/-- The code with a sign and a field. -/
def l6Code (neg : Bool) (u : Nat) : Nat := b2n neg * 32 + (u + 16) % 32

/-- Conversion into L6 (R30). -/
def toL6 (s : Slot) (v : Val) : Nat × Nat :=
  match v with
  | .nan q => (0x30, if q then fInvalid else 0)
  | .inf n => (if s.sat then l6Code n 31 else 0x30, fOverflow + fInexact)
  | .num n m e =>
    if m = 0 then (0x10, 0)
    else
      let k := (-(e + 19)).toNat
      let x := m * 2 ^ (e + 19 + k).toNat
      let mag (u : Nat) : Nat := if u = 0 then 0 else l6Mag u * 2 ^ k
      let i := ((List.range 31).filter fun u => decide (mag (u + 1) ≤ x)).length
      if mag i = x then (l6Code n i, 0)
      else if i = 31 then (if s.sat then l6Code n 31 else 0x30, fOverflow + fInexact)
      else
        let up := match s.rnd with
          | 0 => decide (2 * x > mag i + mag (i + 1)) || (decide (2 * x = mag i + mag (i + 1)) && decide (i ≠ 0) && decide (i % 2 = 1))
          | 1 => false
          | 2 => n
          | _ => !n
        let f := if i = 0 then fInexact + fUnderflow else fInexact
        if up then (l6Code n (i + 1), f) else if i = 0 then (0x10, f) else (l6Code n i, f)

/-- Product of two L6 codes in units of 2^-23 (R32): none for NaR; the flag is invalid for a zero times NaR (R43). -/
def l6Product (zabs : Bool) (c d : Nat) : Option Int × Nat :=
  let nar (c : Nat) : Bool := decide (l6Field c = 0) && bitOf c 5
  let zer (c : Nat) : Bool := decide (l6Field c = 0) && !bitOf c 5
  if (zer c || zer d) && zabs then (some 0, 0)
  else if nar c || nar d then (none, if zer c || zer d then fInvalid else 0)
  else if zer c || zer d then (some 0, 0)
  else
    let u := l6Field c + l6Field d
    if u < 17 then (some 0, 0)
    else
      let p : Int := (l6Table (u % 4) * 2 ^ (u / 4) : Nat)
      (some (if xor (bitOf c 5) (bitOf d 5) then -p else p), 0)

/-- The value of a T3 digit (R33). -/
def t3Val (d : Nat) : Int := if d = 1 then 1 else if d = 2 then -1 else 0

/-- Conversion into a T3 digit (R35): the value is rounded to an integer, and an integer beyond ±1 is the result that the rule clamps, so
that nearest-even clamps from above 1.5 on. (DESIGN CHOICE, unsafe: notes/assumptions/61.md) -/
def toT3 (s : Slot) (v : Val) : Nat × Nat :=
  let out (n : Int) (inexact : Bool) : Nat × Nat :=
    let beyond := decide (n > 1 ∨ n < -1)
    (if n = 0 then 0 else if n > 0 then 1 else 2,
      b2n (beyond && !s.sat) * fOverflow + b2n (inexact || beyond) * fInexact)
  match v with
  | .nan _ => (0, fInvalid)
  | .inf n => out (if n then -2 else 2) true
  | .num n m e => let r := roundToInt s.rnd n m e; out r.1 r.2

/-! ### Reading and converting one element (R131, R140) -/

/-- What a lane or a tensor element holds: one value, or the two halves of a complex one (R36), scaled (R38). -/
def readElem (s : Slot) (w : Nat) : List Val × Nat :=
  let k := s.scale
  match s.fmt with
  | 7 => ([(l6Val w).scaled k], 0)
  | 8 => if w % 4 = 3 then ([.zero], fBadcode) else ([(Val.ofInt (t3Val (w % 4))).scaled k], 0)
  | 9 => ([(fpVal 2 s.flush (w % 65536)).scaled k, (fpVal 2 s.flush (w / 65536 % 65536)).scaled k], 0)
  | 10 => ([(Val.ofInt (sextNat 8 (w % 256))).scaled k, (Val.ofInt (sextNat 8 (w / 256 % 256))).scaled k], 0)
  | f => if isFloat f then ([(fpVal f s.flush w).scaled k], 0) else ([(Val.ofInt (intOf f w)).scaled k], 0)

/-- A real value converted into a real format by its slot's rules (R140), before the lane layout. -/
def convertReal (s : Slot) (v : Val) : Nat × Nat :=
  let x := v.scaled (-s.scale)
  if isFloat s.fmt then fpBits s.fmt s x
  else if s.fmt = 7 then toL6 s x
  else if s.fmt = 8 then toT3 s x
  else toInteger s x

/-- A value converted into a slot's format and laid out as R131 gives. -/
def convertElem (s : Slot) (vs : List Val) : Nat × Nat :=
  let re := vs.getD 0 .zero
  let im := vs.getD 1 .zero
  if s.fmt = 9 then
    let a := convertReal { s with fmt := 2 } re
    let b := convertReal { s with fmt := 2 } im
    (a.1 + b.1 * 65536, a.2 ||| b.2)
  else if s.fmt = 10 then
    let a := convertReal { s with fmt := 5 } re
    let b := convertReal { s with fmt := 5 } im
    (a.1 % 256 + b.1 % 256 * 256, a.2 ||| b.2)
  else convertReal s re

/-- Bits of one element's code (R19); a T3 digit takes two in an element (R131). -/
def codeBits (fmt : Nat) : Nat :=
  match fmt with
  | 0 | 3 | 9 => 32
  | 1 | 2 | 4 | 10 => 16
  | 6 => 4
  | 7 => 6
  | 8 => 2
  | _ => 8

/-- A code of a format as a 32-bit element (R131). -/
def codeElem (fmt c : Nat) : Nat :=
  if isInteger fmt then intElem fmt (intOf fmt c) else c % 2 ^ codeBits fmt

/-- A pad value as a code of a slot's format (R194). -/
def padCode (s : Slot) (pad : Nat) : Nat := (convertElem s [fpVal 0 false pad]).1 % 2 ^ codeBits s.fmt

/-! ### Packed images (R20, R142) -/

/-- Lanes that the packed image of 64 values fills; 0 for a format without a packed form (R142). -/
def packedLanes (fmt : Nat) : Nat :=
  match fmt with
  | 1 | 2 | 4 | 10 => 32
  | 5 | 11 => 16
  | 6 => 8
  | 7 => 12
  | 8 => 4
  | _ => 0

/-- The n low base-256 digits of a number. -/
def digits256 (v : Nat) : Nat → List Nat
  | 0 => []
  | n + 1 => v % 256 :: digits256 (v / 256) n

/-- Codes joined into one number, `w` bits each, the first lowest. -/
def joinBits (w : Nat) : List Nat → Nat
  | [] => 0
  | c :: cs => c % 2 ^ w + 2 ^ w * joinBits w cs

/-- Digits joined in a base, the first lowest. -/
def joinBase (b : Nat) : List Nat → Nat
  | [] => 0
  | c :: cs => c + b * joinBase b cs

/-- The bytes of a T3 image: five digits a byte (R33). -/
def t3Bytes (cs : List Nat) : List Nat := (List.range ((cs.length + 4) / 5)).map fun i => joinBase 3 ((cs.drop (5 * i)).take 5)

/-- The image of 64 codes as 32-bit lanes (R142). -/
def packImage (fmt : Nat) (cs : List Nat) : List Nat :=
  let v := if fmt = 8 then joinBits 8 (t3Bytes cs) else joinBits (codeBits fmt) cs
  (List.range (packedLanes fmt)).map fun j => v / 2 ^ (32 * j) % 2 ^ 32

/-- Code l of a packed image given as a number; none for an element of a reserved T3 byte (R34). -/
def imageCode (fmt v l : Nat) : Option Nat :=
  if fmt = 8 then
    let b := v / 256 ^ (l / 5) % 256
    if b ≥ 243 then none else some (b / 3 ^ (l % 5) % 3)
  else some (v / 2 ^ (codeBits fmt * l) % 2 ^ codeBits fmt)

/-! ### Twiddle factors (R146) -/

/-- 2π in units of 2^-120. -/
def twoPi : Nat := 8351785813007552717653752915327115494

/-- Sine and cosine by their series, in units of 2^-120: `k` terms done, `fuel` to come. -/
def sinCos (x k term : Nat) (s c : Int) : Nat → Int × Int
  | 0 => (s, c)
  | fuel + 1 =>
    let t := term * x / (2 ^ 120 * (k + 1))
    match k % 4 with
    | 0 => sinCos x (k + 1) t s (c + term) fuel
    | 1 => sinCos x (k + 1) t (s + term) c fuel
    | 2 => sinCos x (k + 1) t s (c - term) fuel
    | _ => sinCos x (k + 1) t (s - term) c fuel

/-- The twiddle's real and imaginary parts, each the nearest FP32 value, for an index that is no quarter turn (R146). -/
def twiddle (t n : Nat) (inv : Bool) : Val × Val :=
  let big := 2 ^ n
  let q := 4 * t / big
  let r := t % (big / 4)
  let sc := sinCos (twoPi * r / big) 0 (2 ^ 120) 0 0 44
  let f (v : Int) (neg : Bool) : Val := fpVal 0 false (roundFp 0 0 false false neg v.natAbs (-120)).1
  let cs := match q with
    | 0 => (f sc.2 false, f sc.1 false)
    | 1 => (f sc.1 true, f sc.2 false)
    | 2 => (f sc.2 true, f sc.1 true)
    | _ => (f sc.1 false, f sc.2 true)
  (cs.1, if inv then cs.2 else cs.2.negate)

end Sys2Proof.Machine
end

