-- ==== Sys2Proof/Machine/Operands.lean ====
section
/-! DEFINITION. Operand forms: immediates and addresses of the control core (03 R53), grid, scalar, immediate and scratchpad operands of a vector word (03 R59 to R61, 07 R167), format rows (02 R39), and the generator positions and coordinates of a matrix word (08 R189 to R194). -/

namespace Sys2Proof.Machine

/-! ### Control core -/

/-- A register plus a signed 13-bit offset: the address of an M-form instruction (03 R53). -/
def State.ea (s : State) (base off : Nat) : Nat := (s.x base + sextWord 13 off).toNat

/-- Bytes that a size code names (03 R53). -/
def sizeBytes (code : Nat) : Nat := 2 ^ code

/-- A loaded value extended to the register (05 R97). -/
def extend (bytes v : Nat) : Word := sextWord (8 * bytes) v

/-! ### Vector operands -/

/-- A loop is running exactly while its remaining count is not zero (11 R252). -/
def HwLoop.running (l : HwLoop) : Bool := decide (l.remaining ≠ 0)

/-- The iteration index of the innermost running loop (03 R60). -/
def VStream.inner (v : VStream) : Nat := if v.l1.running then v.l1.index else if v.l0.running then v.l0.index else 0

/-- The index of the loop that a format selection named (02 R39). -/
def loopIndex (sel : LoopSel) (l0 l1 : HwLoop) : Nat := match sel with | .none => 0 | .l0 => l0.index | .l1 => l1.index

/-- The format row that a vector word resolves at issue (02 R39). -/
def VStream.row (v : VStream) : Nat := (v.fmtRow + loopIndex v.fmtLoop v.l0 v.l1) % 16

/-- The entry of a slot in the current format row (02 R39). -/
def VStream.entry (v : VStream) (slot : Nat) : Nat := (Tbl.get 0 v.fmt (v.row * 8 + slot)).toNat

/-- Scalar register sn; s0 reads zero (06 R123). -/
def VStream.getS (v : VStream) (n : Nat) : Word := if n = 0 then 0 else Tbl.get 0 v.s n

/-- Writes a scalar register; a write to s0 is discarded. -/
def VStream.setS (v : VStream) (n : Nat) (w : Word) : VStream := if n = 0 then v else { v with s := Tbl.set 0 v.s n w }

/-- Lane mask pn; p0 is all ones (06 R123). -/
def VStream.getP (v : VStream) (n : Nat) : Word := if n = 0 then BitVec.allOnes 64 else Tbl.get 0 v.p n

/-- Writes a lane mask; a write to p0 is discarded. -/
def VStream.setP (v : VStream) (n : Nat) (w : Word) : VStream := if n = 0 then v else { v with p := Tbl.set 0 v.p n w }

/-- Lane l is active when bit l of p[guard] XOR neg is 1 (03 R57). -/
def VStream.mask (v : VStream) (g : Guard) : Word := if g.neg then ~~~(v.getP g.p) else v.getP g.p

/-- The numbers of the lanes in a mask, ascending. -/
def lanesOf (m : Word) : List Nat := (List.range 64).filter fun l => m.getLsbD l

/-- The line index k of a grid operand, renamed when it rotates (03 R60, 07 R167). -/
def VStream.lineOf (v : VStream) (index : Nat) (stride : Int) (rot : Bool) : Nat :=
  let k := (((index : Int) + stride * (v.inner : Int)) % 64).toNat
  if rot then (k + v.rotBase) % 64 else k

/-- The grid element that lane l of a line names, as 64 · row + column (03 R60). -/
def gridKey (d : Dir) (k off l : Nat) : Nat :=
  let j := (l + off) % 64
  match d with
  | .row => k * 64 + j
  | .column => j * 64 + k
  | .diagonal => j * 64 + (j + k) % 64
  | .antidiagonal => j * 64 + (k + 64 - j) % 64

/-- An element of the grid. -/
def VStream.cell (v : VStream) (key : Nat) : Nat := (Tbl.get 0 v.grid key).toNat

/-- The address of lane l of a scratchpad operand (03 R61). -/
def VStream.scratchAddr (v : VStream) (step base : Nat) (stride : Int) (off l : Nat) : Nat :=
  let st := match step with | 0 => 1 | 1 => 64 | 2 => 65 | _ => 63
  (((v.getS base).toNat + 4 * off + 256 * stride * (v.inner : Int) + 4 * st * l) % 2 ^ 64).toNat

/-- Lane l of an operand in an integer or bit word (03 R59). -/
def VStream.lane (v : VStream) (o : VOp) (l : Nat) : Nat :=
  match o with
  | .grid d i st r off => v.cell (gridKey d (v.lineOf i st r) off l)
  | .scalar n => (v.getS n).toNat % 2 ^ 32
  | .imm w => (sextNat 22 w % 2 ^ 32).toNat
  | .scratch .. => 0

/-- Lane l of an operand in a floating word: an immediate is an FP32 pattern, converted into the slot's format (03 R59, 06 R131): a NaN into a quiet one, one that is too large as R24 rounds it. (DESIGN CHOICE, unsafe: notes/assumptions/62.md) -/
def VStream.laneF (v : VStream) (s : Slot) (o : VOp) (l : Nat) : Nat :=
  match o with
  | .imm w => if s.fmt = 0 then w * 1024 else (fpBits s.fmt s (fpVal 0 false (w * 1024))).1
  | o => v.lane o l

/-- The flag that reading an immediate raises in a floating word (06 R131): inexact and no other. (DESIGN CHOICE, unsafe: notes/assumptions/62.md) -/
def immFlag (s : Slot) (o : VOp) : Nat :=
  match o with
  | .imm w => if s.fmt = 0 then 0 else (fpBits s.fmt s (fpVal 0 false (w * 1024))).2 &&& fInexact
  | _ => 0

/-- The destination of a grid operand, resolved at issue (06 R126). -/
def VStream.dest (v : VStream) (o : VOp) : LandDest :=
  match o with
  | .grid d i st r off => .grid d (v.lineOf i st r) off
  | .scalar n => .scalar n
  | _ => .tokens

/-- Writes lanes of a grid line. -/
def writeLanes (g : Tbl Elem) (d : Dir) (k off : Nat) (lanes : Word) (vals : List Elem) : Tbl Elem :=
  (lanesOf lanes).foldl (fun g l => Tbl.set 0 g (gridKey d k off l) (vals.getD l 0)) g

/-! ### Matrix operands -/

/-- A coordinate vector: u0, u1, u2 (08 R189). -/
structure Coord where
  u0 : Int
  u1 : Int
  u2 : Int
  deriving DecidableEq, Repr

def Coord.add (a b : Coord) : Coord := { u0 := a.u0 + b.u0, u1 := a.u1 + b.u1, u2 := a.u2 + b.u2 }
def Coord.smul (k : Int) (a : Coord) : Coord := { u0 := k * a.u0, u1 := k * a.u1, u2 := k * a.u2 }
def Coord.e0 (k : Int) : Coord := { u0 := k, u1 := 0, u2 := 0 }

/-- The coordinate vector that a CSR holds (08 R189). -/
def Coord.of (w : Word) : Coord :=
  { u0 := sextNat 21 (bitsOf w.toNat 20 0), u1 := sextNat 21 (bitsOf w.toNat 41 21), u2 := sextNat 21 (bitsOf w.toNat 62 42) }

/-- One generator of a snapshot (08 R188 to R191). -/
structure Gen where
  tensor : Nat
  pad : Nat
  padon : Bool
  split : Bool
  o : Coord
  vr : Coord
  vc : Coord
  kh : Nat
  kw : Nat
  dx : Nat
  dy : Nat
  deriving DecidableEq, Repr

/-- Register j of generator g in a snapshot. -/
def snapReg (snap : List Word) (g j : Nat) : Word := snap.getD (11 * g + j) (genDefault (0x100 + 16 * g + j))

/-- Generator g of a snapshot. -/
def genOf (snap : List Word) (g : Nat) : Gen :=
  let t := (snapReg snap g 0).toNat
  let w := (snapReg snap g 10).toNat
  { tensor := bitsOf t 23 0, pad := bitsOf t 63 32, padon := bitOf t 31, split := bitOf t 30, o := Coord.of (snapReg snap g 1),
    vr := Coord.of (snapReg snap g 2), vc := Coord.of (snapReg snap g 3), kh := bitsOf w 7 4 + 1, kw := bitsOf w 3 0 + 1,
    dx := bitsOf w 47 32, dy := bitsOf w 63 48 }

/-- The position of generator g under the level indices (08 R193). -/
def genPos (snap : List Word) (g : Nat) (idx : List Nat) : Coord :=
  (List.range 6).foldl (fun p v => p.add (Coord.smul (idx.getD v 0 : Nat) (Coord.of (snapReg snap g (4 + v))))) (genOf snap g).o

/-- Counts of the six nest levels (08 R191). -/
def nestCounts (snap : List Word) : List Nat :=
  let a := (snap.getD 88 (genDefault 0x180)).toNat
  let b := (snap.getD 89 (genDefault 0x181)).toNat
  [bitsOf a 15 0, bitsOf a 31 16, bitsOf a 47 32, bitsOf a 63 48, bitsOf b 15 0, bitsOf b 31 16]

/-- The accumulator offset delta of a level (08 R191). -/
def nestDelta (snap : List Word) (v : Nat) : Int :=
  let w := (snap.getD (if v < 3 then 90 else 91) 0).toNat
  sextNat 18 (w / 2 ^ (18 * (v % 3)) % 2 ^ 18)

/-- The effective accumulator offset of a word (08 R193). -/
def effOffset (snap : List Word) (off : Nat) (idx : List Nat) : Int :=
  (List.range 6).foldl (fun o v => o + (idx.getD v 0 : Nat) * nestDelta snap v) off

/-- Where an element coordinate falls: an element of the tensor, the pad value, or outside (08 R194). -/
inductive Elt where
  | elem (e : Nat)
  | padded
  | outside
  deriving DecidableEq, Repr

/-- Checks a coordinate against the extents and lays it out (08 R194, 17 R328). -/
def locate (h : Shape) (padon : Bool) (u : Coord) : Elt :=
  if 0 ≤ u.u0 ∧ u.u0 < h.e0 ∧ 0 ≤ u.u1 ∧ u.u1 < h.e1 ∧ 0 ≤ u.u2 ∧ u.u2 < h.e2 then
    .elem (u.u0.toNat + h.p1 * u.u1.toNat + h.p2 * u.u2.toNat)
  else if padon then .padded else .outside

end Sys2Proof.Machine
end

