-- ==== Sys2Proof/Machine/Access.lean ====
section
/-! DEFINITION. The accesses of contexts (05 R97, R99), of commands (13 R279) and of the trace unit (23 R405): one checked read and one checked write, used by every instruction and command. -/

namespace Sys2Proof.Machine

/-- Where a byte address leads: a location, zeros that no frame holds, the hole of 09 R214, a fault, or an engine's wait for a frame (17 R332). -/
inductive Reach where
  | loc (l : Nat) (s : State)
  | zero
  | hole
  | fault (cause : Nat)
  | wait (entryLoc : Nat)

/-- A byte address of a party: the system area (09 R216), the windows and the page table (R214, R215, 17 R325). -/
def State.reach (s : State) (core a : Nat) (write priv engine : Bool) : Reach :=
  if inSystemArea a && !priv then .fault 0x02
  else
    match place core a with
    | .sram l => .loc l s
    | .outOfRange => .hole
    | .notCanonical => .fault 0x04
    | .paged =>
      match s.pagedAccess a write priv engine with
      | .loc l t => .loc l t
      | .zero => .zero
      | .fault c => .fault c
      | .wait e => .wait e

/-- Records the first out-of-range address of a context (10 R238). -/
def State.recordSpor (s : State) (core ctx a : Nat) : State :=
  s.modCtx core ctx fun c =>
    if c.spor.getLsbD 63 then c else { c with spor := BitVec.ofNat 64 (2 ^ 63 + a % 2 ^ 52) }

/-- TINFO of a trap at an instruction that names an address (10 R241). -/
def trapInfo (cause a : Nat) : Word :=
  if cause = 0x03 ∨ cause = 0x04 ∨ cause = 0x06 ∨ cause = 0x11 then BitVec.ofNat 64 a else 0

/-- What a context's access answers: a value (and whether it reached a location), a trap, or a wait. -/
inductive Got where
  | ok (v : Nat) (s : State)
  | hole (s : State)
  | trap (s : State) (cause a : Nat)

/-- The trap or the value of an out-of-range access of the acting context (05 R97). -/
def State.outOfRange (s : State) (a : Nat) : Got :=
  let s1 := s.recordSpor s.focus.core s.focus.ctx a
  if s.cur.sporen then .trap s1 0x11 a else .hole s1

/-- The read of n bytes at a by the acting context, with the checks of 05 R97 in their order. -/
def State.ctxRead (s : State) (a n : Nat) : Got :=
  if a % n ≠ 0 then .trap s 0x03 a
  else
    match s.reach s.focus.core a false (s.privileged s.focus.core s.focus.ctx) false with
    | .fault c => .trap s c a
    | .wait _ => .trap s 0x04 a
    | .hole => s.outOfRange a
    | .zero => .ok 0 s
    | .loc l t => if s.anyPoison l n then .trap s 0x06 a else .ok (t.seen s.cur.sbuf l n) t

/-- What a store of the acting context comes to: its location with the page's state moved on, the hole, a trap. -/
inductive StoreAt where
  | sram (l : Nat)
  | frame (l : Nat) (s : State)
  | hole (s : State)
  | trap (s : State) (cause a : Nat)

/-- Where a write of n bytes at a by the acting context goes (05 R97). -/
def State.ctxStoreAt (s : State) (a n : Nat) : StoreAt :=
  if a % n ≠ 0 then .trap s 0x03 a
  else
    match s.reach s.focus.core a true (s.privileged s.focus.core s.focus.ctx) false with
    | .fault c => .trap s c a
    | .wait _ => .trap s 0x04 a
    | .hole => match s.outOfRange a with | .trap t c a => .trap t c a | .ok _ t => .hole t | .hole t => .hole t
    | .zero => .trap s 0x04 a
    | .loc l t => match place s.focus.core a with | .sram _ => .sram l | _ => .frame l t

/-- log2 of an access size, for a kind 1 record (22 R384). -/
def sizeCode (n : Nat) : Nat := Nat.log2 n

/-- Kind 1 record of a store of the acting context: the old bytes it overwrites (22 R383). -/
def State.logStore (s : State) (a l n : Nat) : State :=
  s.logRec s.focus.core s.focus.ctx 1 (sizeCode n) (flatten s.focus.core a) [BitVec.ofNat 64 (s.seen s.cur.sbuf l n)]

/-- Finishes a write of the acting context where it goes: `put` makes it at a location; a trap or the hole ends it as 05 R97 says. -/
def StoreAt.result (w : StoreAt) (s : State) (put : State → Nat → CtxRes) : CtxRes :=
  match w with
  | .trap t c a => .trapIn t c (trapInfo c a)
  | .hole t => .done t
  | .sram l => put s l
  | .frame l t => put t l

/-- Puts a store into the acting context's buffer, or waits for room there or in the undo log (05 R88, 22 R389). -/
def State.ctxStore (s : State) (a n v : Nat) : CtxRes :=
  (s.ctxStoreAt a n).result s fun t l =>
    if s.bufferFull || s.cur.log.blocks 1 then .wait s else .done ((t.logStore a l n).buffer .store l n (BitVec.ofNat 64 v))

/-- Performs a write of n bytes at a by the acting context at once, after its earlier stores: an atomic (05 R99). -/
def State.ctxWriteNow (s : State) (a n v : Nat) : CtxRes :=
  (s.ctxStoreAt a n).result s fun t l => .done (((t.logStore a l n).release).writeFor s.focus.core s.focus.ctx s.cur.log.iret l n v)

/-- Host memory: the frames of tier 2 (17 R323). -/
def hostMemory (l : Nat) : Bool := decide (2 ^ 52 + 2 * 2 ^ 28 * 65536 ≤ l) && decide (l < 2 ^ 52 + 3 * 2 ^ 28 * 65536)

/-- Whether a write of n bytes at a by the acting context goes to host memory. (DEDUCED, unsafe: notes/assumptions/24.md) -/
def State.writesHost (s : State) (a n : Nat) : Bool := match s.ctxStoreAt a n with | .frame l _ => hostMemory l | _ => false

/-- Seals the acting context's windows once an instruction that wrote host memory is over (22 R390, code 2; DEDUCED: notes/assumptions/24.md). -/
def sealAfter (s : State) (hit : Bool) (o : Host.Outcome State Fault Refusal) : Host.Outcome State Fault Refusal :=
  match o with
  | .next t => if hit && decide (t.cur.log.iret ≠ s.cur.log.iret) then .next (t.sealCtx s.focus.core s.focus.ctx 2) else .next t
  | other => other

/-- A read by the harbour of privileged records, which faults on nothing: an address that leads nowhere reads zero (17 R328). -/
def State.peek (s : State) (core a n : Nat) : Nat :=
  match s.reach core a false true true with
  | .loc l _ => s.read l n
  | _ => 0

/-! ### Commands (13 R279) -/

/-- What one access of a command answers. `freeze` marks an access the pushing context could not have made (13 R277); `wait` names the tile entry that waits for the harbour core (17 R329). -/
inductive CmdGot where
  | ok (v : Nat) (s : State)
  | fault (cause : Nat) (freeze : Bool)
  | wait (entry : Nat)

/-- The shape record that a command took at its push for a tensor (17 R328). -/
def Entry.shape (e : Entry) (tensor : Nat) : Shape :=
  Shape.of (((e.shapes.find? fun p => p.1 == tensor).map (·.2)).getD [])

/-- Reaches one unit of a command's operand: byte mode as 05 R97, tensor mode by the tile path (17 R329). -/
inductive CmdReach where
  | loc (l : Nat) (s : State)
  | zero
  | hole (s : State)
  | fault (cause : Nat) (freeze : Bool)
  | wait (entry : Nat)

/-- Whether a paged address names a page of the privileged level, entry and all in order (17 R325). -/
def State.privPage (s : State) (a : Nat) : Bool :=
  decide (2 ^ 44 ≤ a ∧ a < 2 ^ 52) && match s.walk a with
    | some w => !peMalformed w.entry false w.large && bitOf w.entry 46
    | none => false

/-- The byte address or tile position of an operand reference plus an offset (13 R279). A page or area that the pushing context could not reach
faults with 0x02 and freezes the queue (13 R277). An access to a pseudo-channel that is not in mission mode waits (24 R420). (DEDUCED, safe: notes/assumptions/71.md) -/
def State.cmdReach (s : State) (q : QueueId) (e : Entry) (ref : Nat) (tensor : Bool) (off : Int) (write : Bool) : CmdReach :=
  let core := homeCore q e
  if tensor then
    let pos : Int := (65536 * bitsOf ref 55 24 : Nat) + off
    if pos < 0 then .fault 0x05 false
    else
      match s.tileAccess core (e.shape (bitsOf ref 23 0)) pos.toNat write e.priv with
      | .loc l t => .loc l t
      | .zero => .zero
      | .fault c => .fault c false
      | .service entry => .wait entry
  else
    let a := (((ref : Int) + off) % 2 ^ 64).toNat
    if decide (2 ^ 44 ≤ a) && s.pagedHeld a write e.priv true then .wait holdMark
    else match s.reach core a write e.priv true with
    | .loc l t => .loc l t
    | .zero => .zero
    | .hole => .hole (s.recordSpor e.core e.ctx a)
    | .fault c => if c = 0x02 ∨ (e.priv = false ∧ s.privPage a = true) then .fault 0x02 true else .fault c false
    | .wait entry => .wait entry

/-- Reads n bytes of an operand that stay in one line. -/
def State.cmdRead (s : State) (q : QueueId) (e : Entry) (ref : Nat) (tensor : Bool) (off : Int) (n : Nat) : CmdGot :=
  match s.cmdReach q e ref tensor off false with
  | .loc l t => if s.anyPoison l n then .fault 0x06 false else .ok (s.read l n) t
  | .zero => .ok 0 s
  | .hole t => .ok 0 t
  | .fault c f => .fault c f
  | .wait t => .wait t

/-- A command as what supplies a value: its pushing core, the number of its result queue and its own (05 R109, 22 R394). -/
def Entry.supplies (e : Entry) (q : QueueId) : InputSrc :=
  .result e.core (match q with | .mq _ => 0 | .vq _ => 1 | .oq _ => 3 | _ => 2) e.seq

/-- What wrote the n bytes that the acting context reads at an address (22 R394). -/
def State.supplierAt (s : State) (a n : Nat) : InputSrc :=
  match s.reach s.focus.core a false (s.privileged s.focus.core s.focus.ctx) false with
  | .loc l _ => s.supplier l n
  | _ => .other

/-- Writes n bytes of an operand that stay in one line; a whole line cleans its poison (17 R335). -/
def State.cmdWrite (s : State) (q : QueueId) (e : Entry) (ref : Nat) (tensor : Bool) (off : Int) (n v : Nat) : CmdGot :=
  match s.cmdReach q e ref tensor off true with
  | .loc l t => .ok 0 ((t.storeBy (e.supplies q) l n v).cleanLines l n)
  | .zero => .ok 0 s
  | .hole t => .ok 0 t
  | .fault c f => .fault c f
  | .wait t => .wait t

/-- The harbour core is asked about an entry that a command waits on (17 R329). -/
def State.askTile (s : State) (q : QueueId) (e : Entry) (entry : Nat) : State := s.raiseTsq e.core entry (.command q e.seq)

/-- Whether a command waits for the answer to a page or tile service request (24 R411). -/
def State.serviceOwed (s : State) (q : QueueId) (seq : Nat) : Bool := s.mgmt.tsWaiters.any fun w => decide (w.2 = .command q seq)

/-! ### Trace (23 R405, R406) -/

/-- Writes one 32-byte record at TRHEAD, if the ring's page takes it. (DEDUCED, unsafe: notes/assumptions/42.md) -/
def State.traceWrite (s : State) (core : Nat) (d : List Word) : Option State :=
  let k := s.core core
  let room := k.trlen.toNat * 65536
  if room = 0 then none
  else
    match s.pagedAccess (k.trbase.toNat + k.trhead.toNat % room) true true true with
    | .loc l t => some ((t.writeDs l d).modCore core fun k => { k with trhead := BitVec.ofNat 64 ((k.trhead.toNat + 32) % room), trdrops := 0 })
    | _ => none

/-- A trace record of a kind and source with its payload; `bit` is the TRCTL bit that asks for it, 0 for none.
Records that cannot be written are dropped and counted in the next record as a kind 3 entry (23 R406). -/
def State.trace (s : State) (core bit kind source cycle : Nat) (p0 p1 : Nat) : State :=
  let ctl := (s.core core).trctl.toNat
  if !bitOf ctl 0 || (decide (bit ≠ 0) && !bitOf ctl bit) then s
  else
    let rec4 (k src a b : Nat) : List Word :=
      [BitVec.ofNat 64 cycle, BitVec.ofNat 64 (k * 2 ^ 56 + src * 2 ^ 52), BitVec.ofNat 64 a, BitVec.ofNat 64 b]
    let drops := (s.core core).trdrops
    let s1 := if drops = 0 then some s else s.traceWrite core (rec4 3 source (2 ^ 32 - 1) drops)
    match s1.bind fun t => t.traceWrite core (rec4 kind source p0 p1) with
    | some t => t
    | none => s.modCore core fun k => { k with trdrops := k.trdrops + 1 }

/-- Seals the windows of a command's pushing context where one of the places that it has written lies in host memory (22 R390, code 2; notes/assumptions/24.md). -/
def State.sealHost (s : State) (q : QueueId) (e : Entry) (ref : Nat) (tensor : Bool) (offs : List Int) : State :=
  if offs.any fun o => match s.cmdReach q e ref tensor o false with | .loc l _ => hostMemory l | _ => false then s.sealCtx e.core e.ctx 2 else s

end Sys2Proof.Machine
end

