-- ==== Sys2Proof/Machine/Tile.lean ====
section
/-! DEFINITION. The elements that a tile step names (08 R193 to R204): coordinates of its A and B operands, the iterations of a nest, and the tiles that an operand covers (13 R270). -/

namespace Sys2Proof.Machine

/-- The kinds of tile step (08 R194 to R202). -/
inductive StepKind where
  | mma | sparse | gather | transposed | winograd | conv
  deriving DecidableEq, Repr

/-- Whether a step walks a window (08 R201, R202). -/
def StepKind.window : StepKind → Bool
  | .winograd => true
  | .conv => true
  | _ => false

/-- Window taps of a step (08 R201). -/
def stepTaps (kind : StepKind) (ga : Gen) : Nat := if kind.window then ga.kh * ga.kw else 1

/-- Products per element of a step. -/
def stepDepth (kind : StepKind) (ga : Gen) (t : MTile) : Nat := t.k * stepTaps kind ga

/-- Stored columns of A: half of K where A is in 2:4 form (08 R198). -/
def stepColumns (kind : StepKind) (ga : Gen) (t : MTile) : Nat :=
  match kind with
  | .sparse => t.k / 2
  | _ => stepDepth kind ga t

/-- The coordinate of A(m, k); for a window step k counts channels within taps (08 R194, R201). -/
def coordA (kind : StepKind) (ga : Gen) (base : Coord) (latch : List Elem) (t : MTile) (m k : Nat) : Coord :=
  match kind with
  | .transposed => (base.add (Coord.smul k ga.vr)).add (Coord.smul m ga.vc)
  | .gather => (base.add (Coord.smul (latch.getD m 0).toInt ga.vr)).add (Coord.smul k ga.vc)
  | .winograd | .conv =>
    let tap := k / t.k
    let u := (base.add (Coord.smul m ga.vr)).add (Coord.smul (k % t.k : Nat) ga.vc)
    { u with u1 := u.u1 + (tap % ga.kw * ga.dx : Nat), u2 := u.u2 + (tap / ga.kw * ga.dy : Nat) }
  | _ => (base.add (Coord.smul m ga.vr)).add (Coord.smul k ga.vc)

/-- The coordinate of B(k, n) (08 R194). -/
def coordB (gb : Gen) (base : Coord) (k n : Nat) : Coord := (base.add (Coord.smul k gb.vr)).add (Coord.smul n gb.vc)

/-- The coordinates that a step reads through A, by rows. -/
def coordsA (kind : StepKind) (ga : Gen) (base : Coord) (latch : List Elem) (t : MTile) : List Coord :=
  (List.range t.m).flatMap fun m => (List.range (stepColumns kind ga t)).map fun k => coordA kind ga base latch t m k

/-- The coordinates that a step reads through B. -/
def coordsB (kind : StepKind) (ga gb : Gen) (base : Coord) (t : MTile) : List Coord :=
  (List.range (stepDepth kind ga t)).flatMap fun k => (List.range t.n).map fun n => coordB gb base k n

/-- What an operand covers: its tiles in ascending order of first use, and whether some coordinate lies outside the tensor (13 R270). -/
structure Cover where
  tiles : List Nat
  outside : Bool
  deriving DecidableEq, Repr

/-- The cover of a list of coordinates. -/
def coverOf (h : Shape) (us : List Coord) : Cover :=
  { tiles := (us.filterMap fun u => match locate h true u with | .elem e => some ((elementPos h.format e).1 / 65536) | _ => none).eraseDups
    outside := us.any fun u => decide (locate h true u = .padded) }

/-- The index tuples of a nest, level 0 fastest (08 R208). -/
def nestTuples : List Nat → List (List Nat)
  | [] => [[]]
  | n :: rest => (nestTuples rest).flatMap fun t => (List.range n).map fun i => i :: t

/-- The matrix predicates that a nest iteration sees: p0 and p8 to p11 (08 R185). -/
def nestPred (idx : List Nat) (p : Nat) : Bool :=
  match p with
  | 0 => true
  | 8 => idx.getD 0 0 == 0
  | 9 => idx.getD 0 0 != 0
  | 10 => idx.getD 1 0 == 0
  | 11 => idx.getD 1 0 != 0
  | _ => false

/-- The 192-bit matrix word that a K.NEST carries in d7 to d9 (08 R208). -/
def Entry.nestWord (e : Entry) : Nat := e.d 7 + e.d 8 * 2 ^ 64 + e.d 9 * 2 ^ 128

/-- A tile step with its header and kind, read from a matrix instruction. -/
def tileStep (i : Instr) : Option (StepKind × MHdr × MTile) :=
  match i with
  | .mma h t => some (.mma, h, t)
  | .mmaS h t => some (.sparse, h, t)
  | .mmaG h t => some (.gather, h, t)
  | .mmaT h t => some (.transposed, h, t)
  | .mwin h t => some (.winograd, h, t)
  | .mconv h t => some (.conv, h, t)
  | _ => none

end Sys2Proof.Machine
end

