-- ==== Sys2Proof/Machine/Copy.lean ====
section
/-! DEFINITION. The copy family's geometry and its one run (13 R279): rows, pitches and indices, line by line, and the summaries of what was written (03 R72). -/

namespace Sys2Proof.Machine

/-- A command's opcode (03 R68). -/
def Entry.opcode (e : Entry) : Nat := bitsOf (e.d 0) 7 0

/-- Whether an opcode is of the copy family (13 R279). -/
def copyFamily (op : Nat) : Bool := decide (1 ≤ op ∧ op ≤ 5)

/-- Bytes of a row. -/
def Entry.rowBytes (e : Entry) : Nat := bitsOf (e.d 9) 31 0

/-- Rows, or indices, of a copy. -/
def Entry.rows (e : Entry) : Nat := bitsOf (e.d 9) 47 32 + 1

/-- Source reference and mode of a command that has one (13 R279). -/
def Entry.source (e : Entry) : Nat × Bool := (e.d 7, bitOf (e.d 11) 0)

/-- Destination reference and mode of a copy; K.FILL's stands in d7 (13 R279). -/
def Entry.destination (e : Entry) : Nat × Bool := (if e.opcode = 4 then e.d 7 else e.d 8, bitOf (e.d 11) 1)

/-- Source and destination offsets of row j, with the index of a gather or scatter (13 R279). -/
def Entry.rowOffsets (e : Entry) (j : Nat) (idx : Int) : Int × Int :=
  let ip : Int := (bitsOf (e.d 11) 47 16 : Nat)
  match e.opcode with
  | 2 => (idx * ip, (j * e.rowBytes : Nat))
  | 3 => ((j * e.rowBytes : Nat), idx * ip)
  | 4 => (0, (j : Nat) * sextNat 32 (bitsOf (e.d 10) 63 32))
  | _ => ((j : Nat) * sextNat 32 (bitsOf (e.d 10) 31 0), (j : Nat) * sextNat 32 (bitsOf (e.d 10) 63 32))

/-- Whether the command reads an index for each row. -/
def Entry.indexed (e : Entry) : Bool := e.opcode == 2 || e.opcode == 3

/-- Source and destination offsets of every row, with the index list read as it stands, at the privileged level; an index that no location holds
is 0. So a gather's or scatter's absorb rule is evaluated over whatever its list's words give. (DESIGN CHOICE, unsafe: notes/assumptions/79.md) -/
def State.rowList (s : State) (q : QueueId) (e : Entry) : List (Int × Int) :=
  (List.range e.rows).map fun j =>
    let idx := if e.indexed then sextNat 32 (s.peek (homeCore q e) ((e.d 10 + 4 * j) % 2 ^ 64) 4) else 0
    e.rowOffsets j idx

/-- The alignment that a copy needs at its start (13 R279). -/
def Entry.copyAligned (e : Entry) : Bool :=
  let unit := if e.opcode = 4 then 8 else 4
  let pitches : List Int := match e.opcode with
    | 1 => [sextNat 32 (bitsOf (e.d 10) 31 0), sextNat 32 (bitsOf (e.d 10) 63 32)]
    | 4 => [sextNat 32 (bitsOf (e.d 10) 63 32)]
    | _ => [(bitsOf (e.d 11) 47 16 : Nat)]
  decide (e.rowBytes % unit = 0) && pitches.all (fun p => decide (p % unit = 0))
    && (e.opcode == 4 || e.source.2 || decide (e.source.1 % 4 = 0)) && (e.destination.2 || decide (e.destination.1 % 4 = 0))
    && (!e.indexed || decide (e.d 10 % 4 = 0))

/-- First position of an operand reference: its byte address, or its tile-space position (13 R279). -/
def refBase (ref : Nat) (tensor : Bool) : Int := if tensor then (65536 * bitsOf ref 55 24 : Nat) else (ref : Nat)

/-- Whether a row of the source and a row of the destination name a common byte of one address or tile space. -/
def Entry.rowsMeet (e : Entry) (core : Nat) (rows : List (Int × Int)) : Bool :=
  let (sr, st) := e.source
  let (dr, dt) := e.destination
  let same : Bool := st == dt && (!st || bitsOf sr 23 0 == bitsOf dr 23 0)
  let flat (r : Nat) (t : Bool) (o : Int) : Int := if t then refBase r t + o else (flatten core ((((r : Nat) : Int) + o) % 2 ^ 64).toNat : Nat)
  same && rows.any fun a => rows.any fun b =>
    let x := flat sr st a.1
    let y := flat dr dt b.2
    decide (x < y + e.rowBytes) && decide (y < x + e.rowBytes)

/-- The location of a 4-byte unit of an operand, if one holds it now. -/
def State.unitLoc (s : State) (q : QueueId) (e : Entry) (op : Nat × Bool) (off : Int) : Option Nat :=
  match s.cmdReach q e op.1 op.2 off false with
  | .loc l _ => some (l / 4)
  | _ => none

/-- Whether source and destination of a K.COPY share a byte, by name or by location (13 R279, 09 R215). -/
def State.copyOverlaps (s : State) (q : QueueId) (e : Entry) : Bool :=
  let rows := s.rowList q e
  let units := (List.range ((e.rowBytes + 3) / 4)).map fun i => ((4 * i : Nat) : Int)
  e.rowsMeet (homeCore q e) rows ||
    (let dst := rows.flatMap fun r => units.filterMap fun u => s.unitLoc q e e.destination (r.2 + u)
     rows.any fun r => units.any fun u => match s.unitLoc q e e.source (r.1 + u) with | some l => dst.contains l | none => false)

/-- A copy under way: the state with every earlier unit written, and the units written, newest first. -/
structure CopyRun where
  s : State
  units : List (Int × Nat)

/-- How a run of units ends. -/
inductive CopyEnd where
  | going (r : CopyRun)
  | fault (r : CopyRun) (cause : Nat) (freeze : Bool)
  | wait (entry : Nat)

/-- Copies one 4-byte unit (13 R279). -/
def copyUnit (q : QueueId) (e : Entry) (so do_ : Int) (b : Nat) (r : CopyRun) : CopyEnd :=
  let got : CmdGot :=
    if e.opcode = 4 then .ok (e.d 8 / 2 ^ (8 * (b % 8)) % 2 ^ 32) r.s
    else r.s.cmdRead q e e.source.1 e.source.2 (so + b) 4
  match got with
  | .fault c f => .fault r c f
  | .wait n => .wait n
  | .ok v t =>
    match t.cmdWrite q e e.destination.1 e.destination.2 (do_ + b) 4 v with
    | .fault c f => .fault { r with s := t } c f
    | .wait n => .wait n
    | .ok _ t' => .going { s := t', units := (do_ + b, v) :: r.units }

/-- Copies the units of one row from byte b on. -/
def copyRow (q : QueueId) (e : Entry) (so do_ : Int) : List Nat → CopyRun → CopyEnd
  | [], r => .going r
  | b :: bs, r =>
    match copyUnit q e so do_ b r with
    | .going r' => copyRow q e so do_ bs r'
    | other => other

/-- Copies rows in ascending order, each from the first to the last of its listed units, its index read when it begins (13 R279). -/
def copySpans (q : QueueId) (e : Entry) : List (Nat × List Nat) → CopyRun → CopyEnd
  | [], r => .going r
  | (j, bs) :: js, r =>
    let idx : CmdGot := if e.indexed then r.s.cmdRead q e (e.d 10) false (4 * j : Nat) 4 else .ok 0 r.s
    match idx with
    | .fault c f => .fault r c f
    | .wait n => .wait n
    | .ok v t =>
      let (so, do_) := e.rowOffsets j (sextNat 32 v)
      match copyRow q e so do_ bs { r with s := t } with
      | .going r' => copySpans q e js r'
      | other => other

/-- Units of a row. -/
def Entry.rowUnits (e : Entry) : Nat := (e.rowBytes + 3) / 4

/-- Copies whole rows in ascending order. -/
def copyRows (q : QueueId) (e : Entry) (rows : List Nat) (r : CopyRun) : CopyEnd :=
  copySpans q e (rows.map fun j => (j, (List.range e.rowUnits).map (4 * ·))) r

/-- The rows of n units of a run from one on, with their units. -/
def Entry.spans (e : Entry) (first n : Nat) : List (Nat × List Nat) :=
  (List.range e.rows).filterMap fun j =>
    let bs := ((List.range e.rowUnits).filter fun i => decide (first ≤ j * e.rowUnits + i ∧ j * e.rowUnits + i < first + n)).map (4 * ·)
    if bs.isEmpty then none else some (j, bs)

/-- The line of a destination unit. -/
def unitLine (e : Entry) (off : Int) : Int := (refBase e.destination.1 e.destination.2 + off) / 64

/-- The destination units of a whole run, in order, with the index list as it stands. -/
def State.copyTargets (s : State) (q : QueueId) (e : Entry) : List Int :=
  (s.rowList q e).flatMap fun r => (List.range e.rowUnits).map fun i => r.2 + (4 * i : Nat)

/-- The 64-byte lines that a run writes, in the order of their first write. -/
def State.copyLines (s : State) (q : QueueId) (e : Entry) : List Int := ((s.copyTargets q e).map (unitLine e)).eraseDups

/-- The units of the lines that a faulted run completed: the lines that no later unit of the run would have written (13 R279). -/
def completedUnits (e : Entry) (targets : List Int) (units : List (Int × Nat)) : List (Int × Nat) :=
  let left := (targets.drop units.length).map (unitLine e)
  units.filter fun u => !left.contains (unitLine e u.1)

/-- Writes units again, oldest first. -/
def State.writeUnits (s : State) (q : QueueId) (e : Entry) (units : List (Int × Nat)) : State :=
  units.reverse.foldl (fun s u =>
    match s.cmdWrite q e e.destination.1 e.destination.2 u.1 4 u.2 with
    | .ok _ t => t
    | _ => s) s

/-- Cleans the lines that the units cover whole (17 R335). -/
def State.cleanUnits (s : State) (q : QueueId) (e : Entry) (units : List (Int × Nat)) : State :=
  ((units.map fun u => unitLine e u.1).eraseDups).foldl (fun s ln =>
    let offs := ((units.filter fun u => decide (unitLine e u.1 = ln)).map (·.1)).eraseDups
    if offs.length = 16 then
      match s.cmdReach q e e.destination.1 e.destination.2 (ln * 64 - refBase e.destination.1 e.destination.2) true with
      | .loc l t => t.setPoison l false
      | _ => s
    else s) s

/-! ### Summaries -/

/-- Zero, finite and NaR of a stored code (03 R72, 17 R324). -/
def codeClass (fmt c : Nat) : Bool × Bool × Bool :=
  let cls (f w : Nat) : Bool × Bool × Bool := let v := fpVal f false w; (v.isZero, !(v.isNan || v.isInf), v.isNan)
  match fmt with
  | 0 => cls 0 c
  | 1 => cls 1 c
  | 2 => cls 2 c
  | 7 => (c % 64 == 0x10, c % 64 != 0x30, c % 64 == 0x30)
  | 9 =>
    let a := cls 2 (c % 65536)
    let b := cls 2 (c / 65536 % 65536)
    (a.1 && b.1, a.2.1 && b.2.1, a.2.2 && b.2.2)
  | _ => (c == 0, true, false)

/-- The three classes over a list of codes. -/
def classAll (fmt : Nat) (cs : List Nat) : Bool × Bool × Bool :=
  cs.foldl (fun a c => let k := codeClass fmt c; (a.1 && k.1, a.2.1 && k.2.1, a.2.2 && k.2.2)) (true, true, true)

/-- The codes that one 4-byte unit holds in a format other than L6. -/
def unitCodes (fmt v : Nat) : List Nat :=
  match fmt with
  | 0 | 3 | 9 => [v]
  | 1 | 2 | 4 | 10 => [v % 2 ^ 16, v / 2 ^ 16 % 2 ^ 16]
  | 5 | 11 => (List.range 4).map fun i => v / 256 ^ i % 256
  | 6 => (List.range 8).map fun i => v / 16 ^ i % 16
  | _ => (List.range 20).map fun i => v / 256 ^ (i / 5) % 256 / 3 ^ (i % 5) % 3

/-- The newest written value of each offset. -/
def newestUnits : List (Int × Nat) → List (Int × Nat)
  | [] => []
  | u :: us => u :: (newestUnits us).filter fun v => decide (v.1 ≠ u.1)

/-- A byte of the destination at a position from `org`: as written, else as it stands. -/
def State.destByte (s : State) (q : QueueId) (e : Entry) (units : List (Int × Nat)) (off : Int) : Nat :=
  match units.find? fun u => decide (u.1 ≤ off) && decide (off < u.1 + 4) with
  | some u => u.2 / 256 ^ (off - u.1).toNat % 256
  | none =>
    match s.cmdReach q e e.destination.1 e.destination.2 off false with
    | .loc l _ => (s.byte l).toNat
    | _ => 0

/-- Units of a run that an earlier turn has written, newest first, as they stand. -/
def State.unitsWritten (s : State) (q : QueueId) (e : Entry) (offs : List Int) : List (Int × Nat) :=
  offs.reverse.map fun o => (o, (List.range 4).foldl (fun v i => v + s.destByte q e [] (o + (i : Nat)) * 256 ^ i) 0)

/-- The L6 codes that hold a written bit; groups are counted from offset `org` (17 R329). -/
def State.l6Codes (s : State) (q : QueueId) (e : Entry) (units : List (Int × Nat)) (org : Int) : List Nat :=
  let touched := (units.flatMap fun u => (List.range 4).flatMap fun i =>
    let p := (u.1 + (i : Nat) - org).toNat
    [(p / 3, p % 3), (p / 3, p % 3 + 1)]).eraseDups
  (touched.filter fun t => !e.destination.2 || decide (t.1 < 21845)).map fun t =>
    let g := (List.range 3).foldl (fun n i => n + s.destByte q e units (org + (3 * t.1 + i : Nat)) * 256 ^ i) 0
    g / 64 ^ t.2 % 64

/-- Zero, finite and NaR of the elements written (03 R72, 13 R279). -/
def State.unitsClass (s : State) (q : QueueId) (e : Entry) (fmt : Nat) (units : List (Int × Nat)) (org : Int) : Bool × Bool × Bool :=
  if fmt = 7 then classAll 7 (s.l6Codes q e units org) else classAll fmt (units.flatMap fun u => unitCodes fmt u.2)

/-- A summary in the order of a tile entry's bits: valid, ZERO, FINITE, NAR (17 R324). -/
def summaryBits (k : Bool × Bool × Bool) : Nat := 8 + b2n k.1 * 4 + b2n k.2.1 * 2 + b2n k.2.2

/-- The work of a finished copy: the summary of all that it wrote and one for each destination tile (13 R279). (DEDUCED, unsafe: notes/assumptions/37.md) -/
def State.copyWork (s : State) (q : QueueId) (e : Entry) (units : List (Int × Nat)) : Work :=
  let fmt := bitsOf (e.d 11) 7 4
  let us := newestUnits units
  let (dr, dt) := e.destination
  if dt then
    let base := refBase dr dt
    let tiles := (us.map fun u => ((base + u.1) / 65536).toNat).eraseDups
    let each := tiles.map fun t =>
      (t, s.unitsClass q e fmt (us.filter fun u => decide ((base + u.1) / 65536 = (t : Nat))) ((65536 * t : Nat) - base))
    .done true (each.all fun x => x.2.1) (each.all fun x => x.2.2.1) (each.map fun x => (bitsOf dr 23 0, x.1, summaryBits x.2))
  else
    let k := s.unitsClass q e fmt us 0
    .done true k.1 k.2.1 []

end Sys2Proof.Machine
end

