-- ==== Sys2Proof/Machine/Absorb.lean ====
section
/-! DEFINITION. Non-strict firing (13 R270, R271): what an operand covers, when a rule is met, and the settled result. -/

namespace Sys2Proof.Machine

/-- The bits of a tile entry that carry its summary: valid, ZERO, FINITE, NAR (17 R324). -/
def State.summary (s : State) (core : Nat) (h : Shape) (tile : Nat) : Nat :=
  match s.tileEntry core h tile with
  | .entry _ v => bitsOf v 52 49
  | _ => 0

/-- Writes the summary bits of a tile entry (17 R324). -/
def State.setSummary (s : State) (core : Nat) (h : Shape) (tile bits : Nat) : State :=
  match s.tileEntry core h tile with
  | .entry l v => s.write l 8 (putBits v 49 4 bits)
  | _ => s

/-- The absorb byte of a command (03 R69). -/
def Entry.absOperand (e : Entry) : Nat := bitsOf (e.d 4) 39 38
def Entry.absValue (e : Entry) : Nat := bitsOf (e.d 4) 37 36
def Entry.absResult (e : Entry) : Nat := bitsOf (e.d 4) 35 32

/-- What a rule looks at: the tiles of the named operand and of its partner (tensor, tile), whether pads allow the rule, and whether zabs is set (13 R270). -/
structure AbsView where
  own : List (Nat × Nat)
  ownPad : Bool
  partner : List (Nat × Nat)
  partnerPad : Bool
  zabs : Bool
  deriving DecidableEq, Repr

/-- The tiles that byte spans of a tensor reference touch. -/
def spanTiles (base : Int) (spans : List (Int × Nat)) : List Nat :=
  (spans.flatMap fun p =>
    let lo := ((base + p.1) / 65536).toNat
    (List.range (((base + p.1 + p.2 - 1) / 65536).toNat + 1 - lo)).map (lo + ·)).eraseDups

/-- Input spans of a K.OFT's frames: offset and bytes (20 R365). -/
def Entry.oftInput (e : Entry) : List (Int × Nat) :=
  let side := 256 / 2 ^ bitsOf (e.d 9) 13 11
  (List.range (bitsOf (e.d 9) 31 16 + 1)).map fun j => ((64 * bitsOf (e.d 9) 47 32 * j : Nat), 2 * side * side)

/-- Output spans of a K.OFT's frames (20 R365). -/
def Entry.oftOutput (e : Entry) : List (Int × Nat) :=
  let side := 256 / 2 ^ bitsOf (e.d 9) 13 11
  let n := if bitOf (e.d 9) 14 then 4 * side * side else 262144
  (List.range (bitsOf (e.d 9) 31 16 + 1)).map fun j => ((64 * bitsOf (e.d 9) 63 48 * j : Nat), n)

/-- The tile step that a K.NEST runs, if it is one (08 R208). -/
def Entry.nestStep (e : Entry) : Option (StepKind × MHdr × MTile) := ((decodeMatrix e.nestWord).toOption).bind tileStep

/-- The index tuples that a K.NEST's guard lets run (08 R185, R208). -/
def Entry.nestRuns (e : Entry) (guard : Nat) : List (List Nat) := (nestTuples (nestCounts e.snapshot)).filter fun t => nestPred t guard

/-- The coordinates that a K.NEST reads through operand A (0) or B (1). -/
def Entry.nestCoords (e : Entry) (k : StepKind) (h : MHdr) (t : MTile) (which : Nat) : List Coord :=
  let ga := genOf e.snapshot t.genA
  let gb := genOf e.snapshot t.genB
  (e.nestRuns h.guard).flatMap fun idx =>
    if which = 0 then coordsA k ga ((genPos e.snapshot t.genA idx).add (Coord.e0 t.offA)) [] t
    else coordsB k ga gb ((genPos e.snapshot t.genB idx).add (Coord.e0 t.offB)) t

/-- Whether a pad value converts to what a rule needs: 0 zero, 1 NaR or NaN, 2 finite (13 R270). -/
def padFits (entry pad want : Nat) : Bool :=
  let slot := Slot.of entry
  let k := codeClass slot.fmt (padCode slot pad)
  match want with | 0 => k.1 | 1 => k.2.2 | _ => k.2.1

/-- The view of one K.NEST operand: tensor, tiles, whether a coordinate is padded. A nest that runs no step covers no tile. -/
def Entry.nestView (e : Entry) (which : Nat) : Option (Nat × Cover) :=
  match e.nestStep with
  | none => none
  | some (k, h, t) =>
    let g := genOf e.snapshot (if which = 0 then t.genA else t.genB)
    if g.tensor = 0 then none
    else some (g.tensor, coverOf (e.shape g.tensor) (e.nestCoords k h t which))

/-- The tiles that hold an element of a tensor (17 R329). -/
def Shape.elementTiles (h : Shape) : List Nat :=
  ((List.range h.e2).flatMap fun u2 => (List.range h.e1).flatMap fun u1 =>
    let first := h.p2 * u2 + h.p1 * u1
    let lo := (elementPos h.format first).1 / 65536
    (List.range ((elementPos h.format (first + h.e0 - 1)).1 / 65536 + 1 - lo)).map (lo + ·)).eraseDups

/-- The tiles of a tensor that a job may read: those that hold an element of it. -/
def Entry.wholeTensor (e : Entry) (tensor : Nat) : List (Nat × Nat) :=
  if tensor = 0 then [] else (e.shape tensor).elementTiles.map fun t => (tensor, t)

/-- The view of a command's rule (13 R270, R278). -/
def State.absView (s : State) (q : QueueId) (e : Entry) : Option AbsView :=
  let i := e.absOperand
  match e.opcode with
  | 1 | 2 | 3 =>
    let t := bitsOf (e.d 7) 23 0
    some { own := (spanTiles (refBase (e.d 7) true) ((s.rowList q e).map fun r => (r.1, e.rowBytes))).map fun n => (t, n)
           ownPad := true, partner := [], partnerPad := true, zabs := false }
  | 8 =>
    let t := bitsOf (e.d 7) 23 0
    some { own := (spanTiles (refBase (e.d 7) true) e.oftInput).map fun n => (t, n), ownPad := true, partner := [], partnerPad := true, zabs := true }
  | 6 =>
    let ts := [bitsOf (e.d 9) 47 24, bitsOf (e.d 11) 23 0, bitsOf (e.d 11) 55 32]
    some { own := e.wholeTensor (ts.getD i 0), ownPad := true,
           partner := ((List.range 3).filter fun j => decide (j ≠ i)).flatMap fun j => e.wholeTensor (ts.getD j 0), partnerPad := true, zabs := false }
  | 7 =>
    match e.nestView i, e.nestView (1 - i), e.nestStep with
    | some (t0, c0), some (t1, c1), some (_, _, t) =>
      let entry (w : Nat) : Nat := if w = 0 then bitsOf (e.d 10) 31 0 else bitsOf (e.d 10) 63 32
      let pad (w : Nat) : Nat := (genOf e.snapshot (if w = 0 then t.genA else t.genB)).pad
      some { own := c0.tiles.map fun n => (t0, n)
             ownPad := !c0.outside || padFits (entry i) (pad i) (if e.absValue = 1 then 1 else 0)
             partner := c1.tiles.map fun n => (t1, n)
             partnerPad := !c1.outside || padFits (entry (1 - i)) (pad (1 - i)) 2
             zabs := bitOf (e.d 10) 15 || bitOf (e.d 10) 47 }
    | _, _, _ => none
  | _ => none

/-- The format of the destination that a rule settles (13 R271). -/
def Entry.settleFormat (e : Entry) : Nat :=
  match e.opcode with
  | 7 => bitsOf (e.d 11) 3 0
  | 8 => 9
  | _ => (e.shape (bitsOf (if e.destination.2 then e.destination.1 else e.d 7) 23 0)).format

/-- Formats that count as finite (13 R270). -/
def exactFormat (f : Nat) : Bool := decide (f = 3 ∨ f = 4 ∨ f = 5 ∨ f = 6 ∨ f = 8 ∨ f = 11)

/-- Whether a command's absorb rule is met (13 R270). -/
def State.ruleMet (s : State) (q : QueueId) (e : Entry) : Bool :=
  let core := homeCore q e
  bitOf (e.d 0) 17 && decide (e.st = .waiting ∨ e.st = .ready) && !(s.queue q).frozen && decide (e.d 3 ≤ s.time)
    && !(decide (e.absResult = 2) && (exactFormat e.settleFormat || decide (e.settleFormat = 10)))
    && match s.absView q e with
      | none => false
      | some v =>
        let want := if e.absValue = 1 then 9 else 12
        v.ownPad && v.own.all (fun p => decide (s.summary core (e.shape p.1) p.2 &&& want = want))
          && (decide (e.absValue = 1) || v.zabs ||
            (v.partnerPad && v.partner.all fun p => exactFormat (e.shape p.1).format || decide (s.summary core (e.shape p.1) p.2 &&& 10 = 10)))

/-! ### The settled result -/

/-- Byte i of a settled tile: zero, or NaR, in a format (13 R271). -/
def settledByte (fmt : Nat) (nar : Bool) (i : Nat) : Byte :=
  if fmt = 7 then
    if i % 65536 = 65535 then 0
    else BitVec.ofNat 8 ((if nar then 0x30 else 0x10) * (1 + 2 ^ 6 + 2 ^ 12 + 2 ^ 18) / 256 ^ (i % 65536 % 3))
  else if !nar then 0
  else match fmt with
    | 0 => BitVec.ofNat 8 (canonicalNan 0 / 256 ^ (i % 4))
    | 1 => BitVec.ofNat 8 (canonicalNan 1 / 256 ^ (i % 2))
    | 2 => BitVec.ofNat 8 (canonicalNan 2 / 256 ^ (i % 2))
    | 9 => BitVec.ofNat 8 (canonicalNan 2 / 256 ^ (i % 2))
    | _ => 0

/-- Four settled bytes from byte i. -/
def settledUnit (fmt : Nat) (nar : Bool) (i : Nat) : Nat :=
  (List.range 4).foldl (fun n j => n + (settledByte fmt nar (i + j)).toNat * 256 ^ j) 0

/-- How a settled write ends; `freeze` marks an access that the pushing context could not have made (13 R277). -/
inductive Settled where
  | ok (s : State)
  | fault (s : State) (cause : Nat) (freeze : Bool)
  | wait (entry : Nat)

/-- Writes a whole settled tile of a tensor, with its summary (13 R271). -/
def State.settleTile (s : State) (core : Nat) (priv : Bool) (h : Shape) (nar : Bool) (tile : Nat) : Settled :=
  match s.tileAccess core h (65536 * tile) true priv with
  | .loc l t =>
    let t1 := (t.zeroFrame l 65536).writeBytes l ((List.range 65536).map (settledByte h.format nar))
    .ok (t1.setSummary core h tile (if nar then 9 else 14))
  | .zero => .ok s
  | .fault c => .fault s c false
  | .service n => .wait n

/-- Writes settled tiles one after another. -/
def settleTiles (core : Nat) (priv : Bool) (h : Shape) (nar : Bool) : List Nat → State → Settled
  | [], s => .ok s
  | t :: ts, s =>
    match s.settleTile core priv h nar t with
    | .ok s' => settleTiles core priv h nar ts s'
    | other => other

/-- Writes settled units of a byte-mode destination: (offset, byte in the tile or row). `done` holds those written, whose whole lines are clean
when the writing ends (17 R335). -/
def settleUnits (q : QueueId) (e : Entry) (fmt : Nat) (nar : Bool) (done : List (Int × Nat)) : List (Int × Nat) → State → Settled
  | [], s => .ok (s.cleanUnits q e done)
  | u :: us, s =>
    match s.cmdWrite q e e.destination.1 false u.1 4 (settledUnit fmt nar u.2) with
    | .ok _ s' => settleUnits q e fmt nar (u :: done) us s'
    | .fault c f => .fault (s.cleanUnits q e done) c f
    | .wait n => .wait n

/-- The index list of a gather or scatter, read as the command reads it (13 R279): the first read that fails. -/
def settleIndexes (q : QueueId) (e : Entry) : List Nat → State → Settled
  | [], s => .ok s
  | j :: js, s =>
    match s.cmdRead q e (e.d 10) false (4 * j : Nat) 4 with
    | .ok _ t => settleIndexes q e js t
    | .fault c f => .fault s c f
    | .wait n => .wait n

/-- The accumulator keys, 131,072 · tile + element, that a K.NEST writes (08 R195, R208). -/
def Entry.nestKeys (e : Entry) : List Nat :=
  let keys (guard tile off n : Nat) : List Nat :=
    ((e.nestRuns guard).flatMap fun idx =>
      let o := effOffset e.snapshot off idx
      (List.range n).filterMap fun (i : Nat) => if 0 ≤ o + i ∧ o + i < 131072 then some (131072 * tile + (o + i).toNat) else none).eraseDups
  match (decodeMatrix e.nestWord).toOption with
  | some (.mzero h _ m n tile off) => keys h.guard tile off (m * n)
  | some i => match tileStep i with | some (_, h, t) => keys h.guard t.tile t.offset (t.m * t.n) | none => []
  | none => []

/-- Writes accumulator elements; a group of 16 written whole is clean again (23 R399). -/
def Core.writeAcc (k : Core) (kvs : List (Nat × Elem)) : Core :=
  let keys := kvs.map (·.1)
  let groups := (keys.map (· / 16)).eraseDups
  { k with
    acc := kvs.foldl (fun a p => Tbl.set 0 a p.1 p.2) k.acc
    accPoison := groups.foldl (fun a g => if (List.range 16).all (fun i => keys.contains (16 * g + i)) then Tbl.set false a g false else a) k.accPoison }

/-- Step 1 of firing: the settled result (13 R271, 20 R372). -/
def State.settle (s : State) (q : QueueId) (e : Entry) : Settled :=
  let core := homeCore q e
  let nar : Bool := e.absResult == 2
  let (dr, dt) := e.destination
  if e.absResult = 0 then .ok s
  else match e.opcode with
    | 7 => .ok (s.modCore core fun k => k.writeAcc (e.nestKeys.map fun key => (key, if nar then BitVec.ofNat 32 (canonicalNan 0) else 0)))
    | 8 =>
      if dt then settleTiles core e.priv (e.shape (bitsOf dr 23 0)) false (spanTiles (refBase dr true) e.oftOutput) s
      else settleUnits q e 9 false [] (e.oftOutput.flatMap fun p => (List.range (p.2 / 4)).map fun i => (p.1 + (4 * i : Nat), 4 * i)) s
    | 1 | 2 | 3 =>
      match (if e.indexed then settleIndexes q e (List.range e.rows) s else .ok s) with
      | .ok t =>
        if dt then
          settleTiles core e.priv (e.shape (bitsOf dr 23 0)) nar (spanTiles (refBase dr true) ((t.rowList q e).map fun r => (r.2, e.rowBytes))) t
        else
          settleUnits q e e.settleFormat nar []
            ((t.rowList q e).flatMap fun r => (List.range (e.rowBytes / 4)).map fun i => (r.2 + (4 * i : Nat), 4 * i)) t
      | other => other
    | _ => .ok s

/-- The destination lines, counted from the destination's space, that settling a copy-family command writes, in order (13 R271, 22 R383). -/
def State.settledLines (s : State) (q : QueueId) (e : Entry) : List Int :=
  let (dr, dt) := e.destination
  if e.absResult = 0 ∨ copyFamily e.opcode = false then []
  else if dt then
    (spanTiles (refBase dr true) ((s.rowList q e).map fun r => (r.2, e.rowBytes))).flatMap fun t => (List.range 1024).map fun i => ((1024 * t + i : Nat) : Int)
  else s.copyLines q e

/-- Offset of a destination line from the destination's first byte. -/
def lineOff (e : Entry) (ln : Int) : Int := ln * 64 - refBase e.destination.1 e.destination.2

/-- The phase record of a copy (22 R383, R384): each line's address and old bytes, from the states before and after. A line of a
tensor is named by its location, as no byte address names it (notes/assumptions/19.md). (DEDUCED, unsafe: notes/assumptions/19.md) -/
def State.logCopy (before after : State) (q : QueueId) (e : Entry) (lines : List Int) : State :=
  if !(after.ctx e.core e.ctx).log.en then after
  else
    let (dr, dt) := e.destination
    let body := lines.flatMap fun ln =>
      match after.cmdReach q e dr dt (lineOff e ln) false with
      | .loc l _ =>
        let addr : Nat := if dt then l else flatten (homeCore q e) (ln * 64).toNat
        let old : List Word := match before.cmdReach q e dr dt (lineOff e ln) false with
          | .loc o _ => before.readDs o 8
          | _ => List.replicate 8 0
        BitVec.ofNat 64 addr :: old
      | _ => []
    if body.isEmpty then after else after.logRec e.core e.ctx 3 0 0 body

/-- The summary that a settled command leaves in d15: valid, ZERO, FINITE (13 R271); a K.NEST that no step of runs wrote nothing (08 R208). -/
def Entry.settledSummary (e : Entry) : Bool × Bool × Bool :=
  if e.absResult = 0 ∨ (e.opcode = 7 ∧ e.nestKeys = []) then (false, false, false)
  else if e.opcode = 8 ∧ e.destination.2 = false then (false, false, false)
  else if e.absResult = 2 then (true, false, false)
  else (true, true, true)

end Sys2Proof.Machine
end

