-- ==== Sys2Proof/Machine/Queue.lean ====
section
/-! DEFINITION. The queue and its commands (13): references, the checks of a push (03 R73), arms, decrements and ebbs, the ready order, declared sets, retirement, faults, reports and QCTL. -/

namespace Sys2Proof.Machine

/-! ### References and sets -/

/-- The sequence number that a 19-bit reference names, given the queue's next (13 R263). (DEDUCED, unsafe: notes/assumptions/36.md) -/
def resolveSeq (next r : Nat) : Nat :=
  let base := (next + 2 ^ 32 - 2 ^ 18) % 2 ^ 32
  (base + (r + 2 ^ 32 - base) % 2 ^ 19) % 2 ^ 32

/-- Whether a sequence number has been pushed, by its distance below next (13 R263). -/
def wasPushed (next seq : Nat) : Bool :=
  let d := (next + 2 ^ 32 - seq) % 2 ^ 32
  decide (0 < d ∧ d ≤ 2 ^ 18)

/-- The predecessor references of a command that name a queue: its queue and the reference (03 R70, 13 R263). -/
def Entry.preds (q : QueueId) (e : Entry) : List (QueueId × Nat) :=
  (List.range 3).filterMap fun j =>
    let f := e.d 2 / 2 ^ (21 * j) % 2 ^ 21
    match f / 2 ^ 19 with
    | 1 => some (.mq (homeCore q e), f % 2 ^ 19)
    | 2 => some (.vq (homeCore q e), f % 2 ^ 19)
    | 3 => some (.cq (homeCore q e), f % 2 ^ 19)
    | _ => none

/-- The successor references of an image (03 R70). -/
def imageSuccs (img : List Word) : List (QueueId × Nat) :=
  let d (j : Nat) : Nat := (img.getD j 0).toNat
  (List.range (bitsOf (d 4) 42 40)).map fun j =>
    let f := d (5 + j / 2) / 2 ^ (32 * (j % 2)) % 2 ^ 32
    let core := f / 2 ^ 21
    ((match f / 2 ^ 19 % 4 with | 0 => QueueId.mq core | 1 => QueueId.vq core | _ => QueueId.cq core), f % 2 ^ 19)

/-- Successor references of a command. -/
def Entry.succs (e : Entry) : List (QueueId × Nat) := imageSuccs e.image

/-- Whether two sets name a common line; an empty set overlaps nothing (13 R274). -/
def setsMeet (a b : LineSet) : Bool :=
  decide (a.length ≠ 0) && decide (b.length ≠ 0) && decide (a.start < b.start + b.length) && decide (b.start < a.start + a.length)

/-- Whether two commands' sets overlap with a write on one side (13 R274). -/
def Entry.clashes (a b : Entry) : Bool :=
  a.writeSets.any (fun x => (b.readSets ++ b.writeSets).any (setsMeet x)) || a.readSets.any fun x => b.writeSets.any (setsMeet x)

/-- Whether command a of queue qa names command b of queue qb as predecessor or successor (13 R275). -/
def State.names (s : State) (qa : QueueId) (a : Entry) (qb : QueueId) (b : Entry) : Bool :=
  (a.preds qa ++ a.succs).any fun r => decide (r.1 = qb) && resolveSeq (s.queue qb).next r.2 == b.seq

/-- Whether two commands are directly ordered (13 R275). -/
def State.ordered (s : State) (qa : QueueId) (a : Entry) (qb : QueueId) (b : Entry) : Bool :=
  s.names qa a qb b || s.names qb b qa a || decide (a.d 1 % 2 ^ 32 &&& b.d 1 / 2 ^ 32 ≠ 0) || decide (b.d 1 % 2 ^ 32 &&& a.d 1 / 2 ^ 32 ≠ 0)

/-! ### Checks at push (03 R73) -/

/-- Kind number of a queue (03 R68). -/
def queueKind : QueueId → Nat
  | .mq _ => 1 | .vq _ => 2 | .cq _ => 3 | .oq _ => 4 | .lq _ => 5

/-- Whether a byte-mode reference's first byte lies in the system area (03 R73). -/
def refPrivileged (ref : Nat) (tensor : Bool) : Bool := !tensor && inSystemArea ref

/-- The operand references of an opcode, with their modes (13 R279, R283, 19 R348, 20 R364, R373). The addresses that no rule calls an operand
reference, an index list, K.OCAL's block and a collective's rank table, count as byte references for the checks of 03 R73. (DESIGN CHOICE, unsafe: notes/assumptions/80.md) -/
def operandRefs (op d7 d8 d10 d11 : Nat) : List (Nat × Bool) :=
  match op with
  | 1 => [(d7, bitOf d11 0), (d8, bitOf d11 1)]
  | 2 | 3 => [(d7, bitOf d11 0), (d8, bitOf d11 1), (d10, false)]
  | 4 => [(d7, bitOf d11 1)]
  | 5 | 9 | 0x16 => [(d7, bitOf d11 0)]
  | 8 => [(d7, bitOf d11 0), (d8, bitOf d11 1)]
  | 0x0A | 0x14 => [(d7, false)]
  | 0x0B | 0x0C | 0x0D | 0x0E | 0x0F | 0x10 => [(d7, bitOf d11 12), (d8, bitOf d11 13), (d10, false)]
  | _ => []

/-- Whether the embedded word of a K.NEST is one that R208 admits. -/
def nestWordOk (w : Nat) : Bool :=
  let ok (h : MHdr) : Bool := decide (h.pop = 0) && decide (h.push = 0) && decide (h.guard = 0 ∨ (8 ≤ h.guard ∧ h.guard ≤ 11))
  let slots (t : MTile) : Bool := decide (t.slotA = 0) && decide (t.slotB = 0) && decide (t.slotC = 0)
  match (decodeMatrix w).toOption with
  | some (.mma h t) => ok h && slots t
  | some (.mmaS h t) => ok h && slots t
  | some (.mmaT h t) => ok h && slots t
  | some (.mwin h t) => ok h && slots t
  | some (.mconv h t) => ok h && slots t
  | some (.mzero h c _ _ _ _) => ok h && decide (c = 0)
  | _ => false

/-- Slot entries of a command's operand doublewords, where it has some. -/
def operandEntries (op d10 d11 : Nat) : List Nat :=
  match op with
  | 7 => [bitsOf d10 31 0, bitsOf d10 63 32, bitsOf d11 31 0]
  | 8 => [bitsOf d10 31 0, bitsOf d10 63 32]
  | _ => []

/-- The operand doublewords obey their opcode's layout (13 R278 to R283, 08 R208, 14 R293, 17 R337, 19 R348, 20 R364, R372 to R374): a value outside a stated range or
multiple is taken for a reserved one, which R73 refuses at the push. (DESIGN CHOICE, unsafe: notes/assumptions/67.md) -/
def operandsOk (op d4 d7 d8 d9 d10 d11 d12 d13 d14 d15 : Nat) (nonstrict : Bool) : Bool :=
  let idx := bitsOf d4 39 38
  let res := bitsOf d4 35 32
  let refs := operandRefs op d7 d8 d10 d11
  let tensors := refs.all fun r => !r.2 || (decide (bitsOf r.1 63 56 = 0) && decide (bitsOf r.1 23 0 ≠ 0))
  let tokens := decide (bitsOf d11 11 10 ≠ 3) && decide (bitsOf d11 9 8 ≠ 3)
  let rowsOk := decide (4 ≤ bitsOf d9 31 0 ∧ bitsOf d9 31 0 ≤ 2 ^ 31) && decide (bitsOf d9 63 48 = 0)
  tensors && match op with
  | 1 => tokens && rowsOk && decide (bitsOf d11 63 12 = 0) && decide (bitsOf d11 3 2 = 0) && (!nonstrict || (decide (idx = 0) && bitOf d11 0))
  | 2 | 3 => tokens && rowsOk && decide (bitsOf d11 63 48 = 0) && decide (bitsOf d11 15 12 = 0) && decide (bitsOf d11 3 2 = 0)
      && (!nonstrict || (decide (idx = 0) && bitOf d11 0))
  | 4 => tokens && rowsOk && decide (bitsOf d11 63 12 = 0) && decide (bitsOf d11 3 2 = 0) && decide (bitsOf d10 31 0 = 0) && !bitOf d11 0 && !nonstrict
  | 5 => tokens && decide (bitsOf d9 63 32 = 0) && decide (bitsOf d9 31 0 ≠ 0) && decide (bitsOf d8 63 3 = 0) && decide (bitsOf d10 63 32 = 0)
      && decide (bitsOf d11 63 12 = 0) && decide (bitsOf d11 7 4 = 0) && !bitOf d11 1 && !nonstrict
  | 6 => decide (bitsOf d9 63 48 = 0) && decide (bitsOf d9 23 11 = 0) && decide (bitsOf d10 63 54 = 0) && decide (bitsOf d10 31 22 = 0)
      && decide (bitsOf d11 63 56 = 0) && decide (bitsOf d11 31 24 = 0) && decide (bitsOf d10 21 0 % 64 = 0) && decide (bitsOf d10 53 32 % 64 = 0)
      && decide (d7 ≠ 0 ∨ d8 ≠ 0)
      && (!nonstrict || (decide (res = 0) && decide (([bitsOf d9 47 24, bitsOf d11 23 0, bitsOf d11 55 32] : List Nat).getD idx 0 ≠ 0)))
  | 7 => nestWordOk (d7 + d8 * 2 ^ 64 + d9 * 2 ^ 128) && decide (bitsOf d11 63 35 = 0) && decide (bitsOf d11 34 32 ≠ 6)
      && (operandEntries op d10 d11).all (fun e => decide (bitsOf e 31 18 = 0)) && (!nonstrict || decide (idx < 2))
  | 8 => decide (bitsOf d9 8 6 ≤ 2) && !(bitOf d9 14 && decide (bitsOf d9 13 11 = 0)) && decide (bitsOf d11 63 2 = 0)
      && (operandEntries op d10 d11).all (fun e => decide (bitsOf e 31 18 = 0) && !bitOf e 15 && !bitOf e 16)
      && (!nonstrict || (decide (idx = 0) && decide (res = 1) && bitOf d11 0))
  | 9 => decide (bitsOf d8 63 6 = 0) && decide (d9 = 0) && decide (d10 = 0) && decide (bitsOf d11 63 1 = 0) && !nonstrict
  | 0x0A => decide (bitsOf d8 63 2 = 0) && decide (bitsOf d8 1 0 ≠ 3) && decide (d9 = 0) && decide (d10 = 0) && decide (d11 = 0)
      && (decide (bitsOf d8 1 0 ≠ 0) || decide (d7 = 0)) && !nonstrict
  | 0x0B | 0x0C | 0x0D | 0x0E | 0x0F | 0x10 =>
      decide (bitsOf d9 63 38 = 0) && decide (bitsOf d11 15 14 = 0) && decide (d12 = 0) && decide (d13 = 0) && decide (d14 = 0)
      && decide (bitsOf d15 15 0 = 0) && decide (bitsOf d9 37 36 ≠ 3) && (decide (bitsOf d9 37 36 = 0) || decide (op = 0x0B ∨ op = 0x0D))
      && decide (1 ≤ bitsOf d9 31 0 ∧ bitsOf d9 31 0 ≤ 2 ^ 31) && (decide (op ≠ 0x10) || decide (bitsOf d9 31 0 = 64))
      && (decide (bitsOf d11 31 16 = 0) || decide (op = 0x0E)) && !nonstrict
  | 0x11 => decide (bitsOf d8 33 32 ≠ 3) && decide (bitsOf d8 63 35 = 0) && decide (bitsOf d9 63 12 = 0) && !nonstrict
  | 0x12 => decide (d8 = 0) && decide (bitsOf d9 63 12 = 0) && !nonstrict
  | 0x13 => decide (bitsOf d8 7 4 = 0) && decide (bitsOf d8 63 9 = 0) && decide (d9 = 0) && decide (d10 = 0) && decide (d11 = 0) && !nonstrict
  | 0x14 => decide (bitsOf d8 63 32 = 0) && decide (d9 = 0) && decide (d10 = 0) && decide (d11 = 0) && !nonstrict
  | 0x15 => decide (d7 = 0) && decide (d8 = 0) && decide (d9 = 0) && decide (d10 = 0) && decide (d11 = 0) && !nonstrict
  | 0x16 => decide (d8 = 0) && decide (bitsOf d9 63 48 = 0) && decide (bitsOf d10 63 32 = 0) && decide (bitsOf d11 63 1 = 0) && !nonstrict
  | _ => false

/-- Format codes that stand in the operand doublewords (03 R73). -/
def operandFormats (op d9 d10 d11 : Nat) : List Nat :=
  match op with
  | 1 | 2 | 3 | 4 => [bitsOf d11 7 4]
  | 7 | 8 => (operandEntries op d10 d11).map fun e => e % 16
  | 0x0B | 0x0C | 0x0D | 0x0E | 0x0F | 0x10 => [bitsOf d9 35 32]
  | _ => []

/-- Joins the sixteen doublewords of an image. -/
def imageWord (img : List Word) : Nat := (List.range 16).foldl (fun n j => n + (img.getD j 0).toNat * 2 ^ (64 * j)) 0

/-- The first check of 03 R73 that an image fails at a queue: its cause and the address for TINFO. -/
def pushCause (q : QueueId) (img : List Word) (priv : Bool) : Option (Nat × Nat) :=
  let d (j : Nat) : Nat := (img.getD j 0).toNat
  let op := bitsOf (d 0) 7 0
  if op = 6 ∧ d 7 % 16 ≠ 0 then some (0x03, d 7)
  else if op = 6 ∧ d 8 % 16 ≠ 0 then some (0x03, d 8)
  else if !(match decodeCommand (imageWord img) with | .ok _ => true | .error _ => false) || decide (bitsOf (d 0) 11 8 ≠ queueKind q)
      || !operandsOk op (d 4) (d 7) (d 8) (d 9) (d 10) (d 11) (d 12) (d 13) (d 14) (d 15) (bitOf (d 0) 17) then some (0x01, 0)
  else if (operandFormats op (d 9) (d 10) (d 11)).any (fun f => decide (12 ≤ f)) then some (0x07, 0)
  else if !priv && (decide (op = 0x11 ∨ op = 0x12) || (decide (op = 0x0A) && decide (bitsOf (d 8) 1 0 = 1))
      || (operandRefs op (d 7) (d 8) (d 10) (d 11)).any fun r => refPrivileged r.1 r.2) then some (0x02, 0)
  else none

/-! ### Shape records taken at push (17 R328) -/

/-- The tensors that a command names at its push (13 R281, 08 R192, 17 R328). -/
def imageTensors (img : List Word) (snapshot : List Word) : List Nat :=
  let d (j : Nat) : Nat := (img.getD j 0).toNat
  let op := bitsOf (d 0) 7 0
  let refs := ((operandRefs op (d 7) (d 8) (d 10) (d 11)).filter (·.2)).map fun r => bitsOf r.1 23 0
  let gens := if op = 6 ∨ op = 7 then (List.range 8).map fun g => (genOf snapshot g).tensor else []
  let job := if op = 6 then [bitsOf (d 9) 47 24, bitsOf (d 11) 23 0, bitsOf (d 11) 55 32] else []
  ((refs ++ gens ++ job).filter fun t => decide (t ≠ 0)).eraseDups

/-- Whether every page of a tile table lies in pages with priv set (17 R328). -/
def State.tablePrivileged (s : State) (h : Shape) : Bool :=
  decide (h.tiles = 0) || (decide (2 ^ 44 ≤ h.table) && decide (h.table + 8 * h.tiles ≤ 2 ^ 52) &&
    (List.range ((h.table + 8 * h.tiles - 1) / 65536 + 1 - h.table / 65536)).all fun i =>
      match s.walk ((h.table / 65536 + i) * 65536) with
      | none => false
      | some w => !peMalformed w.entry false w.large && decide (peState w.entry ≠ 0 ∧ peState w.entry ≠ 7) && bitOf w.entry 46)

/-- Reads the 64-byte shape record of a tensor (17 R328). -/
def State.shapeRecord (s : State) (core tensor : Nat) : List Word :=
  (List.range 8).map fun i => BitVec.ofNat 64 (s.peek core (((s.core core).tdir.toNat + 64 * tensor + 8 * i) % 2 ^ 64) 8)

/-- The first refusal that the tensors' records give. -/
def State.shapesCause (s : State) (core : Nat) (ts : List Nat) : Option Nat :=
  ts.findSome? fun t =>
    let ds := s.shapeRecord core t
    match shapeCause ds with
    | some c => some c
    | none => if s.tablePrivileged (Shape.of ds) then none else some 0x02

/-! ### Messages between queues (13 R284) -/

/-- Sends a message. -/
def State.send (s : State) (m : Msg) : State := { s with msgs := s.msgs ++ [m] }

/-- The first message of a kind for a queue that can be applied and that no earlier message of the same sender precedes (13 R284). An ebb that
awaits its target's push holds up no other message. -/
def pickMsg (able : Msg → Bool) (kind : MsgKind) (q : QueueId) (next : Nat) : List Msg → List QueueId → Option Msg
  | [], _ => none
  | m :: ms, seen =>
    if m.target = q ∧ (m.kind ≠ .ebb ∨ wasPushed next m.seq = true) then
      if m.kind = kind ∧ m.fromQ ∉ seen ∧ able m = true then some m else pickMsg able kind q next ms (m.fromQ :: seen)
    else pickMsg able kind q next ms seen

/-- Entries of a pending table, counting the messages on their way to it (13 R265). -/
def State.pendingLoad (s : State) (q : QueueId) : Nat :=
  (s.queue q).pending.length +
    (s.msgs.filter fun m => decide (m.target = q) && decide (m.kind ≠ .ebb) && !wasPushed (s.queue q).next m.seq).length

/-- Whether the pending tables of the queues that a list of references names can take one more entry each (13 R265, R266). -/
def State.pendingRoom (s : State) (refs : List (QueueId × Nat)) : Bool :=
  let far := refs.filter fun r => !wasPushed (s.queue r.1).next (resolveSeq (s.queue r.1).next r.2)
  far.all fun r => decide (s.pendingLoad r.1 + (far.filter fun x => decide (x.1 = r.1)).length ≤ 32)

/-- Sends one message to each successor of a command. -/
def State.sendSuccs (s : State) (kind : MsgKind) (q : QueueId) (seq : Nat) (refs : List (QueueId × Nat)) : State :=
  refs.foldl (fun s r => s.send { kind := kind, target := r.1, seq := resolveSeq (s.queue r.1).next r.2, fromQ := q, fromSeq := seq }) s

/-- Records a producer in a command's list of eight (13 R265). -/
def Entry.addProducer (e : Entry) (p : QueueId × Nat) : Entry :=
  if e.producers.contains p ∨ 8 ≤ e.producers.length then e else { e with producers := e.producers ++ [p] }

/-! ### Tokens and reports (13 R280, 05 R109) -/

/-- The token queue that a copy-family command pops, if any: vc or mc (03 R58, 13 R280). -/
def Entry.popQueue (e : Entry) : Option Nat :=
  if copyFamily e.opcode then match bitsOf (e.d 11) 11 10 with | 1 => some 2 | 2 => some 4 | _ => none else none

/-- The token queue that a copy-family command pushes: cv or cm (13 R280). -/
def Entry.pushQueue (e : Entry) : Option Nat :=
  if copyFamily e.opcode then match bitsOf (e.d 11) 9 8 with | 1 => some 1 | 2 => some 3 | _ => none else none

/-- The result queue that a command reports to: matrix, vector, copy, optical (05 R109). -/
def Entry.reportClass (e : Entry) : Nat := match bitsOf (e.d 0) 11 8 with | 1 => 0 | 2 => 1 | 4 => 3 | _ => 2

/-- A command whose report bit is set (05 R109). -/
def Entry.reports (e : Entry) : Bool := bitOf (e.d 1) 63

/-- A result element (05 R109). -/
def Entry.element (e : Entry) (state : Nat) : Word :=
  BitVec.ofNat 64 (e.seq * 2 ^ 32 + bitsOf (e.d 15) 31 24 * 2 ^ 24 + bitsOf (e.d 15) 23 23 * 2 ^ 23 + state * 2 ^ 18 + bitsOf (e.d 15) 17 16 * 2 ^ 16)

/-- Code of a command's state (03 R67). -/
def CmdSt.code : CmdSt → Nat
  | .pushed => 0 | .waiting => 1 | .ready => 2 | .running => 3 | .retired => 4 | .ebbed => 5 | .faulted => 6 | .saved => 7

/-- An entry's image as it now stands: the state and the counts among the doublewords of its push (03 R67, R69, 13 R276). -/
def Entry.current (e : Entry) (st : CmdSt) : List Word :=
  ((e.setD 0 (putBits (e.d 0) 19 5 st.code)).setD 4 (putBits (putBits (e.d 4) 0 16 e.dep) 16 16 e.demand)).image

/-- Result elements of a class that stand in a core's result queue. -/
def Core.resultsOf (k : Core) (cls : Nat) : List Word := Tbl.get [] k.results cls

/-- Whether a result queue takes another element now: below 16 and none held for it (05 R109). -/
def Core.resultRoom (k : Core) (cls : Nat) : Bool :=
  decide ((k.resultsOf cls).length < 16) && !k.held.any fun h => h.source == cls

/-- Delivers a report, or holds it for room (05 R109). -/
def State.report (s : State) (e : Entry) (state : Nat) : State :=
  if !e.reports then s
  else s.modCore e.core fun k =>
    if k.resultRoom e.reportClass then
      { k with results := Tbl.set [] k.results e.reportClass (k.resultsOf e.reportClass ++ [e.element state]) }
    else { k with held := k.held ++ [{ source := e.reportClass, elem := e.element state }] }

/-- Pushes a token, or holds it while its queue has 15 (13 R280). -/
def Core.pushToken (k : Core) (t : Nat) : Core :=
  if k.token t < 15 then k.setToken t (k.token t + 1) else { k with deferred := Tbl.set 0 k.deferred t (Tbl.get 0 k.deferred t + 1) }

/-! ### Leaving a queue -/

/-- Trace source of a queue (23 R405). -/
def queueTrace : QueueId → Nat
  | .mq _ => 5 | .vq _ => 6 | _ => 7

/-- Trace record of a command of a core's queue (23 R405). -/
def State.traceCmd (s : State) (q : QueueId) (kind : Nat) (e : Entry) : State :=
  match q with
  | .oq _ => s
  | .lq _ => s
  | _ => s.trace (homeCore q e) 2 kind (queueTrace q) (s.core (homeCore q e)).cycle e.seq (e.d 15)

/-- A command leaves its queue retired or ebbed: the entry is freed, its token, its decrements, its signal bits and its report leave (13 R276, R280), and with a retirement a trace record (23 R405). -/
def State.leave (s : State) (q : QueueId) (e : Entry) (state : Nat) : State :=
  let s1 := s.modQueue q fun v => v.free e.seq
  let s2 := match e.pushQueue with | some t => s1.modCore (homeCore q e) fun k => k.pushToken t | none => s1
  let s3 := s2.sendSuccs .decrement q e.seq e.succs
  let s4 := s3.signal (homeCore q e) (e.d 1 / 2 ^ 32)
  let s5 := s4.report e state
  if state = 4 then s5.traceCmd q 3 e else s5

/-- Sends an ebb to each producer that has not left its queue or faulted, one that is not yet pushed among them (13 R265, R271). -/
def State.ebbProducers (s : State) (q : QueueId) (e : Entry) : State :=
  e.producers.foldl (fun (s : State) (p : QueueId × Nat) =>
    let gone : Bool := match (s.queue p.1).find p.2 with
      | some v => decide (v.st = .faulted)
      | none => wasPushed (s.queue p.1).next p.2
    if gone = true then s else s.send { kind := .ebb, target := p.1, seq := p.2, fromQ := q, fromSeq := e.seq }) s

/-- A command faults: state faulted, cause in d15, the queue's fault bit, its report, and a freeze where the access was not the pusher's to make (13 R276, R277). -/
def State.faultCmd (s : State) (q : QueueId) (seq cause : Nat) (freeze : Bool) : State :=
  match (s.queue q).find seq with
  | none => s
  | some e0 =>
    let e := { e0.setD 15 (putBits (e0.d 15) 24 8 cause) with st := .faulted, work := .pending }
    let s1 := s.modQueue q fun v => { v.modEntry seq (fun _ => e) with fault := true, frozen := v.frozen || freeze }
    let code : Option Nat := match q with | .mq _ => some 0 | .vq _ => some 1 | .cq _ => some 2 | _ => none
    let s2 := match code with
      | some c => s1.modCore (homeCore q e) fun k => { k with faultLog := k.faultLog.filter (fun p => decide (p ≠ (c, seq))) ++ [(c, seq)] }
      | none => s1
    let s3 := (s2.report e 6).traceCmd q 3 e
    if freeze then (s3.wrackAdd 1 cause 1 (wrackSource (homeCore q e) (code.getD 3)) e.seq (s3.core (homeCore q e)).cycle).hirq 0 else s3

/-- Seal code of a command's retirement: collectives 1, K.OFT 5, K.MIGR and K.DISCARD 6, where their first changed entry has not sealed (22 R390). -/
def Entry.sealCode (e : Entry) : Option Nat :=
  if 0x0B ≤ e.opcode ∧ e.opcode ≤ 0x10 then some 1
  else if e.opcode = 8 then some 5
  else if e.opcode = 0x11 ∨ e.opcode = 0x12 then (match e.chunks with | (c, _, _) :: _ => if c = 0 then some 6 else none | [] => some 6)
  else none

/-- Seals the pushing context's windows for a command's retirement (22 R390). -/
def State.sealEnd (s : State) (e : Entry) : State := match e.sealCode with | some c => s.sealCtx e.core e.ctx c | none => s

/-- The refetch table takes a retired copy that has a write set, sixteen at most (23 R398). -/
def Core.noteCopy (k : Core) (e : Entry) : Core :=
  if copyFamily e.opcode && e.writeSets.any fun l => decide (l.length ≠ 0) then { k with refetch := ((e.seq, e.image) :: k.refetch).take 16 } else k

/-- What a firing wrote, recorded and sealed as a run's writes are (22 R383, R390). -/
def State.noteSettled (before after : State) (q : QueueId) (e : Entry) : State :=
  let lines := before.settledLines q e
  (before.logCopy after q e lines).sealHost q e e.destination.1 e.destination.2 (lines.map (lineOff e))

/-- Fires a command whose rule is met (13 R271): settle, retire, ebb; a fault of the settled writes stops it there. -/
def State.fire (s : State) (q : QueueId) (e : Entry) : State :=
  let home := homeCore q e
  let popped := match e.popQueue with
    | some t => if e.hasToken then s else s.modCore home fun k => k.setToken t (k.token t - 1)
    | none => s
  let e1 := { e with hasToken := e.hasToken || e.popQueue.isSome }
  match popped.settle q e1 with
  | .wait n => s.askTile q e n
  | .fault t c f => ((popped.noteSettled t q e1).modQueue q fun v => v.modEntry e.seq fun _ => e1).faultCmd q e.seq c f
  | .ok t0 =>
    let t := popped.noteSettled t0 q e1
    let (v, z, f) := e.settledSummary
    let d15 := bitsOf (e.d 15) 15 0 + b2n f * 2 ^ 17 + b2n z * 2 ^ 16 + b2n v * 2 ^ 23 + (t.core home).cycle % 2 ^ 32 * 2 ^ 32
    let e2 := e1.setD 15 d15
    let t1 := t.modQueue q fun v => { v with fired := e.seq :: v.fired }
    ((((t1.leave q e2 4).ebbProducers q e2).modCore home fun k => k.noteCopy e2).sealEnd e2)

/-- The commands in whose producer list a command stands. -/
def State.consumers (s : State) (q : QueueId) (seq : Nat) : List (QueueId × Nat) :=
  s.allQueues.flatMap fun v => ((s.queue v).entries.filter fun e => e.producers.contains (q, seq)).map fun e => (v, e.seq)

/-- Whether a command's token is there for it to fire with (13 R280). -/
def State.tokenReady (s : State) (q : QueueId) (e : Entry) : Bool :=
  match e.popQueue with
  | some t => e.hasToken || decide (0 < (s.core (homeCore q e)).token t)
  | none => true

/-- Whether the pushing context's undo log has room for what a firing writes: with a full log that stalls, the command does not fire (22 R389). -/
def State.fireRoom (s : State) (q : QueueId) (e : Entry) : Bool :=
  let n := (s.settledLines q e).length
  n == 0 || !(s.ctx e.core e.ctx).log.blocks (9 * n)

/-- Evaluates the rules of listed commands, and of those that a firing re-evaluates (13 R270). `fuel` bounds the evaluations. -/
def evalRules : Nat → List (QueueId × Nat) → State → State
  | 0, _, s => s
  | _ + 1, [], s => s
  | fuel + 1, (q, seq) :: rest, s =>
    match (s.queue q).find seq with
    | none => evalRules fuel rest s
    | some e =>
      if s.ruleMet q e && s.tokenReady q e && s.fireRoom q e then evalRules fuel (rest ++ s.consumers q seq) (s.fire q e)
      else evalRules fuel rest s

/-- Commands in all queues of the module. -/
def State.commandCount (s : State) : Nat := (s.allQueues.map fun q => (s.queue q).entries.length).sum

/-- Evaluates rules until none fires (13 R270). -/
def State.rules (s : State) (cs : List (QueueId × Nat)) : State := evalRules ((s.commandCount + 2) * (s.commandCount + 2) + cs.length) cs s

/-! ### Push (05 R107, R108; 03 R73) -/

/-- What a push answers. -/
inductive PushRes where
  | refused (cause addr : Nat)
  | wait
  | ok (seq : Nat) (s : State)

/-- Whether the core's det commands overlap a new one that is not ordered with them (13 R275). -/
def State.unordered (s : State) (q : QueueId) (e : Entry) : Bool :=
  bitOf (e.d 0) 16 && (coreQueues (homeCore q e)).any fun v =>
    (s.queue v).entries.any fun b => bitOf (b.d 0) 16 && !(decide (v = q) && b.seq == e.seq) && e.clashes b && !s.ordered q e v b

/-- Applies what the pending table holds for a command (13 R265, R266). -/
def Entry.applyPending (e : Entry) (ps : List Pend) : Entry :=
  ps.foldl (fun e p => if p.arm then e.addProducer (p.fromQ, p.fromSeq) else { e with dep := e.dep - 1 }) e

/-- The group members that a collective covers, in rank order (15 R307). -/
def State.groupMembers (s : State) (g : Nat) : List (Nat × Nat) :=
  ((List.range 6144).filterMap fun i => (s.group g).members.find? fun m => m.1 == i).map fun m => (m.2.1, m.2.2)

/-- Queues of the harbour core: it has no MQ and no VQ (24 R409). -/
def harbourLacks : QueueId → Bool
  | .mq c => c == harbourId
  | .vq c => c == harbourId
  | _ => false

/-- Pushes an image into a queue for a context (05 R107): checks, room, hardware fields, snapshot, shape records, arms, and the check of R275. -/
def State.pushImage (s : State) (q : QueueId) (img : List Word) (core ctx : Nat) : PushRes :=
  let priv := s.privileged core ctx
  let home := match q with | .mq c => c | .vq c => c | .cq c => c | _ => core
  if harbourLacks q then .refused 0x01 0
  else match pushCause q img priv with
  | some (c, a) => .refused c a
  | none =>
    let succs := imageSuccs img
    if 64 ≤ (s.queue q).entries.length ∨ s.pendingRoom succs = false then .wait
    else
      let d (j : Nat) : Nat := (img.getD j 0).toNat
      let op := bitsOf (d 0) 7 0
      let snap := if op = 6 ∨ op = 7 then (s.core home).snapshot else []
      let ts := imageTensors img snap
      match s.shapesCause home ts with
      | some c => .refused c 0
      | none =>
        let seq := (s.queue q).next
        let mine := (s.queue q).pending.filter fun p => p.seq == seq
        let e0 : Entry :=
          { seq := seq
            image := (img.take 16).mapIdx fun j v =>
              if j = 0 then BitVec.ofNat 64 (bitsOf (d 0) 18 0 + seq * 2 ^ 32) else if j = 15 then BitVec.ofNat 64 (bitsOf (d 15) 15 0) else v
            st := .pushed, prio := bitsOf (d 0) 15 12, passes := 0, dep := bitsOf (d 4) 15 0, demand := bitsOf (d 4) 31 16, producers := []
            core := core, ctx := ctx, iter := (s.ctx core ctx).iter, priv := priv, snapshot := snap
            shapes := ts.map fun t => (t, s.shapeRecord home t)
            hasToken := false, work := .pending, progress := 0, begun := false, reruns := 0, met := [], refetches := none, escaped := false
            members := if 0x0B ≤ op ∧ op ≤ 0x10 then s.groupMembers (bitsOf (d 11) 11 0) else [], ranks := none, since := 0, peers := false, chunks := [], acked := 0 }
        let preds := (e0.preds q).map fun r => (r.1, resolveSeq (if r.1 = q then seq else (s.queue r.1).next) r.2)
        let e1 := (preds.foldl Entry.addProducer e0).applyPending mine
        let s1 := s.modQueue q fun v =>
          { v with next := (seq + 1) % 2 ^ 32, entries := v.entries ++ [e1], pending := v.pending.filter fun p => decide (p.seq ≠ seq)
                   fired := v.fired.filter (fun n => decide (n ≠ seq)), pushers := v.pushers.filter (fun p => decide (p.1 ≠ seq)) ++ [(seq, core, ctx)] }
        let s2 := s1.sendSuccs .arm q seq succs
        .ok seq (if s2.unordered q e1 then s2.faultCmd q seq 0x09 false else s2)

/-! ### Arms, decrements and ebbs (13 R265, R266, R271) -/

/-- The stale bit of a queue (13 R262). -/
def State.markStale (s : State) (q : QueueId) : State := s.modQueue q fun v => { v with stale := true }

/-- Whether a message may be applied now: a pending table with room, a target that no pre-emption has saved (13 R266, R276); an ebb awaits its
target's push (notes/assumptions/76.md). (DESIGN CHOICE, safe: notes/assumptions/76.md) -/
def State.deliverable (s : State) (m : Msg) : Bool :=
  match (s.queue m.target).find m.seq with
  | some e => decide (e.st ≠ .saved)
  | none => wasPushed (s.queue m.target).next m.seq || (decide (m.kind ≠ .ebb) && decide ((s.queue m.target).pending.length < 32))

/-- Applies an arm or a decrement at its target (13 R265, R266). -/
def State.deliver (s : State) (m : Msg) : State :=
  let v := s.queue m.target
  let arm : Bool := decide (m.kind = .arm)
  if !wasPushed v.next m.seq then
    s.setQueue m.target { v with pending := v.pending ++ [{ arm := arm, seq := m.seq, fromQ := m.fromQ, fromSeq := m.fromSeq }] }
  else match v.find m.seq with
  | some _ =>
    if arm then s.setQueue m.target (v.modEntry m.seq fun e => e.addProducer (m.fromQ, m.fromSeq))
    else (s.setQueue m.target (v.modEntry m.seq fun e => { e with dep := e.dep - 1 })).rules [(m.target, m.seq)]
  | none => if !arm && v.fired.contains m.seq then s else s.markStale m.target

/-- Applies an ebb: demand falls, and a waiting or ready command that is not pinned is withdrawn when it reaches 0 (13 R271). -/
def State.ebb (s : State) (m : Msg) : State :=
  match (s.queue m.target).find m.seq with
  | none => s.markStale m.target
  | some e =>
    let e1 := { e with demand := e.demand - 1 }
    let s1 := s.modQueue m.target fun v => v.modEntry m.seq fun _ => e1
    if e.demand = 1 ∧ (e.st = .pushed ∨ e.st = .waiting ∨ e.st = .ready) ∧ bitOf (e.d 0) 18 = false then (s1.ebbProducers m.target e1).leave m.target e1 5
    else s1

/-- Delivers the first message of a kind to a queue that can be applied there. -/
def State.deliverNext (s : State) (kind : MsgKind) (q : QueueId) : State :=
  match pickMsg s.deliverable kind q (s.queue q).next s.msgs [] with
  | none => s
  | some m =>
    let s1 := { s with msgs := s.msgs.erase m }
    if kind = .ebb then s1.ebb m else s1.deliver m

/-! ### Readiness and start (13 R268, R269, R274) -/

/-- Whether a predecessor reference is satisfied (13 R264). -/
def State.satisfied (s : State) (r : QueueId × Nat) : Bool :=
  let v := s.queue r.1
  let seq := resolveSeq v.next r.2
  wasPushed v.next seq && (v.find seq).isNone

/-- Whether a command is ready now (13 R268). -/
def State.readyNow (s : State) (q : QueueId) (e : Entry) : Bool :=
  let wait := e.d 1 % 2 ^ 32
  decide ((s.core (homeCore q e)).evw.toNat &&& wait = wait) && (e.preds q).all s.satisfied && decide (e.dep = 0)
    && decide (e.d 3 ≤ s.time) && s.tokenReady q e

/-- Moves pushed commands whose arms have been delivered to waiting, and waiting ones to ready (13 R268, R276). A frozen queue's commands stay where they stand. -/
def State.advance (s : State) (q : QueueId) : State :=
  if (s.queue q).frozen then s
  else
    let armed (e : Entry) : Bool := !s.msgs.any fun m => decide (m.kind = .arm) && decide (m.fromQ = q) && m.fromSeq == e.seq
    let new := ((s.queue q).entries.filter fun e => decide (e.st = .pushed) && armed e).map fun e => (q, e.seq)
    let s1 := s.modQueue q fun v => { v with entries := v.entries.map fun e => if e.st = .pushed ∧ armed e = true then { e with st := .waiting } else e }
    let s2 := s1.rules new
    s2.modQueue q fun v => { v with entries := v.entries.map fun e => if e.st = .waiting ∧ s2.readyNow q e = true then { e with st := .ready } else e }

/-- The ready order: a comes before b (13 R269). -/
def comesFirst (next : Nat) (a b : Entry) : Bool :=
  let far (e : Entry) : Nat := (next + 2 ^ 32 - e.seq) % 2 ^ 32
  decide (b.prio < a.prio) || (decide (a.prio = b.prio) && (decide (a.d 3 < b.d 3) || (decide (a.d 3 = b.d 3) && decide (far b < far a))))

/-- The lockstep group of a core's X context (15 R298). -/
def State.lockstepOf (s : State) (core ctx : Nat) : Option Nat :=
  (s.groups.find? fun g => decide (g.2.kind = .lockstep) && (g.2.indexOf core ctx).isSome).map (·.1)

/-- Whether a command is a lockstep job of a group (15 R304). -/
def State.lockstepJob (s : State) (e : Entry) : Option Nat :=
  if e.opcode = 6 ∧ e.ctx = 1 then s.lockstepOf e.core 1 else none

/-- Whether a command of a queue runs. -/
def Queue.runs (v : Queue) (p : Entry → Bool) : Bool := v.entries.any fun e => decide (e.st = .running) && p e

/-- Whether a job's matrix stream has the matrix engine: a K.JOB that names one is running, and its stream has not ended (08 R184). -/
def Core.matrixTaken (k : Core) : Bool :=
  k.vq.runs fun j => decide (j.opcode = 6) && decide (j.d 8 ≠ 0) &&
    !(decide (k.job.map (·.seq) = some j.seq) && decide (j.progress ≠ 0) && decide (k.ms.st = .ended))

/-! ### Buffer phases (23 R396 to R398) -/

/-- Whether a command's run is a buffer phase (23 R396). -/
def Entry.isPhase (e : Entry) : Bool := copyFamily e.opcode || decide (e.opcode = 6) || decide (e.opcode = 7)

/-- Whether a phase may be rerun (23 R397). -/
def Entry.eligible (e : Entry) (k : Core) : Bool :=
  e.isPhase && k.rerunEn && bitOf (e.d 0) 16 && e.readSets.any (fun l => decide (l.length ≠ 0)) && e.writeSets.any (fun l => decide (l.length ≠ 0))
    && !e.readSets.any (fun r => e.writeSets.any (setsMeet r)) && !e.escaped && decide (e.reruns < k.maxRerun)

/-- Whether a cancelled phase of a core waits for its refetches, which take a free copy channel ahead of every command of CQ (23 R398). -/
def Core.refetching (k : Core) : Bool :=
  [k.mq, k.vq, k.cq].any fun v => v.runs fun e => decide (e.work = .failed 0x06 false) && e.eligible k

/-- Whether the engine of a queue could take a command now (13 R261, 08 R184, 20 R363). (DEDUCED, safe: notes/assumptions/58.md) -/
def State.engineFree (s : State) (q : QueueId) (e : Entry) : Bool :=
  let v := s.queue q
  match q with
  | .mq c => !v.runs (fun _ => true) && (decide (e.opcode ≠ 7) || !(s.core c).matrixTaken)
  | .vq c => !v.runs (fun _ => true) && (decide (e.opcode ≠ 6 ∨ e.d 8 = 0) || !(s.core c).mq.runs fun n => decide (n.opcode = 7))
  | .cq c => decide ((v.entries.filter fun e => decide (e.st = .running)).length < if (s.core c).refetching then 3 else 4)
  | .oq u => !v.runs (fun _ => true) &&
      (decide (e.opcode = 0x0A) || !decide ((s.ofu u).st = .warming ∨ (s.ofu u).st = .calibrating))
  | .lq _ => true

/-- Exhausted slack: a result that is due has not arrived (14 R294). A matrix stream reaches the last cycle of its step before it issues again. -/
def Core.starved (k : Core) : Bool :=
  let now := match k.ms.step with | some st => st.due | none => k.ms.cycle
  (decide (k.vs.st = .running) && k.vs.land.any fun r => decide (r.kind = .load) && !r.arrived && !r.poison && decide (r.due ≤ k.vs.cycle))
    || (decide (k.ms.st = .running) && k.ms.mldi.any fun f => !f.arrived && decide (f.due ≤ now))

/-- Whether a core's stream waits for a page or tile service (08 R210). -/
def State.paging (s : State) (core : Nat) : Bool := s.mgmt.tsWaiters.any fun w => decide (w.2 = .stream core)

/-- Whether the schedule counters of a core stand for a reason of its own streams (08 R210, 14 R294). -/
def State.clockHeld (s : State) (core : Nat) : Bool := (s.core core).starved || s.paging core

/-- Whether a stream of a core stands stopped, or is to stop and has not yet (10 R244, 15 R305). -/
def Core.stopping (k : Core) : Bool :=
  decide (k.vs.st = .stopped) || decide (k.ms.st = .stopped) || (decide (k.vs.st = .running) && decide (k.vs.atStop ≠ 0))
    || (decide (k.ms.st = .running) && decide (k.ms.atStop ≠ 0))

/-- The cores that hold the stall wire of a group up (14 R295): those with a stream stop, exhausted slack or a page service under way.
Only a lockstep group has the wire. -/
def State.wire (s : State) (g : Nat) : List Nat :=
  let v := s.group g
  if v.kind ≠ .lockstep then []
  else (v.stall.map (·.1)).filter (fun c => (s.core c).stopping) ++ ((v.members.map fun m => m.2.1).filter fun c => s.clockHeld c)

/-- The lockstep group that has a member on a core (15 R298). -/
def State.lockstepAt (s : State) (core : Nat) : Option Nat :=
  (s.groups.find? fun g => decide (g.2.kind = .lockstep) && g.2.members.any fun m => m.2.1 == core).map (·.1)

/-- Whether the stall wire of a lockstep group keeps a core's queues from starting commands (14 R295). -/
def State.wireHolds (s : State) (core : Nat) : Bool :=
  s.groups.any fun e => decide (e.2.kind = .lockstep) && (e.2.members.any fun m => m.2.1 == core) && !(s.wire e.1).isEmpty

/-- Whether a queue may start commands at all (10 R248, R250, 14 R295, 23 R400). -/
def State.mayStart (s : State) (q : QueueId) : Bool :=
  !(s.queue q).frozen && match q with
    | .mq c => !(s.core c).fenced && (s.core c).preempt.state == 0 && !s.wireHolds c
    | .vq c => !(s.core c).fenced && (s.core c).preempt.state == 0 && !s.wireHolds c
    | .cq c => !(s.core c).fenced && (s.core c).preempt.state == 0 && !s.wireHolds c
    | _ => true

/-- The command that a queue's engine starts next, lockstep jobs apart (13 R269). -/
def State.firstReady (s : State) (q : QueueId) : Option Entry :=
  if !s.mayStart q then none
  else
    let v := s.queue q
    let able := v.entries.filter fun e => decide (e.st = .ready) && s.tokenReady q e && s.engineFree q e && (s.lockstepJob e).isNone
    able.find? fun a => able.all fun b => a.seq == b.seq || comesFirst v.next a b

/-- Counts a pass for the commands that were ready and not started (13 R269). -/
def Queue.age (v : Queue) (chosen : Nat) (ready : List Nat) : Queue :=
  { v with entries := v.entries.map fun e =>
      if e.seq = chosen ∨ e.st ≠ .ready ∨ e.seq ∉ ready ∨ bitOf (e.d 0) 16 = true then e
      else if e.passes = 63 then { e with passes := 0, prio := min 15 (e.prio + 1) } else { e with passes := e.passes + 1 } }

/-- Whether an active phase of the core overlaps a command's sets (13 R274). -/
def State.phaseOverlap (s : State) (q : QueueId) (e : Entry) : Bool :=
  (coreQueues (homeCore q e)).any fun v =>
    (s.queue v).entries.any fun b => decide (b.st = .running) && !(decide (v = q) && b.seq == e.seq) && e.clashes b

/-- Whether an optical command starts on a unit that does not serve it: a dark one, or for K.OFT and K.OMASK a faulted one (20 R363). -/
def State.unlit (s : State) (q : QueueId) (e : Entry) : Bool :=
  match q with
  | .oq u => (decide ((s.ofu u).st = .dark) && decide (8 ≤ e.opcode ∧ e.opcode ≤ 0x0A)) || (decide ((s.ofu u).st = .faulted) && decide (e.opcode = 8 ∨ e.opcode = 9))
  | _ => false

/-- Starts a command: sets checked, token popped, state running (13 R274, R276, R280). A K.NEST starts the matrix status (08 R208); an
optical unit that does not serve the command faults it (20 R363). -/
def State.startCmd (s : State) (q : QueueId) (e : Entry) : State :=
  let home := homeCore q e
  if s.phaseOverlap q e then s.faultCmd q e.seq 0x08 false
  else
    let ready := ((s.queue q).entries.filter fun b => decide (b.st = .ready) && s.tokenReady q b).map (·.seq)
    let s1 := match e.popQueue with
      | some t => if e.hasToken then s else s.modCore home fun k => k.setToken t (k.token t - 1)
      | none => s
    let s2 := s1.modQueue q fun v => (v.modEntry e.seq fun e =>
      { e with st := .running, work := .pending, progress := 0, begun := false, reruns := 0, met := [], refetches := none, escaped := false, hasToken := e.hasToken || e.popQueue.isSome, ranks := none, since := s.time, peers := false, chunks := [], acked := 0 }).age e.seq ready
    let s3 := if e.opcode = 7 then s2.modCore home fun k => { k with mfst := k.mfstHeld.getD 0, mfstHeld := none } else s2
    let s4 := s3.traceCmd q 2 e
    if s.unlit q e then s4.faultCmd q e.seq 0x0B false else s4

/-! ### Retirement (13 R276) -/

/-- Whether a running command's retirement finds room for its report, its token and its decrements (05 R109, 13 R266, R280). -/
def State.retireRoom (s : State) (q : QueueId) (e : Entry) : Bool :=
  (!e.reports || (s.core e.core).resultRoom e.reportClass)
    && (match e.pushQueue with | some t => decide ((s.core (homeCore q e)).token t < 15) | none => true)
    && s.pendingRoom e.succs

/-- Retires a running command: summaries, d15, then everything that leaves with it (13 R276). -/
def State.retireCmd (s : State) (q : QueueId) (e : Entry) (valid zero finite : Bool) (tiles : List (Nat × Nat × Nat)) : State :=
  let home := homeCore q e
  let d15 := bitsOf (e.d 15) 15 0 + b2n finite * 2 ^ 17 + b2n zero * 2 ^ 16 + b2n valid * 2 ^ 23 + (s.core home).cycle % 2 ^ 32 * 2 ^ 32
  let e1 := e.setD 15 d15
  let s1 := tiles.foldl (fun s t => s.setSummary home (e.shape t.1) t.2.1 t.2.2) s
  let cs := s1.consumers q e.seq
  let s2 := (s1.leave q e1 4).modCore home fun k => k.noteCopy e1
  (s2.sealEnd e).rules cs

/-! ### QCTL and OCTL (13 R277, 20 R361) -/

/-- Returns a faulted command to waiting; its rule is evaluated again (13 R271, R277). -/
def State.retryCmd (s : State) (q : QueueId) (seq : Nat) : State :=
  match (s.queue q).find seq with
  | none => s
  | some e =>
    if e.st ≠ .faulted then s
    else
      let s1 := s.modQueue q fun v => v.modEntry seq fun e => { e with st := .waiting, work := .pending, progress := 0 }
      let s2 := s1.modCore (homeCore q e) fun k => { k with faultLog := k.faultLog.filter fun p => decide (¬(p.2 = seq ∧ p.1 + 1 = queueKind q)) }
      s2.rules [(q, seq)]

/-- Cancels a faulted command: it is ebbed, with no decrements, signals or ebbs; a job's stopped streams end (13 R276, R277). -/
def State.cancelCmd (s : State) (q : QueueId) (seq : Nat) : State :=
  match (s.queue q).find seq with
  | none => s
  | some e =>
    if e.st ≠ .faulted then s
    else
      let s1 := s.modQueue q fun v => v.free seq
      s1.modCore (homeCore q e) fun k =>
        let k1 := { k with faultLog := k.faultLog.filter fun p => decide (¬(p.2 = seq ∧ p.1 + 1 = queueKind q)) }
        match k.job with
        | some j => if e.opcode = 6 ∧ j.seq = seq then { k1 with job := none, vs := { k.vs with st := .ended }, ms := { k.ms with st := .ended } } else k1
        | none => k1

end Sys2Proof.Machine
end

