-- ==== Sys2Proof/Machine/Stream.lean ====
section
/-! DEFINITION. The vector stream (06 R123 to R129, 07 R152 to R174): landings, stops and their frame (10 R244 to R246, 12 R256), the resume, and the one driver that every vector word's meaning runs through. -/

namespace Sys2Proof.Machine

/-! ### The job and its pushing context (10 R244) -/

/-- Whether the pushing context still runs the part of the iteration in which it pushed the job (10 R244). -/
def State.pusherThere (s : State) (j : Job) : Bool :=
  let c := s.ctx j.core j.ctx
  decide (c.st ≠ .idle) && decide (c.iter = j.iter)

/-- Whether the manager interrupt is pending (24 R411). -/
def Mgmt.manager (m : Mgmt) : Bool := decide (m.hirqEnable &&& m.hirqPending ≠ 0)

/-- IPEND as a context reads it (10 R239). -/
def State.ipendOf (s : State) (core ctx : Nat) : Nat :=
  (s.ctx core ctx).ipend.toNat % 8 + (if core = harbourId then b2n s.mgmt.manager * 16 else 0)

/-- Whether an interrupt stops the streams of a core's job (10 R244, 11 R254): one of IEN[2:0], and in a replay only a recorded stop of the
streams, at its recorded IRET (22 R393). -/
def State.irqStop (s : State) (core : Nat) : Bool :=
  match (s.core core).job with
  | none => false
  | some j =>
    let c := s.ctx j.core j.ctx
    s.pusherThere j && decide (c.st ≠ .frozen) && bitOf c.ien.toNat 3 &&
      (if c.log.replay.isSome then decide (c.log.irqs.head? = some (c.log.iret, true)) else decide (s.ipendOf j.core j.ctx &&& c.ien.toNat &&& 0x07 ≠ 0))

/-- Lowers a core's stall wire in the lockstep group with a member there (14 R295, 15 R310). -/
def State.dropStall (s : State) (core : Nat) : State :=
  match s.lockstepAt core with
  | none => s
  | some g =>
    let v := s.group g
    s.setGroup g { v with stall := v.stall.filter fun c => decide (c.1 ≠ core) }

/-- Raises a core's stall wire at a cycle of the clock; a wire that is up keeps the cycle in which it rose (14 R295, 15 R310). -/
def State.raiseStall (s : State) (core time : Nat) : State :=
  match s.lockstepAt core with
  | none => s
  | some g =>
    let v := s.group g
    if v.stall.any fun c => decide (c.1 = core) then s else s.setGroup g { v with stall := v.stall ++ [(core, time)] }

/-- Charges n frozen cycles to a core that holds the stall wire, as the first that does: the requester's row, column 64 (14 R295, 23 R402). -/
def State.chargeBy (s : State) (core row n : Nat) : State :=
  match s.lockstepAt core with
  | none => s
  | some g =>
    if (s.wire g).head? ≠ some core then s
    else s.modCore core fun k =>
      { k with cm := Tbl.set 0 k.cm (row * 128 + 64) (min (2 ^ 32 - 1) (Tbl.get 0 k.cm (row * 128 + 64) + n)) }

/-- Charges a cycle in which a running stream of the core is held. -/
def State.chargeWire (s : State) (core : Nat) : State :=
  s.chargeBy core (if s.paging core then 1 else if decide ((s.core core).vs.st = .running) then 0 else 3) 1

/-- Charges cycles of the core's own clock in which its streams are stopped and hold the wire until their return (14 R295, 23 R404). -/
def State.chargeStopped (s : State) (core n : Nat) : State :=
  let k := s.core core
  if k.vs.st = .stopped then s.chargeBy core 0 n else if k.ms.st = .stopped then s.chargeBy core 1 n else s

/-- The fence of a failed sounding (23 R400): nothing more starts, and each mismatch writes a wrack entry and interrupts the harbour core. -/
def State.fence (s : State) (core : Nat) : State :=
  ((s.modCore core fun k => { k with fenced := true }).wrackAdd 2 0x0A 5 core 0 (s.core core).cycle).hirq 1

/-- The stop code of a stream that must stop with a cause at its next stop point: see `VStream`. -/
def stopCode (cause : Nat) (report : Bool) : Nat := 1 + cause + b2n report * 256

/-- The cause of a stop code. -/
def codeCause (n : Nat) : Nat := (n - 1) % 256

/-! ### The clock that the streams of a core share, and those of a lockstep round (06 R125, 15 R304) -/

/-- The cycle of the core's clock at which the vector stream moves next: its own and those that it was frozen for. -/
def Core.vecTime (k : Core) : Nat := k.vs.cycle + k.vs.lead

/-- The cycle of the matrix stream's own count at which it moves next. -/
def Core.matDue (k : Core) : Nat := match k.ms.step with | some st => st.due | none => k.ms.cycle

/-- The cycle of the core's clock at which the matrix stream moves next: its step's last cycle, or the issue of its next word (08 R186). -/
def Core.matTime (k : Core) : Nat := k.matDue + k.ms.lead

/-- Whether the vector stream's counter counts. -/
def Core.vecCounts (k : Core) : Bool := decide (k.vs.st = .running) && !k.vs.frozen

/-- Whether the matrix stream's counter counts. -/
def Core.matCounts (k : Core) : Bool := decide (k.ms.st = .running) && !k.ms.frozen

/-- The latest cycle of the clock that a counting stream of a core has reached. -/
def Core.clock (k : Core) : Nat :=
  max (if k.vecCounts then k.vecTime else 0) (if k.matCounts then k.ms.cycle + k.ms.lead else 0)

/-- The cores whose jobs count one clock with a core's: its lockstep round (15 R304), or itself. -/
def State.round (s : State) (core : Nat) : List Nat :=
  match (s.core core).job.bind (·.group) with
  | none => [core]
  | some g => core :: ((s.group g).members.map fun m => m.2.1).filter fun c =>
      decide (c ≠ core) && decide ((s.core c).job.bind (·.group) = some g)

/-- The clock's present cycle. -/
def State.clockNow (s : State) (core : Nat) : Nat := ((s.round core).map fun c => (s.core c).clock).foldl max 0

/-- A stream's lead once it counts again behind a freeze at one of its cycles: no word of it issues before the clock's present cycle. -/
def thaw (frozen : Bool) (lead cycle now : Nat) : Nat := if frozen then max lead (now - cycle) else lead

/-- The clock's cycle in which a core's streams stand, where they hold the stall wire. -/
def Core.haltTime (k : Core) : Nat := if k.vs.st = .running ∨ k.vs.st = .stopped then k.vecTime else k.ms.cycle + k.ms.lead

/-- The cycle of the clock in which a core's stall wire rose: as its stop raised it, or where its held streams stand. -/
def State.wireRose (s : State) (g core : Nat) : Nat :=
  match (s.group g).stall.find? fun c => decide (c.1 = core) with
  | some c => c.2
  | none => (s.core core).haltTime

/-- Whether the stall wire of the lockstep group with a member on the core holds a counter that stands at a cycle of the clock, whatever
job runs there (06 R125, 15 R310): a member of the holder's round first counts up to the cycle in which the wire rose. -/
def State.stalled (s : State) (core time : Nat) : Bool :=
  match s.lockstepAt core with
  | none => false
  | some g => (s.wire g).any fun c => decide (c ≠ core) && !((s.round core).contains c && decide (time < s.wireRose g c))

/-- Whether another core of the round has a stream that counts and has an earlier cycle to move in: the round counts the same cycles (15 R304). -/
def State.roundAhead (s : State) (core time : Nat) : Bool :=
  (s.round core).any fun c => decide (c ≠ core) &&
    (((s.core c).vecCounts && decide ((s.core c).vecTime < time)) || ((s.core c).matCounts && decide ((s.core c).matTime < time)))

/-- Whether the matrix stream has an earlier cycle to move in than the vector stream (08 R211). -/
def Core.matrixBehind (k : Core) : Bool := k.matCounts && decide (k.matTime < k.vecTime)

/-- Whether the vector stream moves before the matrix stream: in an earlier cycle, or in the same one (08 R211). -/
def Core.vectorFirst (k : Core) : Bool := k.vecCounts && decide (k.vecTime ≤ k.matTime) && decide (k.ms.atStop = 0)

/-- Whether the vector stream's counter stands (06 R125, 14 R295): a stop that is due is made all the same. -/
def State.vecHeld (s : State) (core : Nat) : Bool :=
  decide ((s.core core).vs.atStop = 0) && !s.irqStop core && (s.stalled core (s.core core).vecTime || s.clockHeld core || s.roundAhead core (s.core core).vecTime)

/-- Whether an interrupt stops a matrix stream that runs alone. -/
def State.irqAlone (s : State) (core : Nat) : Bool := s.irqStop core && decide ((s.core core).vs.st ≠ .running)

/-- Whether the matrix stream's counter stands (08 R186, 14 R295). -/
def State.matHeld (s : State) (core : Nat) : Bool :=
  decide ((s.core core).ms.atStop = 0) && !s.irqAlone core && (s.stalled core (s.core core).matTime || s.clockHeld core || s.roundAhead core (s.core core).matTime)

/-! ### Stops -/

/-- Whether a word of the other stream in this very cycle may still stop of its own cause, where this stream stopped of its own: then both
are at fault (10 R241, R245). -/
def bothStop (otherSt : StreamSt) (otherCause otherCycle cycle atStop : Nat) : Bool :=
  decide (otherSt = .stopped) && decide (otherCause ≠ 0) && decide (otherCause ≠ 0x10) && decide (otherCycle = cycle) && decide (atStop = stopCode 0 false)

/-- A vector word that may stop in the cycle in which the matrix stream stopped. -/
def Core.vecBoth (k : Core) : Bool := decide (k.vs.st = .running) && bothStop k.ms.st k.ms.cause (k.ms.stopCycle + k.ms.lead) k.vecTime k.vs.atStop

/-- A matrix word that may stop in the cycle in which the vector stream stopped. -/
def Core.matBoth (k : Core) : Bool := decide (k.ms.st = .running) && k.ms.step.isNone && bothStop k.vs.st k.vs.cause k.vecTime (k.ms.cycle + k.ms.lead) k.ms.atStop

/-- A stop that the other stream must follow at its next stop point, unless a stop already waits there (10 R244). -/
def Core.follow (k : Core) (code : Nat) : Core :=
  { k with
    vs := if k.vs.st = .running ∧ k.vs.atStop = 0 then { k.vs with atStop := code } else k.vs
    ms := if k.ms.st = .running ∧ k.ms.atStop = 0 then { k.ms with atStop := code } else k.ms }

/-- What a stop of a core's stream does beyond its frame (10 R244, R250, 15 R304, R305): the other stream follows, the stall wire
rises, a cause of the streams' own ends the lockstep round, and without a pushing context to trap the K.JOB faults. -/
def State.stopSpread (s : State) (core cause : Nat) (report : Bool) : State :=
  let s0 := s.modCore core fun k => k.follow (stopCode 0 false)
  let rose := (s0.core core).haltTime
  let s1 := s0.raiseStall core rose
  match (s.core core).job with
  | none => s1
  | some j =>
    let s2 := match j.group with
      | some _ => if report && decide (cause ≠ 0x10) then
          (s1.round core).foldl (fun s c => if c = core then s else (s.modCore c fun k => k.follow (stopCode 0 true)).raiseStall c rose) s1
        else s1
      | none => s1
    let frozen : Bool := decide ((s2.ctx j.core j.ctx).st = .frozen)
    if report && (frozen || !s2.pusherThere j) then
      (s2.modCore core fun k => { k with vs := if k.vs.st = .stopped then { k.vs with atStop := 0 } else k.vs
                                         ms := if k.ms.st = .stopped then { k.ms with atStop := 0 } else k.ms }).faultCmd (.vq core) j.seq cause frozen
    else s2

/-! ### The phase of a job (23 R396 to R398) -/

/-- The command of the core's job in its queue. -/
def State.jobEntry (s : State) (core : Nat) : Option Entry :=
  (s.core core).job.bind fun j => (s.queue (.vq core)).find j.seq

/-- Changes the entry of the core's job. -/
def State.modJobEntry (s : State) (core : Nat) (f : Entry → Entry) : State :=
  match (s.core core).job with
  | none => s
  | some j => s.modQueue (.vq core) fun q => q.modEntry j.seq f

/-- The job's phase makes an escape (23 R397). -/
def State.escape (s : State) (core : Nat) : State := s.modJobEntry core fun e => { e with escaped := true }

/-- Whether a stop of the core's job for a cause cancels the phase for a rerun instead (23 R398). -/
def State.reruns (s : State) (core cause : Nat) : Bool :=
  decide (cause = 0x06) && match s.jobEntry core with | some e => e.eligible (s.core core) | none => false

/-- The streams of an eligible phase that met poison in some lines stop; the command stays running until its rerun, which refetches
those lines (23 R398). -/
def State.cancelPhase (s : State) (core : Nat) (lines : List Nat) : State :=
  (s.modCore core fun k =>
    { k with vs := if k.vs.st = .running then { k.vs with st := .stopped, atStop := 0, frozen := false } else k.vs
             ms := if k.ms.st = .running then { k.ms with st := .stopped, atStop := 0, frozen := false } else k.ms }).modJobEntry core
    fun e => { e with work := .failed 0x06 false, met := e.met ++ lines }

/-! ### The vector frame (10 R246, 11 R252, 12 R256) -/

/-- First location of a core's vector stream frame (10 R243). -/
def vframeLoc (core : Nat) : Nat := sliceLoc core 0x3E0000

/-- A loop record (11 R252). -/
def HwLoop.words (l : HwLoop) : List Word :=
  [BitVec.ofNat 64 l.start, BitVec.ofNat 64 l.stop, BitVec.ofNat 64 (l.remaining % 2 ^ 32 + l.drain % 8 * 2 ^ 32 + b2n l.rot * 2 ^ 35),
   BitVec.ofNat 64 l.index]

/-- The code of a format loop selection (11 R252). -/
def loopSelCode : LoopSel → Nat
  | .none => 0 | .l0 => 1 | .l1 => 2

/-- The selection of a code below 3. -/
def loopSelOf (n : Nat) : LoopSel := match n with | 1 => .l0 | 2 => .l1 | _ => .none

/-- A direction's code (03 R59). -/
def dirNum : Dir → Nat
  | .row => 0 | .column => 1 | .diagonal => 2 | .antidiagonal => 3

/-- The direction of a code. -/
def dirNumOf (n : Nat) : Dir := match n with | 0 => .row | 1 => .column | 2 => .diagonal | _ => .antidiagonal

/-- dtype, dir, index and target of a destination (12 R256). -/
def LandDest.fields : LandDest → Nat × Nat × Nat × Nat
  | .grid d i o => (0, dirNum d, i, o)
  | .scalar n => (1, 0, 0, n)
  | .pred n => (2, 0, 0, n)
  | .accum t => (3, 0, 0, t)
  | .fmtRow r => (4, 0, 0, r)
  | .event => (5, 0, 0, 0)
  | .tokens => (6, 0, 0, 0)

/-- A record of a vector frame: header and payload (12 R256). Its lanes are the word's active lanes at issue; a stop pushes no token. (DEDUCED, unsafe: notes/assumptions/33.md) -/
def Landing.words (r : Landing) (c : Nat) : List Word :=
  let (dt, dir, idx, tgt) := r.dest.fields
  let (kind, pay) : Nat × List Nat := match r.kind with
    | .result => (0, r.values.map BitVec.toNat)
    | .load => (1, r.addrs.map fun a => a / 4)
    | .stop cause => (2, [cause % 256])
  let d1 := if kind = 2 then 2 ^ 57 else kind * 2 ^ 56 + (if kind = 1 then 0 else dt * 2 ^ 48) + dir * 2 ^ 12 + idx * 2 ^ 6 + tgt
  let lanes : Word := if kind = 2 ∨ 4 ≤ dt then 0 else r.active
  let push := if kind = 2 then 0 else r.push % 16
  [lanes, BitVec.ofNat 64 d1, BitVec.ofNat 64 (r.due - c), BitVec.ofNat 64 (push * 2 ^ 8 + r.flags % 128)] ++
    pack32 ((List.range 64).map fun i => pay.getD i 0)

/-- Records in ascending k, issue order among equal k (12 R257). -/
def insertLanding (r : Landing) : List Landing → List Landing
  | [] => [r]
  | x :: xs => if r.due < x.due then r :: x :: xs else x :: insertLanding r xs

/-- A stream's landings in the order of their records. -/
def sortLandings (l : List Landing) : List Landing := l.foldl (fun acc r => insertLanding r acc) []

/-- Writes the vector stream frame (10 R246). For cause 0x12 the raising word and the flags that it raised (02 R26) follow VFST. (DESIGN CHOICE, unsafe: notes/assumptions/78.md) -/
def State.writeVFrame (s : State) (core cause : Nat) : State :=
  let k := s.core core
  let v := k.vs
  let b := vframeLoc core
  let recs := sortLandings (v.land.map fun r => if r.due < v.cycle then { r with due := v.cycle } else r)
  let s1 := s.writeDs b (pack32 ((List.range 4096).map fun i => v.cell i))
  let s2 := s1.writeDs (b + 0x4000) ((List.range 32).map v.getS ++ (List.range 16).map v.getP ++ v.l0.words ++ v.l1.words ++
    [BitVec.ofNat 64 v.pc, BitVec.ofNat 64 v.rotBase, BitVec.ofNat 64 (v.fmtRow + loopSelCode v.fmtLoop * 2 ^ 4), BitVec.ofNat 64 v.cycle, BitVec.ofNat 64 cause])
  let s3 := s2.writeDs (b + 0x4200) (pack32 ((List.range 128).map fun i => (Tbl.get 0 v.fmt i).toNat))
  let s4 := (s3.writeDs (b + 0x4400) [k.vfst.setWidth 64, BitVec.ofNat 64 v.raiser.1, BitVec.ofNat 64 v.raiser.2]).writeD (b + 0x4440) (BitVec.ofNat 64 recs.length)
  (recs.foldl (fun p r => (p.1.writeDs (b + 0x4480 + 288 * p.2) (r.words v.cycle), p.2 + 1)) (s4, 0)).1

/-- A vector stream stops at its present cycle (10 R244, R245): its frame is written and the stop spreads. A rendezvous that it
waited at is awaited anew after the resume (07 R171). -/
def State.vecStop (s : State) (core cause : Nat) (report : Bool) : State :=
  let s1 := s.modCore core fun k =>
    { k with vs := { k.vs with st := .stopped, cause := cause, frozen := false, atRdv := false,
                               rdv := if k.vs.atRdv then k.vs.rdv - 1 else k.vs.rdv, raiser := if cause = 0x12 then k.vs.raiser else (0, 0),
                               atStop := if report then stopCode cause true else 0 } }
  ((s1.writeVFrame core cause).trace core 3 4 3 (s1.core core).vs.cycle (s1.core core).vs.pc cause).stopSpread core cause report

/-! ### Memory of the stream (07 R152 to R158) -/

/-- Whether a location is of a core's slice. -/
def localLoc (core l : Nat) : Bool := decide (sliceBase core ≤ l) && decide (l < sliceBase core + 2 ^ 22)

/-- The outcome of checking lane addresses: a stop, or the state with SPOR recorded (07 R152, R158). -/
inductive LaneCheck where
  | stop (s : State) (cause : Nat)
  | ok (s : State)

/-- Whether a local line lies in the declared sets of a det job (07 R158). -/
def Job.declares (j : Job) (line : Nat) (store : Bool) : Bool :=
  ((if store then j.writes else j.reads ++ j.writes).any fun l => decide (l.start ≤ line) && decide (line < l.start + l.length))

/-- Whether a job's lines are checked: det set and at least one set that is not empty (07 R158). -/
def Job.checked (j : Job) : Bool := j.det && (j.reads ++ j.writes).any fun l => decide (l.length ≠ 0)

/-- The checks of 07 R152 on lane addresses, in their order. -/
def State.addrChecks (s : State) (j : Job) (addrs : List Nat) : LaneCheck :=
  if addrs.any fun a => decide (a % 4 ≠ 0) then .stop s 0x03
  else if !j.priv && addrs.any inSystemArea then .stop s 0x02
  else
    let far := addrs.filter fun a => decide (2 ^ 33 + 2 ^ 22 ≤ a)
    let s1 := match far with | [] => s | a :: _ => s.recordSpor j.core j.ctx a
    if !far.isEmpty && (s.ctx j.core j.ctx).sporen then .stop s1 0x11 else .ok s1

/-- The checks of 07 R152 and then of R158 on the addresses of the active lanes of a vector memory word. -/
def State.laneChecks (s : State) (core : Nat) (j : Job) (addrs : List Nat) (store : Bool) : LaneCheck :=
  match s.addrChecks j addrs with
  | .stop t c => .stop t c
  | .ok t =>
    if j.checked && addrs.any (fun a => match place core a with
        | .sram l => localLoc core l && !j.declares (l % 2 ^ 22 / 64) store
        | _ => false) then .stop s 0x08
    else .ok t

/-- The location of a lane address, if it has one (07 R152). -/
def laneLoc (core a : Nat) : Option Nat := match place core a with | .sram l => some l | _ => none

/-- The 4 bytes at a lane address; an out-of-range lane reads zero. -/
def State.laneRead (s : State) (core a : Nat) : Elem := match laneLoc core a with | some l => BitVec.ofNat 32 (s.read l 4) | none => 0

/-- Whether a lane address lies in a poisoned line. -/
def State.lanePoison (s : State) (core a : Nat) : Bool := match laneLoc core a with | some l => s.poisoned l | none => false

/-- Whether a lane address is in another slice. -/
def laneRemote (core a : Nat) : Bool := match laneLoc core a with | some l => !localLoc core l | none => false

/-! ### Landings (06 R124, R126, R129; 12 R258) -/

/-- Keeps the accumulator store as it stood before the VACZ landings of the stream's cycle, and what they clear (08 R211). -/
def Core.noteZeroed (k : Core) (keys : List Nat) : Core :=
  match k.zeroed.filter fun z => decide (z.time = k.vecTime) with
  | some z => { k with zeroed := some { z with keys := z.keys ++ keys } }
  | none => { k with zeroed := some { time := k.vecTime, acc := k.acc, poison := k.accPoison, keys := keys } }

/-- Writes a landing's values (12 R256). (DEDUCED, unsafe: notes/assumptions/31.md) -/
def Core.applyLanding (k : Core) (r : Landing) : Core :=
  let v := k.vs
  let val (i : Nat) : Elem := r.values.getD i 0
  let two : Word := val 1 ++ val 0
  match r.dest with
  | .grid d i off =>
    let g := writeLanes v.grid d i off r.lanes r.values
    { k with vs := { v with grid := if r.second.isEmpty then g else writeLanes g d ((i + 1) % 64) off r.lanes r.second } }
  | .scalar n => { k with vs := v.setS n two }
  | .pred n => { k with vs := v.setP n ((v.getP n &&& ~~~r.lanes) ||| (two &&& r.lanes)) }
  | .accum t =>
    let keys := (((lanesOf r.lanes).map fun l => (val l).toNat).filter fun e => decide (e < 131072)).map fun e => 131072 * t + e
    (k.noteZeroed keys).writeAcc (keys.map fun e => (e, 0))
  | .fmtRow row => { k with vs := { v with fmt := (List.range 8).foldl (fun f i => Tbl.set 0 f (8 * (row % 16) + i) (val i)) v.fmt } }
  | .event => { k with evw := k.evw ||| val 0 }
  | .tokens => k

/-- The tokens that a landing pushes (06 R129, 12 R256). -/
def Landing.tokens (r : Landing) : Nat :=
  if r.push = 0 then 0 else match r.dest, r.kind with | .tokens, .result => (r.values.getD 0 0).toNat | _, _ => 1

/-- Pushes up to n tokens while their queue has room; answers those left over (07 R169). -/
def Core.pushTokens (k : Core) (q n : Nat) : Core × Nat :=
  let m := min n (15 - k.token q)
  (if m = 0 then k else k.setToken q (k.token q + m), n - m)

/-- A landing that holds tokens until there is room. -/
def tokenLanding (due q n : Nat) : Landing :=
  { due := due, kind := .result, dest := .tokens, lanes := 0, active := 0, word := 0, values := [BitVec.ofNat 32 n], second := [], addrs := [], push := q, flags := 0,
    poison := false, arrived := true, fence := false }

/-- What the landings of one cycle leave: the core, landings kept, flags raised, and the stop. -/
structure Landed where
  k : Core
  kept : List Landing
  flags : Nat
  stop : Option Nat
  fence : Bool

/-- One landing of the cycle, in issue order: of several stops that are due, the first one's cause is recorded. (DESIGN CHOICE, unsafe: notes/assumptions/63.md) -/
def landOne (cycle : Nat) (a : Landed) (r : Landing) : Landed :=
  if r.kind = .load ∧ (r.poison ∨ r.arrived = false) then
    { a with kept := a.kept ++ [{ r with due := cycle }], stop := if r.poison then some (a.stop.getD 0x06) else a.stop }
  else match r.kind with
  | .stop c => { a with stop := some (a.stop.getD c), fence := a.fence || r.fence }
  | _ =>
    let k1 := a.k.applyLanding r
    let (k2, left) := k1.pushTokens r.push r.tokens
    { a with k := k2, kept := if left = 0 then a.kept else a.kept ++ [tokenLanding cycle r.push left], flags := a.flags ||| r.flags }

/-- The poisoned lines among the addresses of lanes, as their first locations (23 R398). -/
def State.poisonLines (s : State) (core : Nat) (addrs : List Nat) : List Nat :=
  ((addrs.filterMap (laneLoc core)).filter s.poisoned).map fun l => l / 64 * 64

/-- The addresses that a landing stopped by poison read. -/
def Landing.poisonAddrs (r : Landing) : List Nat :=
  match r.kind with
  | .load => if r.poison then (lanesOf r.lanes).map fun l => r.addrs.getD l 0 else []
  | .stop c => if c = 0x06 then r.addrs else []
  | .result => []

/-- The word and the flags of the first landing that raises an enabled flag (02 R26). -/
def raiserOf (enables : Nat) (due : List Landing) : Nat × Nat :=
  match due.find? fun r => decide (r.flags &&& enables ≠ 0) with
  | some r => (r.word, r.flags)
  | none => (0, 0)

/-- Everything due at the stream's cycle lands (06 R124, R129, 07 R154, R169, R175): values, then flags in VFST, then the stop that
a poisoned load, a landing's stop, a sounding or an enabled flag makes. A VSIG's bits and a token of vx escape from the phase (23 R397). A landing's own stop comes before 0x12. (DESIGN CHOICE, unsafe: notes/assumptions/63.md) -/
def State.vecLand (s : State) (core : Nat) : State :=
  let k0 := s.core core
  let k : Core := { k0 with vs := { k0.vs with lead := thaw k0.vs.frozen k0.vs.lead k0.vs.cycle (s.clockNow core) } }
  let c := k.vs.cycle
  let due := k.vs.land.filter fun r => decide (r.due ≤ c)
  let later := k.vs.land.filter fun r => decide (c < r.due)
  let a := due.foldl (landOne c) { k := { k with vs := { k.vs with land := later } }, kept := [], flags := 0, stop := none, fence := false }
  let k1 := { a.k with vfst := a.k.vfst ||| BitVec.ofNat 32 a.flags, vs := { a.k.vs with land := a.kept ++ a.k.vs.land } }
  let enables := (k1.vfst.toNat / 2 ^ 10) &&& 0x1F
  let k2 := { k1 with vs := { k1.vs with frozen := k1.vs.land.any fun r => decide (r.due ≤ c), raiser := raiserOf enables due } }
  let left : Bool := decide (a.k.token 9 ≠ k.token 9) || due.any fun r => decide (r.kind = .result) && decide (r.dest = .event)
  let s0 := s.setCore core k2
  let s1 := if left then s0.escape core else s0
  let trapped : Option Nat := if a.flags &&& enables ≠ 0 then some 0x12 else none
  if a.fence then (s1.fence core).vecStop core 0x0A true
  else match a.stop.or trapped with
  | some cause => if s1.reruns core cause then s1.cancelPhase core (s1.poisonLines core (due.flatMap Landing.poisonAddrs)) else s1.vecStop core cause true
  | none => s1

/-- Whether a landing that is due can land now: a load's data has come, and a held token has room (06 R125, 07 R153, R169). -/
def Core.landable (k : Core) (r : Landing) : Bool :=
  decide (r.due ≤ k.vs.cycle) && (decide (r.kind ≠ .load) || r.arrived || r.poison) &&
    (match r.dest with | .tokens => decide (k.token r.push < 15) | _ => true)

/-! ### Resume (10 R242, R245; 11 R253; 12 R257) -/

/-- A loop from its record, unless the record cannot be restored (11 R253). -/
def loopOf (ds : List Nat) (matrix : Bool) : Option HwLoop :=
  let st := ds.getD 0 0
  let en := ds.getD 1 0
  let w := ds.getD 2 0
  if w / 2 ^ 36 ≠ 0 ∨ en < st ∨ (bitOf w 35 = false ∧ bitsOf w 34 32 ≠ 0) ∨ (matrix = true ∧ bitsOf w 35 32 ≠ 0) then none
  else some { start := st, stop := en, remaining := w % 2 ^ 32, drain := bitsOf w 34 32, rot := bitOf w 35, index := ds.getD 3 0 }

/-- Whether two loops can run together (11 R253). -/
def loopsFit (l0 l1 : HwLoop) : Bool := !(l0.running && l1.running && decide (l0.stop < l1.stop))

/-- A record from its 36 doublewords, unless it is malformed (12 R257). -/
def landingOf (c : Nat) (ds : List Nat) : Option Landing :=
  let d1 := ds.getD 1 0
  let kind := d1 / 2 ^ 56
  let dt := bitsOf d1 55 48
  let k := ds.getD 2 0
  let d3 := ds.getD 3 0
  let pay (i : Nat) : Nat := ds.getD (4 + i / 2) 0 / 2 ^ (32 * (i % 2)) % 2 ^ 32
  if bitsOf d1 47 14 ≠ 0 ∨ 2 < kind ∨ 6 < dt ∨ (kind ≠ 0 ∧ dt ≠ 0) ∨ 72 < k ∨ d3 / 2 ^ 12 ≠ 0 ∨ bitOf d3 7 = true then none
  else
    let tgt := d1 % 64
    let dest : LandDest := match dt with
      | 0 => .grid (dirNumOf (bitsOf d1 13 12)) (bitsOf d1 11 6) tgt
      | 1 => .scalar (tgt % 32)
      | 2 => .pred (tgt % 16)
      | 3 => .accum (tgt % 8)
      | 4 => .fmtRow (tgt % 16)
      | 5 => .event
      | _ => .tokens
    let lk : LandKind := match kind with | 0 => .result | 1 => .load | _ => .stop (pay 0 % 256)
    some { due := c + k, kind := lk, dest := dest, lanes := BitVec.ofNat 64 (ds.getD 0 0), active := BitVec.ofNat 64 (ds.getD 0 0), word := 0
           values := if kind = 0 then (List.range 64).map fun i => BitVec.ofNat 32 (pay i) else [], second := []
           addrs := if kind = 1 then (List.range 64).map fun i => 4 * pay i else []
           push := bitsOf d3 11 8, flags := d3 % 128, poison := false, arrived := true, fence := decide (kind = 2 ∧ pay 0 % 256 = 0x0A) }

/-- A load record is read afresh, its lane addresses checked as at an issue (12 R257). -/
def State.reload (s : State) (core : Nat) (j : Job) (r : Landing) : Except (State × Nat) (State × Landing) :=
  match r.kind with
  | .load =>
    let ls := lanesOf r.lanes
    let addrs := ls.map fun l => r.addrs.getD l 0
    match s.addrChecks j addrs with
    | .stop t c => .error (t, c)
    | .ok t =>
      .ok (t, { r with values := (List.range 64).map fun l => if ls.contains l then t.laneRead core (r.addrs.getD l 0) else 0
                       poison := addrs.any (t.lanePoison core), arrived := !addrs.any (laneRemote core) })
  | _ => .ok (s, r)

/-- Every record of the frame is read afresh. -/
def State.reloads (s : State) (core : Nat) (j : Job) : List Landing → Except (State × Nat) (State × List Landing)
  | [] => .ok (s, [])
  | r :: rs =>
    match s.reload core j r with
    | .error e => .error e
    | .ok (t, r') =>
      match t.reloads core j rs with
      | .error e => .error e
      | .ok (u, rs') => .ok (u, r' :: rs')

/-- A record's landing with what the frame does not hold, from the landing that it was written from: a second row, and where the destination
and the lanes stand as they were written, the lanes that the word writes. (DEDUCED, unsafe: notes/assumptions/33.md) -/
def withSecond (olds : List Landing) (i : Nat) (r : Landing) : Landing :=
  match olds[i]? with
  | none => r
  | some o =>
    let r1 := match r.dest with | .grid .. => { r with second := o.second } | _ => r
    if r.dest = o.dest ∧ r.lanes = o.active then
      { r1 with lanes := o.lanes, word := o.word, addrs := if r.kind = .load then r.addrs else o.addrs }
    else r1

/-- The vector frame as it stands, or the cause that stops the stream at its resume cycle (11 R253, 12 R257). -/
def State.readVFrame (s : State) (core : Nat) (j : Job) : Except (State × Nat) State :=
  let k := s.core core
  let b := vframeLoc core
  let rd (o : Nat) : Nat := s.read (b + o) 8
  let n := rd 0x4440
  let base := rd 0x41C8
  let row := rd 0x41D0
  match loopOf ((List.range 4).map fun i => rd (0x4180 + 8 * i)) false, loopOf ((List.range 4).map fun i => rd (0x41A0 + 8 * i)) false with
  | some l0, some l1 =>
    if 72 < n ∨ base / 64 ≠ 0 ∨ row / 64 ≠ 0 ∨ row / 16 = 3 ∨ rd 0x41E0 / 256 ≠ 0 ∨ loopsFit l0 l1 = false then .error (s, 0x01)
    else
      let recs := (List.range n).map fun i => landingOf k.vs.cycle ((List.range 36).map fun w => rd (0x4480 + 288 * i + 8 * w))
      if recs.any Option.isNone then .error (s, 0x01)
      else
        match s.reloads core j ((recs.filterMap id).mapIdx (withSecond (sortLandings k.vs.land))) with
        | .error e => .error e
        | .ok (t, land) =>
          let el (o i : Nat) : Elem := BitVec.ofNat 32 (s.read (b + o + 4 * i) 4)
          let v0 : VStream := { k.vs with
            st := .running, frozen := false, atStop := 0, cause := 0, pc := rd 0x41C0, rotBase := base, fmtRow := row % 16
            fmtLoop := loopSelOf (row / 16), l0 := l0, l1 := l1, land := land, s := [], p := []
            grid := (List.range 4096).foldl (fun g i => Tbl.set 0 g i (el 0 i)) []
            fmt := (List.range 128).foldl (fun g i => Tbl.set 0 g i (el 0x4200 i)) [] }
          let v1 := (List.range 32).foldl (fun v i => v.setS i (BitVec.ofNat 64 (rd (0x4000 + 8 * i)))) v0
          let v2 := (List.range 16).foldl (fun v i => v.setP i (BitVec.ofNat 64 (rd (0x4100 + 8 * i)))) v1
          .ok (t.modCore core fun k => { k with vs := v2, vfst := BitVec.ofNat 32 (rd 0x4400 &&& 0x7C7F) })
  | _, _ => .error (s, 0x01)

/-- A resumed stream reads its code afresh (03 R50). -/
def State.recode (s : State) (core : Nat) : State :=
  s.modCore core fun k => { k with job := k.job.map fun j => { j with code := s.mem } }

/-- Resumes a stopped vector stream from its frame (10 R242, R245); a frame that cannot be restored stops it again at its resume
cycle, before any word issues (11 R253, 12 R257). -/
def State.vecResume (s : State) (core : Nat) : State :=
  let k := s.core core
  match k.job with
  | none => s
  | some j =>
    if k.vs.st ≠ .stopped then s
    else match s.readVFrame core j with
      | .ok t => (t.dropStall core).recode core
      | .error (t, c) =>
        ((t.modCore core fun k => { k with vs := { k.vs with cause := c, atStop := stopCode c true } }).writeD (vframeLoc core + 0x41E0)
          (BitVec.ofNat 64 c)).stopSpread core c true

/-! ### Loops and branches (07 R163 to R168) -/

/-- A loop backs up once: the next word and the loop (07 R164). -/
def HwLoop.back (l : HwLoop) : Nat × HwLoop :=
  if 1 < l.remaining then (l.start, { l with remaining := l.remaining - 1, index := l.index + 1 })
  else (l.stop + 1, { l with remaining := 0 })

/-- The word after an end word that no branch took: L1 is settled first, L0 only where L1 ends at the same word (07 R164). -/
def settleLoops (pc : Nat) (l0 l1 : HwLoop) : Nat × HwLoop × HwLoop :=
  let (n1, l1', hit) : Nat × HwLoop × Bool :=
    if l1.running && decide (l1.stop = pc) then let r := l1.back; (r.1, r.2, r.2.running) else (pc + 1, l1, false)
  if hit then (n1, l0, l1')
  else if l0.running && decide (l0.stop = pc) then let r := l0.back; (r.1, r.2, l1')
  else (n1, l0, l1')

/-- What a VLBR or MLBR that names a loop does to the loops: the next word, L0, L1, and whether the named loop backed up. L1 is settled
before L0 where both stand at the word (07 R164), so that L0 backs up only once L1 ends there. (DEDUCED, unsafe: notes/assumptions/65.md) -/
def backUp (loop pc : Nat) (l0 l1 : HwLoop) : Nat × HwLoop × HwLoop × Bool :=
  if loop = 1 then
    let r := l1.back
    if !r.2.running && l0.running && decide (l0.stop = pc) then (l0.back.1, l0.back.2, r.2, true) else (r.1, l0, r.2, true)
  else if l1.running && decide (l1.stop = pc) then
    let r := l1.back
    if r.2.running then (r.1, l0, r.2, false) else (l0.back.1, l0.back.2, r.2, true)
  else (l0.back.1, l0.back.2, l1, true)

/-- A taken branch to a word outside the body of a running loop ends that loop (07 R165). -/
def HwLoop.leave (l : HwLoop) (target : Int) : HwLoop :=
  if l.running && !(decide ((l.start : Int) ≤ target) && decide (target ≤ (l.stop : Int))) then { l with remaining := 0 } else l

/-- A word index kept in the width that a frame records (11 R252). -/
def wordIndex (t : Int) : Nat := (t % 2 ^ 64).toNat

/-- A loop as VLOOP and MLOOP start it, or none where 07 R163 stops the stream: the next word and the two loops. -/
def startLoop (pc n off count drain : Nat) (rot : Bool) (l0 l1 : HwLoop) : Option (Nat × HwLoop × HwLoop) :=
  let l := if n = 0 then l0 else l1
  let stop := pc + off
  if l.running || (decide (n = 0) && l1.running) || (decide (n = 1) && l0.running && decide (l0.stop < stop)) then none
  else
    let l' : HwLoop := { start := pc + 1, stop := stop, remaining := if count = 0 then 0 else count + drain, drain := drain, rot := rot, index := 0 }
    let next := if count = 0 then stop + 1 else pc + 1
    some (if n = 0 then (next, l', l1) else (next, l0, l'))

/-! ### The driver of a vector word -/

/-- What a vector word's body answers. `land` is the landing that carries its push token; `next` the word that a branch or loop word takes. -/
inductive VOut where
  | ok (s : State) (land : List Landing) (next : Option Nat)
  | stop (s : State) (cause : Nat)
  | freeze (s : State)

/-- The acting core's vector stream. -/
def State.vs (s : State) : VStream := s.here.vs

/-- Changes the acting core's vector stream. -/
def State.modVs (s : State) (f : VStream → VStream) : State := s.modHere fun k => { k with vs := f k.vs }

/-- A stop of the acting core's vector stream for a cause of its own. -/
def State.stopHere (s : State) (cause : Nat) : State := s.vecStop s.focus.core cause true

/-- A rotating loop must end at a VLBR that names it (07 R168); `named` is the loop of a VLBR. -/
def VStream.endsWrong (v : VStream) (named : Option Nat) : Bool :=
  (v.l1.running && v.l1.rot && decide (v.l1.stop = v.pc) && decide (named ≠ some 1)) ||
    (v.l0.running && v.l0.rot && decide (v.l0.stop = v.pc) && decide (named ≠ some 0))

/-- A landing of a value with the word's header. -/
def result (due : Nat) (h : VHdr) (dest : LandDest) (lanes : Word) (vals : List Elem) (flags : Nat) : Landing :=
  { due := due, kind := .result, dest := dest, lanes := lanes, active := lanes, word := 0, values := vals, second := [], addrs := [], push := h.push, flags := flags, poison := false
    arrived := true, fence := false }

/-- Which of two loops a word has ended: bit 0 L0, bit 1 L1 (07 R164, R165). -/
def loopsEnded (l0 l1 n0 n1 : HwLoop) : Nat := b2n (l0.running && !n0.running) + 2 * b2n (l1.running && !n1.running)

/-- Where the newest trace record of a core stands in the ring, if one was written since the head stood at `head`. -/
def Core.traceSince (k : Core) (head : Word) : Option Nat :=
  let room := k.trlen.toNat * 65536
  if k.trhead = head ∨ room = 0 then none else some (k.trbase.toNat + (k.trhead.toNat + room - 32) % room)

/-- The snapshot's trace record holds CMSNAP as the second stream's loops leave it (23 R403, R405). -/
def State.retrace (s : State) (core place cmsnap : Nat) : State :=
  if !bitOf (s.core core).trctl.toNat 0 then s
  else match s.pagedAccess place true true true with
    | .loc l t => t.writeD (l + 16) (BitVec.ofNat 64 cmsnap)
    | _ => s

/-- The conflict matrix's snapshot where loops end in a cycle of the stream and of the clock, named by their bits; loops of both streams that
end in one cycle of the clock share one (23 R403). -/
def State.loopSnap (s : State) (core cycle time ended : Nat) : State :=
  let k := s.core core
  let old := k.cmSnap.toNat
  if ended = 0 then s
  else match k.cmMerge.filter fun m => decide (m.1 = time) && (bitsOf old 7 4 &&& ended) == 0 with
  | some m =>
    let s1 := s.setCore core { k with cmSnap := BitVec.ofNat 64 (old + ended * 16) }
    match m.2 with
    | some place => s1.retrace core place (old + ended * 16)
    | none => s1
  | none =>
    let w := cycle % 2 ^ 56 * 256 + ended * 16 + (old + 1) % 16
    let t := (s.setCore core { k with cmSnap := BitVec.ofNat 64 w, cmSnapVals := k.cm }).trace core 0 5 (if ended < 4 then 3 else 4) cycle w 0
    t.modCore core fun k' => { k' with cmMerge := some (time, k'.traceSince k.trhead) }

/-- A vector word that would issue in the cycle in which the matrix stream stopped of its own cause does not (10 R245): the stream follows. -/
def State.followHere (s : State) (t : State) : State :=
  if s.vs.atStop = 0 then t else s.vecStop s.focus.core (codeCause s.vs.atStop) (decide (256 < s.vs.atStop))

/-- What a word puts in flight: its landings, and where none of them carries its push token, nq tokens at t + 1 (06 R129). -/
def heldToken (cycle push nq : Nat) (land : List Landing) : List Landing :=
  if decide (push ≠ 0) && land.all (fun r => decide (r.push = 0)) && decide (nq ≠ 0) then land ++ [tokenLanding (cycle + 1) push nq] else land

/-- The word after one at v that takes no branch settles the loops; a branch names the next one (07 R164, R165). -/
def nextWord (v w : VStream) (next : Option Nat) : Nat × HwLoop × HwLoop :=
  match next with
  | some n => (n, w.l0, w.l1)
  | none => settleLoops v.pc w.l0 w.l1

/-- A vector stream one cycle on, behind a word that it issued at v in cycle `now` of the clock or its own (06 R124). -/
def VStream.goOn (w v : VStream) (now : Nat) (lands : List Landing) (next : Option Nat) : VStream :=
  let n := nextWord v w next
  { w with land := w.land ++ lands.map (fun r => { r with word := v.pc }), pc := n.1, l0 := n.2.1, l1 := n.2.2, cycle := v.cycle + 1, lead := thaw v.frozen v.lead v.cycle now, frozen := false }

/-- A core whose vector stream issued a word at v: np tokens popped, then the stream goes on (06 R124, R129). -/
def Core.vecGoOn (k : Core) (v : VStream) (now pop np : Nat) (lands : List Landing) (next : Option Nat) : Core :=
  let k1 := if pop = 0 then k else k.setToken pop (k.token pop - np)
  { k1 with vs := k1.vs.goOn v now lands next }

/-- A token popped from xv or ov escapes from the phase (23 R397). -/
def State.tokenEscape (s : State) (pop : Nat) : State := if pop = 8 ∨ pop = 12 then s.escape s.focus.core else s

/-- The state after a word that s issued and whose body left t. -/
def State.vecGoOn (s t : State) (pop push np nq : Nat) (land : List Landing) (next : Option Nat) : State :=
  let v := s.vs
  let u := (t.tokenEscape pop).modHere fun k => k.vecGoOn v (s.clockNow s.focus.core) pop np (heldToken v.cycle push nq land) next
  u.loopSnap s.focus.core v.cycle (v.cycle + u.vs.lead) (loopsEnded v.l0 v.l1 u.vs.l0 u.vs.l1)

/-- Issues a word of the acting core's vector stream (06 R124, R130, 07 R164 to R169): the loop-end check, the slot's resolution and
class, the token pop, the body, then the next word. The loop-end check stands first of all. (DESIGN CHOICE, unsafe: notes/assumptions/64.md) `np` tokens are popped at once; a word whose body lands nothing pushes `nq` at t + 1. -/
def vecIssue (s : State) (named : Option Nat) (slot pop push np nq : Nat) (classOk : VStream → Slot → Bool)
    (body : VStream → Slot → VOut) : Host.Outcome State Fault Refusal :=
  let v := s.vs
  let e := v.entry slot
  if v.endsWrong named then .next (s.stopHere 0x01)
  else if slotReserved e || !classOk v (Slot.of e) then .next (s.stopHere 0x07)
  else if decide (pop ≠ 0) && decide (s.here.token pop < np) then .next (s.followHere (s.modVs fun v => { v with frozen := true }))
  else match body v (Slot.of e) with
    | .stop t c => .next (t.stopHere c)
    | .freeze t => .next (s.followHere (t.modVs fun v => { v with frozen := true }))
    | .ok t land next => .next (s.followHere (s.vecGoOn t pop push np nq land next))

/-- A word with the common header that is neither a loop end nor a branch (03 R57). -/
def vecWord (s : State) (h : VHdr) (classOk : Slot → Bool) (body : VStream → Slot → VOut) : Host.Outcome State Fault Refusal :=
  vecIssue s none h.slot h.pop h.push 1 1 (fun _ sl => classOk sl) body

/-- Slot classes (06 R130, 07 R176). -/
def classFloat (s : Slot) : Bool := isFloat s.fmt
def classInt (s : Slot) : Bool := isInteger s.fmt
def classComplex (s : Slot) : Bool := decide (s.fmt = 9)
def classNumber (s : Slot) : Bool := isFloat s.fmt || isInteger s.fmt
def classFp32 (s : Slot) : Bool := decide (s.fmt = 0)
def classAny (_ : Slot) : Bool := true

/-- Each lane's value and flags gathered over the active lanes (06 R129). -/
def overLanes (m : Word) (f : Nat → Nat × Nat) : List Elem × Nat :=
  let rs := (List.range 64).map fun l => if m.getLsbD l then f l else (0, 0)
  (rs.map fun r => BitVec.ofNat 32 r.1, rs.foldl (fun n r => n ||| r.2) 0)

/-- A word that writes one value to each active lane of a grid line (06 R124, R126). -/
def lanesWord (s : State) (h : VHdr) (d : VOp) (latency : Nat) (classOk : Slot → Bool) (f : VStream → Slot → Nat → Nat × Nat) :
    Host.Outcome State Fault Refusal :=
  vecWord s h classOk fun v sl =>
    let m := v.mask h.guard
    let r := overLanes m (f v sl)
    .ok s [result (v.cycle + latency) h (v.dest d) m r.1 r.2] none

/-- A word that writes a scalar register whole (06 R147). -/
def scalarLanding (due : Nat) (h : VHdr) (sd : Nat) (lanes : Word) (w : Word) (flags : Nat) : Landing :=
  result due h (.scalar sd) lanes [w.setWidth 32, (w >>> 32).setWidth 32] flags

/-- The operand's scalar number. -/
def scalarNum : VOp → Nat
  | .scalar n => n
  | _ => 0

/-- Whether both streams of the core's job have ended, or never started (07 R173). -/
def Core.jobOver (k : Core) : Bool :=
  decide (k.vs.st = .ended ∨ k.vs.st = .absent) && decide (k.ms.st = .ended ∨ k.ms.st = .absent)

/-- The job's command has done its work once both streams have ended (07 R173, 13 R281). -/
def State.settleJob (s : State) (core : Nat) : State :=
  let k := s.core core
  match k.job with
  | none => s
  | some j =>
    if k.jobOver then
      (s.dropStall core).modQueue (.vq core) fun q => q.modEntry j.seq fun e =>
        if e.st = .running then { e with work := .done false false false [] } else e
    else s

end Sys2Proof.Machine
end

