-- ==== Sys2Proof/Machine/VecArith.lean ====
section
/-! DEFINITION. The vector words of chapter 06: floating, integer and logic arithmetic, compares, select, conversions, packing, complex words, reductions and lane words (R133 to R150). -/

namespace Sys2Proof.Machine

/-- The value of an operand's lane in a floating word (06 R131, R133). -/
def VStream.fp (v : VStream) (sl : Slot) (o : VOp) (l : Nat) : Val := fpVal sl.fmt sl.flush (v.laneF sl o l)

/-- The integer of an operand's lane (06 R132). -/
def VStream.int (v : VStream) (sl : Slot) (o : VOp) (l : Nat) : Int := intOf sl.fmt (v.lane o l)

/-- A floating word of two sources (06 R133). -/
def fpWord2 (s : State) (h : VHdr) (d a b : VOp) (latency : Nat) (f : Slot → Nat → VStream → Val → Val → Nat × Nat) :
    Host.Outcome State Fault Refusal :=
  lanesWord s h d latency classFloat fun v sl l =>
    let r := f sl l v (v.fp sl a l) (v.fp sl b l)
    (r.1, r.2 ||| immFlag sl a ||| immFlag sl b)

/-- VADD.F (R133). -/
def execVaddF (h : VHdr) (d a b : VOp) (s : State) : Host.Outcome State Fault Refusal :=
  fpWord2 s h d a b 4 fun sl _ _ x y => sumRounded sl.fmt sl [] [x, y]

/-- VSUB.F (R133). -/
def execVsubF (h : VHdr) (d a b : VOp) (s : State) : Host.Outcome State Fault Refusal :=
  fpWord2 s h d a b 4 fun sl _ _ x y => sumRounded sl.fmt sl [] [x, y.negate]

/-- VMUL.F (R133). -/
def execVmulF (h : VHdr) (d a b : VOp) (s : State) : Host.Outcome State Fault Refusal :=
  fpWord2 s h d a b 4 fun sl _ _ x y => sumRounded sl.fmt sl [(x, y)] []

/-- VFMA.F (R133): one rounding (02 R44). -/
def execVfmaF (h : VHdr) (d a b : VOp) (s : State) : Host.Outcome State Fault Refusal :=
  fpWord2 s h d a b 4 fun sl l v x y => sumRounded sl.fmt sl [(x, y)] [v.fp sl d l]

/-- VMIN.F and VMAX.F copy one operand's bits (R134); an immediate that its conversion changes raises inexact (R131). (DESIGN CHOICE, unsafe: notes/assumptions/62.md) -/
def fpSelect (s : State) (h : VHdr) (d a b : VOp) (max : Bool) : Host.Outcome State Fault Refusal :=
  lanesWord s h d 1 classFloat fun v sl l =>
    let r := minmaxFp sl.fmt sl max (v.laneF sl a l) (v.laneF sl b l)
    (r.1, r.2 ||| immFlag sl a ||| immFlag sl b)

/-- VMIN.F (R134). -/
def execVminF (h : VHdr) (d a b : VOp) (s : State) : Host.Outcome State Fault Refusal := fpSelect s h d a b false

/-- VMAX.F (R134). -/
def execVmaxF (h : VHdr) (d a b : VOp) (s : State) : Host.Outcome State Fault Refusal := fpSelect s h d a b true

/-- A word of the one divider: 12 cycles must lie between two of them (R128). -/
def divWord (s : State) (h : VHdr) (d : VOp) (f : VStream → Slot → Nat → Nat × Nat) : Host.Outcome State Fault Refusal :=
  vecWord s h classFloat fun v sl =>
    if v.lastDiv.any fun t => decide (v.cycle < t + 12) then .stop s 0x01
    else
      let m := v.mask h.guard
      let r := overLanes m (f v sl)
      .ok (s.modVs fun v => { v with lastDiv := some v.cycle }) [result (v.cycle + 12) h (v.dest d) m r.1 r.2] none

/-- VDIV.F (R133). -/
def execVdivF (h : VHdr) (d a b : VOp) (s : State) : Host.Outcome State Fault Refusal :=
  divWord s h d fun v sl l =>
    let r := divRounded sl.fmt sl (v.fp sl a l) (v.fp sl b l)
    (r.1, r.2 ||| immFlag sl a ||| immFlag sl b)

/-- VSQRT.F (R133). -/
def execVsqrtF (h : VHdr) (d a : VOp) (s : State) : Host.Outcome State Fault Refusal :=
  divWord s h d fun v sl l =>
    let r := sqrtRounded sl.fmt sl (v.fp sl a l)
    (r.1, r.2 ||| immFlag sl a)

/-- VABS.F (R135): only the sign bit changes; an immediate that its conversion changes raises inexact (R131). (DESIGN CHOICE, unsafe: notes/assumptions/62.md) -/
def execVabsF (h : VHdr) (d a : VOp) (s : State) : Host.Outcome State Fault Refusal :=
  lanesWord s h d 1 classFloat fun v sl l => (readBits sl.fmt sl.flush (v.laneF sl a l) % 2 ^ magBits sl.fmt, immFlag sl a)

/-- VNEG.F (R135). (DESIGN CHOICE, unsafe: notes/assumptions/62.md) -/
def execVnegF (h : VHdr) (d a : VOp) (s : State) : Host.Outcome State Fault Refusal :=
  lanesWord s h d 1 classFloat fun v sl l =>
    let w := readBits sl.fmt sl.flush (v.laneF sl a l)
    (if bitOf w (magBits sl.fmt) then w - 2 ^ magBits sl.fmt else w + 2 ^ magBits sl.fmt, immFlag sl a)

/-! ### Integer and logic (R136) -/

/-- An integer word: exact, then wrapped or clamped once (R132). -/
def intWord (s : State) (h : VHdr) (d a b : VOp) (f : Int → Int → Int → Int) : Host.Outcome State Fault Refusal :=
  lanesWord s h d 1 classInt fun v sl l => intResult sl (f (v.int sl a l) (v.int sl b l) (v.int sl d l))

/-- VADD.I (R136). -/
def execVaddI (h : VHdr) (d a b : VOp) (s : State) : Host.Outcome State Fault Refusal := intWord s h d a b fun x y _ => x + y

/-- VSUB.I (R136). -/
def execVsubI (h : VHdr) (d a b : VOp) (s : State) : Host.Outcome State Fault Refusal := intWord s h d a b fun x y _ => x - y

/-- VMUL.I (R136). -/
def execVmulI (h : VHdr) (d a b : VOp) (s : State) : Host.Outcome State Fault Refusal := intWord s h d a b fun x y _ => x * y

/-- VMAC.I (R136). -/
def execVmacI (h : VHdr) (d a b : VOp) (s : State) : Host.Outcome State Fault Refusal := intWord s h d a b fun x y z => z + x * y

/-- VMIN.I (R136). -/
def execVminI (h : VHdr) (d a b : VOp) (s : State) : Host.Outcome State Fault Refusal := intWord s h d a b fun x y _ => if x ≤ y then x else y

/-- VMAX.I (R136). -/
def execVmaxI (h : VHdr) (d a b : VOp) (s : State) : Host.Outcome State Fault Refusal := intWord s h d a b fun x y _ => if x ≤ y then y else x

/-- A bit word of 32 bits (R130, R136). -/
def bitWord (s : State) (h : VHdr) (d a b : VOp) (f : BitVec 32 → BitVec 32 → BitVec 32) : Host.Outcome State Fault Refusal :=
  lanesWord s h d 1 classAny fun v _ l => ((f (BitVec.ofNat 32 (v.lane a l)) (BitVec.ofNat 32 (v.lane b l))).toNat, 0)

/-- VAND (R136). -/
def execVand (h : VHdr) (d a b : VOp) (s : State) : Host.Outcome State Fault Refusal := bitWord s h d a b fun x y => x &&& y

/-- VOR (R136). -/
def execVor (h : VHdr) (d a b : VOp) (s : State) : Host.Outcome State Fault Refusal := bitWord s h d a b fun x y => x ||| y

/-- VXOR (R136). -/
def execVxor (h : VHdr) (d a b : VOp) (s : State) : Host.Outcome State Fault Refusal := bitWord s h d a b fun x y => x ^^^ y

/-- VSHL (R136): bits [31:5] of the amount are ignored. -/
def execVshl (h : VHdr) (d a b : VOp) (s : State) : Host.Outcome State Fault Refusal := bitWord s h d a b fun x y => x <<< (y.toNat % 32)

/-- VSHR (R136). -/
def execVshr (h : VHdr) (d a b : VOp) (s : State) : Host.Outcome State Fault Refusal := bitWord s h d a b fun x y => x >>> (y.toNat % 32)

/-- VSRA (R136). -/
def execVsra (h : VHdr) (d a b : VOp) (s : State) : Host.Outcome State Fault Refusal := bitWord s h d a b fun x y => x.sshiftRight (y.toNat % 32)

/-! ### Compares and select (R137 to R139) -/

/-- A lane mask of the lanes where f holds. -/
def maskOf (f : Nat → Bool) : Word := BitVec.ofNat 64 ((List.range 64).foldl (fun n l => n + b2n (f l) * 2 ^ l) 0)

/-- The two payload entries of a 64-bit value (12 R256). -/
def halves (w : Word) : List Elem := [w.setWidth 32, (w >>> 32).setWidth 32]

/-- A compare: bits of active lanes are written, the others kept (R137). -/
def compareWord (s : State) (h : VHdr) (pd : Nat) (classOk : Slot → Bool) (f : VStream → Slot → Nat → Bool × Nat) : Host.Outcome State Fault Refusal :=
  vecWord s h classOk fun v sl =>
    let m := v.mask h.guard
    let rs := (List.range 64).map (f v sl)
    let bits := maskOf fun l => (rs.getD l (false, 0)).1
    let flags := (lanesOf m).foldl (fun n l => n ||| (rs.getD l (false, 0)).2) 0
    .ok s [result (v.cycle + 1) h (.pred pd) m (halves (bits &&& m)) flags] none

/-- VCMP.F (R137, R138). -/
def execVcmpF (h : VHdr) (pd rel : Nat) (a b : VOp) (s : State) : Host.Outcome State Fault Refusal :=
  compareWord s h pd classFloat fun v sl l =>
    let r := relFp rel (v.fp sl a l) (v.fp sl b l)
    (r.1, r.2 ||| immFlag sl a ||| immFlag sl b)

/-- VCMP.I (R137, R138). -/
def execVcmpI (h : VHdr) (pd rel : Nat) (a b : VOp) (s : State) : Host.Outcome State Fault Refusal :=
  compareWord s h pd classInt fun v sl l => (relInt sl.fmt rel (v.lane a l) (v.lane b l), 0)

/-- VSEL (R139): the guard names a selector, and every lane is written. -/
def execVsel (h : VHdr) (d a b : VOp) (s : State) : Host.Outcome State Fault Refusal :=
  vecWord s h classAny fun v _ =>
    let m := v.mask h.guard
    let vals := (List.range 64).map fun l => BitVec.ofNat 32 (if m.getLsbD l then v.lane a l else v.lane b l)
    .ok s [result (v.cycle + 1) h (v.dest d) (BitVec.allOnes 64) vals 0] none

/-! ### Conversion and packing (R140 to R144) -/

/-- Whether a conversion takes this pair of slots (R140, R142): no complex with real, and packed where the word packs. -/
def convertible (src dst : Slot) (packSrc packDst : Bool) : Bool :=
  (isComplex src.fmt == isComplex dst.fmt) && (!packSrc || decide (packedLanes src.fmt ≠ 0)) && (!packDst || decide (packedLanes dst.fmt ≠ 0))

/-- A word of two slots: the source slot is resolved and checked with the word's own (R140, 03 R48). -/
def convWord (s : State) (h : VHdr) (src : Nat) (packSrc packDst : Bool) (body : VStream → Slot → Slot → VOut) : Host.Outcome State Fault Refusal :=
  vecIssue s none h.slot h.pop h.push 1 1
    (fun v sl => !slotReserved (v.entry src) && convertible (Slot.of (v.entry src)) sl packSrc packDst)
    fun v sl => body v (Slot.of (v.entry src)) sl

/-- Whether the read of an element under badtrap raises 0x07 (R131, 02 R34): the digit 3 of T3. -/
def badDigit (src : Slot) (w : Nat) : Bool := decide (src.fmt = 8) && src.badtrap && decide (w % 4 = 3)

/-- VCVT (R141). -/
def execVcvt (h : VHdr) (d a : VOp) (src : Nat) (s : State) : Host.Outcome State Fault Refusal :=
  convWord s h src false false fun v sa sl =>
    let m := v.mask h.guard
    if (lanesOf m).any fun l => badDigit sa (v.lane a l) then .stop s 0x07
    else
      let r := overLanes m fun l =>
        let x := readElem sa (v.lane a l)
        let y := convertElem sl x.1
        (y.1, x.2 ||| y.2)
      .ok s [result (v.cycle + 2) h (v.dest d) m r.1 r.2] none

/-- VPACK (R143): inactive lanes contribute the destination's zero. -/
def execVpack (h : VHdr) (d a : VOp) (src : Nat) (s : State) : Host.Outcome State Fault Refusal :=
  convWord s h src false true fun v sa sl =>
    let m := v.mask h.guard
    if (lanesOf m).any fun l => badDigit sa (v.lane a l) then .stop s 0x07
    else
      let rs := (List.range 64).map fun l =>
        if m.getLsbD l then
          let x := readElem sa (v.lane a l)
          let y := convertElem sl x.1
          (y.1 % 2 ^ codeBits sl.fmt, x.2 ||| y.2)
        else (if sl.fmt = 7 then 0x10 else 0, 0)
      let n := packedLanes sl.fmt
      .ok s [{ result (v.cycle + 2) h (v.dest d) (maskOf fun l => decide (l < n)) ((packImage sl.fmt (rs.map (·.1))).map (BitVec.ofNat 32))
        (rs.foldl (fun f r => f ||| r.2) 0) with active := m }] none

/-- VUNPK (R144): a reserved T3 byte of the image under badtrap stops the stream at the landing, whichever lanes are active, unless none is (03 R48, R57). -/
def execVunpk (h : VHdr) (d a : VOp) (src : Nat) (s : State) : Host.Outcome State Fault Refusal :=
  convWord s h src true false fun v sa sl =>
    let m := v.mask h.guard
    let image := joinBits 32 ((List.range (packedLanes sa.fmt)).map (v.lane a))
    if decide (m ≠ 0) && sa.badtrap && (List.range 64).any fun l => (imageCode sa.fmt image l).isNone then
      .ok s [{ result (v.cycle + 2) h .tokens 0 [] 0 with kind := .stop 0x07 }] none
    else
      let r := overLanes m fun l =>
        let x := match imageCode sa.fmt image l with
          | none => readElem sa 3
          | some c => readElem sa (codeElem sa.fmt c)
        let y := convertElem sl x.1
        (y.1, x.2 ||| y.2)
      .ok s [result (v.cycle + 2) h (v.dest d) m r.1 r.2] none

/-! ### Complex words (R145, R146) -/

/-- The two halves of a CF16 element as read (02 R36). -/
def cf16 (sl : Slot) (w : Nat) : Val × Val := (fpVal 2 sl.flush (w % 65536), fpVal 2 sl.flush (w / 65536 % 65536))

/-- Two FP16 halves and their flags as one element (R145). -/
def cfJoin (re im : Nat × Nat) : Nat × Nat := (re.1 + im.1 * 65536, re.2 ||| im.2)

/-- A complex product with an addend, each half rounded once (R145). -/
def cfProduct (sl : Slot) (a b : Val × Val) (c : List (Val × Val)) : Nat × Nat :=
  cfJoin (sumRounded 2 sl [(a.1, b.1), (a.2.negate, b.2)] (c.map (·.1))) (sumRounded 2 sl [(a.1, b.2), (a.2, b.1)] (c.map (·.2)))

/-- VCMUL (R145). -/
def execVcmul (h : VHdr) (d a b : VOp) (s : State) : Host.Outcome State Fault Refusal :=
  lanesWord s h d 5 classComplex fun v sl l => cfProduct sl (cf16 sl (v.lane a l)) (cf16 sl (v.lane b l)) []

/-- VCFMA (R145). -/
def execVcfma (h : VHdr) (d a b : VOp) (s : State) : Host.Outcome State Fault Refusal :=
  lanesWord s h d 5 classComplex fun v sl l => cfProduct sl (cf16 sl (v.lane a l)) (cf16 sl (v.lane b l)) [cf16 sl (v.lane d l)]

/-- A half copied with or without its sign inverted: flush on read, a NaN canonical (R146). -/
def halfCopy (sl : Slot) (w : Nat) (inv : Bool) : Nat × Nat :=
  let x := fpVal 2 sl.flush w
  if x.isNan then (canonicalNan 2, x.sigFlag)
  else
    let r := readBits 2 sl.flush w
    (if inv then (if bitOf r 15 then r - 32768 else r + 32768) else r, 0)

/-- The twiddle product of one lane (R146). -/
def twiddleLane (sl : Slot) (a e : Nat) : Nat × Nat :=
  let n := bitsOf e 19 16
  let big := 2 ^ n
  let t := e % 65536 % big
  let inv := bitOf e 20
  let re := a % 65536
  let im := a / 65536 % 65536
  if bitsOf e 31 21 ≠ 0 ∨ n = 0 then (canonicalNan 2 * 65537, fInvalid)
  else if 4 * t % big = 0 then
    let q := 4 * t / big
    match (if inv then (4 - q) % 4 else q) with
    | 0 => cfJoin (halfCopy sl re false) (halfCopy sl im false)
    | 1 => cfJoin (halfCopy sl im false) (halfCopy sl re true)
    | 2 => cfJoin (halfCopy sl re true) (halfCopy sl im true)
    | _ => cfJoin (halfCopy sl im true) (halfCopy sl re false)
  else cfProduct sl (cf16 sl a) (twiddle t n inv) []

/-- VTWID (R146). -/
def execVtwid (h : VHdr) (d a b : VOp) (s : State) : Host.Outcome State Fault Refusal :=
  lanesWord s h d 5 classComplex fun v sl l => twiddleLane sl (v.lane a l) (v.lane b l)

/-! ### Reductions (R147, R148) -/

/-- One level of the tree of 02 R45. -/
def treePairs (f : Nat → Nat → Nat × Nat) : List Nat → List (Nat × Nat)
  | a :: b :: t => f a b :: treePairs f t
  | _ => []

/-- The tree's levels: value and flags. -/
def tree (f : Nat → Nat → Nat × Nat) : Nat → List Nat → Nat → Nat × Nat
  | 0, xs, fl => (xs.headD 0, fl)
  | k + 1, xs, fl =>
    let ys := treePairs f xs
    tree f k (ys.map (·.1)) (ys.foldl (fun n y => n ||| y.2) fl)

/-- A 32-bit result as a scalar register holds it: sign-extended for signed integer formats (R147). -/
def scalarOf (fmt w : Nat) : Word := if isInteger fmt && decide (fmt ≠ 11) then sextWord 32 w else BitVec.ofNat 64 (w % 2 ^ 32)

/-- VREDS (R147, 02 R45): inactive lanes enter as −0.0 or 0. -/
def execVreds (h : VHdr) (sd : Nat) (a : VOp) (s : State) : Host.Outcome State Fault Refusal :=
  vecWord s h classNumber fun v sl =>
    let m := v.mask h.guard
    let flt := isFloat sl.fmt
    let rest := if flt then 2 ^ magBits sl.fmt else 0
    let add (x y : Nat) : Nat × Nat :=
      if flt then sumRounded sl.fmt sl [] [fpVal sl.fmt sl.flush x, fpVal sl.fmt sl.flush y] else intResult sl (intOf sl.fmt x + intOf sl.fmt y)
    let r := tree add 6 ((List.range 64).map fun l => if m.getLsbD l then v.lane a l else rest) 0
    .ok s [scalarLanding (v.cycle + if flt then 24 else 6) h sd m (scalarOf sl.fmt r.1) (if m = 0 then 0 else r.2)] none

/-- The best candidate lane so far: its key, bits and lane (R148). -/
def bestLane (max : Bool) (cands : List (Int × Nat × Nat)) : Option (Int × Nat × Nat) :=
  cands.foldl (fun best c => match best with
    | none => some c
    | some b => if (if max then b.1 < c.1 else c.1 < b.1) then some c else some b) none

/-- VREDM (R148). -/
def execVredm (h : VHdr) (sd : Nat) (a : VOp) (mode : Nat) (s : State) : Host.Outcome State Fault Refusal :=
  vecWord s h classNumber fun v sl =>
    let m := v.mask h.guard
    let flt := isFloat sl.fmt
    let ls := lanesOf m
    let flags := if flt then ls.foldl (fun f l => f ||| (fpVal sl.fmt sl.flush (v.lane a l)).sigFlag) 0 else 0
    let cands := (ls.filter fun l => !(flt && (fpVal sl.fmt sl.flush (v.lane a l)).isNan)).map fun l =>
      if flt then let w := readBits sl.fmt sl.flush (v.lane a l); (orderKey sl.fmt w, w, l)
      else (v.int sl a l, intElem sl.fmt (v.int sl a l), l)
    let w : Word := match bestLane (decide (mode = 0 ∨ mode = 2)) cands with
      | some c => if mode ≥ 2 then BitVec.ofNat 64 c.2.2 else scalarOf sl.fmt c.2.1
      | none =>
        if mode ≥ 2 then BitVec.allOnes 64
        else if flt then BitVec.ofNat 64 (canonicalNan sl.fmt)
        else scalarOf sl.fmt (intElem sl.fmt (if mode = 0 then intMin sl.fmt else intMax sl.fmt))
    .ok s [scalarLanding (v.cycle + 6) h sd m w flags] none

/-! ### Permutation and lane operations (R149, R150) -/

/-- VPERM (R149). -/
def execVperm (h : VHdr) (d a b : VOp) (s : State) : Host.Outcome State Fault Refusal :=
  lanesWord s h d 2 classAny fun v _ l => (v.lane a (v.lane b l % 64), 0)

/-- VBCST (R149). -/
def execVbcst (h : VHdr) (d a b : VOp) (s : State) : Host.Outcome State Fault Refusal :=
  lanesWord s h d 1 classAny fun v _ _ => (v.lane a (v.lane b 0 % 64), 0)

/-- VMOVG (R149). -/
def execVmovg (h : VHdr) (d a : VOp) (s : State) : Host.Outcome State Fault Refusal :=
  lanesWord s h d 2 classAny fun v _ l => (v.lane a l, 0)

/-- One lane of VCLMP (R150). -/
def clampLane (sl : Slot) (x y : Nat) : Nat × Nat :=
  if isFloat sl.fmt then
    let a := fpVal sl.fmt sl.flush x
    let b := fpVal sl.fmt sl.flush y
    if a.isNan || b.isNan then (canonicalNan sl.fmt, a.sigFlag ||| b.sigFlag)
    else
      let u := readBits sl.fmt sl.flush x
      let w := readBits sl.fmt sl.flush y % 2 ^ magBits sl.fmt
      (if u % 2 ^ magBits sl.fmt ≤ w then u else w + b2n (bitOf u (magBits sl.fmt)) * 2 ^ magBits sl.fmt, 0)
  else
    let a := intOf sl.fmt x
    let b : Int := (intOf sl.fmt y).natAbs
    let c := if b < a then b else a
    (intElem sl.fmt (if c < -b then -b else c), 0)

/-- VCLMP (R150); an immediate that its conversion changes raises inexact (R131). (DESIGN CHOICE, unsafe: notes/assumptions/62.md) -/
def execVclmp (h : VHdr) (d a b : VOp) (s : State) : Host.Outcome State Fault Refusal :=
  lanesWord s h d 1 classNumber fun v sl l =>
    if isFloat sl.fmt then
      let r := clampLane sl (v.laneF sl a l) (v.laneF sl b l)
      (r.1, r.2 ||| immFlag sl a ||| immFlag sl b)
    else clampLane sl (v.lane a l) (v.lane b l)

/-- VPOPC (R149). -/
def execVpopc (h : VHdr) (sd : Nat) (a : VOp) (s : State) : Host.Outcome State Fault Refusal :=
  vecWord s h classAny fun v _ =>
    let m := v.mask h.guard
    .ok s [scalarLanding (v.cycle + 2) h sd m (BitVec.ofNat 64 ((lanesOf m).filter fun l => decide (v.lane a l ≠ 0)).length) 0] none

end Sys2Proof.Machine
end

