-- ==== Sys2Proof/Machine/VecMem.lean ====
section
/-! DEFINITION. The vector words that move data between the grid, memory, the accumulator store and the scalar registers (07 R152 to R161). -/

namespace Sys2Proof.Machine

/-- The address of a scratchpad operand's lane (03 R61). -/
def VStream.addr (v : VStream) (o : VOp) (l : Nat) : Nat :=
  match o with
  | .scratch t b st off => v.scratchAddr t b st off l
  | _ => 0

/-- The address of lane l through an index vector (07 R156). -/
def VStream.gatherAddr (v : VStream) (o b : VOp) (l : Nat) : Nat :=
  (((v.addr o 0 : Nat) + 4 * sextNat 32 (v.lane b l)) % 2 ^ 64 : Int).toNat

/-- A load of the active lanes at given addresses: checked at issue, landing at t + 8, or t + 8 + S where it must (R152, R153). -/
def loadWord (s : State) (h : VHdr) (d : VOp) (gather : Bool) (addr : VStream → Nat → Nat) : Host.Outcome State Fault Refusal :=
  vecWord s h classAny fun v _ =>
    let core := s.focus.core
    match s.here.job with
    | none => .ok s [] none
    | some j =>
      let m := v.mask h.guard
      let addrs := (lanesOf m).map (addr v)
      match s.laneChecks core j addrs false with
      | .stop t c => .stop t c
      | .ok t =>
        let remote := addrs.any (laneRemote core)
        .ok t [{ due := v.cycle + 8 + (if remote || gather then j.slack else 0), kind := .load, dest := v.dest d, lanes := m, active := m, word := 0
                 values := (List.range 64).map fun l => if m.getLsbD l then t.laneRead core (addr v l) else 0
                 second := [], addrs := (List.range 64).map fun l => if m.getLsbD l then addr v l else 0
                 push := h.push, flags := 0, poison := addrs.any (t.lanePoison core), arrived := !remote, fence := false }] none

/-- VLD (R155). -/
def execVld (h : VHdr) (d a : VOp) (s : State) : Host.Outcome State Fault Refusal := loadWord s h d false fun v l => v.addr a l

/-- VGATH (R156). -/
def execVgath (h : VHdr) (d a b : VOp) (s : State) : Host.Outcome State Fault Refusal := loadWord s h d true fun v l => v.gatherAddr a b l

/-- The kind 2 undo record of a vector store: lane mask, then old value and flat address of each lane in range (22 R384). -/
def State.logLanes (s : State) (core : Nat) (j : Job) (lanes : List (Nat × Nat)) : State :=
  let hit := lanes.filterMap fun p => (laneLoc core p.2).map fun l => (p.1, p.2, l)
  if hit.isEmpty then s
  else s.logRec j.core j.ctx 2 0 0
    (maskOf (fun l => hit.any fun p => p.1 == l) ::
      hit.map fun p => BitVec.ofNat 64 (s.read p.2.2 4 * 2 ^ 32 + flatten core p.2.1 / 4 % 2 ^ 32))

/-- Cleans the lines of a slice that a set of 4-byte writes covers whole (17 R335). -/
def State.cleanCovered (s : State) (locs : List Nat) : State :=
  let lines := (locs.map (· / 64)).eraseDups
  lines.foldl (fun s ln => if (List.range 16).all fun i => locs.contains (64 * ln + 4 * i) then s.setPoison (64 * ln) false else s) s

/-- A store of the active lanes, performed at issue in ascending lanes: the highest lane of one address remains (R153, R156). -/
def storeWord (s : State) (h : VHdr) (a : VOp) (addr : VStream → Nat → Nat) : Host.Outcome State Fault Refusal :=
  vecWord s h classAny fun v _ =>
    let core := s.focus.core
    match s.here.job with
    | none => .ok s [] none
    | some j =>
      let lanes := (lanesOf (v.mask h.guard)).map fun l => (l, addr v l)
      match s.laneChecks core j (lanes.map (·.2)) true with
      | .stop t c => .stop t c
      | .ok t =>
        let hit := lanes.filterMap fun p => (laneLoc core p.2).map fun l => (p.1, l)
        if (t.ctx j.core j.ctx).log.blocks (1 + hit.length) && !hit.isEmpty then .freeze s
        else
          let t1 := (t.logLanes core j lanes)
          let t2 := (hit.foldl (fun s p => s.storeBy (.result j.core 1 j.seq) p.2 4 (v.lane a p.1)) t1).cleanCovered (hit.map (·.2))
          let out := hit.any fun p => !localLoc core p.2 || !j.declares (p.2 % 2 ^ 22 / 64) true
          .ok (if out then t2.escape core else t2) [] none

/-- VST (R155). -/
def execVst (h : VHdr) (d a : VOp) (s : State) : Host.Outcome State Fault Refusal := storeWord s h a fun v l => v.addr d l

/-- VSCAT (R156). -/
def execVscat (h : VHdr) (d a b : VOp) (s : State) : Host.Outcome State Fault Refusal := storeWord s h a fun v l => v.gatherAddr d b l

/-! ### The accumulator store (R159, R160) -/

/-- The element that lane l names (R159). -/
def VStream.accElem (v : VStream) (f : AccField) (l : Nat) : Int := (f.offset : Int) + 64 * f.stride * (v.inner : Int) + l

/-- Whether an active lane's element lies outside the tile (R159). -/
def VStream.accOutside (v : VStream) (f : AccField) (m : Word) : Bool :=
  (lanesOf m).any fun l => decide (v.accElem f l < 0 ∨ 131072 ≤ v.accElem f l)

/-- The key of an accumulator element. -/
def accKey (tile : Nat) (e : Int) : Nat := 131072 * tile + e.toNat

/-- VACLD (R159): sampled at issue, landing at t + 6; a poisoned group stops the stream at the landing (23 R399). -/
def execVacld (h : VHdr) (d : VOp) (f : AccField) (s : State) : Host.Outcome State Fault Refusal :=
  vecWord s h classAny fun v _ =>
    let m := v.mask h.guard
    let k := s.here
    if v.accOutside f m then .stop s 0x01
    else if (lanesOf m).any fun l => Tbl.get false k.accPoison (accKey f.tile (v.accElem f l) / 16) then
      .ok s [{ result (v.cycle + 6) h .tokens 0 [] 0 with kind := .stop 0x06 }] none
    else
      let r := overLanes m fun l => ((Tbl.get 0 k.acc (accKey f.tile (v.accElem f l))).toNat, 0)
      .ok s [result (v.cycle + 6) h (v.dest d) m r.1 0] none

/-- VACZ (R159): zeros land at t + 6. -/
def execVacz (h : VHdr) (f : AccField) (s : State) : Host.Outcome State Fault Refusal :=
  vecWord s h classAny fun v _ =>
    let m := v.mask h.guard
    if v.accOutside f m then .stop s 0x01
    else .ok s [result (v.cycle + 6) h (.accum f.tile) m ((overLanes m fun l => ((v.accElem f l).toNat, 0)).1) 0] none

/-! ### Scalar words (R161): the guard is ignored -/

/-- A scalar word's result, landing at t + 1. -/
def scalarWord (s : State) (h : VHdr) (sd : Nat) (f : VStream → Word) : Host.Outcome State Fault Refusal :=
  vecWord s h classAny fun v _ => .ok s [scalarLanding (v.cycle + 1) h sd (v.mask h.guard) (f v) 0] none

/-- VSADD (R161). -/
def execVsadd (h : VHdr) (sd sa sb : Nat) (s : State) : Host.Outcome State Fault Refusal := scalarWord s h sd fun v => v.getS sa + v.getS sb

/-- VSADDI (R161). -/
def execVsaddi (h : VHdr) (sd sa imm : Nat) (s : State) : Host.Outcome State Fault Refusal :=
  scalarWord s h sd fun v => v.getS sa + sextWord 22 imm

/-- VSMOV (R161). -/
def execVsmov (h : VHdr) (sd : Nat) (a : VOp) (s : State) : Host.Outcome State Fault Refusal :=
  scalarWord s h sd fun v => match a with
    | .scalar n => v.getS n
    | .imm w => sextWord 22 w
    | o => sextWord 32 (v.lane o 0)

end Sys2Proof.Machine
end

