-- ==== Sys2Proof/Machine/VecFlow.lean ====
section
/-! DEFINITION. The flow words of the vector stream: loops, branches, tokens, rendezvous, events, formats and soundings (07 R162 to R175). -/

namespace Sys2Proof.Machine

/-- A flow word, whose guard field is zero or names a condition (07 R162). -/
def flowWordV (s : State) (slot pop push np nq : Nat) (body : VStream → VOut) : Host.Outcome State Fault Refusal :=
  vecIssue s none slot pop push np nq (fun _ _ => true) fun v _ => body v

/-- The 32 bits that a count or mask operand gives (07 R163, R172). -/
def VStream.count (v : VStream) : VCount → Nat
  | .scalar n => (v.getS n).toNat % 2 ^ 32
  | .imm c => c

/-- VLOOP (R163). -/
def execVloop (slot pop push loop : Nat) (rot : Bool) (drain : Nat) (count : VCount) (off : Nat) (s : State) :
    Host.Outcome State Fault Refusal :=
  flowWordV s slot pop push 1 1 fun v =>
    let n := v.count count
    match startLoop v.pc loop off n drain rot v.l0 v.l1 with
    | none => .stop s 0x01
    | some (next, l0, l1) =>
      .ok (s.modVs fun w =>
        let w1 := { w with l0 := l0, l1 := l1 }
        if rot then
          { (List.range 7).foldl (fun w i => w.setP (9 + i) 0) (w1.setP 8 (if n = 0 then 0 else BitVec.allOnes 64)) with rotBase := 0 }
        else w1) [] (some next)

/-- VLBR (R168): the end word of a running rotating loop, which rotates as it backs up; where both loops stand at the word, see `backUp`. -/
def execVlbr (slot pop push loop : Nat) (s : State) : Host.Outcome State Fault Refusal :=
  vecIssue s (some loop) slot pop push 1 1 (fun _ _ => true) fun v _ =>
    let l := if loop = 0 then v.l0 else v.l1
    if !(l.running && l.rot && decide (l.stop = v.pc)) then .stop s 0x01
    else
      let r := backUp loop v.pc v.l0 v.l1
      let p8 : Word := if l.drain < l.back.2.remaining then BitVec.allOnes 64 else 0
      .ok (s.modVs fun w =>
        let w1 := (List.range 7).foldl (fun u i => u.setP (15 - i) (w.getP (14 - i))) w
        let w2 := if r.2.2.2 then { w1.setP 8 p8 with rotBase := (w.rotBase + 63) % 64 } else w
        { w2 with l0 := r.2.1, l1 := r.2.2.1 }) [] (some r.1)

/-- A taken branch: running loops that the target leaves end (R165). -/
def branchV (s : State) (v : VStream) (off : Nat) : VOut :=
  let t := (v.pc : Int) + sextNat 16 off
  .ok (s.modVs fun w => { w with l0 := w.l0.leave t, l1 := w.l1.leave t }) [] (some (wordIndex t))

/-- VBR (R166). -/
def execVbr (slot pop push : Nat) (g : Guard) (all : Bool) (off : Nat) (s : State) : Host.Outcome State Fault Refusal :=
  flowWordV s slot pop push 1 1 fun v =>
    let m := v.mask g
    if (if all then decide (m = BitVec.allOnes 64) else decide (m ≠ 0)) then branchV s v off else .ok s [] none

/-- VJ (R166). -/
def execVj (slot pop push off : Nat) (s : State) : Host.Outcome State Fault Refusal :=
  flowWordV s slot pop push 1 1 fun v => branchV s v off

/-- VTOK (R170). -/
def execVtok (h : VHdr) (np nq : Nat) (s : State) : Host.Outcome State Fault Refusal :=
  flowWordV s h.slot h.pop h.push np nq fun _ => .ok s [] none

/-- VNOP (R170). -/
def execVnop (h : VHdr) (s : State) : Host.Outcome State Fault Refusal := flowWordV s h.slot h.pop h.push 1 1 fun _ => .ok s [] none

/-- The job's matrix stream can still issue an MRDV (R171). -/
def Core.matrixMeets (k : Core) : Bool := decide (k.ms.st = .running ∨ k.ms.st = .stopped) && !k.ms.stopIssued

/-- The vector stream meets a waiting matrix stream: both issue their next words in one cycle (R171). -/
def Core.meetAtVec (k : Core) : Core :=
  if k.ms.atRdv then { k with ms := { k.ms with lead := max k.ms.lead (k.vecTime - k.ms.cycle), frozen := false } } else k

/-- VRDV (R171), whose count lands at t + 1 (DESIGN CHOICE, unsafe: notes/assumptions/84.md): the n-th rendezvous waits for the matrix stream's n-th; all ones when that stream has ended. `atRdv` marks a stream
that has arrived; the stream that completes the meeting wakes the other in its own cycle of the clock. (DEDUCED, safe: notes/assumptions/34.md) -/
def execVrdv (slot pop push sd : Nat) (s : State) : Host.Outcome State Fault Refusal :=
  flowWordV s slot pop push 1 1 fun v =>
    let k := s.here
    let n := if v.atRdv then v.rdv else v.rdv + 1
    let done (w : Word) (u : State) : VOut :=
      .ok (u.modVs fun v => { v with atRdv := false }) [scalarLanding (v.cycle + 1) { guard := { p := 0, neg := false }, slot := slot, pop := pop, push := push }
        sd (BitVec.allOnes 64) w 0] none
    let s1 := s.modVs fun v => { v with rdv := n }
    if n ≤ k.ms.rdv then done (BitVec.ofNat 64 n) (s1.modHere Core.meetAtVec)
    else if k.matrixMeets then .freeze (s1.modVs fun v => { v with atRdv := true })
    else done (BitVec.allOnes 64) (s1.modVs fun v => { v with rdv := n - 1 })

/-- VWAIT (R172): frozen until the mask's bits are set in the core's event word. -/
def execVwait (slot pop push : Nat) (a : VCount) (s : State) : Host.Outcome State Fault Refusal :=
  flowWordV s slot pop push 1 1 fun v =>
    let m := v.count a
    if s.here.evw.toNat &&& m = m then .ok s [] none else .freeze s

/-- VSIG (R172): the bits are set at t + 1. -/
def execVsig (slot pop push : Nat) (a : VCount) (s : State) : Host.Outcome State Fault Refusal :=
  flowWordV s slot pop push 1 1 fun v =>
    let m := v.count a
    if m = 0 then .ok s [] none
    else
      let h : VHdr := { guard := { p := 0, neg := false }, slot := slot, pop := pop, push := push }
      .ok s [result (v.cycle + 1) h .event 0 [BitVec.ofNat 32 m] 0] none

/-- VSTOP (R173): no further word issues; the resume word stays the VSTOP. -/
def execVstop (slot pop push : Nat) (s : State) : Host.Outcome State Fault Refusal :=
  flowWordV s slot pop push 1 1 fun v => .ok (s.modVs fun w => { w with stopIssued := true }) [] (some v.pc)

/-- VFMT, select form (R174). -/
def execVfmtSelect (slot pop push : Nat) (loop : LoopSel) (base : Nat) (s : State) : Host.Outcome State Fault Refusal :=
  flowWordV s slot pop push 1 1 fun _ => .ok (s.modVs fun w => { w with fmtRow := base, fmtLoop := loop }) [] none

/-- VFMT, load form (R174): 32 bytes at s[N], checked as R152 gives, written to the row at t + 8. -/
def execVfmtLoad (slot pop push row sn : Nat) (s : State) : Host.Outcome State Fault Refusal :=
  flowWordV s slot pop push 1 1 fun v =>
    let core := s.focus.core
    let a := (v.getS sn).toNat
    let addrs := (List.range 8).map fun i => (a + 4 * i) % 2 ^ 64
    match s.here.job with
    | none => .ok s [] none
    | some j =>
      if a % 32 ≠ 0 then .stop s 0x03
      else match s.addrChecks j addrs with
        | .stop t c => .stop t c
        | .ok t =>
          let h : VHdr := { guard := { p := 0, neg := false }, slot := slot, pop := pop, push := push }
          let r := result (v.cycle + 8) h (.fmtRow row) 0 (addrs.map (t.laneRead core)) 0
          .ok t [if addrs.any (t.lanePoison core) then { r with kind := .stop 0x06, addrs := addrs } else r] none

/-- VKAC (R175): a mismatch stops the stream and fences the core at t + 1. -/
def execVkac (h : VHdr) (a : VOp) (const : Nat) (s : State) : Host.Outcome State Fault Refusal :=
  vecWord s h classAny fun v _ =>
    let f := (lanesOf (v.mask h.guard)).foldl (fun f l => f ^^^ v.lane a l) 0
    let k := (f % 2 ^ 22) ^^^ (f / 2 ^ 22)
    if k = const then .ok s [] none
    else .ok s [{ result (v.cycle + 1) h .tokens 0 [] 0 with kind := .stop 0x0A, fence := true }] none

end Sys2Proof.Machine
end

