-- ==== Sys2Proof/Machine/VecSpecial.lean ====
section
/-! DEFINITION. The special-path vector words: running top 64, suppression, box overlap, depthwise step and table interpolation (07 R176 to R181). -/

namespace Sys2Proof.Machine

/-- A candidate of VTOPK (R177): order key, value bits, logical index; `rank` puts old before new, then lanes ascending. -/
structure Cand where
  key : Int
  bits : Nat
  index : Nat
  rank : Nat

/-- Whether a candidate ranks before another (R177). -/
def Cand.before (a b : Cand) : Bool :=
  decide (b.key < a.key) || (decide (a.key = b.key) && (decide (a.index < b.index) || (decide (a.index = b.index) && decide (a.rank < b.rank))))

/-- Inserts a candidate in rank order. -/
def insertCand (c : Cand) : List Cand → List Cand
  | [] => [c]
  | x :: xs => if c.before x then c :: x :: xs else x :: insertCand c xs

/-- A value and its index as a candidate, unless the value is a NaN. -/
def candOf (sl : Slot) (w idx rank : Nat) : Option Cand :=
  if isFloat sl.fmt then
    if (fpVal sl.fmt sl.flush w).isNan then none
    else let b := readBits sl.fmt sl.flush w; some { key := orderKey sl.fmt b, bits := b, index := idx, rank := rank }
  else some { key := intOf sl.fmt w, bits := intElem sl.fmt (intOf sl.fmt w), index := idx, rank := rank }

/-- The 64 best of a list of (value, index, rank), as value bits and indices (R177; 19 R353 merges shards by the same order). -/
def topRows (sl : Slot) (xs : List (Nat × Nat × Nat)) : List Nat × List Nat :=
  let best := (xs.filterMap fun x => candOf sl x.1 x.2.1 x.2.2).foldl (fun acc c => insertCand c acc) []
  let least := if isFloat sl.fmt then infBits sl.fmt true else intElem sl.fmt (intMin sl.fmt)
  let at_ (p : Nat) : Nat × Nat := match best[p]? with | some c => (c.bits, c.index) | none => (least, 2 ^ 32 - 1)
  ((List.range 64).map fun p => (at_ p).1, (List.range 64).map fun p => (at_ p).2)

/-- Invalid, for a signalling NaN among values of a floating slot. -/
def sigFlags (sl : Slot) (ws : List Nat) : Nat :=
  if isFloat sl.fmt then ws.foldl (fun f w => f ||| (fpVal sl.fmt sl.flush w).sigFlag) 0 else 0

/-- VTOPK (R177): rows k and k + 1 land together, as one result (12 R257). With no active lane it writes neither row, as 03 R57 says of
every word. (DEDUCED, unsafe: notes/assumptions/82.md) -/
def execVtopk (h : VHdr) (d a b : VOp) (s : State) : Host.Outcome State Fault Refusal :=
  vecWord s h classNumber fun v sl =>
    match d with
    | .grid dir i st r off =>
      let k := v.lineOf i st r
      let m := v.mask h.guard
      if m = 0 then .ok s [result (v.cycle + 8) h (.grid dir k off) 0 [] 0] none
      else if k = 63 then .stop s 0x01
      else
        let old := (List.range 64).map fun p => (v.cell (gridKey dir k off p), v.cell (gridKey dir (k + 1) off p), p)
        let new := (lanesOf m).map fun l => (v.lane a l, v.lane b l, 64 + l)
        let rows := topRows sl (old ++ new)
        let flags := sigFlags sl ((old ++ new).map (·.1))
        .ok s [{ result (v.cycle + 8) h (.grid dir k off) (BitVec.allOnes 64) (rows.1.map (BitVec.ofNat 32)) flags with
                 active := m, second := rows.2.map (BitVec.ofNat 32) }] none
    | _ => .stop s 0x01

/-- One rank of VNMS (R178): keep, sup and flags so far. (DEDUCED, unsafe: notes/assumptions/56.md) -/
def nmsStep (sl : Slot) (m : Word) (cell : Nat → Nat → Nat) (thr : Val) (a : Word × Word × Nat) (j : Nat) : Word × Word × Nat :=
  if m.getLsbD j && !a.2.1.getLsbD j then
    let ls := (List.range 64).filter fun l => decide (j < l)
    let val (l : Nat) : Val := fpVal sl.fmt sl.flush (cell j l)
    let hit := maskOf fun l => decide (j < l) && !(val l).isNan && !thr.isNan && decide (0 < cmpVal (val l) thr)
    (a.1 ||| maskOf fun l => decide (l = j), a.2.1 ||| hit, ls.foldl (fun f l => f ||| (val l).sigFlag) (a.2.2 ||| thr.sigFlag))
  else a

/-- VNMS (R178). -/
def execVnms (h : VHdr) (pd : Nat) (a b : VOp) (s : State) : Host.Outcome State Fault Refusal :=
  vecWord s h classFloat fun v sl =>
    match a with
    | .grid dir i st r off =>
      let k := v.lineOf i st r
      let m := v.mask h.guard
      let cell (j l : Nat) : Nat := v.cell (gridKey dir ((k + j) % 64) off l)
      let thr := fpVal sl.fmt sl.flush (v.laneF sl b 0)
      let x := (List.range 64).foldl (nmsStep sl m cell thr) (0, 0, 0)
      .ok s [{ result (v.cycle + 12) h (.pred pd) (BitVec.allOnes 64) (halves x.1) (if m = 0 then 0 else x.2.2 ||| immFlag sl b) with active := m }] none
    | _ => .stop s 0x01

/-- The overlap ratio of two boxes (R179). -/
def boxLane (sl : Slot) (p q : Nat) : Nat × Nat :=
  let f (w i : Nat) : Nat := w / 256 ^ i % 256
  let area (w : Nat) : Nat := (f w 2 - f w 0) * (f w 3 - f w 1)
  let w := min (f p 2) (f q 2) - max (f p 0) (f q 0)
  let h := min (f p 3) (f q 3) - max (f p 1) (f q 1)
  let u := area p + area q - w * h
  if u = 0 then (0, 0) else divRounded 0 sl (Val.ofInt (w * h : Nat)) (Val.ofInt (u : Nat))

/-- VBOXD (R179). -/
def execVboxd (h : VHdr) (d a b : VOp) (s : State) : Host.Outcome State Fault Refusal :=
  lanesWord s h d 8 classFp32 fun v sl l => boxLane sl (v.lane a l) (v.lane b l)

/-- Lane l of tap t of a row operand, each tap renamed separately (R180). -/
def VStream.tap (v : VStream) (o : VOp) (t l : Nat) : Nat :=
  match o with
  | .grid dir i st r off =>
    let k := (v.lineOf i st false + t) % 64
    v.cell (gridKey dir (if r then (k + v.rotBase) % 64 else k) off l)
  | _ => 0

/-- VDWC (R180): D plus three products, one rounding. -/
def execVdwc (h : VHdr) (d a b : VOp) (s : State) : Host.Outcome State Fault Refusal :=
  lanesWord s h d 5 classFloat fun v sl l =>
    sumRounded sl.fmt sl ((List.range 3).map fun t => (fpVal sl.fmt sl.flush (v.tap a t l), fpVal sl.fmt sl.flush (v.tap b t l))) [v.fp sl d l]

/-- The floor of a value between 0 and 63, and the value less its floor. -/
def floorOf : Val → Nat × Val
  | .num _ m e =>
    if 0 ≤ e then (m * 2 ^ e.toNat, .zero)
    else (m / 2 ^ (-e).toNat, .num false (m % 2 ^ (-e).toNat) e)
  | _ => (0, .zero)

/-- One lane of VLUT (R181). -/
def lutLane (sl : Slot) (x : Val) (table : Nat → Nat) : Nat × Nat :=
  if x.isNan then (canonicalNan sl.fmt, x.sigFlag)
  else if cmpVal x .zero ≤ 0 then (readBits sl.fmt sl.flush (table 0), 0)
  else if 0 ≤ cmpVal x (Val.ofInt 63) then (readBits sl.fmt sl.flush (table 63), 0)
  else
    let (j, f) := floorOf x
    let t0 := fpVal sl.fmt sl.flush (table j)
    let dif := sumVals sl.rnd [fpVal sl.fmt sl.flush (table (j + 1)), t0.negate]
    let r := sumRounded sl.fmt sl [(f, dif.1)] [t0]
    (r.1, r.2 ||| dif.2)

/-- VLUT (R181): T[j] is element j of the line that B names, whatever its direction. (DESIGN CHOICE, unsafe: notes/assumptions/83.md) -/
def execVlut (h : VHdr) (d a b : VOp) (s : State) : Host.Outcome State Fault Refusal :=
  lanesWord s h d 4 classFloat fun v sl l => lutLane sl (v.fp sl a l) fun j => v.lane b j

end Sys2Proof.Machine
end

