-- ==== Sys2Proof/Machine/Matrix.lean ====
section
/-! DEFINITION. The matrix stream (08 R183 to R213): element reads, group sums, the step, its last cycle, stops and their frame, the resume, and the one driver that every matrix word's meaning runs through. -/

namespace Sys2Proof.Machine

/-! ### Operand elements (08 R194, R210) -/

/-- What a tile step reads by: the snapshot and shapes of its command, its level, declared sets, level indices, gather latch and group member. -/
structure MatEnv where
  core : Nat
  snap : List Word
  shapes : List (Nat × List Word)
  priv : Bool
  checked : Bool
  sets : List LineSet
  idx : List Nat
  latch : List Elem
  member : Option Nat

/-- The shape record taken for a tensor. -/
def MatEnv.shape (v : MatEnv) (tensor : Nat) : Shape := Shape.of (((v.shapes.find? fun p => p.1 == tensor).map (·.2)).getD [])

/-- Bytes that hold an element with its neighbours of one byte or group (02 R20). -/
def elementBytes (fmt : Nat) : Nat := match fmt with | 0 | 3 | 9 => 4 | 1 | 2 | 4 | 10 => 2 | 7 => 3 | _ => 1

/-- The code at a sub-position of the bytes read; none for a reserved T3 byte (02 R34). -/
def subCode (fmt raw sub : Nat) : Option Nat :=
  match fmt with
  | 6 => some (raw / 16 ^ sub % 16)
  | 7 => some (raw / 64 ^ sub % 64)
  | 8 => if 243 ≤ raw then none else some (raw / 3 ^ sub % 3)
  | _ => some raw

/-- What reading one element answers. -/
inductive ElemGot where
  | code (c : Nat)
  | reserved
  | poison (lines : List Nat)
  | fault (cause : Nat)
  | wait (entry : Nat)

/-- Whether a location of the core's slice lies in a line that the command declares. -/
def MatEnv.declared (v : MatEnv) (l : Nat) : Bool :=
  !localLoc v.core l || v.sets.any fun x => decide (x.start ≤ l % 2 ^ 22 / 64) && decide (l % 2 ^ 22 / 64 < x.start + x.length)

/-- The first locations of the poisoned lines among n bytes. -/
def State.poisonedAt (s : State) (l n : Nat) : List Nat :=
  ([l, l + n - 1].filter s.poisoned).map fun a => a / 64 * 64

/-- Reads element e of a tensor for a step (08 R194, R210): the tile path, the declared sets in every line that holds a byte of it, poison. -/
def State.tensorElem (s : State) (v : MatEnv) (h : Shape) (e : Nat) : ElemGot :=
  let (pos, sub) := elementPos h.format e
  let got (raw : Nat) : ElemGot := match subCode h.format raw sub with | some c => .code c | none => .reserved
  match s.tileAccess v.core h pos false v.priv with
  | .fault c => if c = 0x06 then .poison [] else .fault c
  | .service n => .wait n
  | .zero => got 0
  | .loc l _ =>
    let n := elementBytes h.format
    if v.checked && !(v.declared l && v.declared (l + n - 1)) then .fault 0x08
    else if s.anyPoison l n then .poison (s.poisonedAt l n)
    else got (s.read l (elementBytes h.format))

/-- Elements read so far: codes newest first, flags, poison met and the lines in which it was. -/
structure Elems where
  codes : List Nat
  flags : Nat
  poison : Bool
  bad : List Nat

/-- What a step's issue comes to before it reads: a stop's cause, or a wait for a tile entry. -/
inductive Halt where
  | stop (cause : Nat)
  | wait (entry : Nat)

/-- Reads the elements of a list of places in order; a padded place reads the pad's code (08 R194). -/
def State.readElems (s : State) (v : MatEnv) (h : Shape) (sl : Slot) (pad : Nat) : List Elt → Elems → Except Halt Elems
  | [], a => .ok { a with codes := a.codes.reverse }
  | .elem e :: us, a =>
    match s.tensorElem v h e with
    | .code c => s.readElems v h sl pad us { a with codes := c :: a.codes }
    | .reserved => if sl.badtrap then .error (.stop 0x07) else s.readElems v h sl pad us { a with codes := 0 :: a.codes, flags := a.flags ||| fBadcode }
    | .poison ls => s.readElems v h sl pad us { a with codes := 0 :: a.codes, poison := true, bad := a.bad ++ ls }
    | .fault c => .error (.stop c)
    | .wait n => .error (.wait n)
  | .padded :: us, a => s.readElems v h sl pad us { a with codes := pad :: a.codes }
  | .outside :: _, _ => .error (.stop 0x05)

/-! ### Sums (02 R41 to R43) -/

/-- Classes of format pairs (02 R41). -/
inductive PairClass where
  | l6 | int | ieee
  deriving DecidableEq, Repr

/-- The class of a pair, and its array shape h × w (02 R41, 08 R187). -/
def pairClass (a b : Nat) : Option (PairClass × Nat × Nat) :=
  if a = 7 ∧ b = 7 then some (.l6, 128, 64)
  else if (a = 5 ∨ a = 8) ∧ (b = 5 ∨ b = 8) then some (.int, 128, 64)
  else if (a = 1 ∨ a = 2) ∧ (b = 1 ∨ b = 2) then some (.ieee, 64, 32)
  else if a = 0 ∧ b = 0 then some (.ieee, 32, 16)
  else none

/-- The accumulator format of a class (02 R41). -/
def PairClass.accFormat : PairClass → Nat
  | .int => 3
  | _ => 0

/-- The slot check of a tile word: reserved entries, the pair and the C slot's format (02 R40, R41; 03 R48). -/
def slotsOk (ea eb ec : Nat) : Bool :=
  !slotReserved ea && !slotReserved eb && !slotReserved ec &&
    match pairClass (ea % 16) (eb % 16) with
    | some (c, _, _) => decide (ec % 16 = c.accFormat)
    | none => false

/-- The integer of a stored code in the integer class. -/
def codeInt (fmt c : Nat) : Int := if fmt = 8 then t3Val c else intOf 5 c

/-- One exact group of products converted to a 32-bit element (02 R42, R43). -/
def groupSum (cls : PairClass) (sa sb sc : Slot) (ps : List (Nat × Nat)) : Nat × Nat :=
  let zabs := sa.zabs || sb.zabs
  match cls with
  | .int => ((((ps.foldl (fun (t : Int) p => t + codeInt sa.fmt p.1 * codeInt sb.fmt p.2) 0) % 2 ^ 32 : Int)).toNat, 0)
  | .l6 =>
    let qs := ps.map fun p => l6Product zabs p.1 p.2
    let f := qs.foldl (fun n q => n ||| q.2) 0
    if qs.any fun q => q.1.isNone then (canonicalNan 0, f)
    else
      let g := qs.foldl (fun (t : Int) q => t + q.1.getD 0) 0
      if g = 0 then (0, f)
      else let r := roundFp 0 0 false false (decide (g < 0)) g.natAbs (sa.scale + sb.scale - 23); (r.1, f ||| r.2)
  | .ieee =>
    let vs := ps.map fun p => (fpVal sa.fmt sa.flush p.1, fpVal sb.fmt sb.flush p.2)
    let f := if zabs then 0 else
      vs.foldl (fun n p => if (p.1.isZero && p.2.isNan) || (p.1.isNan && p.2.isZero) then n ||| fInvalid else n) 0
    let t := sumExact sc.rnd zabs vs [.zero]
    let r := fpBits 0 sc (t.1.scaled (sa.scale + sb.scale))
    (r.1, f ||| t.2 ||| r.2)

/-- A list cut into groups of 64 (02 R42). -/
def groups64 {α : Type} : Nat → List α → List (List α)
  | 0, _ => []
  | _ + 1, [] => []
  | n + 1, l => l.take 64 :: groups64 n (l.drop 64)

/-- The converted groups of one element. -/
def elementSums (cls : PairClass) (sa sb sc : Slot) (ps : List (Nat × Nat)) : List Nat × Nat :=
  let gs := (groups64 ps.length ps).map (groupSum cls sa sb sc)
  (gs.map (·.1), gs.foldl (fun n g => n ||| g.2) 0)

/-- Adds one converted group to an accumulator element (02 R42); the slot's scale is that of the L6 class, else 0. -/
def addGroup (integer : Bool) (sc : Slot) (a : Nat × Nat) (g : Nat) : Nat × Nat :=
  if integer then
    let r := intResult { sc with fmt := 3 } (intOf 3 a.1 + intOf 3 g)
    (r.1, a.2 ||| r.2)
  else
    let t := sumVals sc.rnd [(fpVal 0 sc.flush a.1).scaled sc.scale, fpVal 0 false g]
    let r := fpBits 0 sc (t.1.scaled (-sc.scale))
    (r.1, a.2 ||| t.2 ||| r.2)

/-! ### A tile step (08 R193 to R204) -/

/-- The entries of slots A, B and C with mode.Z, acc and the fields of a word, ready to run. -/
structure StepIn where
  kind : StepKind
  t : MTile
  ea : Nat
  eb : Nat
  ec : Nat
  acc : Bool

/-- What a tile step comes to: a stop or wait at issue, its step count and the poisoned lines that stop it at its last cycle, or its step
count and what its last cycle does. -/
inductive StepOut where
  | halt (h : Halt)
  | poison (count : Nat) (lines : List Nat)
  | step (count : Nat) (writes : StepWrites) (slotC : Nat) (flags : Nat) (stop : Option Nat)

/-- A generator's origin at a word: its position, advanced by member in a lockstep group (08 R193, R209); none where split is illegal. -/
def MatEnv.origin (v : MatEnv) (g m : Nat) (gather : Bool) : Option Coord :=
  let ge := genOf v.snap g
  let p := genPos v.snap g v.idx
  if !ge.split then some p
  else match v.member with
    | some j => if gather then none else some (p.add (Coord.smul (j * m : Nat) ge.vr))
    | none => none

/-- Step count of a tile word (08 R187). -/
def stepCount (kind : StepKind) (h w : Nat) (ga : Gen) (t : MTile) : Nat :=
  let tiles := ((t.m + h - 1) / h) * ((t.n + w - 1) / w)
  match kind with
  | .mma | .transposed => tiles * t.k
  | .sparse => tiles * (t.k / 2)
  | .gather => tiles * t.k + 8
  | .conv => tiles * t.k * (ga.kh * ga.kw)
  | .winograd => tiles * t.k * 6

/-- The 0x07 conditions of a window step (08 R202, R213). -/
def windowBad (kind : StepKind) (ga : Gen) (t : MTile) : Bool :=
  match kind with
  | .conv => decide (ga.dx = 0 ∨ ga.dy = 0)
  | .winograd => decide (ga.kh ≠ 3 ∨ ga.kw ≠ 3 ∨ ga.dx ≠ 1 ∨ ga.dy ≠ 1 ∨ ga.vr ≠ { u0 := 0, u1 := 1, u2 := 0 } ∨ t.m % 2 ≠ 0)
  | _ => false

/-- Whether a tile summary lets a settled step run (08 R197). -/
def State.settledStep (s : State) (v : MatEnv) (x : StepIn) (ha hb : Shape) (ga gb : Gen) (ca cb : Cover) : Bool :=
  let sa := Slot.of x.ea
  let sb := Slot.of x.eb
  (!ca.outside || (fpVal 0 false ga.pad).isZero) && ca.tiles.all (fun t => decide (s.summary v.core ha t &&& 12 = 12)) &&
    (sa.zabs || sb.zabs || exactFormat sb.fmt ||
      ((!cb.outside || (codeClass sb.fmt (padCode sb gb.pad)).2.1) && cb.tiles.all fun t => decide (s.summary v.core hb t &&& 10 = 10)))

/-- The dense row of A for a 2:4 step: each group's two stored values in their places, zeros elsewhere; none for a broken metadata entry (08 R198). -/
def sparseRow (nil : Nat) : List Nat → List Nat → Option (List Nat)
  | a :: b :: vs, e :: es =>
    let p := e % 4
    let q := e / 4 % 4
    if q ≤ p then none
    else (sparseRow nil vs es).map fun rest => ((List.range 4).map fun i => if i = p then a else if i = q then b else nil) ++ rest
  | _, _ => some []

/-- Rows of `n` items. -/
def rowsOf {α : Type} (n : Nat) : Nat → List α → List (List α)
  | 0, _ => []
  | k + 1, l => l.take n :: rowsOf n k (l.drop n)

/-- The dense rows of A: as read, or expanded from 2:4 form with metadata codes. -/
def denseRows (kind : StepKind) (nil depth : Nat) (t : MTile) (a meta_ : List Nat) : List (Option (List Nat)) :=
  match kind with
  | .sparse => ((rowsOf (t.k / 2) t.m a).zip (rowsOf (t.k / 4) t.m meta_)).map fun p => sparseRow nil p.1 p.2
  | _ => (rowsOf depth t.m a).map some

/-- The converted group sums of every element (08 R196), and their flags. -/
def stepSums (cls : PairClass) (sa sb sc : Slot) (n : Nat) (rows : List (List Nat)) (b : List Nat) : List (List Nat) × Nat :=
  let brows := rowsOf n (b.length / n) b
  let cols := (List.range n).map fun i => brows.map fun r => r.getD i 0
  let es := rows.flatMap fun r => cols.map fun c => elementSums cls sa sb sc (r.zip c)
  (es.map (·.1), es.foldl (fun f e => f ||| e.2) 0)

/-- The C slot as a step's last cycle uses it: only the L6 class takes C at its scale (02 R42). -/
def slotForC (cls : PairClass) (ec : Nat) : Nat := match cls with | .l6 => ec | _ => putBits ec 4 8 0

/-- Nothing read yet. -/
def Elems.none : Elems := { codes := [], flags := 0, poison := false, bad := [] }

/-- A tile step at its issue (08 R194 to R202, R210, R213). Of several causes the first below is the stop's (DESIGN CHOICE, unsafe:
notes/assumptions/64.md); a padded metadata element reads the pad value as a UINT4 slot of scale 0 would hold it (DESIGN CHOICE, unsafe: notes/assumptions/85.md). -/
def State.tileStepOut (s : State) (v : MatEnv) (x : StepIn) : StepOut :=
  let t := x.t
  let sa := Slot.of x.ea
  let sb := Slot.of x.eb
  let sc := Slot.of x.ec
  let ga := genOf v.snap t.genA
  let gb := genOf v.snap t.genB
  let gm := genOf v.snap ((t.genA + 1) % 8)
  let sparse := decide (x.kind = .sparse)
  let off := effOffset v.snap t.offset v.idx
  match pairClass sa.fmt sb.fmt with
  | none => .halt (.stop 0x07)
  | some (cls, h, w) =>
    if off < 0 ∨ 131072 < off + (t.m * t.n : Nat) then .halt (.stop 0x01)
    else if sparse && decide (t.k % 4 ≠ 0) then .halt (.stop 0x01)
    else if x.kind = .gather ∧ v.latch.length < t.m then .halt (.stop 0x01)
    else if windowBad x.kind ga t || (sparse && decide (h ≠ 128)) then .halt (.stop 0x07)
    else match v.origin t.genA t.m (decide (x.kind = .gather)), v.origin t.genB t.m (decide (x.kind = .gather)),
        (if sparse then v.origin ((t.genA + 1) % 8) t.m false else some (Coord.e0 0)) with
      | some pa, some pb, some pm =>
        if ga.tensor = 0 ∨ gb.tensor = 0 ∨ (sparse = true ∧ gm.tensor = 0) then .halt (.stop 0x05)
        else
          let ha := v.shape ga.tensor
          let hb := v.shape gb.tensor
          let hm := v.shape gm.tensor
          let ua := coordsA x.kind ga (pa.add (Coord.e0 t.offA)) v.latch t
          let ub := coordsB x.kind ga gb (pb.add (Coord.e0 t.offB)) t
          let um := if sparse then (List.range t.m).flatMap fun (m : Nat) => (List.range (t.k / 4)).map fun (q : Nat) =>
              (pm.add (Coord.smul q gm.vc)).add (Coord.smul m gm.vr) else []
          let la := ua.map (locate ha ga.padon)
          let lb := ub.map (locate hb gb.padon)
          let lm := um.map (locate hm gm.padon)
          if (la ++ lb ++ lm).any fun e => decide (e = .outside) then .halt (.stop 0x05)
          else if ha.format ≠ sa.fmt ∨ hb.format ≠ sb.fmt ∨ (sparse = true ∧ hm.format ≠ 6) then .halt (.stop 0x07)
          else
            let count := stepCount x.kind h w ga t
            let elems := (List.range (t.m * t.n)).map fun i => off.toNat + i
            if t.absorb && s.settledStep v x ha hb ga gb (coverOf ha ua) (coverOf hb ub) then
              .step count (if x.acc then .nothing else .zeros elems) x.ec 0 none
            else match s.readElems v ha sa (padCode sa ga.pad) la Elems.none, s.readElems v hb sb (padCode sb gb.pad) lb Elems.none,
                s.readElems v hm (Slot.of 6) (padCode (Slot.of 6) gm.pad) lm Elems.none with
              | .error e, _, _ => .halt e
              | _, .error e, _ => .halt e
              | _, _, .error e => .halt e
              | .ok a, .ok b, .ok m =>
                if a.poison || b.poison || m.poison then .poison count (a.bad ++ b.bad ++ m.bad)
                else
                  let nil := if sa.fmt = 7 then 0x10 else 0
                  let rows := denseRows x.kind nil (stepDepth x.kind ga t) t a.codes m.codes
                  if rows.any Option.isNone then .step count .nothing x.ec 0 (some 0x07)
                  else
                    let r := stepSums cls sa sb sc t.n (rows.filterMap id) b.codes
                    .step count (.sums x.acc (decide (cls = .int)) (elems.zip (r.1.map fun gs => gs.map (BitVec.ofNat 32))))
                      (slotForC cls x.ec) (a.flags ||| b.flags ||| r.2) none
      | _, _, _ => .halt (.stop 0x01)

/-! ### The last cycle (08 R186, R196, R211) -/

/-- A step's accumulator writes as key and value, and their flags. -/
def Core.foldWrites (k : Core) (tile : Nat) (slotC : Nat) : StepWrites → List (Nat × Elem) × Nat
  | .nothing => ([], 0)
  | .zeros es => (es.map fun e => (131072 * tile + e, 0), 0)
  | .sums acc integer es =>
    let rs := es.map fun p =>
      let c0 : Nat := if acc then (Tbl.get 0 k.acc (131072 * tile + p.1)).toNat else 0
      (131072 * tile + p.1, p.2.foldl (fun a g => addGroup integer (Slot.of slotC) a g.toNat) (c0, 0))
    (rs.map fun r => (r.1, BitVec.ofNat 32 r.2.1), rs.foldl (fun f r => f ||| r.2.2) 0)

/-- Whether an acc step reads C from a poisoned group (23 R399). -/
def Core.readsPoison (k : Core) (tile : Nat) : StepWrites → Bool
  | .sums true _ es => es.any fun p => Tbl.get false k.accPoison ((131072 * tile + p.1) / 16)
  | _ => false

/-- The store as a step's last cycle reads C: before the VACZ landings of that cycle (08 R211). -/
def Core.beforeVacz (k : Core) : Core :=
  match k.zeroed with
  | some z => if z.time = k.matTime then { k with acc := z.acc, accPoison := z.poison } else k
  | none => k

/-- A step's writes with the zeros of the VACZ landings of its last cycle, which are applied second (08 R211). -/
def Core.underVacz (k : Core) (ws : List (Nat × Elem)) : List (Nat × Elem) :=
  match k.zeroed with
  | some z => if z.time = k.matTime then ws.map fun w => if z.keys.contains w.1 then (w.1, 0) else w else ws
  | none => ws

/-- The acting core's matrix stream. -/
def State.ms (s : State) : MStream := s.here.ms

/-- Changes a core's matrix stream. -/
def State.modMs (s : State) (core : Nat) (f : MStream → MStream) : State := s.modCore core fun k => { k with ms := f k.ms }

/-! ### The matrix frame (10 R246) -/

/-- First location of a core's matrix stream frame (10 R243). -/
def mframeLoc (core : Nat) : Nat := sliceLoc core 0x3EC000

/-- Location that stands for a padded gather index: no memory. -/
def paddedLoc : Nat := 2 ^ 60

/-- Lands a gather load in the latch (08 R200). -/
def MStream.latchFrom (m : MStream) (f : MldiFly) : MStream := { m with latch := f.values }

/-- A matrix predicate as a word sees it at issue (08 R185). -/
def MStream.pred (m : MStream) (p : Nat) : Bool :=
  match p with
  | 0 => true
  | 8 => m.l0.index == 0
  | 9 => m.l0.index != 0
  | 10 => m.l1.index == 0
  | 11 => m.l1.index != 0
  | _ => bitOf m.preds p

/-- p1 to p15 as the frame holds them (10 R246). -/
def MStream.predWord (m : MStream) : Nat := (List.range 15).foldl (fun v i => v + b2n (m.pred (i + 1)) * 2 ^ (i + 1)) 0

/-- Writes the matrix stream frame (10 R246). A record of an MLDI holds its count of indices in its first doubleword. For cause 0x12 the
raising word and the flags that it raised (02 R26) follow the latch's count. (DESIGN CHOICE, unsafe: notes/assumptions/78.md) -/
def State.writeMFrame (s : State) (core cause : Nat) : State :=
  let k := s.core core
  let m := k.ms
  let b := mframeLoc core
  let s1 := s.writeDs b (m.snapshot ++ [BitVec.ofNat 64 m.predWord])
  let s2 := (s1.writeDs (b + 0x300) (m.l0.words ++ m.l1.words)).writeDs (b + 0x340)
    [BitVec.ofNat 64 m.pc, BitVec.ofNat 64 m.stopCycle, BitVec.ofNat 64 cause, BitVec.ofNat 64 (m.fmtRow + loopSelCode m.fmtLoop * 2 ^ 4)]
  let s3 := (s2.writeDs (b + 0x400) (pack32 ((List.range 128).map fun i => (Tbl.get 0 m.fmt i).toNat))).writeDs (b + 0x600)
    [k.mfst.setWidth 64, BitVec.ofNat 64 m.latch.length, BitVec.ofNat 64 m.raiser.1, BitVec.ofNat 64 m.raiser.2]
  let s4 := s3.writeDs (b + 0x800) (pack32 ((List.range 512).map fun i => (m.latch.getD i 0).toNat))
  match m.mldi with
  | [] => s4.writeD (b + 0x1000) 0
  | f :: _ => (s4.writeD (b + 0x1000) 1).writeDs (b + 0x1020)
      ([BitVec.ofNat 64 f.addrs.length, BitVec.ofNat 64 (2 ^ 56), BitVec.ofNat 64 (f.due - m.stopCycle), BitVec.ofNat 64 (7 * 2 ^ 8)] ++
        pack32 (f.addrs.map fun a => a / 4 % 2 ^ 32))

/-- Lands every MLDI in flight but the newest: the frame holds one (10 R246). -/
def Core.keepOneMldi (k : Core) : Core :=
  match k.ms.mldi with
  | [] => k
  | fs =>
    let early := fs.dropLast
    early.foldl (fun k f => ({ k with ms := k.ms.latchFrom f }).pushToken 7) { k with ms := { k.ms with mldi := fs.drop (fs.length - 1) } }

/-- A matrix stream stops with a stop cycle (08 R186, 10 R244): its frame is written and the stop spreads. -/
def State.matStop (s : State) (core cause stopCycle : Nat) (report : Bool) : State :=
  let s1 := s.modCore core fun k0 =>
    let k := k0.keepOneMldi
    { k with ms := { k.ms with st := .stopped, cause := cause, frozen := false, atRdv := false,
                               rdv := if k.ms.atRdv then k.ms.rdv - 1 else k.ms.rdv, stopCycle := stopCycle,
                               raiser := if cause = 0x12 then k.ms.raiser else (0, 0),
                               atStop := if report then stopCode cause true else 0 } }
  ((s1.writeMFrame core cause).trace core 3 4 4 stopCycle (s1.core core).ms.pc cause).stopSpread core cause report

/-- A stop of the matrix stream of its own cause, or the cancel of an eligible phase that met poison in some lines (23 R398). -/
def State.matHalt (s : State) (core cause stopCycle : Nat) (lines : List Nat) : State :=
  if s.reruns core cause then s.cancelPhase core lines else s.matStop core cause stopCycle true

/-- A matrix word's last cycle (08 R186): accumulator writes, flags, token, then the stop that falls there. A token without room
holds the stream at that cycle; a step that writes nothing for poison or metadata pushes none. C is read before the VACZ landings of
the cycle, whose zeros remain (R211). An MSIG's bits and a token of mx escape from the phase (23 R397). -/
def State.matLast (s : State) (core : Nat) : State :=
  let k0 := s.core core
  let k : Core := { k0 with ms := { k0.ms with lead := thaw k0.ms.frozen k0.ms.lead k0.matDue (s.clockNow core) } }
  match k.ms.step with
  | none => s
  | some st =>
    let c := k.beforeVacz
    let bad := c.readsPoison st.tile st.writes
    let w : List (Nat × Elem) × Nat := if bad then ([], 0) else c.foldWrites st.tile st.slotC.toNat st.writes
    let flags := if bad then 0 else st.flags ||| w.2
    let k1 := { k.writeAcc (k.underVacz w.1) with mfst := k.mfst ||| BitVec.ofNat 32 flags }
    let stop : Option Nat :=
      if bad then some 0x06 else st.stop.or (if flags &&& (k1.mfst.toNat / 2 ^ 10) &&& 0x1F ≠ 0 then some 0x12 else none)
    let push := if stop = some 0x06 ∨ stop = some 0x07 then 0 else st.push
    if push ≠ 0 ∧ 15 ≤ k1.token push then
      s.setCore core { k1 with ms := { k1.ms with frozen := true, step := some { st with writes := .nothing, flags := 0, stop := stop, push := push } } }
    else
      let k2 := if push = 0 then k1 else k1.setToken push (k1.token push + 1)
      let s0 := s.setCore core { k2 with
        evw := k2.evw ||| BitVec.ofNat 32 st.event
        ms := { k2.ms with step := none, frozen := false, cycle := st.due + 1, raiser := (st.word, flags) } }
      let s1 := if st.event ≠ 0 ∨ push = 11 then s0.escape core else s0
      let s2 := if st.fence then s1.fence core else s1
      match stop with
      | some c => s2.matHalt core c st.due st.bad
      | none =>
        if (s2.core core).ms.atStop = 0 then (if s2.irqStop core && decide (k.vs.st ≠ .running) then s2.matStop core 0x10 st.due true else s2)
        else if 256 < (s2.core core).ms.atStop then s2.matHalt core (codeCause (s2.core core).ms.atStop) st.due st.bad
        else s2.matStop core (codeCause (s2.core core).ms.atStop) st.due false

/-! ### Resume (10 R242, R245) -/

/-- The recorded MLDI read afresh: an address left as it stood keeps its page, a changed one names the scratchpad. -/
def State.reloadMldi (s : State) (core : Nat) (old : Option MldiFly) (due : Nat) (words : List Nat) : MldiFly :=
  let oldAt (i : Nat) : Nat := match old with | some f => f.addrs.getD i paddedLoc | none => paddedLoc
  let addrs := words.mapIdx fun i w => if oldAt i / 4 % 2 ^ 32 = w then oldAt i else 4 * w
  { due := due, addrs := addrs
    values := addrs.mapIdx fun i a => if a = paddedLoc then (match old with | some f => f.values.getD i 0 | none => 0) else BitVec.ofNat 32 (s.read a 4)
    poison := addrs.any fun a => s.poisoned a, arrived := !addrs.any fun a => decide (a ≠ paddedLoc) && !localLoc core a }

/-- The matrix frame as it stands; none where it cannot be restored (11 R253). -/
def State.readMFrame (s : State) (core : Nat) : Option State :=
  let k := s.core core
  let m := k.ms
  let b := mframeLoc core
  let rd (o : Nat) : Nat := s.read (b + o) 8
  let w32 (o i : Nat) : Nat := s.read (b + o + 4 * i) 4
  let row := rd 0x358
  let n := rd 0x1000
  match loopOf ((List.range 4).map fun i => rd (0x300 + 8 * i)) true, loopOf ((List.range 4).map fun i => rd (0x320 + 8 * i)) true with
  | some l0, some l1 =>
    if row / 64 ≠ 0 ∨ row / 16 = 3 ∨ rd 0x350 / 256 ≠ 0 ∨ loopsFit l0 l1 = false ∨ 1 < n ∨ (n = 1 ∧ (72 < rd 0x1030 ∨ rd 0x1028 ≠ 2 ^ 56)) then none
    else
      let fly : List MldiFly := if n = 1 then
          [s.reloadMldi core m.mldi.head? (m.stopCycle + rd 0x1030) ((List.range (min 512 (rd 0x1020))).map (w32 0x1040))] else []
      some (s.modCore core fun k => { k with
        mfst := BitVec.ofNat 32 (rd 0x600 &&& 0x7C7F)
        ms := { k.ms with
          st := .running, frozen := false, atStop := 0, cause := 0, pc := rd 0x340, l0 := l0, l1 := l1, fmtRow := row % 16, fmtLoop := loopSelOf (row / 16)
          preds := rd 0x2E0 &&& 0xF0FE, snapshot := s.readDs b 92, mldi := fly
          latch := (List.range (min 512 (rd 0x608))).map fun i => BitVec.ofNat 32 (w32 0x800 i)
          fmt := (List.range 128).foldl (fun g i => Tbl.set 0 g i (BitVec.ofNat 32 (w32 0x400 i))) [] } })
  | _, _ => none

/-- Resumes a stopped matrix stream from its frame. -/
def State.matResume (s : State) (core : Nat) : State :=
  if (s.core core).ms.st ≠ .stopped then s
  else match s.readMFrame core with
    | some t => (t.dropStall core).recode core
    | none =>
      ((s.modMs core fun m => { m with cause := 0x01, atStop := stopCode 0x01 true }).writeD (mframeLoc core + 0x350) 1).stopSpread core 0x01 true

/-- Both streams of a job outside a lockstep round count again from one cycle of the clock. -/
def Core.countTogether (k : Core) : Core :=
  if k.vs.st = .running ∧ k.ms.st = .running ∧ (k.job.bind (·.group)).isNone = true then
    let now := max k.vecTime (k.ms.cycle + k.ms.lead)
    { k with vs := { k.vs with lead := now - k.vs.cycle }, ms := { k.ms with lead := now - k.ms.cycle } }
  else k

/-- Whether no stopped stream of a core owes a trap. -/
def Core.stopsTaken (k : Core) : Bool :=
  (decide (k.vs.st ≠ .stopped) || decide (k.vs.atStop = 0)) && (decide (k.ms.st ≠ .stopped) || decide (k.ms.atStop = 0))

/-- Resumes the stopped streams of the core's job (10 R242); a pending follow-up stop of a stream that still runs is over, and a
stream that cannot be restored stops the other one again. -/
def State.resumeStreams (s : State) (core : Nat) : State :=
  let s1 := s.modCore core fun k =>
    { k with vs := if k.vs.st = .running then { k.vs with atStop := 0 } else k.vs
             ms := if k.ms.st = .running then { k.ms with atStop := 0 } else k.ms }
  let s2 := ((s1.vecResume core).matResume core).modCore core Core.countTogether
  if (s2.core core).vs.atStop ≠ 0 ∨ (s2.core core).ms.atStop ≠ 0 then s2.modCore core fun k => k.follow (stopCode 0 false) else s2

/-! ### The driver of a matrix word -/

/-- What a matrix word's body answers: the step count and what happens at the last cycle, a stop at issue, or a wait for a tile entry. -/
inductive MOut where
  | ok (s : State) (count : Nat) (st : MatStep) (next : Option Nat)
  | stop (s : State) (cause : Nat)
  | freeze (s : State)
  | wait (entry : Nat)

/-- The entry of a slot in the matrix stream's current format row (02 R39). -/
def MStream.entry (m : MStream) (slot : Nat) : Nat :=
  (Tbl.get 0 m.fmt ((m.fmtRow + loopIndex m.fmtLoop m.l0 m.l1) % 16 * 8 + slot)).toNat

/-- A step that writes nothing. -/
def emptyStep : MatStep :=
  { due := 0, tile := 0, writes := .nothing, slotC := 0, flags := 0, stop := none, fence := false, push := 0, event := 0, word := 0, bad := [] }

/-- A matrix word that would issue in the cycle in which the vector stream stopped of its own cause does not (10 R245): the stream follows. -/
def State.matFollow (s t : State) : State :=
  if s.ms.atStop = 0 then t else s.matStop s.focus.core (codeCause s.ms.atStop) s.ms.cycle (decide (256 < s.ms.atStop))

/-- A matrix stream behind a word that it issued at m in cycle `now` of the clock or its own: the step runs to its end, and the loops
settle at issue (08 R186, R206). -/
def MStream.goOn (w m : MStream) (now push count : Nat) (st : MatStep) (next : Option Nat) : MStream :=
  let n : Nat × HwLoop × HwLoop := match next with
    | some n => (n, w.l0, w.l1)
    | none => settleLoops m.pc w.l0 w.l1
  { w with step := some { st with due := m.cycle + count - 1, push := push, word := m.pc }, pc := n.1, l0 := n.2.1, l1 := n.2.2
           lead := thaw m.frozen m.lead m.cycle now, frozen := false }

/-- A core whose matrix stream issued a word at m: a token popped, then the stream goes on (08 R186). -/
def Core.matGoOn (k : Core) (m : MStream) (now pop push count : Nat) (st : MatStep) (next : Option Nat) : Core :=
  let k1 := if pop = 0 then k else k.setToken pop (k.token pop - 1)
  { k1 with ms := k1.ms.goOn m now push count st next }

/-- The state after a matrix word that s issued and whose body left t. -/
def State.matGoOn (s t : State) (pop push count : Nat) (st : MatStep) (next : Option Nat) : State :=
  let m := s.ms
  let u := t.modHere fun k => k.matGoOn m (s.clockNow s.focus.core) pop push count st next
  u.loopSnap s.focus.core m.cycle (m.cycle + u.ms.lead) (4 * loopsEnded m.l0 m.l1 u.ms.l0 u.ms.l1)

/-- Issues a word of the acting core's matrix stream (08 R186, 03 R48): slots, the token pop, the guard, the body; loops settle at issue. -/
def matIssue (s : State) (h : MHdr) (slots : MStream → Bool) (body : MStream → MOut) : Host.Outcome State Fault Refusal :=
  let m := s.ms
  let core := s.focus.core
  if !slots m then .next (s.matStop core 0x07 m.cycle true)
  else if decide (h.pop ≠ 0) && decide (s.here.token h.pop = 0) then .next (s.matFollow (s.modMs core fun m => { m with frozen := true }))
  else if !m.pred h.guard then .next (s.matFollow (s.matGoOn s h.pop h.push 1 emptyStep none))
  else match body m with
    | .stop t c => .next (t.matStop core c m.cycle true)
    | .freeze t => .next (s.matFollow (t.modMs core fun m => { m with frozen := true }))
    | .wait n => .next (s.matFollow ((s.raiseTsq core n (.stream core)).modMs core fun m => { m with frozen := true }))
    | .ok t count st next => .next (s.matFollow (s.matGoOn t h.pop h.push count st next))

/-- The member index of a lockstep job (08 R209). -/
def State.memberOf (s : State) (core : Nat) (j : Job) : Option Nat :=
  j.group.bind fun g => (s.group g).indexOf core j.ctx

/-- What the words of the acting core's matrix stream read by. -/
def State.matEnv (s : State) (m : MStream) : MatEnv :=
  let core := s.focus.core
  match s.here.job with
  | none => { core := core, snap := m.snapshot, shapes := [], priv := false, checked := false, sets := [], idx := [m.l0.index, m.l1.index], latch := m.latch, member := none }
  | some j =>
    { core := core, snap := m.snapshot, shapes := j.shapes, priv := j.priv, checked := j.checked, sets := j.reads ++ j.writes
      idx := [m.l0.index, m.l1.index], latch := m.latch, member := s.memberOf core j }

/-- A tile word of the stream (08 R196). -/
def tileWordRun (s : State) (h : MHdr) (kind : StepKind) (t : MTile) : Host.Outcome State Fault Refusal :=
  matIssue s h (fun m => slotsOk (m.entry t.slotA) (m.entry t.slotB) (m.entry t.slotC)) fun m =>
    match s.tileStepOut (s.matEnv m) { kind := kind, t := t, ea := m.entry t.slotA, eb := m.entry t.slotB, ec := m.entry t.slotC, acc := t.acc } with
    | .halt (.stop c) => .stop s c
    | .halt (.wait n) => .wait n
    | .poison count lines => .ok s count { emptyStep with tile := t.tile, stop := some 0x06, bad := lines } none
    | .step count writes slotC flags stop =>
      .ok s count { emptyStep with tile := t.tile, writes := writes, slotC := BitVec.ofNat 32 slotC, flags := flags, stop := stop } none

end Sys2Proof.Machine
end

