-- ==== Sys2Proof/Machine/MatTile.lean ====
section
/-! DEFINITION. The tile words of the matrix stream (08 R196 to R204). -/

namespace Sys2Proof.Machine

/-- MMA (R196). -/
def execMma (h : MHdr) (t : MTile) (s : State) : Host.Outcome State Fault Refusal := tileWordRun s h .mma t

/-- MMA.S (R198): A in 2:4 form. -/
def execMmaS (h : MHdr) (t : MTile) (s : State) : Host.Outcome State Fault Refusal := tileWordRun s h .sparse t

/-- MMA.G (R200): rows of A through the gather latch. -/
def execMmaG (h : MHdr) (t : MTile) (s : State) : Host.Outcome State Fault Refusal := tileWordRun s h .gather t

/-- MMA.T (R196): A read transposed. -/
def execMmaT (h : MHdr) (t : MTile) (s : State) : Host.Outcome State Fault Refusal := tileWordRun s h .transposed t

/-- MWIN (R202): the bits of the MCONV of the same fields. -/
def execMwin (h : MHdr) (t : MTile) (s : State) : Host.Outcome State Fault Refusal := tileWordRun s h .winograd t

/-- MCONV (R201). -/
def execMconv (h : MHdr) (t : MTile) (s : State) : Host.Outcome State Fault Refusal := tileWordRun s h .conv t

/-- The C slot of an MZERO: FP32 or INT32 (R203). -/
def zeroSlotOk (e : Nat) : Bool := !slotReserved e && decide (e % 16 = 0 ∨ e % 16 = 3)

/-- Elements of an MZERO, or none outside the tile (R195, R203). -/
def zeroElems (snap : List Word) (idx : List Nat) (offset n : Nat) : Option (List Nat) :=
  let o := effOffset snap offset idx
  if o < 0 ∨ 131072 < o + (n : Int) then none else some ((List.range n).map fun i => o.toNat + i)

/-- MZERO (R203). -/
def execMzero (h : MHdr) (slotC m n tile offset : Nat) (s : State) : Host.Outcome State Fault Refusal :=
  matIssue s h (fun v => zeroSlotOk (v.entry slotC)) fun v =>
    match zeroElems v.snapshot [v.l0.index, v.l1.index] offset (m * n) with
    | none => .stop s 0x01
    | some es => .ok s ((m * n + 4095) / 4096) { emptyStep with tile := tile, writes := .zeros es } none

/-- Gathered indices read so far, newest first, with their locations. -/
structure Indices where
  values : List Elem
  addrs : List Nat
  poison : Bool
  bad : List Nat
  remote : Bool

/-- Reads the INT32 indices of an MLDI (R200). -/
def State.readIndices (s : State) (v : MatEnv) (h : Shape) (pad : Nat) : List Elt → Indices → Except Halt Indices
  | [], a => .ok { a with values := a.values.reverse, addrs := a.addrs.reverse }
  | .elem e :: us, a =>
    let pos := (elementPos 3 e).1
    match s.tensorElem v h e with
    | .code c =>
      let l := match s.tileAccess v.core h pos false v.priv with | .loc l _ => l | _ => paddedLoc
      s.readIndices v h pad us { a with values := BitVec.ofNat 32 c :: a.values, addrs := l :: a.addrs, remote := a.remote || !localLoc v.core l }
    | .poison ls => s.readIndices v h pad us { a with values := 0 :: a.values, addrs := paddedLoc :: a.addrs, poison := true, bad := a.bad ++ ls }
    | .reserved => s.readIndices v h pad us { a with values := 0 :: a.values, addrs := paddedLoc :: a.addrs }
    | .fault c => .error (.stop c)
    | .wait n => .error (.wait n)
  | .padded :: us, a => s.readIndices v h pad us { a with values := BitVec.ofNat 32 pad :: a.values, addrs := paddedLoc :: a.addrs }
  | .outside :: _, _ => .error (.stop 0x05)

/-- MLDI (R200): the indices land at t + 8, or t + 8 + S where an element is not local; a poisoned line stops the stream at the word's last cycle (R210).
A padded index reads the pad value as an INT32 slot would hold it. (DESIGN CHOICE, unsafe: notes/assumptions/85.md) -/
def execMldi (h : MHdr) (gen : Nat) (off : Int) (count : Nat) (s : State) : Host.Outcome State Fault Refusal :=
  matIssue s h (fun _ => true) fun m =>
    let v := s.matEnv m
    let g := genOf v.snap gen
    match v.origin gen count false with
    | none => .stop s 0x01
    | some p =>
      if g.tensor = 0 then .stop s 0x05
      else
        let sh := v.shape g.tensor
        let us := (List.range count).map fun (j : Nat) => locate sh g.padon ((p.add (Coord.e0 off)).add (Coord.smul j g.vc))
        if us.any fun e => decide (e = .outside) then .stop s 0x05
        else if sh.format ≠ 3 then .stop s 0x07
        else match s.readIndices v sh (padCode (Slot.of 3) g.pad) us { values := [], addrs := [], poison := false, bad := [], remote := false } with
          | .error (.stop c) => .stop s c
          | .error (.wait n) => .wait n
          | .ok a =>
            if a.poison then .ok s 1 { emptyStep with stop := some 0x06, bad := a.bad } none
            else
              let slack := match s.here.job with | some j => j.slack | none => 0
              let fly : MldiFly := { due := m.cycle + 8 + (if a.remote then slack else 0), values := a.values, addrs := a.addrs, poison := false, arrived := !a.remote }
              .ok (s.modMs s.focus.core fun m => { m with mldi := m.mldi ++ [fly] }) 1 emptyStep none

/-- The stored codes of +1 and −1 in the B pattern of a sounding (R204). -/
def katCodes (fmt : Nat) : Nat × Nat :=
  match fmt with
  | 7 => (0x00, 0x20)
  | 8 => (1, 2)
  | 5 => (0x01, 0xFF)
  | 1 => (0x3F80, 0xBF80)
  | 2 => (0x3C00, 0xBC00)
  | _ => (0x3F800000, 0xBF800000)

/-- MKAT (R204): a step over A and the built-in B pattern whose fold is compared; a mismatch stops the stream at the last cycle and fences the core. -/
def execMkat (h : MHdr) (slotA slotB slotC m n k gen : Nat) (off : Int) (const : Nat) (s : State) : Host.Outcome State Fault Refusal :=
  matIssue s h (fun v => slotsOk (v.entry slotA) (v.entry slotB) (v.entry slotC)) fun w =>
    let v := s.matEnv w
    let sa := Slot.of (w.entry slotA)
    let sb := Slot.of (w.entry slotB)
    let sc := Slot.of (w.entry slotC)
    let g := genOf v.snap gen
    let t : MTile := { slotA := slotA, slotB := slotB, slotC := slotC, absorb := false, m := m, n := n, k := k, tile := 0, acc := false, offset := 0
                       genA := gen, offA := off, genB := 0, offB := 0 }
    match pairClass sa.fmt sb.fmt, v.origin gen m false with
    | some (cls, hh, ww), some p =>
      if g.tensor = 0 then .stop s 0x05
      else
        let sh := v.shape g.tensor
        let us := (coordsA .mma g (p.add (Coord.e0 off)) [] t).map (locate sh g.padon)
        if us.any fun e => decide (e = .outside) then .stop s 0x05
        else if sh.format ≠ sa.fmt then .stop s 0x07
        else match s.readElems v sh sa (padCode sa g.pad) us Elems.none with
          | .error (.stop c) => .stop s c
          | .error (.wait e) => .wait e
          | .ok a =>
            let count := stepCount .mma hh ww g t
            if a.poison then .ok s count { emptyStep with stop := some 0x06, bad := a.bad } none
            else
              let (p1, m1) := katCodes sb.fmt
              let b := (List.range k).flatMap fun i => (List.range n).map fun j => if (i + j) % 2 = 0 then p1 else m1
              let sums := (stepSums cls sa sb sc n (rowsOf k m a.codes) b).1
              let slot := Slot.of (slotForC cls (w.entry slotC))
              let fold := sums.foldl (fun f gs => f ^^^ (gs.foldl (addGroup (decide (cls = .int)) slot) (0, 0)).1) 0
              .ok s count { emptyStep with stop := if fold = const then none else some 0x0A, fence := decide (fold ≠ const) } none
    | _, _ => .stop s 0x01

end Sys2Proof.Machine
end

