-- ==== Sys2Proof/Machine/MatFlow.lean ====
section
/-! DEFINITION. The flow words of the matrix stream (08 R205 to R207). -/

namespace Sys2Proof.Machine

/-- A flow word: one cycle, no slot (R207). -/
def flowWordM (s : State) (h : MHdr) (body : MStream → MOut) : Host.Outcome State Fault Refusal := matIssue s h (fun _ => true) body

/-- MLOOP (R206). -/
def execMloop (h : MHdr) (loop count off : Nat) (s : State) : Host.Outcome State Fault Refusal :=
  flowWordM s h fun m =>
    match startLoop m.pc loop off count 0 false m.l0 m.l1 with
    | none => .stop s 0x01
    | some (next, l0, l1) => .ok (s.modMs s.focus.core fun m => { m with l0 := l0, l1 := l1 }) 1 emptyStep (some next)

/-- MLBR (R206): the named loop backs up at once, also where its body does not hold the word (DESIGN CHOICE, unsafe: notes/assumptions/88.md); where
both loops stand at the word, see `backUp`. -/
def execMlbr (h : MHdr) (loop : Nat) (s : State) : Host.Outcome State Fault Refusal :=
  flowWordM s h fun m =>
    let l := if loop = 0 then m.l0 else m.l1
    if !l.running then .stop s 0x01
    else
      let r := backUp loop m.pc m.l0 m.l1
      .ok (s.modMs s.focus.core fun m => { m with l0 := r.2.1, l1 := r.2.2.1 }) 1 emptyStep (some r.1)

/-- A taken branch (R165, R206). -/
def branchM (s : State) (m : MStream) (off : Nat) : MOut :=
  let t := (m.pc : Int) + sextNat 16 off
  .ok (s.modMs s.focus.core fun w => { w with l0 := w.l0.leave t, l1 := w.l1.leave t }) 1 emptyStep (some (wordIndex t))

/-- MBR (R206). -/
def execMbr (h : MHdr) (p : Nat) (neg : Bool) (off : Nat) (s : State) : Host.Outcome State Fault Refusal :=
  flowWordM s h fun m => if xor (m.pred p) neg then branchM s m off else .ok s 1 emptyStep none

/-- MJ (R206). -/
def execMj (h : MHdr) (off : Nat) (s : State) : Host.Outcome State Fault Refusal := flowWordM s h fun m => branchM s m off

/-- MTOK (R207). -/
def execMtok (h : MHdr) (s : State) : Host.Outcome State Fault Refusal := flowWordM s h fun _ => .ok s 1 emptyStep none

/-- The job's vector stream can still issue a VRDV (R171). -/
def Core.vectorMeets (k : Core) : Bool := decide (k.vs.st = .running ∨ k.vs.st = .stopped) && !k.vs.stopIssued

/-- The matrix stream meets a waiting vector stream (R171). -/
def Core.meetAtMat (k : Core) : Core :=
  if k.vs.atRdv then { k with vs := { k.vs with lead := max k.vs.lead (k.ms.cycle + k.ms.lead - k.vs.cycle), frozen := false } } else k

/-- MRDV (R171, R207). -/
def execMrdv (h : MHdr) (s : State) : Host.Outcome State Fault Refusal :=
  flowWordM s h fun m =>
    let k := s.here
    let core := s.focus.core
    let n := if m.atRdv then m.rdv else m.rdv + 1
    if n ≤ k.vs.rdv then .ok ((s.modCore core Core.meetAtMat).modMs core fun m => { m with rdv := n, atRdv := false }) 1 emptyStep none
    else if k.vectorMeets then .freeze (s.modMs core fun m => { m with rdv := n, atRdv := true })
    else .ok (s.modMs core fun m => { m with rdv := n - 1, atRdv := false }) 1 emptyStep none

/-- MSTOP (R207): no further word issues. -/
def execMstop (h : MHdr) (s : State) : Host.Outcome State Fault Refusal :=
  flowWordM s h fun m => .ok (s.modMs s.focus.core fun m => { m with stopIssued := true }) 1 emptyStep (some m.pc)

/-- MFMT (R206). -/
def execMfmt (h : MHdr) (loop : LoopSel) (base : Nat) (s : State) : Host.Outcome State Fault Refusal :=
  flowWordM s h fun _ => .ok (s.modMs s.focus.core fun m => { m with fmtRow := base, fmtLoop := loop }) 1 emptyStep none

/-- MSIG (R207): its bits are set after its cycle. -/
def execMsig (h : MHdr) (mask : Nat) (s : State) : Host.Outcome State Fault Refusal :=
  flowWordM s h fun _ => .ok s 1 { emptyStep with event := mask } none

end Sys2Proof.Machine
end

