-- ==== Sys2Proof/Machine/Arith.lean ====
section
/-! DEFINITION. Integer arithmetic, immediates, compares and predicates of a control context (05 R90 to R93). None of them traps and none sets a flag. -/

namespace Sys2Proof.Machine

/-- What every instruction of the machine answers. -/
abbrev Answer := Host.Outcome State Fault Refusal

/-- Shift amount of a register value: bits [5:0] (05 R90). -/
def shiftOf (b : Word) : Nat := b.toNat % 64

/-- Signed quotient: all ones for a zero divisor, wrapping for the one overflow (05 R90). -/
def divS (a b : Word) : Word := if b = 0 then BitVec.allOnes 64 else BitVec.ofInt 64 (a.toInt.tdiv b.toInt)

/-- Unsigned quotient: all ones for a zero divisor (05 R90). -/
def divU (a b : Word) : Word := if b = 0 then BitVec.allOnes 64 else BitVec.ofNat 64 (a.toNat / b.toNat)

/-- Signed remainder with the sign of a; a for a zero divisor (05 R90). -/
def remS (a b : Word) : Word := if b = 0 then a else BitVec.ofInt 64 (a.toInt.tmod b.toInt)

/-- Signed minimum and maximum (05 R90). -/
def minS (a b : Word) : Word := if a.toInt ≤ b.toInt then a else b

/-- Signed maximum (05 R90). -/
def maxS (a b : Word) : Word := if a.toInt ≤ b.toInt then b else a

/-- Bits [127:64] of the signed product (05 R90). -/
def mulHigh (a b : Word) : Word := BitVec.ofInt 64 (a.toInt * b.toInt / 2 ^ 64)

/-- An R-form instruction that writes x[rd] from x[ra] and x[rb] (05 R90). -/
def arith (rd ra rb : Nat) (g : Guard) (f : Word → Word → Word) (s : State) : Answer :=
  guarded s g (.done (s.setX rd (f (s.x ra) (s.x rb))))

/-- An I-form instruction that writes x[rd] from x[ra] (05 R91). -/
def arithImm (rd ra : Nat) (f : Word → Word) (s : State) : Answer := finish s (.done (s.setX rd (f (s.x ra))))

def execAdd (rd ra rb : Nat) (g : Guard) (s : State) : Answer := arith rd ra rb g (fun a b => a + b) s
def execSub (rd ra rb : Nat) (g : Guard) (s : State) : Answer := arith rd ra rb g (fun a b => a - b) s
def execAnd (rd ra rb : Nat) (g : Guard) (s : State) : Answer := arith rd ra rb g (fun a b => a &&& b) s
def execOr (rd ra rb : Nat) (g : Guard) (s : State) : Answer := arith rd ra rb g (fun a b => a ||| b) s
def execXor (rd ra rb : Nat) (g : Guard) (s : State) : Answer := arith rd ra rb g (fun a b => a ^^^ b) s
def execSll (rd ra rb : Nat) (g : Guard) (s : State) : Answer := arith rd ra rb g (fun a b => a <<< shiftOf b) s
def execSrl (rd ra rb : Nat) (g : Guard) (s : State) : Answer := arith rd ra rb g (fun a b => a >>> shiftOf b) s
def execSra (rd ra rb : Nat) (g : Guard) (s : State) : Answer := arith rd ra rb g (fun a b => a.sshiftRight (shiftOf b)) s
def execMul (rd ra rb : Nat) (g : Guard) (s : State) : Answer := arith rd ra rb g (fun a b => a * b) s
def execMulh (rd ra rb : Nat) (g : Guard) (s : State) : Answer := arith rd ra rb g mulHigh s
def execDiv (rd ra rb : Nat) (g : Guard) (s : State) : Answer := arith rd ra rb g divS s
def execDivu (rd ra rb : Nat) (g : Guard) (s : State) : Answer := arith rd ra rb g divU s
def execRem (rd ra rb : Nat) (g : Guard) (s : State) : Answer := arith rd ra rb g remS s
def execMin (rd ra rb : Nat) (g : Guard) (s : State) : Answer := arith rd ra rb g minS s
def execMax (rd ra rb : Nat) (g : Guard) (s : State) : Answer := arith rd ra rb g maxS s

def execAddi (rd ra imm : Nat) (s : State) : Answer := arithImm rd ra (fun a => a + sextWord 15 imm) s
def execAndi (rd ra imm : Nat) (s : State) : Answer := arithImm rd ra (fun a => a &&& BitVec.ofNat 64 imm) s
def execOri (rd ra imm : Nat) (s : State) : Answer := arithImm rd ra (fun a => a ||| BitVec.ofNat 64 imm) s
def execXori (rd ra imm : Nat) (s : State) : Answer := arithImm rd ra (fun a => a ^^^ BitVec.ofNat 64 imm) s
def execSlli (rd ra sh : Nat) (s : State) : Answer := arithImm rd ra (fun a => a <<< sh) s
def execSrli (rd ra sh : Nat) (s : State) : Answer := arithImm rd ra (fun a => a >>> sh) s
def execSrai (rd ra sh : Nat) (s : State) : Answer := arithImm rd ra (fun a => a.sshiftRight sh) s
def execLui (rd imm : Nat) (s : State) : Answer := finish s (.done (s.setX rd (sextWord 15 imm <<< 15)))

/-- An R-form compare: p[pd] is whether the relation holds (05 R92). -/
def compare (pd ra rb : Nat) (g : Guard) (f : Word → Word → Bool) (s : State) : Answer :=
  guarded s g (.done (s.setP pd (f (s.x ra) (s.x rb))))

def execCeq (pd ra rb : Nat) (g : Guard) (s : State) : Answer := compare pd ra rb g (fun a b => decide (a = b)) s
def execCne (pd ra rb : Nat) (g : Guard) (s : State) : Answer := compare pd ra rb g (fun a b => decide (a ≠ b)) s
def execClt (pd ra rb : Nat) (g : Guard) (s : State) : Answer := compare pd ra rb g (fun a b => a.slt b) s
def execCltu (pd ra rb : Nat) (g : Guard) (s : State) : Answer := compare pd ra rb g (fun a b => a.ult b) s
def execCge (pd ra rb : Nat) (g : Guard) (s : State) : Answer := compare pd ra rb g (fun a b => !a.slt b) s
def execCgeu (pd ra rb : Nat) (g : Guard) (s : State) : Answer := compare pd ra rb g (fun a b => !a.ult b) s
def execCeqi (pd ra imm : Nat) (s : State) : Answer := finish s (.done (s.setP pd (decide (s.x ra = sextWord 15 imm))))
def execClti (pd ra imm : Nat) (s : State) : Answer := finish s (.done (s.setP pd ((s.x ra).slt (sextWord 15 imm))))

/-- Predicate logic on two sources with their negate bits (05 R93). -/
def execPand (pd pa pb : Nat) (na nb : Bool) (g : Guard) (s : State) : Answer :=
  guarded s g (.done (s.setP pd (xor (s.p pa) na && xor (s.p pb) nb)))
def execPor (pd pa pb : Nat) (na nb : Bool) (g : Guard) (s : State) : Answer :=
  guarded s g (.done (s.setP pd (xor (s.p pa) na || xor (s.p pb) nb)))

end Sys2Proof.Machine
end

