-- ==== Sys2Proof/Machine/Branch.lean ====
section
/-! DEFINITION. Branches and jumps of a control context (05 R94, R95). `finish` turns a taken target that is no multiple of 4 into the trap of R94, before any link is written, and the iteration-end address into the end of the context's part. -/

namespace Sys2Proof.Machine

/-- Target of a PC-relative transfer whose offset field has w bits (05 R94). -/
def State.near (s : State) (w off : Nat) : Word := s.cur.pc + 4 * sextWord w off

/-- The link value. -/
def State.link (s : State) : Word := s.cur.pc + 4

/-- A taken transfer: the code of before the last fence shows (03 R50). -/
def State.taken (s : State) : State := s.modCur fun c => { c with codeSince := c.codeFenced.getD c.codeSince, codeFenced := none }

def execB (g : Guard) (off : Nat) (s : State) : Answer := finish s (if s.holds g then .jump s.taken (s.near 20 off) else .done s)
def execJ (off : Nat) (s : State) : Answer := finish s (.jump s.taken (s.near 25 off))
def execJal (off : Nat) (s : State) : Answer := finish s (.jump (s.taken.setX 31 s.link) (s.near 25 off))
def execJr (ra : Nat) (g : Guard) (s : State) : Answer := guarded s g (.jump s.taken (s.x ra))
def execJalr (rd ra : Nat) (g : Guard) (s : State) : Answer := guarded s g (.jump (s.taken.setX rd s.link) (s.x ra))

end Sys2Proof.Machine
end

