-- ==== Sys2Proof/Machine/LoadStore.lean ====
section
/-! DEFINITION. Loads, stores, atomics, fences and release objects of a control context (05 R96 to R105), and the step that performs a buffered store or returns an outstanding load (05 R88, 10 R247). -/

namespace Sys2Proof.Machine

/-- Turns what an access answers into a result; `f` makes the result from the value read. An out-of-range read gives `f 0` (05 R97). -/
def Got.result (g : Got) (f : Nat → State → CtxRes) : CtxRes :=
  match g with
  | .ok v t => f v t
  | .hole t => f 0 t
  | .trap t c a => .trapIn t c (trapInfo c a)

/-- What a late load fault restores (10 R247). -/
def State.loadMark (s : State) : LoadMark :=
  let c := s.cur
  { x := c.x, p := c.p, c := c.c, pc := c.pc, sbuf := c.sbuf.length, iret := c.log.iret, counters := s.here.counters }

/-- A load that the memory system answers later: checked at issue, outstanding until LOAD_RETURN (10 R247). -/
def State.issueLoad (s : State) (rd a n : Nat) : CtxRes :=
  if 16 ≤ s.cur.loads.length then .wait s
  else if a % n ≠ 0 then .trapIn s 0x03 (trapInfo 0x03 a)
  else
    match s.reach s.focus.core a false (s.privileged s.focus.core s.focus.ctx) false with
    | .fault c => .trapIn s c (trapInfo c a)
    | .wait _ => .trapIn s 0x04 (trapInfo 0x04 a)
    | .hole => (s.outOfRange a).result fun _ t => .done (t.setX rd 0)
    | .zero => .done (s.setX rd 0)
    | .loc l t =>
      .done (t.modCur fun c => { c with loads := c.loads ++ [{ rd := rd, loc := l, size := n, addr := BitVec.ofNat 64 a, mark := s.loadMark }] })

/-- A load of 2^size bytes, extended into x[rd] (05 R97). -/
def State.load (s : State) (rd base size off : Nat) : CtxRes :=
  let n := sizeBytes size
  (s.ctxRead (s.ea base off) n).result fun v t => .done (t.setX rd (extend n v))

/-- A store of the low 2^size bytes of x[rd] (05 R97). -/
def State.store (s : State) (rd base size off : Nat) : CtxRes :=
  let n := sizeBytes size
  s.ctxStore (s.ea base off) n ((s.x rd).toNat % 256 ^ n)

/-- A store instruction, with the seal of a write to host memory. -/
def storeForm (rd base size off : Nat) (s : State) : Answer := sealAfter s (s.writesHost (s.ea base off) (sizeBytes size)) (finish s (s.store rd base size off))

/-- A load whose value another party may have written: it leaves a kind 6 record, and a replay takes the recorded value (22 R386, R393). -/
def State.loadStrong (s : State) (rd base size off : Nat) : CtxRes :=
  let n := sizeBytes size
  withInput s rd ((s.ctxRead (s.ea base off) n).result fun v t => .done ((t.setX rd (extend n v)).logFrom (s.supplierAt (s.ea base off) n) (extend n v)))

def execLd (rd base size off : Nat) (s : State) : Answer :=
  finish s (if s.cur.lateLoads && !s.replaying then s.issueLoad rd (s.ea base off) (sizeBytes size) else s.load rd base size off)
def execSt (rd base size off : Nat) (s : State) : Answer := storeForm rd base size off s
def execLda (rd base size off : Nat) (s : State) : Answer := finish s (s.loadStrong rd base size off)
def execStl (rd base size off : Nat) (s : State) : Answer := storeForm rd base size off s
def execLds (rd base size off : Nat) (s : State) : Answer := finish s (s.loadStrong rd base size off)
def execSts (rd base size off : Nat) (s : State) : Answer := storeForm rd base size off s

/-! ### Atomics -/

/-- Whether a paged address translates through an entry that no context may write through (17 R325). -/
def State.readOnly (s : State) (a : Nat) : Bool :=
  match place s.focus.core a with
  | .paged => match s.translation a true false with | some w => !bitOf w.entry 47 | none => false
  | _ => false

/-- The read of an atomic or REL: the checks of its address, its write's among them, come before that of poison (05 R99). -/
def State.amoRead (s : State) (a n : Nat) : Got := if a % n = 0 ∧ s.readOnly a = true then .trap s 0x04 a else s.ctxRead a n

/-- The write of an atomic that has read `v`, or its wait for a full undo log (05 R99, 22 R389); `src` is what supplied the value. -/
def State.amoWrite (s : State) (rd a n : Nat) (v : Word) (src : InputSrc) (new : Option Nat) : CtxRes :=
  match new with
  | none => .done ((s.setX rd v).logFrom src v)
  | some w =>
    if s.cur.log.blocks 1 then .wait s
    else
      match s.ctxWriteNow a n w with
      | .done u => .done ((u.setX rd v).logFrom src v)
      | r => r

/-- A read-modify-write of n bytes at a: `f` gives the new value from the old one, or nothing where no write happens. Out of range it reads
zero and writes nothing (05 R99). -/
def State.amo (s : State) (rd a n : Nat) (f : Nat → Option Nat) : CtxRes :=
  match s.amoRead a n with
  | .trap t c a => .trapIn t c (trapInfo c a)
  | .hole t => .done ((t.setX rd 0).logInput 0)
  | .ok old t => t.amoWrite rd a n (extend n old) (s.supplierAt a n) (f old)

/-- Bytes of an atomic (05 R99). -/
def amoBytes (dbl : Bool) : Nat := if dbl then 8 else 4

/-- An atomic in replay: the old value is the recorded one, and the write is made again, once the value is supplied (22 R393, R394). -/
def State.amoAgain (s : State) (rd a n : Nat) (f : Nat → Option Nat) : CtxRes :=
  match s.takeInput with
  | none => s.amo rd a n f
  | some (i, t) =>
    let v := i.body.headD 0
    let new := f (v.toNat % 256 ^ n)
    if s.unsupplied i || (new.isSome && s.cur.log.blocks 1) then .wait s else t.amoWrite rd a n v i.src new

/-- A guarded atomic whose new value is `f w old b`, b truncated to the size of w bits (05 R99). -/
def atomic (rd ra rb : Nat) (dbl : Bool) (g : Guard) (f : Nat → Nat → Nat → Option Nat) (s : State) : Answer :=
  let n := amoBytes dbl
  let h : Nat → Option Nat := fun old => f (8 * n) old ((s.x rb).toNat % 256 ^ n)
  let a := (s.x ra).toNat
  let writes : Bool := match s.amoRead a n with | .ok old _ => (h old).isSome | _ => false
  sealAfter s (s.holds g && writes && s.writesHost a n) (guarded s g (if s.replaying then s.amoAgain rd a n h else s.amo rd a n h))

/-- Signed maximum of two w-bit values. -/
def maxBits (w a b : Nat) : Nat := if sextNat w a ≤ sextNat w b then b else a

def execAmoadd (rd ra rb : Nat) (dbl : Bool) (_scope : Nat) (g : Guard) (s : State) : Answer :=
  atomic rd ra rb dbl g (fun w old b => some ((old + b) % 2 ^ w)) s
def execAmoand (rd ra rb : Nat) (dbl : Bool) (_scope : Nat) (g : Guard) (s : State) : Answer :=
  atomic rd ra rb dbl g (fun _ old b => some (old &&& b)) s
def execAmoor (rd ra rb : Nat) (dbl : Bool) (_scope : Nat) (g : Guard) (s : State) : Answer :=
  atomic rd ra rb dbl g (fun _ old b => some (old ||| b)) s
def execAmomax (rd ra rb : Nat) (dbl : Bool) (_scope : Nat) (g : Guard) (s : State) : Answer :=
  atomic rd ra rb dbl g (fun w old b => some (maxBits w old b)) s
def execAmoswp (rd ra rb : Nat) (dbl : Bool) (_scope : Nat) (g : Guard) (s : State) : Answer :=
  atomic rd ra rb dbl g (fun _ _ b => some b) s
def execAmocas (rd ra rb : Nat) (dbl : Bool) (_scope : Nat) (g : Guard) (s : State) : Answer :=
  atomic rd ra rb dbl g (fun w old b => if old = (s.x rd).toNat % 2 ^ w then some b else none) s

/-! ### Fences and release objects -/

/-- A fence behind n writes to memory: the next taken transfer shows them to the context's fetches (03 R50). -/
def Ctx.fenceCode (c : Ctx) (n : Nat) : Ctx := { c with codeFenced := some n }

/-- FENCE: every earlier access of the context is ordered ahead of every later one (05 R101); no load of it is outstanding, so its earlier
stores are performed. At core scope or wider, a taken jump behind it shows the code written so far, by whichever party (03 R50). -/
def execFence (scope : Nat) (g : Guard) (s : State) : Answer :=
  guarded s g (.done (if 1 ≤ scope then s.release.modCur fun c => c.fenceCode s.release.overwritten.length else s.release))

/-- ACQ reads the release count with the checks of a load (05 R102, R105). -/
def execAcq (ra _scope : Nat) (g : Guard) (s : State) : Answer :=
  guarded s g ((s.ctxRead (s.x ra).toNat 8).result fun _ t => .done t)

/-- REL: its increment of the release count enters the store buffer behind the earlier stores (05 R88, R104); it leaves no undo record
(22 R383), and a replay does not repeat it (R393). -/
def execRel (ra _scope : Nat) (g : Guard) (s : State) : Answer :=
  let a := (s.x ra).toNat
  sealAfter s (s.holds g && !s.replaying && s.writesHost a 8) (guarded s g (if s.replaying then .done s else match s.amoRead a 8 with
    | .trap t c a => .trapIn t c (trapInfo c a)
    | .hole t => .done t
    | .ok _ _ => (s.ctxStoreAt a 8).result s fun t l => if s.bufferFull then .wait s else .done (t.buffer .release l 8 0)))

/-- Bind table entries of a core (05 R103). -/
def bindEntries : Nat := 32

/-- BIND: a length of zero removes every entry of the object; a full table makes the object cover all memory (05 R103). -/
def Core.bindTo (k : Core) (obj base len : Nat) : Core :=
  if len = 0 then { k with bind := k.bind.filter (fun e => decide (e.1 ≠ obj)), bindAll := k.bindAll.filter fun o => decide (o ≠ obj) }
  else if k.bind.length < bindEntries then { k with bind := k.bind ++ [(obj, base, len)] }
  else if k.bindAll.contains obj then k
  else { k with bindAll := k.bindAll ++ [obj] }

def execBind (rd ra rb : Nat) (g : Guard) (s : State) : Answer :=
  guarded s g (.done (s.modHere fun k => k.bindTo (flatten s.focus.core (s.x ra).toNat) (s.x rb).toNat (s.x rd).toNat))

/-! ### Buffered stores and outstanding loads -/

/-- The oldest buffered entry of a context is performed (05 R88). -/
def State.drainOne (s : State) (core ctx : Nat) : State :=
  match (s.ctx core ctx).sbuf with
  | [] => s
  | e :: rest => (s.perform core ctx e).modCtx core ctx fun c =>
      { c with sbuf := rest, loads := c.loads.map fun l => { l with mark := { l.mark with sbuf := l.mark.sbuf - 1 } } }

/-- STORE_BUFFER_DRAIN: the oldest buffered entry is performed, unless an outstanding load precedes it (05 R88, 10 R247). -/
def execStoreBufferDrain (core ctx : Nat) (s : State) : Answer :=
  .next (if (s.ctx core ctx).loads.any fun l => l.mark.sbuf == 0 then s else s.drainOne core ctx)

/-- Performs the first n buffered entries of a context. -/
def State.drainSome (s : State) (core ctx : Nat) : Nat → State
  | 0 => s
  | n + 1 => (s.drainOne core ctx).drainSome core ctx n

/-- Shows a context's reserved ring entries and stores of before its oldest outstanding load: the loads before them have returned clean (10 R247). -/
def State.showRings (s : State) (core ctx : Nat) : State :=
  let c := s.ctx core ctx
  match c.loads with
  | [] => s.drain core ctx
  | l :: _ => s.drainSome core ctx l.mark.sbuf

/-- LOAD_RETURN: the oldest outstanding load returns (10 R247). Poison traps at the load: the context is as it was when the
load issued, and later instructions leave nothing. -/
def execLoadReturn (core ctx : Nat) (s : State) : Answer :=
  let c := s.ctx core ctx
  match c.loads with
  | [] => .next s
  | l :: rest =>
    if s.anyPoison l.loc l.size then
      let s1 := s.modCtx core ctx fun c =>
        { c with x := l.mark.x, p := l.mark.p, c := l.mark.c, pc := l.mark.pc, sbuf := c.sbuf.take l.mark.sbuf, loads := []
                 st := if c.busy then .handler else .running, log := { c.log with iret := l.mark.iret } }
      let s2 := s1.modCore core fun k => k.restoreCounters ctx l.mark.counters
      .next (s2.takeTrap core ctx 0x06 l.addr 0 l.mark.pc)
    else
      let v := extend l.size (s.seen (c.sbuf.take l.mark.sbuf) l.loc l.size)
      let s1 := s.modCtx core ctx fun c => { c.setX l.rd v with loads := rest.map fun m => { m with mark := { m.mark with x := (if l.rd = 0 then m.mark.x else Tbl.set 0 m.mark.x l.rd v) } } }
      .next (s1.showRings core ctx)

end Sys2Proof.Machine
end

