-- ==== Sys2Proof/Machine/Push.lean ====
section
/-! DEFINITION. Command registers, the pushes of a control context, result queues and rings (05 R106 to R112). -/

namespace Sys2Proof.Machine

/-! ### Command registers (03 R55, 05 R106) -/

/-- Writes field `pos` of 64, 32, 16 or 8 bits of a register; its other bits stay (03 R55). -/
def setField (old : Word) (width pos : Nat) (v : Word) : Word :=
  let w := 64 / 2 ^ width
  BitVec.ofNat 64 (putBits old.toNat (w * pos) w v.toNat)

/-- Writes a field of a command register of the acting context. -/
def State.setCField (s : State) (c width pos : Nat) (v : Word) : State :=
  s.modCur fun k => k.setC c (setField (k.getC c) width pos v)

def execCset (c width pos ra : Nat) (s : State) : Answer := finish s (.done (s.setCField c width pos (s.x ra)))
def execCseti (c width pos imm : Nat) (s : State) : Answer := finish s (.done (s.setCField c width pos (sextWord 15 imm)))

/-- CCLR clears c[first] to c[last] (03 R55). -/
def execCclr (first last : Nat) (s : State) : Answer :=
  finish s (.done (s.modCur fun k => { k with c := Tbl.clear k.c first (last + 1 - first) }))

/-! ### PUSH and RPUSH (05 R107, R108) -/

/-- The queue of a core that a number names: 0 MQ, 1 VQ, 2 CQ (05 R107). -/
def ownQueue (core n : Nat) : QueueId := match n with | 0 => .mq core | 1 => .vq core | _ => .cq core

/-- Pushes an image for the acting context: the check first, then room, the release of earlier stores, and the sequence
number to x[rd] (05 R107). A waiting RPUSH keeps `block`. A replay's push runs again and writes its recorded number (22 R393). -/
def State.pushNow (s : State) (rd : Nat) (q : QueueId) (img : List Word) (block : Option (List Word)) : CtxRes :=
  match s.release.pushImage q img s.focus.core s.focus.ctx with
  | .refused c a => .trap c (trapInfo c a)
  | .wait => .wait (s.modCur fun c => { c with block := block })
  | .ok seq t =>
    let (v, t1) : Word × State := match t.replaying, t.takeInput with | true, some (i, u) => (i.body.headD 0, u) | _, _ => (BitVec.ofNat 64 seq, t)
    let source := match bitsOf (img.headD 0).toNat 11 8 with | 1 => 0 | 2 => 1 | 4 => 3 | _ => 2
    .done (((t1.markPushed s.focus.core s.focus.ctx).modCur fun c => { c.setX rd v with block := none }).logFrom (.result s.focus.core source seq) v)

def execPush (rd queue : Nat) (g : Guard) (s : State) : Answer :=
  guarded s g (s.pushNow rd (ownQueue s.focus.core queue) ((List.range 16).map s.cur.getC) none)

/-- The queue that an RPUSH names, unless a value is reserved (05 R108). The harbour core has no number here: it is reached by PUSH alone. (DEDUCED, unsafe: notes/assumptions/46.md) -/
def rpushQueue (v : Nat) : Option QueueId :=
  let target := bitsOf v 10 0
  if bitsOf v 63 16 ≠ 0 ∨ bitsOf v 12 11 ≠ 0 then none
  else match bitsOf v 15 13 with
    | 0 => some (.mq target)
    | 1 => some (.vq target)
    | 2 => some (.cq target)
    | 3 => if target < 16 then some (.oq target) else none
    | 4 => if target < 8 then some (.lq target) else none
    | _ => none

/-- Reads n doublewords of a block as a load does (05 R97, R108). -/
def State.readBlock (s : State) (a : Nat) : Nat → State × (List Word ⊕ (Nat × Nat))
  | 0 => (s, .inl [])
  | n + 1 =>
    let next (v : Nat) (t : State) : State × (List Word ⊕ (Nat × Nat)) :=
      match t.readBlock (a + 8) n with
      | (u, .inl ds) => (u, .inl (BitVec.ofNat 64 v :: ds))
      | (u, .inr c) => (u, .inr c)
    match s.ctxRead (a % 2 ^ 64) 8 with
    | .ok v t => next v t
    | .hole t => next 0 t
    | .trap t c a => (t, .inr (c, a))

def execRpush (rd ra rb : Nat) (g : Guard) (s : State) : Answer :=
  let a := (s.x ra).toNat
  guarded s g (
    if a % 128 ≠ 0 then .trap 0x03 (trapInfo 0x03 a)
    else match rpushQueue (s.x rb).toNat with
      | none => .trap 0x01 0
      | some q =>
        match s.cur.block with
        | some img => s.pushNow rd q img (some img)
        | none =>
          match s.readBlock a 16 with
          | (t, .inr (c, a)) => .trapIn t c (trapInfo c a)
          | (t, .inl img) => t.pushNow rd q img (some img))

/-! ### Result queues (05 R109, R110) -/

/-- Appends the first held element of a result queue that has room; elements arrive in order (05 R109). -/
def Core.appendHeld (k : Core) (source : Nat) : Core :=
  match k.held.find? fun h => h.source == source with
  | none => k
  | some h =>
    if (k.resultsOf source).length < 16 then
      { k with results := Tbl.set [] k.results source (k.resultsOf source ++ [h.elem]), held := k.held.erase h }
    else k

/-- FPOP takes the oldest element of a result queue, or waits (05 R110). -/
def execFpop (rd source : Nat) (g : Guard) (s : State) : Answer :=
  guarded s g (withInput s rd (match s.here.resultsOf source with
    | [] => .wait s
    | v :: rest => .done (((s.modHere fun k => { k with results := Tbl.set [] k.results source rest }).setX rd v).logFrom (.result s.focus.core source (bitsOf v.toNat 63 32)) v)))

/-- RESULT_ELEMENT_APPEND: a held element is appended when room appears (05 R109). -/
def execResultElementAppend (core source : Nat) (s : State) : Answer := .next (s.modCore core fun k => k.appendHeld source)

/-! ### Rings (05 R111, R112, 10 R237, R247) -/

/-- Entries that the consumer may take now. -/
def Ring.ready (r : Ring) : Bool := decide (r.pops < r.visible) && !r.entries.isEmpty

/-- Whether the ring takes no further entry at its push count. -/
def Ring.full (r : Ring) : Bool := decide (r.depth ≤ r.pushes - r.pops)

/-- Writes the entry of the push count, in place where it was reserved before (10 R247); an entry that the consumer has taken stands (05 R112).
An entry that is not `seen` is reserved: it reaches its consumer later. -/
def Ring.push (r : Ring) (v : Word) (seen : Bool) : Ring :=
  let i := r.pushes - r.pops
  { r with
    entries := if r.pushes < r.pops then r.entries else if i < r.entries.length then r.entries.set i v else r.entries ++ [v]
    pushes := r.pushes + 1
    visible := if seen then max r.visible (r.pushes + 1) else r.visible }

/-- A push that a replay passes over: its receiver already holds it (22 R393). -/
def Ring.passOver (r : Ring) : Ring := { r with pushes := r.pushes + 1, visible := max r.visible (r.pushes + 1) }

/-- Takes the oldest entry. -/
def Ring.pop (r : Ring) : Ring := { r with entries := r.entries.drop 1, pops := r.pops + 1 }

/-- ZPUSH appends to a ring, or waits; the entry reaches its consumer when it leaves the store buffer, behind the context's earlier stores (05 R88,
R111). A ring of another producer is no ring of this context's; the check is the instruction's own and comes behind its guard (03 R48;
notes/assumptions/64.md). (DESIGN CHOICE, unsafe: notes/assumptions/64.md) -/
def execZpush (z rb : Nat) (g : Guard) (s : State) : Answer :=
  let r := s.here.ring z
  guarded s g (
    if r.depth = 0 ∨ r.prod ≠ s.focus.ctx then .trap 0x02 0
    else if s.replaying then .done (s.modHere fun k => k.setRing z r.passOver)
    else if r.full || s.bufferFull then .wait s
    else .done ((s.modHere fun k => k.setRing z (r.push (s.x rb) false)).buffer .ring s.focus.core z (BitVec.ofNat 64 r.pushes)))

/-- ZPOP takes the oldest entry of a ring, or waits (05 R111). -/
def execZpop (rd z : Nat) (g : Guard) (s : State) : Answer :=
  let r := s.here.ring z
  guarded s g (withInput s rd (
    if r.depth = 0 ∨ r.cons ≠ s.focus.ctx then .trap 0x02 0
    else if !r.ready then .wait s
    else
      let v := r.entries.headD 0
      .done (((s.modHere fun k => k.setRing z r.pop).setX rd v).logFrom (.ring s.focus.core z r.pops) v)))

/-! ### Code of a context -/

/-- A byte of code as a context fetches it: the old byte of a place that any party has written since the context last fenced and jumped (03 R50). (DEDUCED, unsafe: notes/assumptions/59.md) -/
def State.codeByte (s : State) (c : Ctx) (loc : Nat) : Byte :=
  (s.overwritten.take (s.overwritten.length - c.codeSince)).foldl
    (fun b e => if e.loc ≤ loc ∧ loc < e.loc + e.size then BitVec.ofNat 8 (e.old / 256 ^ (loc - e.loc)) else b) (s.byte loc)

/-- The n bytes of code at a location as a context fetches them. -/
def State.codeRead (s : State) (c : Ctx) (loc : Nat) : Nat → Nat
  | 0 => 0
  | n + 1 => (s.codeByte c loc).toNat + 256 * s.codeRead c (loc + 1) n

/-- The control-core word at a context's program counter, as it fetches it. -/
def State.wordAt (s : State) (core ctx : Nat) : Option Nat :=
  match s.reach core (s.ctx core ctx).pc.toNat false (s.privileged core ctx) false with
  | .loc l _ => some (s.codeRead (s.ctx core ctx) l 4)
  | _ => none

/-- Whether a decoded instruction waits at a ring whose limit is set (05 R89). -/
def State.ringWaits (s : State) (core ctx : Nat) : Bool :=
  let k := s.core core
  match (s.wordAt core ctx).bind fun w => (decodeControl w).toOption with
  | some (.zpush z _ _) => decide ((k.ring z).timeout ≠ 0) && (k.ring z).full
  | some (.zpop _ z _) => decide ((k.ring z).timeout ≠ 0) && !(k.ring z).ready
  | _ => false

/-- RING_TIMEOUT: a context that waits at a ring past its limit traps with 0x0C, once no earlier load is outstanding (05 R89, 10 R247). -/
def execRingTimeout (core ctx : Nat) (s : State) : Answer :=
  let c := s.ctx core ctx
  if c.st = .waiting ∧ c.loads = [] ∧ s.ringWaits core ctx = true then .next (s.takeTrap core ctx 0x0C 0 0 c.pc) else .next s

end Sys2Proof.Machine
end

