-- ==== Sys2Proof/Machine/Groups.lean ====
section
/-! DEFINITION. Groups, barriers, events and release of waiters (15, 16; 05 R114 to R117). -/

namespace Sys2Proof.Machine

/-! ### Groups (15 R301 to R303) -/

/-- Whether some core holds a lockstep job of a group that meets p. -/
def State.anyLockstep (s : State) (g : Nat) (p : Entry → Bool) : Bool :=
  s.cores.any fun c => c.2.vq.entries.any fun e => decide (s.lockstepJob e = some g) && p e

/-- Whether some member's lockstep job of a group runs (15 R304). -/
def State.roundRuns (s : State) (g : Nat) : Bool := s.anyLockstep g fun e => decide (e.st = .running)

/-- Groups that a context belongs to. -/
def State.groupsOf (s : State) (core ctx : Nat) : List Nat :=
  (s.groups.filter fun g => (g.2.indexOf core ctx).isSome).map (·.1)

/-- Whether a join is refused (15 R302). -/
def State.joinRefused (s : State) (core ctx g : Nat) (lockstep : Bool) : Bool :=
  let v := s.group g
  let held := s.groupsOf core ctx
  decide (8 ≤ held.length)
    || (lockstep && (held.any fun h => decide ((s.group h).kind = .lockstep)))
    || (lockstep && (decide (ctx ≠ 1) || core == harbourId))
    || (decide (v.kind = .opened) && lockstep) || (decide (v.kind = .lockstep) && !lockstep)
    || (decide (v.kind = .lockstep) && (v.members.any (fun m => m.2.1 == core) || decide (v.die ≠ core / 256) || decide (16 ≤ v.members.length)))

/-- The lowest member index that is free (15 R300). -/
def Group.freeIndex (g : Group) : Nat :=
  ((List.range (g.members.length + 1)).find? fun i => !g.members.any fun m => m.1 == i).getD 0

/-- Puts a member into its place in index order. -/
def insertMember (m : Nat × Nat × Nat) : List (Nat × Nat × Nat) → List (Nat × Nat × Nat)
  | [] => [m]
  | a :: t => if m.1 < a.1 then m :: a :: t else a :: insertMember m t

/-- Adds a context to a group; the first member sets the kind and the die (15 R299, R300). -/
def Group.join (v : Group) (core ctx : Nat) (lockstep : Bool) : Group :=
  { v with
    kind := if v.kind = .empty then (if lockstep then .lockstep else .opened) else v.kind
    die := if v.kind = .empty then (if lockstep then core / 256 else 0) else v.die
    members := insertMember (v.freeIndex, core, ctx) v.members }

/-- GJOIN (15 R301). -/
def State.joinGroup (s : State) (rd : Nat) (a : Nat) (lockstep : Bool) : CtxRes :=
  let core := s.focus.core
  let ctx := s.focus.ctx
  if bitsOf a 63 12 ≠ 0 then .trap 0x01 0
  else
    let g := a
    let v := s.group g
    match v.indexOf core ctx with
    | some i => .done ((s.setX rd (BitVec.ofNat 64 i)).logInput (BitVec.ofNat 64 i))
    | none =>
      if decide (v.kind = .lockstep) && (v.flip || s.roundRuns g) then .wait s
      else if s.joinRefused core ctx g lockstep then .done ((s.setX rd (BitVec.allOnes 64)).logInput (BitVec.allOnes 64))
      else
        let i : Word := BitVec.ofNat 64 v.freeIndex
        .done ((((s.setX rd i).logInput i).setGroup g (v.join core ctx lockstep)).ahead fun t => t.openAll g 4)

def execGjoin (rd ra : Nat) (lockstep : Bool) (g : Guard) (s : State) : Answer :=
  guarded s g (withInput s rd (s.joinGroup rd (s.x ra).toNat lockstep))

/-- Whether a context has a lockstep job of a group pushed and not retired, in its own core's queue or another's (05 R108, 15 R303). -/
def State.jobPushed (s : State) (core ctx g : Nat) : Bool := s.anyLockstep g fun e => e.core == core && e.ctx == ctx

/-- GLEAVE (15 R303). -/
def execGleave (ra : Nat) (g : Guard) (s : State) : Answer :=
  let a := (s.x ra).toNat
  guarded s g (
    if bitsOf a 63 12 ≠ 0 then .trap 0x01 0
    else if ((s.group a).indexOf s.focus.core s.focus.ctx).isNone then .done s
    else if s.jobPushed s.focus.core s.focus.ctx a then .wait s
    else .done (s.ahead fun t => t.leaveGroup a s.focus.core s.focus.ctx))

/-! ### Synchronisation objects (16 R311, R312) -/

/-- Whether a party of a core lies in the scope of an object whose home is another core (09 R220, 16 R312). -/
def inScope (scope core home : Nat) : Bool :=
  match scope with
  | 1 => core == home
  | 2 => core == home || (core != harbourId && home != harbourId && core / 256 == home / 256)
  | _ => true

/-- The checks of an operation on an object, in the order of 16 R312: its location, or the cause. `device` marks a command of an optical or link queue, which shares device scope alone. -/
def State.checkObject (s : State) (core ctx a : Nat) (priv barrier device : Bool) : Except Nat Nat :=
  if a % 32 ≠ 0 then .error 0x03
  else match place core a with
    | .sram loc =>
      if inSystemArea a && !priv then .error 0x02
      else
        let o := s.syncObj loc
        if o.malformed || (barrier && decide (o.kind ≠ 2)) then .error 0x07
        else if !(if device then decide (o.scope = 3) else inScope o.scope core (homeOf loc)) then .error 0x02
        else if barrier && o.tied && ((s.group o.group).indexOf core ctx).isNone then .error 0x02
        else .ok loc
    | _ => .error 0x04

/-- An arrival at the home unit: counted, with BPEND set, and a flip where the target is reached (16 R313, R314, R321). An arrival that replaces
a pending one holds up the flip of that one no longer. -/
def State.arrive (s : State) (loc core ctx : Nat) : State :=
  let o := s.syncObj loc
  let n := (o.arrivals + 1) % 2 ^ 32
  let s1 := (s.clearFlip core ctx).write (loc + 8) 4 n
  let s2 := s1.modCtx core ctx fun c => { c with bpend := bpendOf loc o.phase }
  let s3 := if o.tied then
      let v := s2.group o.group
      if v.barriers.contains loc then s2 else s2.setGroup o.group { v with barriers := v.barriers ++ [loc] }
    else s2
  let s4 := s3.watch loc (homeOf loc) 1 0 0 0
  (if s.target o ≤ n then (s4.watch loc (homeOf loc) 2 0 0 0).flip loc o else s4).serve loc

/-- A BARR completes: the phase to x[rd], BPEND's valid bit cleared (16 R313). The flip that it held up ends behind it (R314). -/
def State.passBarrier (s : State) (rd loc n : Nat) : CtxRes :=
  let v : Word := BitVec.ofNat 64 n
  let s1 := ((s.modCur fun c => { c with waiter := none, bpend := { c.bpend with valid := false } }).setX rd v).logFrom (.barrier loc n) v
  .done (s1.ahead fun t => t.clearFlip s.focus.core s.focus.ctx)

/-- BARR from its arrival on: passes if the phase has moved past n, else waits (16 R313). -/
def State.awaitPhase (s : State) (rd loc n : Nat) : CtxRes :=
  if (s.syncObj loc).phase ≠ n then s.passBarrier rd loc n
  else .wait (s.modCur fun c => { c with waiter := some (.phase loc n) })

/-- BARR on x[ra] = a (16 R313). Its checks and its arrival come behind the context's earlier stores; a context that is waiting continues its
wait without a second check. -/
def State.barrier (s : State) (rd a : Nat) : CtxRes :=
  let core := s.focus.core
  let ctx := s.focus.ctx
  match s.cur.waiter with
  | some (.phase loc n) => s.awaitPhase rd loc n
  | some (.flipped loc n) => s.passBarrier rd loc n
  | _ =>
    if a = 0 then .trap 0x07 0
    else
      let t := s.release
      match t.checkObject core ctx a (s.privileged core ctx) true false with
      | .error c => .trap c (trapInfo c a)
      | .ok loc =>
        if t.cur.bpend.names loc then t.awaitPhase rd loc t.cur.bpend.phase
        else (t.arrive loc core ctx).awaitPhase rd loc (t.syncObj loc).phase

def execBarr (rd ra : Nat) (g : Guard) (s : State) : Answer :=
  guarded s g (withInput s rd (s.barrier rd (s.x ra).toNat))

/-- SIG: the event bits x[rb][31:0] for the word that x[ra] names enter the store buffer behind the context's earlier stores, which its checks
see (05 R88, R117, 16 R316); a replay does not repeat it (22 R393). The 0x01 of bits above 31 comes before the object's checks. (DESIGN CHOICE, unsafe: notes/assumptions/86.md) -/
def execSig (ra rb : Nat) (g : Guard) (s : State) : Answer :=
  let a := (s.x ra).toNat
  let mask := (s.x rb).toNat
  let put (loc size : Nat) : CtxRes := if s.bufferFull then .wait s else .done (s.buffer .signal loc size (BitVec.ofNat 64 mask))
  guarded s g (
    if bitsOf mask 63 32 ≠ 0 then .trap 0x01 0
    else if s.replaying then .done s
    else if a = 0 then put s.focus.core 0
    else match s.release.checkObject s.focus.core s.focus.ctx a (s.privileged s.focus.core s.focus.ctx) false false with
      | .error c => .trap c (trapInfo c a)
      | .ok loc => put loc 4)

/-- The event word at a place to x[rd] (05 R117, 22 R394). -/
def State.takeEvents (s : State) (place rd v : Nat) : CtxRes :=
  let w : Word := BitVec.ofNat 64 v
  .done (((s.modCur fun c => { c with waiter := none }).setX rd w).logFrom (s.supplier place 4) w)

/-- WAITS on the word that x[ra] = a names (05 R117, 16 R316). On an object its read is an operation of the home unit, behind the context's
earlier stores. -/
def State.awaitEvents (s : State) (rd a mask : Nat) : CtxRes :=
  if a = 0 then
    let w := s.release.here.evw.toNat
    if w &&& mask = mask then s.release.takeEvents (evwMark s.focus.core) rd w else .wait s.release
  else match s.cur.waiter with
    | some (.mask _ _) => .wait s
    | some (.notified l v) => s.takeEvents (l + 16) rd v
    | _ =>
      match s.release.checkObject s.focus.core s.focus.ctx a (s.privileged s.focus.core s.focus.ctx) false false with
      | .error c => .trap c (trapInfo c a)
      | .ok loc =>
        let t := s.release.serve loc
        let w := (t.syncObj loc).events
        if w &&& mask = mask then t.takeEvents (loc + 16) rd w
        else .wait (t.modCur fun c => { c with waiter := some (.mask loc mask) })

def execWaits (rd ra rb : Nat) (g : Guard) (s : State) : Answer :=
  guarded s g (withInput s rd (s.awaitEvents rd (s.x ra).toNat ((s.x rb).toNat % 2 ^ 32)))

/-- Whether a context stands waiting at a BARR or WAITS on an object that has not reached the object's unit: its instruction, its operand,
no wait registered and, for a BARR, no arrival counted (16 R313, R315). -/
def State.standsAt (s : State) (barrier : Bool) (core ctx object value loc : Nat) : Bool :=
  let c := s.ctx core ctx
  decide (c.st = .waiting) && c.waiter.isNone &&
    match (s.wordAt core ctx).bind fun w => (decodeControl w).toOption with
    | some (.barr _ ra _) => barrier && decide ((c.getX ra).toNat = object) && !c.bpend.names loc
    | some (.waits _ ra rb _) => !barrier && decide ((c.getX ra).toNat = object) && decide ((c.getX rb).toNat % 2 ^ 32 = value)
    | _ => false

/-- OBJECT_OPERATION: an operation of a context is carried out at the object's home unit (16 R312): 0 the arrival of a BARR, 1 the
OR of a SIG or K.EVENT, 2 the read of a WAITS. A failed check leaves the object alone; 0 and 2 belong to a context that waits at that object. (DEDUCED, safe: notes/assumptions/57.md) -/
def execObjectOperation (op core ctx object value : Nat) (s : State) : Answer :=
  match s.checkObject core ctx object (s.privileged core ctx) (op == 0) false with
  | .error _ => .next s
  | .ok loc =>
    match op with
    | 0 => .next (if s.standsAt true core ctx object value loc then s.arrive loc core ctx else s)
    | 1 => .next (s.signalObject loc (value % 2 ^ 32))
    | _ =>
      if s.standsAt false core ctx object value loc then
        let t := s.serve loc
        let w := (t.syncObj loc).events
        .next (t.modCtx core ctx fun c => { c with waiter := some (if w &&& value = value then .notified loc w else .mask loc value) })
      else .next s

end Sys2Proof.Machine
end

