-- ==== Sys2Proof/Machine/Link.lean ====
section
/-! DEFINITION. Strand ports, their CSRs and their events (19 R344 to R347), and the interrupts that outside events raise (10 R239). -/

namespace Sys2Proof.Machine

/-- Sets IPEND bit b in the harbour core's contexts and in every context whose IEN bit is set (10 R239). -/
def State.raiseIrq (s : State) (b : Nat) : State :=
  let set (c : Ctx) : Ctx := { c with ipend := c.ipend ||| BitVec.ofNat 64 (2 ^ b) }
  let s1 := s.mapCtxs fun core _ c => if core ≠ harbourId ∧ bitOf c.ien.toNat b = true then set c else c
  [0, 1, 2].foldl (fun s n => s.modCtx harbourId n set) s1

/-- A Strand port (19 R347). -/
def State.strand (s : State) (port : Nat) : Strand := Tbl.get Strand.reset s.strands port

/-- Replaces a Strand port; a change of its state raises the link interrupt (10 R239). -/
def State.setStrand (s : State) (port : Nat) (v : Strand) : State :=
  let t := { s with strands := Tbl.set Strand.reset s.strands port v }
  if v.st = (s.strand port).st then t else t.raiseIrq 2

/-- Codes of a port's states (19 R347). -/
def PortSt.code : PortSt → Nat
  | .down => 0 | .training => 1 | .up => 2 | .degraded => 3 | .suspect => 4 | .excluded => 5

/-- The state a port runs in with so many lanes (19 R346). -/
def Strand.running (v : Strand) : PortSt := if v.lanes = 8 then .up else .degraded

/-- Whether a port's state lets a channel through: a suspect port carries coordination and control alone (19 R346). -/
def Strand.carries (v : Strand) (vc : Nat) : Bool :=
  decide (v.st = .up ∨ v.st = .degraded) || (decide (v.st = .suspect) && decide (vc ≠ 0))

/-- Sends waiting flits while the retry window and the peer's credits have room for them: each takes the next sequence, a credit, and is kept
till it is acknowledged (19 R344, R345). -/
def Strand.pump (v : Strand) : Strand :=
  let go := (v.waiting.filter v.carries).take (min (128 - v.window.length) v.credits)
  let kept := v.waiting.filter fun vc => !v.carries vc
  { v with
    window := v.window ++ go.zipIdx.map fun (p : Nat × Nat) => ((v.txSeq + p.2) % 65536, p.1, 1)
    txSeq := (v.txSeq + go.length) % 65536
    credits := v.credits - go.length
    waiting := kept ++ (v.waiting.filter v.carries).drop go.length }

/-- Sends the window's flits again, those of the channels that the port carries (19 R345, R346). -/
def Strand.resend (v : Strand) : Strand :=
  { v with
    window := v.window.map fun (f : Nat × Nat × Nat) => if v.carries f.2.1 then (f.1, f.2.1, f.2.2 + 1) else f
    replays := min 65535 (v.replays + (v.window.filter fun (f : Nat × Nat × Nat) => v.carries f.2.1).length) }

/-- Data flits of a channel are handed to a port. -/
def Strand.hand (v : Strand) (vc n : Nat) : Strand := { v with waiting := v.waiting ++ List.replicate n vc }.pump

/-- A port begins to train; unacknowledged flits stay (19 R346). -/
def Strand.train (v : Strand) : Strand := { v with st := .training, attempts := 0, lanes := 0, replays := 0 }

/-- Training ends on all lanes: the window starts empty at sequence 0, and flits that were not acknowledged are sent again ahead of the
others (19 R346). The credits that the peer grants at first are a free value. (DEDUCED, safe: notes/assumptions/75.md) -/
def Strand.trainedUp (v : Strand) (peer credits : Nat) : Strand :=
  { v with
    st := .up, lanes := 8, peer := peer % 2 ^ 16, attempts := 0, rxSeq := 0, txSeq := 0, window := [], credits := credits
    waiting := v.window.map (fun (f : Nat × Nat × Nat) => f.2.1) ++ v.waiting, replays := min 65535 v.window.length }.pump

/-- The collective engine transmits: how many flits leave, and on which port, is a free value (19 R344). (DESIGN CHOICE, safe: notes/assumptions/15.md) -/
def State.transmit (s : State) (vc : Nat) : State :=
  let (n, t) := s.takeFresh
  match Config.sentOn n with
  | none => t
  | some port =>
    let v := t.strand port
    if port < 18 ∧ v.carries vc = true then t.setStrand port (v.hand vc (Config.sentFlits n)) else t

/-- The collective engine transmits for a command: a step that cannot be undone, which seals the pushing context's windows (19 R346, 22 R390). -/
def State.transmitFor (s : State) (e : Entry) (vc : Nat) : State := (s.sealCtx e.core e.ctx 1).transmit vc

/-- A link that the collectives use is suspect or excluded: each that runs with its peers starts again from its first chunk not acknowledged, and
its later chunks are sent again (19 R355). Every running collective counts as using every link. (DESIGN CHOICE, unsafe: notes/assumptions/15.md) -/
def State.restartColls (s : State) : State :=
  (List.range 8).foldl (fun s die =>
    ((s.queue (.lq die)).entries.filter fun e => decide (e.st = .running) && decide (e.work = .pending) && e.peers).foldl (fun s e =>
      (s.modQueue (.lq die) fun v => v.modEntry e.seq fun b => { b with since := s.time }).transmitFor e 0) s) s

/-- LCTL op on a port: 1 enable, 2 retrain, 3 exclude, 4 clear suspect (19 R346, R347). -/
def State.portOp (s : State) (op port : Nat) : State :=
  let v := s.strand port
  if 18 ≤ port then s
  else match op with
  | 1 => if v.st = .down ∨ v.st = .excluded then s.setStrand port { v.train with window := [], waiting := [] } else s
  | 2 => if v.st = .up ∨ v.st = .degraded then s.setStrand port v.train else s
  | 3 => if v.st = .up ∨ v.st = .degraded ∨ v.st = .suspect then (s.setStrand port { v with st := .excluded, window := [], waiting := [], lanes := 0 }).restartColls else s
  | 4 => if v.st = .suspect then s.setStrand port { v with st := v.running } else s
  | _ => s

def execLctlEnable (port : Nat) (s : State) : Answer := .next (s.portOp 1 port)
def execLctlRetrain (port : Nat) (s : State) : Answer := .next (s.portOp 2 port)
def execLctlExclude (port : Nat) (s : State) : Answer := .next (s.portOp 3 port)
def execLctlClearSuspect (port : Nat) (s : State) : Answer := .next (s.portOp 4 port)

/-- STRAND_TRAINING_DONE: a training attempt ends with so many lanes passing and the peer's node (19 R346). -/
def execStrandTrainingDone (port lanes peer : Nat) (s : State) : Answer :=
  let v := s.strand port
  if v.st ≠ .training then .next s
  else if lanes = 8 then
    let (n, t) := s.takeFresh
    .next (t.setStrand port (v.trainedUp peer (Config.firstCredits n)))
  else if 4 ≤ lanes then
    let (n, t) := s.takeFresh
    .next (t.setStrand port ({ v with st := .degraded, lanes := 4, peer := peer % 2 ^ 16, attempts := 0, credits := Config.firstCredits n }.resend.pump))
  else if v.attempts = 2 then
    .next ((((s.setStrand port { v with st := .excluded, attempts := 0, window := [], waiting := [] }).wrackAdd 7 0 3 port 0 0).hirq 4).restartColls)
  else .next (s.setStrand port { v with attempts := v.attempts + 1 })

/-- The fields of a flit (19 R344). -/
def flitByte (f : List Nat) (i : Nat) : Nat := f.getD i 0 % 256

/-- A little-endian field of a flit. -/
def flitField (f : List Nat) (i n : Nat) : Nat := (List.range n).foldl (fun v j => v + flitByte f (i + j) * 256 ^ j) 0

/-- Whether a receiver keeps a flit: no reserved type or channel, and a check that passes (19 R344). (DESIGN CHOICE, safe: notes/assumptions/14.md) -/
def flitSound (f : List Nat) : Bool :=
  let ty := flitByte f 0 / 16
  decide (f.length = 256) && decide (1 ≤ ty ∧ ty ≤ 4) && decide (flitByte f 0 % 16 ≤ 2) &&
    decide (flitField f 248 8 = Config.flitCheck (f.take 248) % 2 ^ 64)

/-- Acknowledged flits leave the retry window, the returned credits are the sender's again, and waiting flits take their place. An
acknowledgement-only flit says that the receiver has discarded a flit: the flits after the one that it acknowledges are sent again (19 R344, R345). (DEDUCED, safe: notes/assumptions/75.md) -/
def Strand.acknowledge (v : Strand) (only : Bool) (ack credit : Nat) : Strand :=
  let rest := v.window.filter fun f => let d := (f.1 + 65536 - ack) % 65536; decide (0 < d ∧ d ≤ 128)
  let w := { v with window := rest, credits := v.credits + credit }
  (if only then w.resend else w).pump

/-- FLIT_RECEIVE: an unsound flit is dropped with every later one until the awaited sequence arrives; a data flit in order is
delivered once where its destination is this node, unless a suspect port carries no data; another flit is forwarded where this engine is a hop of
its route, else discarded (19 R344 to R346). (DESIGN CHOICE, safe: notes/assumptions/15.md) -/
def execFlitReceive (port : Nat) (flit : List Nat) (s : State) : Answer :=
  let v := s.strand port
  if v.st ≠ .up ∧ v.st ≠ .degraded ∧ v.st ≠ .suspect then .next s
  else if !flitSound flit then .next s
  else
    let v1 := v.acknowledge (flitByte flit 0 / 16 == 2) (flitField flit 3 2) (flitByte flit 5)
    if flitByte flit 0 / 16 ≠ 1 then .next (s.setStrand port v1)
    else if flitField flit 1 2 ≠ v1.rxSeq ∨ v.carries (flitByte flit 0 % 16) = false then .next (s.setStrand port v1)
    else
      let v2 := { v1 with rxSeq := (v1.rxSeq + 1) % 65536 }
      if flitField flit 6 2 = s.node then .next (s.setStrand port { v2 with delivered := v2.delivered ++ [(flit.drop 8).take 240] })
      else
        let (n, t) := (s.setStrand port v2).takeFresh
        match Config.sentOn n with
        | none => .next t
        | some out =>
          let w := t.strand out
          .next (if out < 18 ∧ w.carries (flitByte flit 0 % 16) = true then t.setStrand out (w.hand (flitByte flit 0 % 16) 1) else t)

/-- FLIT_RETRY_LIMIT: a flit sent eight times without acknowledgement makes the port retrain (19 R345, R346). -/
def execFlitRetryLimit (port : Nat) (s : State) : Answer :=
  let v := s.strand port
  if (v.st = .up ∨ v.st = .degraded) ∧ (v.window.any fun f => decide (8 ≤ f.2.2)) = true then .next (s.setStrand port v.train) else .next s

/-- CXL_PORT_TRAINED: a CXL port completes training or trains down; the link interrupt (10 R239, 19 R342). -/
def execCxlPortTrained (port width : Nat) (s : State) : Answer :=
  if 4 ≤ port then .next s else .next ({ s with cxl := Tbl.set 0 s.cxl port width }.raiseIrq 2)

/-- Whether a buffered entry is a store to a location. -/
def SbEntry.storesAt (b : SbEntry) (loc : Nat) : Bool := decide (b.kind = .store) && decide (b.loc ≤ loc ∧ loc < b.loc + b.size)

/-- The oldest store of a context's buffer to a location is dropped. -/
def Ctx.dropStore (c : Ctx) (loc : Nat) : Ctx := { c with sbuf := c.sbuf.eraseP fun b => b.storesAt loc }

/-- Whether a write is one to a location. -/
def Overwrite.at_ (e : Overwrite) (loc : Nat) : Bool := decide (e.loc ≤ loc ∧ loc < e.loc + e.size)

/-- Takes back a write: the bytes that it overwrote stand again, but for those that newer writes have written. -/
def State.takeBack (s : State) (newer : List Overwrite) (e : Overwrite) : State :=
  (List.range e.size).foldl (fun s i =>
    if newer.any fun w => w.at_ (e.loc + i) then s else s.write (e.loc + i) 1 (e.old / 256 ^ i)) s

/-- Drops a write to a location that the expander has not completed: the first context's buffered store there, else the newest write that has
left a context, a command or the host; none where no write is outstanding. -/
def State.dropStore (s : State) (loc : Nat) : Option State :=
  let all := s.cores.flatMap fun p => [(p.1, 0), (p.1, 1), (p.1, 2)]
  match all.find? fun p => (s.ctx p.1 p.2).sbuf.any fun b => b.storesAt loc with
  | some p => some (s.modCtx p.1 p.2 fun c => c.dropStore loc)
  | none =>
    match s.overwritten.find? fun e => e.at_ loc with
    | none => none
    | some e =>
      let newer := s.overwritten.takeWhile fun w => !w.at_ loc
      let rest := s.overwritten.drop (newer.length + 1)
      some { s.takeBack newer e with overwritten := newer ++ { e with size := 0 } :: rest }

/-- FAR_TIER_TIMEOUT at the port whose expander holds the location: a read that it does not complete returns poison; a write is dropped with a
wrack entry and HIRQ source 7, where one is outstanding (19 R343, 24 R411). (DEDUCED, unsafe: notes/assumptions/72.md) -/
def execFarTierTimeout (write : Bool) (location port : Nat) (s : State) : Answer :=
  if farPort location ≠ some port then .next s
  else if write then
    match s.dropStore location with
    | some t => .next ((t.wrackAdd 6 0 3 port (BitVec.ofNat 64 location) 0).hirq 7)
    | none => .next s
  else .next (s.setPoison location true)

/-- The word LST reads for a port; 18 to 31 read zero (19 R347). -/
def State.lst (s : State) (port : Nat) : Nat :=
  let v := s.strand port
  if 18 ≤ port then 0 else v.peer * 2 ^ 32 + v.replays * 2 ^ 16 + v.lanes * 256 + v.st.code

end Sys2Proof.Machine
end

