-- ==== Sys2Proof/Machine/OptUnit.lean ====
section
/-! DEFINITION. The states and control of an optical unit (20 R359 to R363) and its timed events. The commands it runs are in Machine/Optical.lean. -/

namespace Sys2Proof.Machine

/-- The code of a bin that no mask has changed: the identity, a = 63 and φ = 0 (20 R358). -/
def identityBin : Nat := 63

/-- Codes of a unit's states (20 R360). -/
def OfuSt.code : OfuSt → Nat
  | .dark => 0 | .warming => 1 | .calibrating => 2 | .ready => 3 | .stale => 4 | .faulted => 5

/-- The unit goes dark: bank contents are lost (20 R359). -/
def Ofu.goDark (u : Ofu) : Ofu :=
  { u with st := .dark, enable := false, darkPending := false, banks := [], calFree := none, calBlock := [], calNext := none, valid := 0, frameBuf := none, frameNext := none, maskBuf := none }

/-- Whether a command of a unit's queue runs. -/
def Ofu.busy (u : Ofu) : Bool := u.queue.runs fun _ => true

/-- A pending darkening takes effect once the running command has ended (20 R359). -/
def State.settleDark (s : State) (unit : Nat) : State :=
  let u := s.ofu unit
  if u.darkPending && !u.busy then s.setOfu unit u.goDark else s

/-- A validity period as OCFG stores it (20 R361). -/
def storedValidity (v : Nat) : Nat := if v = 0 then 50 else min v 200

/-- A write of OCFG.enable (20 R359, R361). -/
def State.enableUnit (s : State) (unit : Nat) (on : Bool) : State :=
  let u := s.ofu unit
  if on then s.setOfu unit (if u.st = .dark then { u with st := .warming, enable := true } else { u with enable := true, darkPending := false })
  else if u.st = .dark then s
  else (s.setOfu unit { u with enable := false, darkPending := true }).settleDark unit

/-- A write of OCFG (20 R361). -/
def State.writeOcfg (s : State) (unit v : Nat) : State :=
  let u := s.ofu unit
  (s.setOfu unit { u with validity := storedValidity (bitsOf v 31 16), auto := bitOf v 1 }).enableUnit unit (bitOf v 0)

/-- A write of OCTL: 1 retries, 2 cancels a faulted command of the unit's queue (20 R361). -/
def State.octlOp (s : State) (unit op seq : Nat) : State :=
  match op with
  | 1 => s.retryCmd (.oq unit) seq
  | 2 => s.cancelCmd (.oq unit) seq
  | _ => s

def execOcfgEnable (unit : Nat) (s : State) : Answer := .next (s.enableUnit unit true)
def execOcfgDisable (unit : Nat) (s : State) : Answer := .next (s.enableUnit unit false)
def execOctlRetry (unit seq : Nat) (s : State) : Answer := .next (s.octlOp unit 1 seq)
def execOctlCancel (unit seq : Nat) (s : State) : Answer := .next (s.octlOp unit 2 seq)

/-- The word OST reads for a unit (20 R360): the deadline `valid` and TIME give the validity that remains, in units of 100 µs. -/
def State.ost (s : State) (unit : Nat) : Nat :=
  let u := s.ofu unit
  let held := u.queue.entries.any fun e => decide (e.st = .faulted)
  u.epoch % 2 ^ 32 * 2 ^ 32 + (u.valid - s.time) / 100000 % 4096 * 2 ^ 20 + u.queue.entries.length % 128 * 256 + b2n held * 128 + u.st.code

/-- The word OCFG reads. -/
def Ofu.ocfg (u : Ofu) : Nat := u.validity * 2 ^ 16 + b2n u.auto * 2 + b2n u.enable

/-- A calibration is in force from now on: epoch + 1 and the validity timer restarted (20 R359, R362). (DESIGN CHOICE, safe: notes/assumptions/8.md) -/
def State.calibrated (s : State) (unit : Nat) : State :=
  let u := s.ofu unit
  s.setOfu unit { u with st := .ready, epoch := (u.epoch + 1) % 2 ^ 32, valid := s.time + u.validity * 1000000 }

/-- A K.OCAL write form that retires installs its block (20 R359, R374). -/
def State.installCal (s : State) (q : QueueId) (e : Entry) : State :=
  match q with
  | .oq unit =>
    match (s.ofu unit).calNext with
    | some block => if e.opcode = 0x0A ∧ bitsOf (e.d 8) 1 0 = 1 then (s.setOfu unit { s.ofu unit with calFree := none, calBlock := block, calNext := none }).calibrated unit else s
    | none => s
  | _ => s

/-- The running K.OCAL run form of a unit (20 R374). -/
def State.runningOcal (s : State) (unit : Nat) : Option Entry :=
  (s.ofu unit).queue.entries.find? fun e => decide (e.st = .running) && e.opcode == 0x0A && bitsOf (e.d 8) 1 0 == 0

/-- Sets the work of a running command. -/
def State.setWork (s : State) (q : QueueId) (seq : Nat) (w : Work) : State :=
  s.modQueue q fun v => v.modEntry seq fun e => { e with work := w }

/-- OFU_WARMUP_DONE: the source is stable; every bank is the identity and the built-in calibration begins (20 R359). What a K.OCAL reads
before one has passed is a free calibration (notes/assumptions/8.md). -/
def execOfuWarmupDone (unit : Nat) (s : State) : Answer :=
  let u := s.ofu unit
  if u.st = .warming then
    let (n, s1) := s.takeFresh
    .next (s1.setOfu unit { u with st := .calibrating, banks := [], calFree := some n, calBlock := [] })
  else .next s

/-- OFU_CALIBRATION_DONE: a calibration passes or fails; the run form of K.OCAL that waits for it ends with it (20 R359, R374). -/
def execOfuCalibrationDone (unit : Nat) (pass : Bool) (s : State) : Answer :=
  let u := s.ofu unit
  if u.st ≠ .calibrating then .next s
  else if pass then
    let (n, s1) := s.takeFresh
    let s2 := (s1.setOfu unit { u with calFree := some n, calBlock := [] }).calibrated unit
    match s.runningOcal unit with
    | some e => .next (s2.setWork (.oq unit) e.seq (.done false false false []))
    | none => .next s2
  else
    let s1 := ((s.setOfu unit { u with st := .faulted }).wrackAdd 8 0 4 unit 0 0).hirq 4
    match s.runningOcal unit with
    | some e => .next (s1.setWork (.oq unit) e.seq (.failed 0x0B false))
    | none => .next s1

/-- OFU_TEMPERATURE_DRIFT: more than 2 °C from the calibration, and a ready unit is stale (20 R362). -/
def execOfuTemperatureDrift (unit : Nat) (s : State) : Answer :=
  let u := s.ofu unit
  if u.st = .ready then .next (s.setOfu unit { u with st := .stale }) else .next s

end Sys2Proof.Machine
end

