-- ==== Sys2Proof/Machine/Training.lean ====
section
/-! DEFINITION. HBM4E training registers (24 R419 to R421). -/

namespace Sys2Proof.Machine

/-- The pseudo-channel that HSEL names, as a table key; none where HSEL names stack 12 to 15 or lane 34 to 63 (24 R419). -/
def hselKey (hsel : Nat) : Option Nat :=
  if 12 ≤ bitsOf hsel 3 0 ∨ 34 ≤ bitsOf hsel 15 10 then none
  else some (bitsOf hsel 3 0 * 64 + bitsOf hsel 8 4 * 2 + bitsOf hsel 9 9)

/-- A pseudo-channel. -/
def State.pseudo (s : State) (key : Nat) : Hbm := Tbl.get Hbm.reset s.hbm key

/-- Replaces a pseudo-channel. -/
def State.setPseudo (s : State) (key : Nat) (v : Hbm) : State := { s with hbm := Tbl.set Hbm.reset s.hbm key v }

/-- The delay of a lane that no write has set: 64 (24 R419), or the part's own once boot has trained the channel (24 R412). -/
def Hbm.delay0 (v : Hbm) (key lane : Nat) (write : Bool) : Nat := if v.trained then (Config.trainedDelay key lane write).toNat else 64

/-- Delays of a lane: the write delay and the read delay (24 R419). -/
def Hbm.wrDelay (v : Hbm) (key lane : Nat) : Nat := ((v.wr.find? fun e => e.1 == lane).map (·.2)).getD (v.delay0 key lane true)
def Hbm.rdDelay (v : Hbm) (key lane : Nat) : Nat := ((v.rd.find? fun e => e.1 == lane).map (·.2)).getD (v.delay0 key lane false)

/-- A write of an op: 1 and 2 start a test in mode 1, where 3 starts nothing; outside mode 1 any op but 0 sets bad (24 R419, R420). -/
def Hbm.start (v : Hbm) (op : Nat) : Hbm :=
  if op = 0 then v
  else if v.mode ≠ 1 then { v with bad := true }
  else if op = 3 then v
  else { v with test := op, fail := 0, valid := false }

/-- HREP as it stores a value: a target above 31 disables its spare, and the second spare of one target is off (24 R421). -/
def storedRepair (v : Nat) : Nat :=
  let t0 := bitsOf v 5 0
  let t1 := bitsOf v 13 8
  let e0 := bitOf v 6 && decide (t0 ≤ 31)
  let e1 := bitOf v 14 && decide (t1 ≤ 31) && !(e0 && t1 == t0)
  t0 + b2n e0 * 2 ^ 6 + t1 * 2 ^ 8 + b2n e1 * 2 ^ 14

/-- A write of register 0x981 to 0x985 of a pseudo-channel (24 R419 to R421). -/
def Hbm.write (v : Hbm) (csr lane w : Nat) : Hbm :=
  match csr with
  | 0x981 => if bitsOf w 1 0 = 3 then v else { v with mode := bitsOf w 1 0 }
  | 0x982 => { v with wr := Tbl.insert (Tbl.erase v.wr lane) lane (bitsOf w 22 16), rd := Tbl.insert (Tbl.erase v.rd lane) lane (bitsOf w 6 0) }
  | 0x983 => { v with pattern := bitsOf w 63 32, bursts := bitsOf w 31 16, kind := if bitsOf w 3 2 = 3 then 0 else bitsOf w 3 2 }.start (bitsOf w 1 0)
  | 0x984 => if bitOf w 62 then { v with bad := false } else v
  | _ => if v.mode = 1 then { v with rep := storedRepair w } else v

/-- What register 0x981 to 0x985 of a pseudo-channel reads (24 R419). -/
def Hbm.read (v : Hbm) (key csr lane : Nat) : Nat :=
  match csr with
  | 0x981 => v.mode
  | 0x982 => v.wrDelay key lane * 2 ^ 16 + v.rdDelay key lane
  | 0x983 => v.pattern * 2 ^ 32 + v.bursts * 2 ^ 16 + v.kind * 4
  | 0x984 => b2n v.valid * 2 ^ 63 + b2n v.bad * 2 ^ 62 + v.fail
  | _ => v.rep

/-- A start of a test from outside an instruction; one that is under test keeps its test (24 R420). -/
def State.startTest (s : State) (key op : Nat) : State :=
  let v := s.pseudo key
  if v.test ≠ 0 then s else s.setPseudo key (v.start op)

def execHpatReadTest (stack channel pc : Nat) (s : State) : Answer := .next (s.startTest (pseudoKey stack channel pc) 1)
def execHpatWriteReadTest (stack channel pc : Nat) (s : State) : Answer := .next (s.startTest (pseudoKey stack channel pc) 2)

/-- The delays at which a lane of a pseudo-channel compares right: those given for the channel, else the part's own (25 R424). (DESIGN CHOICE, safe: notes/assumptions/11.md) -/
def Hbm.window (v : Hbm) (key lane : Nat) : LaneWindow :=
  (Tbl.get none v.windows lane).getD
    (let w := Config.laneWindow key lane; { rdLo := w.1, rdHi := w.2.1, wrLo := w.2.2.1, wrHi := w.2.2.2 })

/-- Whether a lane miscompares of its own in a test: its read delay outside its read window, or in a write-then-read test its write delay outside
its write window (24 R420, 25 R424). -/
def Hbm.misses (v : Hbm) (key op lane : Nat) : Bool :=
  let w := v.window key lane
  let rd := v.rdDelay key lane
  let wr := v.wrDelay key lane
  decide (rd < w.rdLo ∨ w.rdHi < rd) || (decide (op = 2) && decide (wr < w.wrLo ∨ w.wrHi < wr))

/-- Whether lane l reports a miscompare in a test: a target reports its spare's comparison (24 R421). -/
def Hbm.lane (v : Hbm) (key op l : Nat) : Bool :=
  if bitOf v.rep 6 && bitsOf v.rep 5 0 == l then v.misses key op 32
  else if bitOf v.rep 14 && bitsOf v.rep 13 8 == l then v.misses key op 33
  else v.misses key op l

/-- HBM_TEST_DONE: valid is set, and fail bit j for each lane that miscompared (24 R420). -/
def execHbmTestDone (stack channel pc : Nat) (s : State) : Answer :=
  let key := pseudoKey stack channel pc
  let v := s.pseudo key
  if v.test = 0 then .next s
  else
    let fail := (List.range 34).foldl (fun f l => f + b2n (v.lane key v.test l) * 2 ^ l) 0
    .next (s.setPseudo key { v with test := 0, valid := true, fail := fail })

end Sys2Proof.Machine
end

