-- ==== Sys2Proof/Machine/Kernel.lean ====
section
/-! DEFINITION. The kernel (14): its record and checks, its queues and walkers, hand-off, the timer wheel, completion, and K.KERNEL. -/

namespace Sys2Proof.Machine

/-! ### The record (14 R286, R287) -/

/-- Doubleword j of a record. -/
def recD (r : List Word) (j : Nat) : Nat := (r.getD j 0).toNat

/-- Counts of the six levels. -/
def recCounts (r : List Word) : List Nat :=
  [bitsOf (recD r 4) 15 0, bitsOf (recD r 4) 31 16, bitsOf (recD r 4) 47 32, bitsOf (recD r 4) 63 48, bitsOf (recD r 5) 15 0, bitsOf (recD r 5) 31 16]

/-- Iterations of the kernel. -/
def recTotal (r : List Word) : Nat := (recCounts r).foldl (· * ·) 1

/-- The core set, ascending (14 R286). -/
def recCores (r : List Word) : List Nat :=
  let w := recD r 7
  let inside (lo hi : Nat) : List Nat := (List.range 16).filter fun v => decide (lo ≤ v ∧ v ≤ hi)
  ((List.range 8).filter fun d => bitOf w d).flatMap fun d =>
    (inside (bitsOf w 11 8) (bitsOf w 15 12)).flatMap fun y => (inside (bitsOf w 19 16) (bitsOf w 23 20)).map fun x => d * 256 + y * 16 + x

/-- The preload registers: indices 0 to 5, the iteration number, the member index. -/
def recPre (r : List Word) : List Nat := (List.range 8).map fun v => recD r 8 / 2 ^ (5 * v) % 32

/-- Fields of the first and tenth doublewords. -/
def recDet (r : List Word) : Bool := bitOf (recD r 0) 8
def recPriv (r : List Word) : Bool := bitOf (recD r 0) 9
def recIrq (r : List Word) : Bool := bitOf (recD r 0) 12
def recBind (r : List Word) : Bool := bitOf (recD r 9) 12
def recLock (r : List Word) : Bool := bitOf (recD r 9) 13

/-- Whether a field rule of a record is broken (14 R287, cause 0x01). -/
def recBad (r : List Word) : Bool :=
  let pre := (recPre r).filter fun n => decide (n ≠ 0)
  let cores := recCores r
  decide (bitsOf (recD r 0) 7 0 ≠ 1) || decide (bitsOf (recD r 0) 63 13 ≠ 0) || decide (bitsOf (recD r 0) 11 10 = 3)
    || decide (recD r 1 = 0 ∧ recD r 2 = 0 ∧ recD r 3 = 0) || decide (bitsOf (recD r 5) 63 32 ≠ 0) || decide (bitsOf (recD r 7) 63 24 ≠ 0)
    || decide (bitsOf (recD r 8) 63 40 ≠ 0) || decide (bitsOf (recD r 9) 63 14 ≠ 0) || decide (bitsOf (recD r 10) 31 22 ≠ 0)
    || decide (bitsOf (recD r 10) 63 54 ≠ 0) || (List.range 20).any (fun j => decide (recD r (12 + j) ≠ 0))
    || cores.isEmpty || decide (2 ^ 32 - 1 < recTotal r) || pre.contains 31 || decide (¬pre.Nodup)
    || decide (bitsOf (recD r 10) 21 0 % 64 ≠ 0) || decide (bitsOf (recD r 10) 53 32 % 64 ≠ 0)
    || (recLock r && (!recBind r || !recDet r || decide (16 < cores.length) || cores.any fun c => decide (c / 256 ≠ cores.headD 0 / 256)))

/-- The first check that a record fails (14 R287). -/
def recCause (addr : Nat) (r : List Word) (byHarbour : Bool) : Option Nat :=
  if addr % 256 ≠ 0 ∨ recD r 1 % 4 ≠ 0 ∨ recD r 2 % 4 ≠ 0 ∨ recD r 3 % 4 ≠ 0 ∨ recD r 11 % 8 ≠ 0 then some 0x03
  else if recBad r then some 0x01
  else if recPriv r && !byHarbour then some 0x02
  else none

/-! ### Enumeration (14 R289) -/

/-- Mixed-radix digits of i, the first count varying fastest. -/
def digits : List Nat → Nat → List Nat
  | [], _ => []
  | n :: ns, i => i % n :: digits ns (i / n)

/-- How many values of a level lie in [p, p + 2^r). -/
def levelCount (n p r : Nat) : Nat := min n (p + 2 ^ r) - p

/-- Chooses bit `pos` of a Z-order code, from the top, so that the i-th admitted tuple is reached (14 R289). -/
def zDescend (ns : List Nat) : Nat → List Nat → Nat → List Nat
  | 0, pre, _ => pre
  | pos + 1, pre, i =>
    let b := pos / 6
    let v := pos % 6
    let c := (List.range 6).foldl (fun c u => c * levelCount (ns.getD u 1) (pre.getD u 0) (if u < v then b + 1 else b)) 1
    if i < c then zDescend ns pos pre i else zDescend ns pos (pre.set v (pre.getD v 0 + 2 ^ b)) (i - c)

/-- The index tuple of iteration i (14 R289). -/
def recIndex (r : List Word) (i : Nat) : List Nat :=
  let ns := recCounts r
  match bitsOf (recD r 0) 11 10 with
  | 0 => (digits ns.reverse i).reverse
  | 1 => digits ns i
  | _ => zDescend ns 96 [0, 0, 0, 0, 0, 0] i

/-! ### Queues (14 R288) -/

/-- The records of a kernel queue. -/
def State.kq (s : State) (q : Nat) : List Kernel := Tbl.get [] s.kqs q

/-- Codes of a kernel's states (14 R288). -/
def KernelSt.code : KernelSt → Nat
  | .armed => 1 | .running => 2 | .retired => 3 | .faulted => 4 | .preempted => 5

/-- The status word of a kernel queue (14 R288). -/
def State.kqStatus (s : State) (q : Nat) : Nat :=
  match s.kq q with
  | [] => 0
  | k :: ks => k.handed % 2 ^ 32 * 2 ^ 32 + k.cause % 256 * 2 ^ 13 + (ks.length + 1) * 256 + k.st.code

/-- Puts a record into a queue (14 R296): armed, or faulted with the cause of its check. -/
def State.placeKernel (s : State) (q : Nat) (r : List Word) (cause : Option Nat) (priv : Bool) (owner : Option (Nat × Nat))
    (placer : Option (QueueId × Nat)) : State :=
  let k : Kernel :=
    { id := s.kernelIds, record := r, placer := placer, owner := owner, priv := priv, ran := false
      st := if cause.isSome then .faulted else .armed, cause := cause.getD 0, handed := 0, ended := 0, nextOf := [], live := [] }
  { s with kqs := Tbl.set [] s.kqs q (s.kq q ++ [k]), kernelIds := s.kernelIds + 1 }

/-- The core a record's placing party reads and writes with: the host's with core 0's (notes/assumptions/16.md). -/
def ownerCore (owner : Option (Nat × Nat)) : Nat := (owner.map (·.1)).getD 0

/-- Seals the windows of a kernel's owner. -/
def State.sealOwner (s : State) (owner : Option (Nat × Nat)) (code : Nat) : State :=
  match owner with
  | some (c, n) => s.sealCtx c n code
  | none => s

/-- The completion of a kernel (14 R297): the doubleword where it can be written, then the host interrupt. -/
def State.complete (s : State) (r : List Word) (owner : Option (Nat × Nat)) (priv : Bool) (st cause ended : Nat) : State :=
  let a := recD r 11
  let s1 :=
    if a = 0 ∨ a % 8 ≠ 0 then s
    else match s.reach (ownerCore owner) a true priv false with
      | .loc l t => ((t.writeD l (BitVec.ofNat 64 (ended % 2 ^ 32 * 2 ^ 32 + cause % 256 * 256 + st))).notice l 8).sealOwner owner 2
      | _ => s
  if recIrq r then ({ s1 with mgmt := { s1.mgmt with hostIrq := s1.mgmt.hostIrq + 1 } }).sealOwner owner 3 else s1

/-! ### Time (10 R239, 14 R292, 20 R362) -/

/-- Whether a release time is reached as TIME moves from `a` to `b`. -/
def reached (a b t : Nat) : Bool := decide (a < t) && decide (t ≤ b)

/-- TIME moves on to t: timer-wheel releases seal the windows of those who placed them (22 R390), compares that are reached interrupt
once (10 R239), and ready optical units whose validity is over are stale (20 R362). -/
def State.advanceTime (s : State) (t : Nat) : State :=
  if t ≤ s.time then s
  else
    let a := s.time
    let s0 := { s with time := t }
    let cmds : List (Nat × Nat) := s.allQueues.flatMap fun q =>
      ((s.queue q).entries.filter fun e => reached a t (e.d 3)).map fun e => (e.core, e.ctx)
    let kers : List (Nat × Nat) := s.kqs.flatMap fun p => (p.2.filter fun k => reached a t (recD k.record 6)).filterMap (·.owner)
    let s1 := ((cmds ++ kers).eraseDups).foldl (fun s p => s.sealCtx p.1 p.2 4) s0
    let s2 := s1.mapCtxs fun _ _ c => if c.tcmp ≠ 0 ∧ c.tcmp.toNat ≤ t then { c with tcmp := 0, ipend := c.ipend ||| 1 } else c
    s2.ofus.foldl (fun s p => if p.2.st = .ready ∧ p.2.valid ≤ t then s.setOfu p.1 { p.2 with st := .stale } else s) s2

/-- OFU_VALIDITY_LAPSE: TIME reaches the end of a ready unit's validity, and it is stale (20 R362). -/
def execOfuValidityLapse (unit : Nat) (s : State) : Answer :=
  let u := s.ofu unit
  if u.st ≠ .ready then .next s
  else
    let t := s.advanceTime u.valid
    .next (t.setOfu unit { t.ofu unit with st := .stale })

/-- TIMER_INTERRUPT: TIME reaches a context's non-zero TCMP (10 R239). -/
def execTimerInterrupt (core ctx time : Nat) (s : State) : Answer :=
  let c := s.ctx core ctx
  if c.tcmp = 0 then .next s else .next (s.advanceTime (max c.tcmp.toNat time))

/-- TIMER_WHEEL_RELEASE: TIME reaches a held release time (14 R292). -/
def execTimerWheelRelease (time : Nat) (s : State) : Answer := .next (s.advanceTime time)

/-! ### Running a kernel (14 R289 to R291, R296) -/

/-- KERNEL_START: the head of its queue is armed and its release time has come (14 R292, R296). -/
def execKernelStart (kq : Nat) (s : State) : Answer :=
  match s.kq kq with
  | [] => .next s
  | k :: _ =>
    if k.st = .armed ∧ recD k.record 6 ≤ s.time then .next (s.modKernel kq k.id fun k => { k with st := .running, ran := true })
    else .next s

/-- Whether a core is free (14 R289, 23 R400). -/
def Core.free (k : Core) : Bool :=
  [0, 1, 2].all (fun n => decide ((k.ctx n).st = .idle)) && !k.cq.entries.any (fun e => e.opcode == 5) && k.preempt.state == 0 && !k.fenced

/-- Starts a context of a handed-off iteration (14 R290). -/
def State.startCtx (s : State) (core ctx : Nat) (r : List Word) (ref : IterRef) (regs : List (Nat × Nat)) : State :=
  let entry := recD r (1 + ctx)
  if entry = 0 then s
  else
    let s1 := s.modCtx core ctx fun c =>
      let c0 : Ctx := { c with x := [], p := [], c := [], pc := BitVec.ofNat 64 entry, st := .running, priv := recPriv r, iter := some ref, codeSince := s.overwritten.length, codeFenced := none
                               waiter := none, block := none, log := c.log.windows.foldl (fun l w => l.drop w.num) c.log }
      (regs.foldl (fun c p => c.setX p.1 (BitVec.ofNat 64 p.2)) c0).setX 31 iterationEnd
    s1.openWindow core ctx 2 (BitVec.ofNat 64 entry)

/-- Empties the rings of a core (14 R290). -/
def Core.emptyRings (k : Core) : Core :=
  (List.range 8).foldl (fun k z => k.setRing z { k.ring z with entries := [], pops := 0, pushes := 0, visible := 0 }) k

/-- The join of a bound iteration's X context: its member index, or none where the group refuses it (14 R291). (DEDUCED, unsafe: notes/assumptions/45.md) -/
def State.bindX (s : State) (core : Nat) (r : List Word) : Option (Nat × State) :=
  let g := bitsOf (recD r 9) 11 0
  if !recBind r then some (0, s)
  else match (s.group g).indexOf core 1 with
    | some i => some (i, s)
    | none =>
      if s.joinRefused core 1 g (recLock r) then none
      else some ((s.group g).freeIndex, (s.setGroup g ((s.group g).join core 1 (recLock r))).openAll g 4)

/-- Hands iteration i of a kernel to a core (14 R290). -/
def State.handOff (s : State) (kq : Nat) (k : Kernel) (core i member : Nat) : State :=
  let r := k.record
  let idx := recIndex r i
  let pre := recPre r
  let vals := idx ++ [i, if recBind r then member else 0]
  let regs := (List.range 8).filterMap fun v =>
    let n := pre.getD v 0
    if n = 0 ∨ (v = 7 ∧ recBind r = false) then none else some (n, vals.getD v 0)
  let ref : IterRef := { kq := kq, record := k.id, i := i }
  let s1 := s.modCore core Core.emptyRings
  let s2 := [0, 1, 2].foldl (fun s n => s.startCtx core n r ref regs) s1
  s2.modKernel kq k.id fun k => { k with handed := k.handed + 1, live := k.live ++ [(core, i)] }

/-- The (core, iteration) pairs that a kernel could hand out with the cores that are free now: one for each core that it would take, or a
lockstep round (14 R288, R289, R291). -/
def State.handsNow (s : State) (k : Kernel) : List (Nat × Nat) :=
  let cores := recCores k.record
  let total := recTotal k.record
  let free (c : Nat) : Bool := (s.core c).free && !k.live.any fun p => p.1 == c
  if recLock k.record then
    let round := (cores.zipIdx.map fun p => (p.1, k.handed + p.2)).filter fun p => decide (p.2 < total)
    if round.all fun p => free p.1 then round else []
  else if recDet k.record then
    ((cores.zipIdx.map fun p => (p.1, Tbl.get p.2 k.nextOf p.1)).filter fun p => decide (p.2 < total) && free p.1)
  else (((cores.filter free).take (total - k.handed)).zipIdx).map fun p => (p.1, k.handed + p.2)

/-- The (core, iteration) pairs that a kernel hands out next: one, or a lockstep round (14 R289, R291). -/
def State.nextHand (s : State) (k : Kernel) : List (Nat × Nat) :=
  if recLock k.record then s.handsNow k else (s.handsNow k).take 1

/-- Whether a kernel waits with its hand-offs for a lockstep round of its group (14 R291). -/
def State.bindWaits (s : State) (k : Kernel) : Bool :=
  let g := bitsOf (recD k.record 9) 11 0
  recBind k.record && (s.group g).kind == .lockstep && ((s.group g).flip || s.roundRuns g)

/-- Whether a lower-numbered queue's head takes one of these cores first (14 R288). -/
def State.takenBefore (s : State) (kq : Nat) (hands : List (Nat × Nat)) : Bool :=
  (List.range kq).any fun q => match s.kq q with
    | k :: _ => decide (k.st = .running) && !s.bindWaits k && (s.handsNow k).any fun p => hands.any fun h => h.1 == p.1
    | [] => false

/-- ITERATION_HANDOFF: the walker hands the head kernel's next iteration to a free core; a lockstep round goes to all its members in
one step, unless a lower-numbered queue takes a core of theirs first (14 R288 to R291). A refused join faults the kernel with 0x01 and starts nothing. -/
def execIterationHandoff (kq : Nat) (s : State) : Answer :=
  match s.kq kq with
  | [] => .next s
  | k :: _ =>
    let hands := s.nextHand k
    if k.st ≠ .running ∨ s.bindWaits k = true ∨ s.takenBefore kq hands = true then .next s
    else
      let joined := hands.foldl (fun (a : Option (State × List (Nat × Nat × Nat))) p =>
        a.bind fun (t, ms) => (t.bindX p.1 k.record).map fun (m, u) => (u, ms ++ [(p.1, p.2, m)])) (some (s, []))
      match joined with
      | none => .next (s.modKernel kq k.id fun k => { k with st := .faulted, cause := 0x01 })
      | some (t, ms) =>
        let cores := recCores k.record
        let n := cores.length
        .next (ms.foldl (fun s m =>
          (s.handOff kq k m.1 m.2.1 m.2.2).modKernel kq k.id fun k =>
            if recDet k.record then { k with nextOf := Tbl.set (cores.idxOf m.1) k.nextOf m.1 (m.2.1 + n) } else k) t)

/-- Whether a command that a kernel's contexts pushed is still in a queue (14 R296). -/
def State.kernelCommands (s : State) (kq id : Nat) : Bool :=
  s.allQueues.any fun q => (s.queue q).entries.any fun e =>
    match e.iter with
    | some r => r.kq == kq && r.record == id
    | none => false

/-- KERNEL_RETIRE: every iteration has been handed and has ended, or a faulted kernel's have ended, and their commands have left:
the completion is written, the record leaves, and a K.KERNEL that waits ends with it (14 R293, R296, R297). -/
def execKernelRetire (kq : Nat) (s : State) : Answer :=
  match s.kq kq with
  | [] => .next s
  | k :: ks =>
    let isOver := k.live.isEmpty && !s.kernelCommands kq k.id && (decide (k.st = .faulted) || (decide (k.st = .running) && decide (recTotal k.record ≤ k.handed)))
    if !isOver then .next s
    else
      let st := if k.st = .faulted then 4 else 3
      let s1 := { s with kqs := Tbl.set [] s.kqs kq ks }.complete k.record k.owner k.priv st k.cause k.ended
      match k.placer with
      | none => .next s1
      | some (q, seq) => .next (s1.setWork q seq (if st = 3 then .done false false false [] else .failed k.cause false))

/-- Marks the kernels whose core set holds a core as pre-empted (14 R296). -/
def State.preemptKernels (s : State) (core : Nat) : State :=
  { s with kqs := s.kqs.map fun p => (p.1, p.2.map fun k =>
      if (k.st = .armed ∨ k.st = .running) ∧ core ∈ recCores k.record then { k with st := .preempted } else k) }

/-- Returns pre-empted kernels none of whose cores is pre-empted any more (14 R296). -/
def State.resumeKernels (s : State) (core : Nat) : State :=
  { s with kqs := s.kqs.map fun p => (p.1, p.2.map fun k =>
      if k.st = .preempted ∧ core ∈ recCores k.record ∧ (recCores k.record).all (fun c => (s.core c).preempt.state == 0) = true then
        { k with st := if k.ran then .running else .armed }
      else k) }

/-! ### Placing a record -/

/-- Runs the work of the command that acts, while it runs with work to do. -/
def withCmd (s : State) (f : QueueId → Entry → State) : Answer :=
  match (s.queue s.focus.queue).find s.focus.seq with
  | some e => if e.st = .running ∧ e.work = .pending then .next (f s.focus.queue e) else .next s
  | none => .next s

/-- Reads n doublewords of a byte-mode operand. -/
def State.cmdDoublewords (s : State) (q : QueueId) (e : Entry) (a : Nat) : Nat → State × (List Word ⊕ (Nat × Bool ⊕ Nat))
  | 0 => (s, .inl [])
  | n + 1 =>
    match s.cmdRead q e a false 0 8 with
    | .fault c f => (s, .inr (.inl (c, f)))
    | .wait t => (s, .inr (.inr t))
    | .ok v t =>
      match t.cmdDoublewords q e (a + 8) n with
      | (u, .inl ds) => (u, .inl (BitVec.ofNat 64 v :: ds))
      | (u, .inr x) => (u, .inr x)

/-- Places the record that a K.KERNEL has read, or waits for room (14 R293 steps 3 to 5). -/
def State.placeFor (s : State) (q : QueueId) (e : Entry) (r : List Word) : State :=
  let kq := bitsOf (e.d 8) 3 0
  let wait := bitOf (e.d 8) 8
  if 16 ≤ (s.kq kq).length then s.modQueue q fun v => v.modEntry e.seq fun e => { e with progress := 1, snapshot := r }
  else
    let s1 := s.placeKernel kq r none e.priv (some (e.core, e.ctx)) (if wait then some (q, e.seq) else none)
    if wait then s1.modQueue q fun v => v.modEntry e.seq fun e => { e with progress := 2 } else s1.setWork q e.seq (.done false false false [])

/-- Whether the record of a K.KERNEL lies out of range for a pushing context that traps there (05 R97, 14 R293). -/
def State.recordOutside (s : State) (q : QueueId) (e : Entry) : Bool :=
  decide (place (homeCore q e) (e.d 7) = .outOfRange) && (s.ctx e.core e.ctx).sporen

/-- K.KERNEL: reads, checks and places a record (14 R293). The read is a load of the pushing context's, which a privileged page faults with 0x04 (05 R97). -/
def execKKernel (_h : CmdHdr) (_o : CmdOps) (s : State) : Answer :=
  withCmd s fun q e =>
    match e.progress with
    | 0 =>
      if e.d 7 % 256 ≠ 0 then s.setWork q e.seq (.failed 0x03 false)
      else if s.recordOutside q e then (s.recordSpor e.core e.ctx (e.d 7)).setWork q e.seq (.failed 0x11 false)
      else match s.cmdDoublewords q e (e.d 7) 32 with
        | (_, .inr (.inl (c, f))) => s.setWork q e.seq (if !e.priv && s.privPage (e.d 7) then .failed 0x04 false else .failed c f)
        | (_, .inr (.inr n)) => s.askTile q e n
        | (t, .inl r) =>
          match recCause (e.d 7) r (e.core == harbourId) with
          | some c => (t.complete r (some (e.core, e.ctx)) e.priv 4 c 0).setWork q e.seq (.failed c false)
          | none => t.placeFor q e r
    | 1 => s.placeFor q e e.snapshot
    | _ => s

/-- Whether the host window is open and the host function not frozen (24 R412, R414, 10 R250). -/
def State.windowOpen (s : State) : Bool := decide (5 ≤ s.mgmt.stage) && !s.mgmt.hostFrozen

/-- The n bytes at an address as the host reads them, where they stay in one page; none where they have no value (24 R414). -/
def State.hostValue (s : State) (a n : Nat) : Option Nat :=
  match s.reach 0 a false true false with
  | .loc l t => if t.anyPoison l n then none else some (t.read l n)
  | .zero => some 0
  | .hole => some 0
  | _ => none

/-- The record at an address as the host reads it (24 R414); one that is not aligned is read byte by byte. -/
def State.hostRecord (s : State) (a : Nat) : Option (List Word) :=
  let n := if a % 8 = 0 then 8 else 1
  let parts := (List.range (256 / n)).map fun i => s.hostValue (a + n * i) n
  if parts.all Option.isSome then
    some ((List.range 32).map fun j => BitVec.ofNat 64 ((List.range (8 / n)).foldl (fun v i => v + (parts.getD (8 / n * j + i) none).getD 0 * 2 ^ (8 * n * i)) 0))
  else none

/-- What stands in `hostHeld` for a write to the host window at an offset: no location of memory. -/
def windowMark : Nat := 2 ^ 60

/-- The host places a record; a full queue, or a record that cannot be read, drops the write, and behind host writes not yet made the write
is held with them, so that its read sees them (24 R414). (DEDUCED, unsafe: notes/assumptions/16.md) -/
def State.placeByHost (s : State) (kq address : Nat) : State :=
  let drop : State := { s with mgmt := { s.mgmt with dropped := s.mgmt.dropped ||| 2 ^ (kq % 16) } }
  if s.windowOpen = false ∨ s.mgmt.tripped = true ∨ 16 ≤ kq then s
  else if !s.mgmt.hostHeld.isEmpty then
    { s with mgmt := { s.mgmt with hostHeld := s.mgmt.hostHeld ++ [(windowMark + 0x100 + 8 * kq, 8, address)] } }
  else if 16 ≤ (s.kq kq).length then drop
  else match s.hostRecord address with
    | some r => s.placeKernel kq r (recCause address r false) true none none
    | none => drop

/-- KQADDR_WRITE (24 R414). -/
def execKqaddrWrite (kq address : Nat) (s : State) : Answer := .next (s.placeByHost kq address)

end Sys2Proof.Machine
end

