-- ==== Sys2Proof/Machine/Preempt.lean ====
section
/-! DEFINITION. Pre-emption of a core (10 R248, R249). -/

namespace Sys2Proof.Machine

/-- Op 1 of PCTL: pre-empt (10 R249). The streams of a running job are to stop with cause 0x10 and no trap (R248 step 3); the resume
restarts them. -/
def State.preempt (s : State) (core : Nat) : State :=
  let k := s.core core
  if k.preempt.state ≠ 0 then s
  else if k.preempt.psnap = 0 then s.setCore core { k with preempt := { k.preempt with refused := true } }
  else
    let code := stopCode 0x10 false
    (s.preemptKernels core).setCore core { k with
      preempt := { k.preempt with state := 1, streams := decide (k.vs.st = .running) || decide (k.ms.st = .running) }
      vs := if k.vs.st = .running ∧ k.vs.atStop = 0 then { k.vs with atStop := code } else k.vs
      ms := if k.ms.st = .running ∧ k.ms.atStop = 0 then { k.ms with atStop := code } else k.ms }

/-- Op 2 of PCTL: resume (10 R249). -/
def State.resume (s : State) (core : Nat) : State :=
  s.modCore core fun k => if k.preempt.state = 2 then { k with preempt := { k.preempt with state := 3 } } else k

/-- An op of PCTL. -/
def State.pctlOp (s : State) (op core : Nat) : State :=
  match op with
  | 1 => s.preempt core
  | 2 => s.resume core
  | _ => s

def execPctlPreempt (core : Nat) (s : State) : Answer := .next (s.pctlOp 1 core)
def execPctlResume (core : Nat) (s : State) : Answer := .next (s.pctlOp 2 core)

/-- Whether a command has not been issued (10 R248). -/
def Entry.unissued (e : Entry) : Bool := decide (e.st = .pushed ∨ e.st = .waiting ∨ e.st = .ready)

/-- The location of a byte of the snapshot region, if its page takes a privileged write (10 R249). -/
def State.snapLoc (s : State) (core off : Nat) : Option (Nat × State) :=
  match s.pagedAccess ((s.core core).preempt.psnap.toNat + off) true true true with
  | .loc l t => some (l, t)
  | _ => none

/-- Writes doublewords to the snapshot region. -/
def State.writeSnap (s : State) (core off : Nat) : List Word → State
  | [] => s
  | v :: vs =>
    match s.snapLoc core off with
    | some (l, t) => (t.writeD l v).writeSnap core (off + 8) vs
    | none => s.writeSnap core (off + 8) vs

/-- Reads a doubleword of the snapshot region. -/
def State.readSnap (s : State) (core off : Nat) : Word :=
  match s.snapLoc core off with
  | some (l, _) => s.readD l
  | none => 0

/-- First byte of a queue's save area in the slice (10 R243). -/
def saveArea : QueueId → Nat
  | .mq _ => 0x3F0000
  | .vq _ => 0x3F2000
  | _ => 0x3F4000

/-- First byte of a queue's snapshots in the snapshot region (10 R249). -/
def snapArea : QueueId → Nat
  | .mq _ => 0
  | _ => 49152

/-- Saves one unissued entry at slot j (10 R248 step 5). -/
def State.saveEntry (s : State) (core : Nat) (q : QueueId) (j : Nat) (e : Entry) : State :=
  let s1 := s.writeDs (sliceLoc core (saveArea q + 128 * j)) (e.current .saved)
  let s2 := if e.opcode = 6 ∨ e.opcode = 7 then s1.writeSnap core (snapArea q + 768 * j) (e.snapshot ++ [0, 0, 0, 0]) else s1
  s2.modQueue q fun v => v.modEntry e.seq fun e => { e with st := .saved }

/-- Saves the unissued entries of a queue, entry j to slot j. -/
def State.saveQueue (s : State) (core : Nat) (q : QueueId) : State :=
  (((s.queue q).entries.filter Entry.unissued).zipIdx).foldl (fun s p => s.saveEntry core q p.2 p.1) s

/-- The lowest sequence number of a queue that has not retired: the entry farthest below next (10 R248 step 6). -/
def Queue.cut (v : Queue) : Nat :=
  let far (n : Nat) : Nat := (v.next + 2 ^ 32 - n) % 2 ^ 32
  v.entries.foldl (fun m e => if far m < far e.seq then e.seq else m) v.next

/-- Stops a context and writes its frame (10 R233, R248 step 4). (DEDUCED, unsafe: notes/assumptions/43.md) -/
def State.saveCtx (s : State) (core ctx : Nat) : State :=
  let c := s.ctx core ctx
  if c.st = .running ∨ c.st = .waiting ∨ c.st = .handler then
    ((((s.drain core ctx).writeFrame core ctx c.pc c.tstat c.tinfo).modCtx core ctx fun c => { c with st := .saved, savedSt := c.st })).dropWaiter core ctx
  else s

/-- Whether the work that pre-emption lets finish has finished: no stream runs, no command but the stopped job runs, no job is about to start its streams, no load is outstanding (10 R248). -/
def Core.drained (k : Core) : Bool :=
  decide (k.vs.st ≠ .running) && decide (k.ms.st ≠ .running)
    && [k.mq, k.vq, k.cq].all (fun v => !v.runs fun e => decide (e.opcode ≠ 6) || decide (e.progress = 0 ∧ e.work = .pending))
    && k.ctxs.all fun c => c.2.loads.isEmpty

/-- PREEMPT_SAVED: once running work has drained, frames, queues and the cut are written and the core is saved (10 R248, R249). -/
def execPreemptSaved (core : Nat) (s : State) : Answer :=
  let k := s.core core
  if k.preempt.state ≠ 1 ∨ k.drained = false then .next s
  else
    let s1 := [0, 1, 2].foldl (fun s n => s.saveCtx core n) s
    let s2 := (coreQueues core).foldl (fun s q => s.saveQueue core q) s1
    let s3 := s2.writeSnap core 98304 ((coreQueues core).map fun q => BitVec.ofNat 64 (s2.queue q).cut)
    .next ((s3.modCore core fun k => { k with preempt := { k.preempt with state := 2 } }).hirq 6)

/-- A reloaded entry: the image of its save area with the counts that it now holds, and what arrived while it was saved still to apply. An
entry whose arms have been delivered waits again (13 R276). -/
def Entry.reloaded (e : Entry) (image snapshot : List Word) (armed : Bool) : Entry :=
  let d4 := (image.getD 4 0).toNat
  { e with st := if armed then .waiting else .pushed, image := image, snapshot := snapshot, dep := bitsOf d4 15 0, demand := bitsOf d4 31 16 }

/-- Reloads the saved entries of a queue from the save area and the snapshot region. -/
def State.reloadQueue (s : State) (core : Nat) (q : QueueId) : State :=
  (((s.queue q).entries.filter fun e => decide (e.st = .saved)).zipIdx).foldl (fun s p =>
    let e := p.1
    let image := s.readDs (sliceLoc core (saveArea q + 128 * p.2)) 16
    let snap := if e.opcode = 6 ∨ e.opcode = 7 then (List.range 92).map fun i => s.readSnap core (snapArea q + 768 * p.2 + 8 * i) else e.snapshot
    let armed : Bool := !s.msgs.any fun m => decide (m.kind = .arm) && decide (m.fromQ = q) && m.fromSeq == e.seq
    s.modQueue q fun v => v.modEntry e.seq fun e => e.reloaded image snap armed) s

/-- Returns a context to its saved state from its frame (10 R248), the arrival that it had pending with it (16 R315). -/
def State.reloadCtx (s : State) (core ctx : Nat) : State :=
  if (s.ctx core ctx).st ≠ .saved then s
  else
    let b := frameLoc core ctx
    (s.restoreRegs core ctx).modCtx core ctx fun c =>
      { c with pc := s.readD (b + 0x108), priv := bitOf (s.read (b + 0x120) 8) 0, bpend := Bpend.of (s.read (b + 0x148) 8), st := c.savedSt,
               codeSince := s.overwritten.length, codeFenced := none }

/-- Restarts the streams that the pre-emption stopped: those of a running job that owe no trap and that no debug stop holds (10 R248). -/
def State.restartJob (s : State) (core : Nat) : State :=
  let k := s.core core
  let runs : Bool := match s.jobEntry core with | some e => decide (e.st = .running) && decide (e.work = .pending) | none => false
  if k.preempt.streams && runs && !((k.job.map (·.debug)).getD true) && k.stopsTaken then s.resumeStreams core else s

/-- RESUME_SETTLED: queues, frames and the job are reloaded and every context is back in its saved state (10 R248, R249). -/
def execResumeSettled (core : Nat) (s : State) : Answer :=
  if (s.core core).preempt.state ≠ 3 then .next s
  else
    let s1 := (coreQueues core).foldl (fun s q => s.reloadQueue core q) s
    let s2 := s1.restartJob core
    let s3 := [0, 1, 2].foldl (fun s n => s.reloadCtx core n) s2
    .next (((s3.modCore core fun k => { k with preempt := { k.preempt with state := 0, streams := false } }).resumeKernels core).hirq 6)

end Sys2Proof.Machine
end

