-- ==== Sys2Proof/Machine/Csr.lean ====
section
/-! DEFINITION. The CSR map (05 R113, R119; 10 R235 to R239, R249; and the rules that R235 names): which numbers exist, what each reads, and what a write does. -/

namespace Sys2Proof.Machine

/-! ### Which numbers exist (05 R119, 10 R235, 24 R410) -/

/-- Ranges of assigned numbers, first and last; the generators follow their own rule. -/
def csrRanges : List (Nat × Nat) :=
  [(0x000, 0x004), (0x008, 0x009), (0x010, 0x017), (0x180, 0x183), (0x200, 0x202), (0x208, 0x208), (0x210, 0x21F), (0x220, 0x222),
   (0x230, 0x232), (0x240, 0x241), (0x250, 0x252), (0x260, 0x263), (0x270, 0x270), (0x280, 0x280), (0x290, 0x292), (0x800, 0x803),
   (0x808, 0x80A), (0x810, 0x817), (0x900, 0x904), (0x920, 0x922), (0x930, 0x933), (0x940, 0x941), (0x950, 0x951), (0x960, 0x964),
   (0x970, 0x97C)]

/-- Whether a number is assigned for a context; 0x980 to 0x990 exist in the harbour core's contexts alone. (DEDUCED, unsafe: notes/assumptions/28.md) -/
def csrAssigned (harbour : Bool) (n : Nat) : Bool :=
  csrRanges.any (fun r => decide (r.1 ≤ n ∧ n ≤ r.2))
    || (decide (0x100 ≤ n ∧ n < 0x180) && decide (n % 16 ≤ 10))
    || (harbour && decide (0x980 ≤ n ∧ n ≤ 0x990))

/-- The cause of a refused access: unassigned first, then privilege, then the token CSRs from a context other than X (05 R113, R119). -/
def State.csrCause (s : State) (n : Nat) : Option Nat :=
  if !csrAssigned (s.focus.core == harbourId) n then some 0x01
  else if decide (0x800 ≤ n) && !s.privileged s.focus.core s.focus.ctx then some 0x02
  else if decide (0x290 ≤ n ∧ n ≤ 0x292) && decide (s.focus.ctx ≠ 1) then some 0x02
  else none

/-! ### Single registers -/

/-- CTXCTL (10 R236). -/
def Ctx.ctxctl (c : Ctx) (priv : Bool) : Nat :=
  let st : Nat := match c.st with | .idle => 0 | .running => 1 | .waiting => 2 | .handler => 3 | .frozen => 4 | .saved => 5
  b2n (st == 4) * 2 ^ 31 + st * 2 ^ 28 + b2n priv * 2 ^ 27 + b2n c.ppriv * 2 ^ 26 + b2n c.busy * 2 ^ 25 + b2n c.sporen * 2 ^ 8

/-- A ring's configuration word (10 R237). -/
def Ring.word (r : Ring) : Nat := r.timeout * 2 ^ 16 + r.depth * 2 ^ 8 + r.prod * 2 ^ 6 + r.cons * 2 ^ 4

/-- A write of RINGCFG: depth, prod and cons change only on an empty ring and within the limits (10 R237). -/
def Core.writeRing (k : Core) (z w : Nat) : Core :=
  let r := k.ring z
  let depth := bitsOf w 15 8
  let cons := if bitsOf w 5 4 = 3 then 0 else bitsOf w 5 4
  let others := (((List.range 8).filter fun i => decide (i ≠ z)).map fun i => (k.ring i).depth).sum
  let r1 := { r with timeout := bitsOf w 31 16 }
  k.setRing z (if r.entries.isEmpty ∧ depth ≤ 64 ∧ others + depth ≤ 256 then { r1 with depth := depth, prod := bitsOf w 7 6, cons := cons } else r1)

/-- Bits that a generator or nest CSR keeps (08 R188 to R191). -/
def genKeep (n w : Nat) : Nat :=
  if n < 0x180 then
    if n % 16 = 0 then putBits w 24 6 0 else if n % 16 = 10 then putBits w 8 24 0 else w % 2 ^ 63
  else if n = 0x180 then w
  else if n = 0x181 then w % 2 ^ 32
  else w % 2 ^ 54

/-- A queue's status word (13 R262). -/
def Queue.status (v : Queue) : Nat := v.next * 2 ^ 32 + v.entries.length * 2 ^ 16 + b2n v.frozen * 2 ^ 8 + b2n v.stale * 2 + b2n v.fault

/-- Code of a group kind (15 R309). -/
def GroupKind.code : GroupKind → Nat
  | .empty => 0 | .opened => 1 | .lockstep => 2

/-- GST for a reader (15 R309). -/
def State.gst (s : State) (g core ctx : Nat) : Nat :=
  let v := s.group g
  let mine := v.indexOf core ctx
  v.die * 2 ^ 48 + v.members.length * 2 ^ 32 + (mine.getD 0) * 2 ^ 16 + b2n mine.isSome * 16 + b2n (!(s.wire g).isEmpty) * 8 + b2n v.flip * 4 + v.kind.code

/-- WIN: the current window, and the oldest rewind target (22 R388). -/
def UndoLog.win (l : UndoLog) : Nat :=
  l.counter * 2 ^ 32 + ((l.windows.find? fun w => decide (w.st = .reversible)).map (·.num)).getD l.counter

/-- WINST (22 R388); a context that has opened no window reads the dropped state (notes/assumptions/17.md). -/
def UndoLog.winst (l : UndoLog) : Nat :=
  match l.current with
  | some w => w.st.code + b2n w.pushed * 8
  | none => 4

/-- QFLT: the faulted command still held that faulted first (13 R277). -/
def State.qflt (s : State) (core : Nat) : Nat :=
  let held := (s.core core).faultLog.filterMap fun p =>
    ((s.queue (ownQueue core p.1)).find p.2).bind fun e => if e.st = .faulted then some (p.1, e) else none
  match held with
  | [] => 0
  | (q, e) :: _ => e.seq * 2 ^ 32 + bitsOf (e.d 15) 31 24 * 2 ^ 24 + q * 4 + 1

/-- CMVAL (23 R403): rows 14 and 15 and columns above 64 read zero; column 64 counts the frozen cycles. The model counts no bank cycles, so a
bank's column is free, and once a snapshot's column has been read it stands till the next snapshot; before the first it reads zero.
(DESIGN CHOICE, safe: notes/assumptions/77.md) -/
def State.readCmval (s : State) (sel : Nat) : Nat × State :=
  let k := s.here
  let row := bitsOf sel 11 8
  let col := bitsOf sel 6 0
  let vals := if bitOf sel 12 then k.cmSnapVals else k.cm
  if 65 ≤ col ∨ 14 ≤ row ∨ (bitOf sel 12 = true ∧ k.cmSnap = 0) then (0, s)
  else if col = 64 then (Tbl.get 0 vals (row * 128 + col), s)
  else match bitOf sel 12, Tbl.get 0 vals (row * 128 + col) with
    | true, v + 1 => (v, s)
    | snap, _ =>
      let (n, t) := s.takeFresh
      let v := (Config.bankHeld n).toNat
      (v, if snap then t.modHere fun k => { k with cmSnapVals := Tbl.set 0 k.cmSnapVals (row * 128 + col) (v + 1) } else t)

/-- The core whose CNTCTL and CNTST a context reaches (23 R401). -/
def State.cntCore (s : State) : Nat := if s.focus.core = harbourId then s.cur.psel.toNat else s.focus.core

/-- The die of a reader: the harbour core stands on none and reads die 0's (notes/assumptions/17.md). (DEDUCED, unsafe: notes/assumptions/17.md) -/
def readerDie (core : Nat) : Nat := if core = harbourId then 0 else core / 256

/-- A die's undertow state. -/
def State.tow (s : State) (die : Nat) : Undertow := Tbl.get Undertow.reset s.undertow die

/-- Replaces a die's undertow state. -/
def State.setTow (s : State) (die : Nat) (v : Undertow) : State := { s with undertow := Tbl.set Undertow.reset s.undertow die v }

/-- Writes of PWRCTL above 8 store 8 in a nibble (24 R418). -/
def storedFloors (w : Nat) : Nat := (List.range 8).foldl (fun v d => v + min 8 (w / 2 ^ (4 * d) % 16) * 2 ^ (4 * d)) 0

/-- The undertow floor of a die. -/
def Mgmt.floor (m : Mgmt) (die : Nat) : Nat := m.pwrctl / 2 ^ (4 * die) % 16

/-- The step of a die is at least its floor (24 R417). (DEDUCED, unsafe: notes/assumptions/44.md) -/
def State.raiseToFloor (s : State) (die : Nat) : State :=
  let v := s.tow die
  let k := max v.k (s.mgmt.floor die)
  s.setTow die { v with k := k, kmax := max v.kmax k }

/-- Lifts a core's fence (23 R400, R401). -/
def State.unfence (s : State) (core : Nat) : State := s.modCore core fun k => { k with fenced := false }

/-- LOGTAIL moves on: windows whose checkpoint it passes are dropped, and what it passes takes no more room (22 R388, R395). -/
def UndoLog.advanceTail (l : UndoLog) (t : Word) : UndoLog :=
  if l.room = 0 then { l with tail := t }
  else
    let passed := (t.toNat + l.room - l.tail.toNat % l.room) % l.room
    let behind (r : Rec) : Bool := match r.at_ with | some o => decide ((o + l.room - l.tail.toNat % l.room) % l.room < passed) | none => false
    let gone := l.windows.filter fun w => decide (w.st ≠ .dropped) && l.recs.any fun r => decide (r.kind = 5) && r.window == w.num && behind r
    let m := gone.foldl (fun l w => l.drop w.num) l
    { m with tail := t, recs := m.recs.filter fun r => !behind r }

/-- LOGCTL: logging goes on only over a region that lies in paged space and has 16 pages or more (22 R388). -/
def UndoLog.control (l : UndoLog) (w : Nat) : UndoLog :=
  let ok := decide (2 ^ 44 ≤ l.base.toNat) && decide (16 ≤ l.len.toNat) && decide (l.base.toNat + 65536 * l.len.toNat ≤ 2 ^ 52)
  { l with stall := bitOf w 1, en := bitOf w 0 && (ok || l.en) }

/-- An access that waited for room in the queue makes its request (24 R411). -/
def State.refillTsq (s : State) : State :=
  match s.mgmt.tsWaiters.find? fun w => !(s.mgmt.tsq.any fun q => q.2 == w.1) && !s.mgmt.tsAnswering.contains w.1 with
  | none => s
  | some (entry, w) =>
    let core := match w with | .stream c => c | .command q seq => (((s.queue q).find seq).map (·.core)).getD 0
    { s with mgmt := { s.mgmt with tsq := s.mgmt.tsq ++ [(core, entry)] } }.hirq 3

/-- TSQ: the oldest request leaves the queue and awaits its answer (24 R411). -/
def State.popTsq (s : State) : Nat × State :=
  match s.mgmt.tsq with
  | [] => (0, s)
  | (c, e) :: rest =>
    (2 ^ 63 + c % 2 ^ 11 * 2 ^ 52 + e % 2 ^ 52, { s with mgmt := { s.mgmt with tsq := rest, tsAnswering := s.mgmt.tsAnswering ++ [e] } }.refillTsq)

/-- TSDONE: every access that waits on an entry reads it afresh; the rules of waiting commands are evaluated again (13 R271, 24 R411). -/
def State.answerTsq (s : State) (entry : Nat) : State :=
  let freed := s.mgmt.tsWaiters.filter fun w => decide (w.1 = entry)
  let s1 := { s with mgmt := { s.mgmt with
    tsAnswering := s.mgmt.tsAnswering.filter (fun e => decide (e ≠ entry)), tsWaiters := s.mgmt.tsWaiters.filter fun w => decide (w.1 ≠ entry) } }
  s1.rules (freed.filterMap fun w => match w.2 with | .command q seq => some (q, seq) | .stream _ => none)

/-! ### Reading -/

/-- What a CSR read answers: a value with the state after it, or a wait. -/
inductive CsrGet where
  | val (w : Nat) (s : State)
  | wait

/-- Pops one token for TKVX or TKMX: the tokens left are read (05 R113). -/
def State.popToken (s : State) (t : Nat) : CsrGet :=
  let n := s.here.token t
  if n = 0 then .wait else .val (n - 1) (s.modHere fun k => k.setToken t (n - 1))

/-- Registers 0x000 to 0x017. -/
def State.csrLow (s : State) (n : Nat) : Nat :=
  let k := s.here
  let c := s.cur
  let h := s.focus.core == harbourId
  match n with
  | 0x000 => k.cycle
  | 0x001 => s.time
  | 0x002 => s.focus.ctx * 2 ^ 11 + (if h then 2 ^ 13 else s.focus.core)
  | 0x003 => putBits (c.ctxctl (s.privileged s.focus.core s.focus.ctx)) 25 2 0
  | 0x004 => c.spor.toNat
  | 0x008 => if h then 0 else k.vfst.toNat
  | 0x009 => if h then 0 else k.mfst.toNat
  | _ => (k.ring (n % 8)).word

/-- Registers 0x200 to 0x280. -/
def State.csrMid (s : State) (n : Nat) : Nat :=
  let core := s.focus.core
  let k := s.here
  let c := s.cur
  match n with
  | 0x200 => if core = harbourId then 0 else k.mq.status
  | 0x201 => if core = harbourId then 0 else k.vq.status
  | 0x202 => k.cq.status
  | 0x208 => k.evw.toNat
  | 0x220 => c.gsel.toNat
  | 0x221 => s.gst c.gsel.toNat core s.focus.ctx
  | 0x222 => c.bpend.word
  | 0x230 => c.lsel.toNat
  | 0x231 => s.lst c.lsel.toNat
  | 0x232 => s.node
  | 0x240 => c.osel.toNat
  | 0x241 => s.ost c.osel.toNat
  | 0x250 => c.log.win
  | 0x251 => c.log.iret
  | 0x252 => c.log.winst
  | 0x260 => c.cmsel.toNat
  | 0x261 => 0
  | 0x262 => k.cmSnap.toNat
  | 0x263 => 0
  | 0x270 => let t := s.core s.cntCore; min (2 ^ 32 - 1) t.reruns * 2 ^ 32 + min (2 ^ 24 - 1) t.corrected * 256 + b2n t.fenced
  | 0x280 => let t := s.tow (readerDie core); min (2 ^ 32 - 1) t.events * 2 ^ 32 + t.kmax * 16 + t.k
  | _ => s.kqStatus (n % 16)

/-- Registers 0x800 to 0x951. -/
def State.csrPriv (s : State) (n : Nat) : Nat :=
  let core := s.focus.core
  let c := s.cur
  let k := s.here
  match n with
  | 0x800 => c.ctxctl (s.privileged core s.focus.ctx)
  | 0x801 => c.tvec.toNat
  | 0x802 => c.tstat.toNat
  | 0x803 => c.tinfo.toNat
  | 0x808 => c.ien.toNat
  | 0x809 => s.ipendOf core s.focus.ctx
  | 0x80A => c.tcmp.toNat
  | 0x900 => 0
  | 0x901 => s.qflt core
  | 0x902 => c.psel.toNat
  | 0x903 => let p := (s.core c.psel.toNat).preempt; b2n p.refused * 8 + p.state
  | 0x904 => (s.core c.psel.toNat).preempt.psnap.toNat
  | 0x920 => c.wpobj.toNat
  | 0x921 => c.wpctl.toNat
  | 0x922 => c.wpcyc.toNat
  | 0x930 => s.ptbr.toNat
  | 0x931 => k.tdir.toNat
  | 0x932 => s.hepoch.toNat
  | 0x933 => 0
  | 0x940 => 0
  | 0x941 => s.ctime
  | 0x950 => (s.ofu c.osel.toNat).ocfg
  | 0x951 => 0
  | _ => (k.ring (n % 8)).word

/-- Registers 0x960 to 0x97C. -/
def State.csrLog (s : State) (n : Nat) : Nat :=
  let c := s.cur
  let k := s.here
  match n with
  | 0x960 => c.log.base.toNat
  | 0x961 => c.log.len.toNat
  | 0x962 => c.log.head.toNat
  | 0x963 => c.log.tail.toNat
  | 0x964 => b2n c.log.stall * 2 + b2n c.log.en
  | 0x970 => let t := s.core s.cntCore; t.scrub * 2 ^ 16 + t.maxRerun * 16 + b2n t.rerunEn
  | 0x971 => c.bpaddr.toNat
  | 0x972 => k.bpcyc.toNat
  | 0x973 => k.trctl.toNat
  | 0x974 => k.trbase.toNat
  | 0x975 => k.trlen.toNat
  | 0x976 => k.trhead.toNat
  | 0x977 => s.wrack.lost * 2 ^ 32 + b2n s.wrack.hold * 2 ^ 12 + s.wrack.head
  | _ =>
    if s.focus.core ≠ harbourId then 0
    else if n = 0x978 then s.wrack.sel
    else ((Tbl.get [] s.wrack.entries s.wrack.sel).getD (n - 0x979) 0).toNat

/-- Registers 0x986 to 0x990 of the harbour core. -/
def Mgmt.csr (m : Mgmt) (n : Nat) : Nat :=
  match n with
  | 0x986 => m.zpbase
  | 0x987 => m.zplow * 2 ^ 32 + m.zplen
  | 0x988 => m.zphead
  | 0x989 => m.zptail
  | 0x98A => m.rrWindow * 2 ^ 32 + m.rrThreshold
  | 0x98B => m.hwdt
  | 0x98C => m.hirqEnable * 2 ^ 16 + m.hirqPending
  | 0x990 => m.pwrctl
  | _ => 0

/-- What register n reads for the acting context. -/
def State.csrGet (s : State) (n : Nat) : CsrGet :=
  if n < 0x100 then .val (s.csrLow n) s
  else if n < 0x200 then .val (if s.focus.core = harbourId then 0 else (s.here.gen n).toNat) s
  else if n = 0x290 then .val 0 s
  else if n = 0x291 then s.popToken 9
  else if n = 0x292 then s.popToken 11
  else if n = 0x208 then .val (s.release.csrMid n) s.release
  else if n = 0x261 then let (v, t) := s.readCmval s.cur.cmsel.toNat; .val v t
  else if n < 0x300 then .val (s.csrMid n) s
  else if n < 0x960 then .val (s.csrPriv n) s
  else if n < 0x980 then .val (s.csrLog n) s
  else if n = 0x980 then .val s.cur.hsel.toNat s
  else if n < 0x986 then
    match hselKey s.cur.hsel.toNat with
    | none => .val 0 s
    | some key =>
      let v := s.pseudo key
      if n = 0x984 ∧ v.test ≠ 0 then .wait else .val (v.read key n (bitsOf s.cur.hsel.toNat 15 10)) s
  else if n = 0x98D then let (v, t) := s.popTsq; .val v t
  else .val (s.mgmt.csr n) s

/-- CSRR: the checks, then the value to x[rd] with its input record (05 R119, 22 R386). -/
def State.readCsr (s : State) (rd n : Nat) : CtxRes :=
  match s.csrCause n with
  | some c => .trap c 0
  | none =>
    withInput s rd (match s.csrGet n with
      | .wait => .wait s
      | .val v t => .done ((t.setX rd (BitVec.ofNat 64 v)).logInput (BitVec.ofNat 64 v)))

/-! ### Writing -/

/-- The bits of a status word that software writes (02 R25). -/
def fstMask : Nat := 0x7C7F

/-- VFST or MFST: the running stream's status, or the value held for the next job (10 R235). -/
def Core.writeFst (k : Core) (matrix : Bool) (w : Nat) : Core :=
  let v := BitVec.ofNat 32 (w &&& fstMask)
  if matrix then
    if k.ms.st = .running ∨ k.mq.runs (fun e => e.opcode == 7) = true then { k with mfst := v } else { k with mfstHeld := some v }
  else if k.vs.st = .running then { k with vfst := v } else { k with vfstHeld := some v }

/-- TCMP: a time already past interrupts at once (10 R239). -/
def State.writeTcmp (s : State) (w : Word) : State :=
  s.modCur fun c => if w ≠ 0 ∧ w.toNat ≤ s.time then { c with tcmp := 0, ipend := c.ipend ||| 1 } else { c with tcmp := w }

/-- TKPUSH: tokens to xv and xm after a release, or a wait for room (05 R113). -/
def State.writeTkpush (s : State) (w : Nat) : Option State :=
  let names := (if bitOf w 0 then [8] else []) ++ (if bitOf w 1 then [10] else [])
  if names.any fun t => decide (15 ≤ s.here.token t) then none
  else some (s.release.modHere fun k => names.foldl (fun k t => k.setToken t (k.token t + 1)) k)

/-- The status bits of a queue that a write of ones clears (13 R262). -/
def Queue.clearBits (v : Queue) (w : Nat) : Queue := { v with stale := v.stale && !bitOf w 1, fault := v.fault && !bitOf w 0 }

/-- QCTL (13 R277). -/
def State.writeQctl (s : State) (w : Nat) : State :=
  let q := ownQueue s.focus.core (bitsOf w 3 2)
  if bitsOf w 3 2 = 3 ∨ harbourLacks q = true then s
  else match bitsOf w 1 0 with
    | 1 => s.retryCmd q (bitsOf w 63 32)
    | 2 => s.cancelCmd q (bitsOf w 63 32)
    | _ => s

/-- Registers 0x003 to 0x017. -/
def State.putLow (s : State) (n : Nat) (w : Word) : State :=
  let v := w.toNat
  match n with
  | 0x003 => s.modCur fun c => { c with sporen := bitOf v 8 }
  | 0x004 => if bitOf v 63 then s.modCur fun c => { c with spor := BitVec.ofNat 64 (c.spor.toNat % 2 ^ 63) } else s
  | 0x008 => if s.focus.core = harbourId then s else s.modHere fun k => k.writeFst false v
  | 0x009 => if s.focus.core = harbourId then s else s.modHere fun k => k.writeFst true v
  | _ => if n < 0x010 then s else s.modHere fun k => k.setRing (n % 8) { k.ring (n % 8) with timeout := bitsOf v 31 16 }

/-- Registers 0x200 to 0x280. A clear of the event word comes behind the writer's own signals and behind the commands that those made ready
(13 R268, 09 R227). -/
def State.putMid (s : State) (n : Nat) (w : Word) : State :=
  let v := w.toNat
  let h : Bool := s.focus.core == harbourId
  match n with
  | 0x200 => if h then s else s.modHere fun k => { k with mq := k.mq.clearBits v }
  | 0x201 => if h then s else s.modHere fun k => { k with vq := k.vq.clearBits v }
  | 0x202 => s.modHere fun k => { k with cq := k.cq.clearBits v }
  | 0x208 =>
      let t := s.release
      (t.allQueues.foldl State.advance t).modHere fun k => { k with evw := k.evw &&& ~~~(BitVec.ofNat 32 v) }
  | 0x220 => s.modCur fun c => { c with gsel := BitVec.ofNat 64 (v % 2 ^ 12) }
  | 0x230 => s.modCur fun c => { c with lsel := BitVec.ofNat 64 (v % 2 ^ 5) }
  | 0x240 => s.modCur fun c => { c with osel := BitVec.ofNat 64 (v % 2 ^ 4) }
  | 0x260 => s.modCur fun c => { c with cmsel := BitVec.ofNat 64 (putBits (v % 2 ^ 13) 7 1 0) }
  | 0x263 => if bitOf v 0 then s.modHere fun k => { k with cm := [] } else s
  | 0x270 => s.modCore s.cntCore fun k =>
      { k with reruns := if bitsOf v 63 32 = 2 ^ 32 - 1 then 0 else k.reruns, corrected := if bitsOf v 31 8 = 2 ^ 24 - 1 then 0 else k.corrected }
  | 0x280 =>
      let d := readerDie s.focus.core
      let t := s.tow d
      s.setTow d { t with events := if bitsOf v 63 32 = 2 ^ 32 - 1 then 0 else t.events, kmax := max t.k (t.kmax - (t.kmax &&& bitsOf v 7 4)) }
  | _ => s

/-- Whether a load through a page table entry is outstanding: TINV waits for it (17 R326). -/
def State.translatedOut (s : State) : Bool := s.listed.any fun p => (s.ctx p.1 p.2).loads.any fun l => decide (2 ^ 52 ≤ l.loc)

/-- Whether a load from a pseudo-channel is outstanding: a write of a mode that holds the channel lets it return first (24 R420). -/
def State.channelOut (s : State) (key : Nat) : Bool :=
  s.listed.any fun p => (s.ctx p.1 p.2).loads.any fun l => inDram l.loc && decide (pseudoOf l.loc = key)

/-- A write of a register of a pseudo-channel, or none where it waits: while the channel is under test, and for a mode that takes it out of mission
mode until the accesses in flight have completed (24 R420; notes/assumptions/40.md). -/
def State.putHbm (s : State) (n key lane w : Nat) : Option State :=
  let v := s.pseudo key
  if v.test ≠ 0 ∧ n ≠ 0x984 then none
  else if n = 0x981 ∧ v.mode = 2 ∧ w % 4 < 2 then
    if s.channelOut key then none else some (s.settlePages.setPseudo key (v.write n lane w))
  else some (s.setPseudo key (v.write n lane w))

/-- Registers 0x800 to 0x951. A new PTBR governs the next access: no translation through the old table is kept (05 R119). -/
def State.putPriv (s : State) (n : Nat) (w : Word) : State :=
  let v := w.toNat
  let h : Bool := s.focus.core == harbourId
  let target := s.cur.psel.toNat
  match n with
  | 0x800 => s.modCur fun c => { c with busy := bitOf v 25, sporen := bitOf v 8 }
  | 0x801 => s.modCur fun c => { c with tvec := w }
  | 0x808 => s.modCur fun c => { c with ien := BitVec.ofNat 64 (v % (if h then 32 else 16)) }
  | 0x809 => s.modCur fun c => { c with ipend := c.ipend &&& ~~~(BitVec.ofNat 64 (v % 8)) }
  | 0x80A => s.writeTcmp w
  | 0x900 => s.writeQctl v
  | 0x902 => s.modCur fun c => { c with psel := BitVec.ofNat 64 (v % 2 ^ 11) }
  | 0x903 =>
      (if bitOf v 3 then s.modCore target fun k => { k with preempt := { k.preempt with refused := false } } else s).pctlOp (bitsOf v 5 4) target
  | 0x904 => s.modCore target fun k => { k with preempt := { k.preempt with psnap := BitVec.ofNat 64 (bitsOf v 51 16 * 2 ^ 16) } }
  | 0x920 => s.modCur fun c => { c with wpobj := BitVec.ofNat 64 (bitsOf v 33 5 * 32) }
  | 0x921 => s.modCur fun c =>
      { c with wpctl := BitVec.ofNat 64 (bitsOf v 63 32 * 2 ^ 32 + bitsOf v 5 5 * 32 + b2n (bitOf c.wpctl.toNat 4 && !bitOf v 4) * 16 + bitsOf v 1 0) }
  | 0x930 => { s with ptbr := BitVec.ofNat 32 v, tlb := [] }
  | 0x931 => s.modHere fun k => { k with tdir := w }
  | 0x932 => { s with hepoch := BitVec.ofNat 32 v }
  | 0x933 => if bitOf v 0 then { s.settlePages with tlb := [] } else s
  | 0x940 => if h then s.portOp (bitsOf v 7 5) (bitsOf v 4 0) else s
  | 0x941 => { s with ctime := if v % 2 ^ 16 = 0 then 200 else v % 2 ^ 16 }
  | 0x950 => s.writeOcfg s.cur.osel.toNat v
  | 0x951 => s.octlOp s.cur.osel.toNat (bitsOf v 1 0) (bitsOf v 63 32)
  | _ => if 0x810 ≤ n ∧ n < 0x818 then s.modHere fun k => k.writeRing (n % 8) v else s

/-- Registers 0x960 to 0x97C. (DEDUCED, unsafe: notes/assumptions/29.md) -/
def State.putLog (s : State) (n : Nat) (w : Word) : State :=
  let v := w.toNat
  let h : Bool := s.focus.core == harbourId
  let onLog (f : UndoLog → UndoLog) : State := s.modCur fun c => { c with log := f c.log }
  match n with
  | 0x960 => onLog fun l => { l with base := BitVec.ofNat 64 (bitsOf v 51 16 * 2 ^ 16) }
  | 0x961 => onLog fun l => { l with len := BitVec.ofNat 64 (v % 2 ^ 20) }
  | 0x963 => onLog fun l => l.advanceTail w
  | 0x964 => onLog fun l => l.control v
  | 0x970 =>
      let t := s.modCore s.cntCore fun k => { k with scrub := bitsOf v 31 16, maxRerun := bitsOf v 6 4, rerunEn := bitOf v 0 }
      if bitOf v 1 && h then t.unfence s.cntCore else t
  | 0x971 => s.modCur fun c => { c with bpaddr := BitVec.ofNat 64 (putBits v 1 1 0) }
  | 0x972 => s.modHere fun k => { k with bpcyc := w }
  | 0x973 => s.modHere fun k => { k with trctl := BitVec.ofNat 64 (bitsOf v 31 16 * 2 ^ 16 + bitsOf v 3 0) }
  | 0x974 => s.modHere fun k => { k with trbase := w }
  | 0x975 => s.modHere fun k => { k with trlen := w }
  | 0x977 =>
      if bitOf v 12 then { s with wrack := { s.wrack with hold := true } }
      else if h then { s with wrack := { s.wrack with hold := false, lost := 0 } } else s
  | 0x978 => if h then { s with wrack := { s.wrack with sel := v % 2 ^ 12 } } else s
  | _ => s

/-- The turn in which a held write of the host is made (17 R332, 24 R414). -/
def heldTurn (h : Nat × Nat × Nat) : Turn :=
  .ev (if windowMark ≤ h.1 then .kqaddrWrite ((h.1 - windowMark - 0x100) / 8) h.2.2 else .hostMemAccess true h.1 h.2.1 h.2.2)

/-- Registers 0x986 to 0x990 of the harbour core. -/
def State.putMgmt (s : State) (n v : Nat) : State :=
  let m := s.mgmt
  match n with
  | 0x986 => { s with mgmt := { m with zpbase := v % 2 ^ 22 } }
  | 0x987 => s.lowMark { s with mgmt := { m with zplow := bitsOf v 43 32, zplen := v % 2 ^ 13 } }
  | 0x989 =>
    s.lowMark { s with
      mgmt := { m with zptail := v % 2 ^ 12, hostHeld := [] }
      agenda := m.hostHeld.map heldTurn ++ s.agenda }
  | 0x98A => { s with mgmt := { m with rrWindow := bitsOf v 47 32, rrThreshold := v % 2 ^ 16 } }
  | 0x98B => { s with mgmt := { m with hwdt := v % 2 ^ 32, hwdtDue := s.time + v % 2 ^ 32 * 1000000 } }
  | 0x98C => { s with mgmt := { m with hirqEnable := bitsOf v 23 16, hirqPending := m.hirqPending - (m.hirqPending &&& v % 2 ^ 8) } }
  | 0x98E => s.answerTsq (v % 2 ^ 52)
  | 0x990 => (List.range 8).foldl (fun s d => s.raiseToFloor d) { s with mgmt := { m with pwrctl := storedFloors v } }
  | _ => s

/-- What a write of w to register n does for the acting context; none where it waits. -/
def State.csrPut (s : State) (n : Nat) (w : Word) : Option State :=
  if n < 0x100 then some (s.putLow n w)
  else if n < 0x200 then
    some (if s.focus.core = harbourId then s else s.modHere fun k => k.setGen n (BitVec.ofNat 64 (genKeep n w.toNat)))
  else if n = 0x290 then s.writeTkpush w.toNat
  else if n = 0x933 ∧ w.getLsbD 0 = true ∧ s.translatedOut = true then none
  else if n < 0x300 then some (s.putMid n w)
  else if n < 0x960 then some (s.putPriv n w)
  else if n < 0x980 then some (s.putLog n w)
  else if n = 0x980 then some (s.modCur fun c => { c with hsel := BitVec.ofNat 64 (w.toNat % 2 ^ 16) })
  else if n < 0x986 then
    match hselKey s.cur.hsel.toNat with
    | none => some s
    | some key => s.putHbm n key (bitsOf s.cur.hsel.toNat 15 10) w.toNat
  else some (s.putMgmt n w.toNat)

/-- CSRW: the checks, then the write (05 R119). -/
def State.writeCsr (s : State) (ra n : Nat) : CtxRes :=
  match s.csrCause n with
  | some c => .trap c 0
  | none =>
    match s.csrPut n (s.x ra) with
    | none => .wait s
    | some t => .done t

/-! ### The instructions -/

def execCsrr (rd csr : Nat) (s : State) : Answer := finish s (s.readCsr rd csr)
def execCsrw (ra csr : Nat) (s : State) : Answer := finish s (s.writeCsr ra csr)
def execTkpush (ra : Nat) (s : State) : Answer := finish s (s.writeCsr ra 0x290)
def execTkvx (rd : Nat) (s : State) : Answer := finish s (s.readCsr rd 0x291)
def execTkmx (rd : Nat) (s : State) : Answer := finish s (s.readCsr rd 0x292)
def execTcmpWrite (ra : Nat) (s : State) : Answer := finish s (s.writeCsr ra 0x80A)
def execTsqPop (rd : Nat) (s : State) : Answer := finish s (s.readCsr rd 0x98D)
def execTsdone (ra : Nat) (s : State) : Answer := finish s (s.writeCsr ra 0x98E)
def execTinv (ra : Nat) (s : State) : Answer := finish s (s.writeCsr ra 0x933)
def execCmclr (ra : Nat) (s : State) : Answer := finish s (s.writeCsr ra 0x263)
def execWrctlWrite (ra : Nat) (s : State) : Answer := finish s (s.writeCsr ra 0x977)
def execHctlWrite (ra : Nat) (s : State) : Answer := finish s (s.writeCsr ra 0x981)
def execHrepWrite (ra : Nat) (s : State) : Answer := finish s (s.writeCsr ra 0x985)
def execHwdtWrite (ra : Nat) (s : State) : Answer := finish s (s.writeCsr ra 0x98B)

/-! ### Rows that name a register's effect -/

def execQctlRetry (q : QueueId) (seq : Nat) (s : State) : Answer :=
  match q with
  | .oq _ => .next s
  | .lq _ => .next s
  | _ => .next (s.retryCmd q seq)
def execQctlCancel (q : QueueId) (seq : Nat) (s : State) : Answer :=
  match q with
  | .oq _ => .next s
  | .lq _ => .next s
  | _ => .next (s.cancelCmd q seq)
def execCntctlUnfence (core : Nat) (s : State) : Answer := .next (s.unfence core)

end Sys2Proof.Machine
end

