-- ==== Sys2Proof/Machine/System.lean ====
section
/-! DEFINITION. TMARK, TRAP, RFE and illegal instructions (05 R118, R120, R121, 03 R74), interrupts and the traps of stopped streams (05 R122, 10 R239, R244), and the lifting of freezes (10 R250). -/

namespace Sys2Proof.Machine

/-! ### TMARK (05 R118, 22 R382) -/

/-- The 65,536 doublewords of an accumulator tile (22 R384). -/
def Core.tileWords (k : Core) (j : Nat) : List Word :=
  pack32 ((List.range 131072).map fun e => (Tbl.get 0 k.acc (131072 * j + e)).toNat)

/-- Appends a snapshot of each tile that a mask names (22 R384). -/
def State.snapTiles (s : State) (core ctx mask : Nat) : State :=
  if !(s.ctx core ctx).log.en then s
  else ((List.range 8).filter fun j => bitOf mask j).foldl (fun s j => s.logRec core ctx 4 0 j ((s.core core).tileWords j)) s

/-- Body doublewords that a TMARK appends, for the wait of a full log (22 R389). -/
def markWords (mask : Nat) : Nat := 57 + ((List.range 8).filter fun j => bitOf mask j).length * 65538

/-- TMARK: a window opens behind x[rd] ← its number; then the tile snapshots (22 R382). -/
def execTmark (rd mask : Nat) (s : State) : Answer :=
  let core := s.focus.core
  let ctx := s.focus.ctx
  finish s (
    if (decide (s.here.ms.st = .running) && s.here.ms.step.isSome) || s.cur.log.blocks (markWords mask) then .wait s
    else
      let w := (s.cur.log.counter + 1) % 2 ^ 32
      .done ((s.setX rd (BitVec.ofNat 64 w)).ahead fun t => (t.openWindow core ctx 1 (t.ctx core ctx).pc).snapTiles core ctx mask))

/-! ### TRAP, RFE and illegal words -/

/-- TRAP: cause 0x0F with the immediate; the handler returns to the next instruction (05 R120). -/
def execTrap (imm : Nat) (s : State) : Answer :=
  .next ((s.modCur fun c => { c with log := { c.log with iret := c.log.iret + 1 } }).takeTrap s.focus.core s.focus.ctx 0x0F (BitVec.ofNat 64 imm) 0 (s.cur.pc + 4))

/-- The cores whose streams run a job that a context pushed (05 R108, 10 R244). -/
def State.jobsOf (s : State) (core ctx : Nat) : List Nat :=
  (s.cores.filter fun p => match p.2.job with | some j => j.core == core && j.ctx == ctx | none => false).map (·.1)

/-- The cores whose streams RFE resumes: TSTAT's source names a stream, and a job of the context runs there with streams that owe no trap
and that no debug stop holds (10 R242, R244, 23 R404). -/
def State.rfeResumes (s : State) (core ctx : Nat) : List Nat :=
  let src := bitsOf (s.ctx core ctx).tstat.toNat 18 16
  (s.jobsOf core ctx).filter fun c => decide (2 ≤ src ∧ src ≤ 4) && !(((s.core c).job.map (·.debug)).getD true) && (s.core c).stopsTaken &&
    match s.jobEntry c with | some e => decide (e.st = .running) && decide (e.work = .pending) | none => false

/-- The streams of a core resume behind an RFE, or with the core's own resume where it is pre-empted (10 R242, R248). -/
def State.rfeStreams (s : State) (core : Nat) : State :=
  if (s.core core).preempt.state = 0 then s.resumeStreams core else s.modCore core fun k => { k with preempt := { k.preempt with streams := true } }

/-- RFE: registers, level and return address from the frame; stopped streams resume before the next instruction (05 R121, 10 R242). -/
def execRfe (s : State) : Answer :=
  let core := s.focus.core
  let ctx := s.focus.ctx
  finish s (
    if !s.privileged core ctx then .trap 0x02 0
    else
      let t := s.returnFromTrap core ctx
      let u := (s.rfeResumes core ctx).foldl State.rfeStreams t
      .jump u (u.ctx core ctx).pc)

/-- A word with an unassigned opcode or a broken field rule traps with 0x01 at the instruction (03 R47, R74). -/
def execIllegalInstruction (_word : Nat) (s : State) : Answer := .next (s.trapHere 0x01 0)

/-- An illegal vector word stops its stream with 0x01 at issue (03 R74). -/
def execIllegalVectorWord (_word : Nat) (s : State) : Answer := .next (s.stopHere 0x01)

/-- An illegal matrix word stops its stream with 0x01 at issue (03 R74). -/
def execIllegalMatrixWord (_word : Nat) (s : State) : Answer := .next (s.matStop s.focus.core 0x01 s.ms.cycle true)

/-! ### The issue frame (10 R232) -/

/-- The context that owns a cycle of the issue frame: slot 0 is A's, 1 and 3 are X's, 2 is S's (10 R232). -/
def slotOwner (n : Nat) : Nat := match n % 4 with | 0 => 0 | 2 => 2 | _ => 1

/-- Whether a context takes part in its core's issue frame: it is neither idle, frozen, saved nor debug-stopped. -/
def Core.live (k : Core) (ctx : Nat) : Bool :=
  decide ((k.ctx ctx).st = .running ∨ (k.ctx ctx).st = .waiting ∨ (k.ctx ctx).st = .handler) && !(k.ctx ctx).dbg

/-- The cycle in which a core's next slot falls that is not empty, a turn of `ctx` counting as one (10 R232): no live context misses a slot
of its own. (DESIGN CHOICE, unsafe: notes/assumptions/7.md) -/
def Core.nextSlot (k : Core) (ctx : Nat) : Nat :=
  (([1, 2, 3, 4].map (k.cycle + ·)).find? fun n => slotOwner n == ctx || k.live (slotOwner n)).getD (k.cycle + 1)

/-- How many of a core's slots that are not empty pass until the next one of a context, that one counted. -/
def Core.slotsTo (k : Core) (ctx : Nat) : Nat :=
  let ns := [1, 2, 3, 4].map (k.cycle + ·)
  ((ns.takeWhile fun n => slotOwner n != ctx).filter fun n => k.live (slotOwner n)).length + 1

/-- CONTEXT_WAIT_COMPLETE: a waiting instruction issues again in its context's next slot and takes its effects if its wait is over (10 R232, R233). -/
def execContextWaitComplete (core ctx : Nat) (s : State) : Answer :=
  if (s.ctx core ctx).st = .waiting then .next { s with agenda := List.replicate ((s.core core).slotsTo ctx) (.ctx core ctx) ++ s.agenda } else .next s

/-! ### Interrupts and stream stops (05 R122, 10 R239, R244) -/

/-- Whether IEN[3] keeps a context's interrupts for the stream stop, never a separate trap: a stream of a job that the context pushed, in this
part of its iteration or an earlier one, runs (10 R239). -/
def State.holdsIrq (s : State) (core ctx : Nat) : Bool :=
  bitOf (s.ctx core ctx).ien.toNat 3 && (s.jobsOf core ctx).any fun c =>
    decide ((s.core c).vs.st = .running) || decide ((s.core c).ms.st = .running)

/-- The interrupts that a context may take as a trap of source 1 (10 R239). -/
def State.takeable (s : State) (core ctx : Nat) : Nat :=
  if s.holdsIrq core ctx then 0 else s.ipendOf core ctx &&& (s.ctx core ctx).ien.toNat &&& 0x17

/-- Whether a context is at an instruction boundary or a waiting instruction where a held trap may be taken (05 R122). -/
def Ctx.atBoundary (c : Ctx) : Bool := decide (c.st = .running ∨ c.st = .waiting ∨ c.st = .handler) && !c.busy && c.loads.isEmpty && !c.dbg

/-- Takes an interrupt: cause 0x10, source 1, with a record of IPEND (10 R241, 22 R386); the size 1 of its record is the model's own mark, and 2 that of one taken as a stream stop. (DEDUCED, unsafe: notes/assumptions/47.md) -/
def State.takeIrq (s : State) (core ctx : Nat) : State :=
  let c := s.ctx core ctx
  (s.logRec core ctx 6 1 c.log.iret [BitVec.ofNat 64 (s.ipendOf core ctx)]).takeTrap core ctx 0x10 0 1 c.pc

/-- The trap that stopped streams of a core's job owe to the context that pushed it: source, cause, stop cycle (10 R241, R244), once no
other stream can stop in the same cycle. Where both streams stop of their own cause, TSTAT holds the vector stream's.
(DESIGN CHOICE, unsafe: notes/assumptions/73.md) -/
def State.owedAt (s : State) (core : Nat) : Option (Nat × Nat × Nat) :=
  let k := s.core core
  match k.job with
  | none => none
  | some j =>
    let v := decide (k.vs.st = .stopped) && decide (k.vs.atStop ≠ 0)
    let m := decide (k.ms.st = .stopped) && decide (k.ms.atStop ≠ 0)
    if (v || m) = false ∨ s.pusherThere j = false ∨ (k.vecBoth || k.matBoth) = true then none
    else
      let source := if v && m then 4 else if v then 2 else 3
      let cause := if v && decide (codeCause k.vs.atStop ≠ 0) then codeCause k.vs.atStop else if m then codeCause k.ms.atStop else 0
      let cycle := if v && m then min k.vs.cycle k.ms.stopCycle else if v then k.vs.cycle else k.ms.stopCycle
      some (source, cause, cycle)

/-- The trap that a context owes for stopped streams: their core, then source, cause and stop cycle (10 R244). -/
def State.owedStop (s : State) (core ctx : Nat) : Option (Nat × Nat × Nat × Nat) :=
  (s.jobsOf core ctx).findSome? fun c => (s.owedAt c).map fun t => (c, t)

/-- The recorded interrupt that a replay has come to leaves its list (22 R393). -/
def State.dropIrq (s : State) (core ctx : Nat) : State :=
  s.modCtx core ctx fun c => if c.log.replay.isSome then { c with log := { c.log with irqs := c.log.irqs.drop 1 } } else c

/-- The pushing context takes the trap of its stopped streams (10 R244); an interrupt so taken leaves its record of IPEND (22 R386), as
`State.takeIrq` does, and in a replay it is the recorded one (22 R393). The streams are then its handler's to resume, no longer the core's
resume's (10 R248). -/
def State.takeStop (s : State) (core ctx : Nat) (t : Nat × Nat × Nat × Nat) : State :=
  let c := s.ctx core ctx
  let s1 := s.modCore t.1 fun k =>
    { k with vs := if k.vs.st = .stopped then { k.vs with atStop := 0 } else k.vs
             ms := if k.ms.st = .stopped then { k.ms with atStop := 0 } else k.ms
             preempt := { k.preempt with streams := false } }
  let s2 := if t.2.2.1 = 0x10 then (s1.logRec core ctx 6 2 c.log.iret [BitVec.ofNat 64 (s.ipendOf core ctx)]).dropIrq core ctx else s1
  s2.takeTrap core ctx t.2.2.1 (BitVec.ofNat 64 t.2.2.2) t.2.1 c.pc

/-- INTERRUPT_TAKE: a pending enabled interrupt is taken between instructions or at a waiting instruction (05 R122), unless a trap of stopped
streams comes first (10 R244). -/
def execInterruptTake (core ctx : Nat) (s : State) : Answer :=
  let c := s.ctx core ctx
  if c.atBoundary && decide (s.takeable core ctx ≠ 0) && (s.owedStop core ctx).isNone && c.log.replay.isNone then .next (s.takeIrq core ctx) else .next s

/-- STREAM_STOP_TRAP: the trap of a stopped stream is taken at the pushing context's next boundary; a busy context holds it (10 R244). -/
def execStreamStopTrap (core : Nat) (s : State) : Answer :=
  match (s.core core).job with
  | none => .next s
  | some j =>
    match s.owedAt core with
    | some t => if (s.ctx j.core j.ctx).atBoundary then .next (s.takeStop j.core j.ctx (core, t)) else .next s
    | none => .next s

/-- INTERRUPT_STREAM_STOP: an interrupt with IEN[3] set stops the streams of the pushing context's job (10 R244): the vector stream at its next cycle, else the matrix stream at the end of its step. -/
def execInterruptStreamStop (core : Nat) (s : State) : Answer :=
  if s.irqStop core then
    .next (s.modCore core fun k =>
      if k.vs.st = .running then (if k.vs.atStop = 0 then { k with vs := { k.vs with atStop := stopCode 0x10 true } } else k)
      else if k.ms.st = .running ∧ k.ms.atStop = 0 then { k with ms := { k.ms with atStop := stopCode 0x10 true } } else k)
  else .next s

/-! ### Freezes (10 R250) -/

/-- FREEZE_RELEASE: the harbour core lifts a freeze: 0 a context, which is then idle and out of its groups, 1 a queue of a core (0 MQ, 1 VQ, 2 CQ) or 3 an
optical unit's, 4 a die's, 2 the host function. -/
def execFreezeRelease (kind core which : Nat) (s : State) : Answer :=
  match kind with
  | 0 => if (s.ctx core which).st = .frozen then .next ((s.leaveAll core which).endPart core which) else .next s
  | 1 =>
    let q : QueueId := match which with | 0 => .mq core | 1 => .vq core | 2 => .cq core | 3 => .oq core | _ => .lq core
    .next (s.modQueue q fun v => { v with frozen := false })
  | _ => .next { s with mgmt := { s.mgmt with hostFrozen := false } }

end Sys2Proof.Machine
end

