-- ==== Sys2Proof/Machine/CopyFamily.lean ====
section
/-! DEFINITION. The commands of the copy family at work (13 R279, R280), K.PREFETCH, K.NOP and K.EVENT (13 R282, R283). -/

namespace Sys2Proof.Machine

/-- Whether a copy wrote outside its write sets or in another slice: an escape (23 R397). -/
def State.copyEscapes (s : State) (q : QueueId) (e : Entry) (lines : List Int) : Bool :=
  let (dr, dt) := e.destination
  let core := homeCore q e
  lines.any fun ln => match s.cmdReach q e dr dt (lineOff e ln) false with
    | .loc l _ => !localLoc core l || !e.writeSets.any fun x => decide (x.start ≤ l % 2 ^ 22 / 64) && decide (l % 2 ^ 22 / 64 < x.start + x.length)
    | _ => false

/-- Ends a copy's run, or this turn's part of it: the record of its lines, its escape, how far it came and its work. -/
def State.endCopy (before after : State) (q : QueueId) (e : Entry) (units : List (Int × Nat)) (progress : Nat) (w : Work) : State :=
  let lines := ((units.reverse.map fun u => unitLine e u.1)).eraseDups
  let t := (before.logCopy after q e lines).sealHost q e e.destination.1 e.destination.2 (units.map (·.1))
  let out := t.copyEscapes q e lines
  t.modQueue q fun v => v.modEntry e.seq fun e => { e with work := w, progress := progress, escaped := e.escaped || out }

/-- Units from a copy's next one on whose lines the pushing context's log has room for now: all of them, unless a full log stalls (22 R389). -/
def State.copyRoom (s : State) (q : QueueId) (e : Entry) : Nat :=
  let log := (s.ctx e.core e.ctx).log
  let left := ((s.copyTargets q e).drop e.progress).map (unitLine e)
  let lines := left.eraseDups
  if log.blocks (9 * lines.length) then
    let fit := lines.take ((log.room - log.used - 16) / 72)
    (left.takeWhile fun ln => fit.contains ln).length
  else left.length

/-- Out-of-range addresses that a failed run met stay recorded for its pushing context (10 R238, 13 R279). -/
def State.keepSpor (s run : State) (e : Entry) : State := s.modCtx e.core e.ctx fun c => { c with spor := (run.ctx e.core e.ctx).spor }

/-- K.COPY, K.GATHER, K.SCATTER and K.FILL (13 R279): alignment, overlap, then every row; a fault leaves the lines it completed. A stalled
log holds the command before its next line (22 R389), and the run goes on from there. -/
def copyCommand (s : State) : Answer :=
  withCmd s fun q e =>
    let targets := s.copyTargets q e
    let n := s.copyRoom q e
    if !e.copyAligned then s.setWork q e.seq (.failed 0x03 false)
    else if e.progress = 0 ∧ e.opcode = 1 ∧ s.copyOverlaps q e = true then s.setWork q e.seq (.failed 0x08 false)
    else if n = 0 then s
    else match copySpans q e (e.spans e.progress n) { s := s, units := [] } with
      | .going r =>
        let t := r.s.cleanUnits q e r.units
        let whole : Bool := decide (e.progress + n = targets.length)
        s.endCopy t q e r.units (e.progress + n) (if whole then t.copyWork q e (r.units ++ t.unitsWritten q e (targets.take e.progress)) else .pending)
      | .wait n => s.askTile q e n
      | .fault r c f =>
        let units := completedUnits e (targets.drop e.progress) r.units
        s.endCopy (((s.writeUnits q e units).cleanUnits q e units).keepSpor r.s e) q e units (e.progress + r.units.length) (.failed c f)

def execKCopy (_h : CmdHdr) (_o : CmdOps) (s : State) : Answer := copyCommand s
def execKGather (_h : CmdHdr) (_o : CmdOps) (s : State) : Answer := copyCommand s
def execKScatter (_h : CmdHdr) (_o : CmdOps) (s : State) : Answer := copyCommand s
def execKFill (_h : CmdHdr) (_o : CmdOps) (s : State) : Answer := copyCommand s

/-- Appends elements to a ring while it has room: the state, the elements appended in all, and the work where the run ends. -/
def feedFrom (q : QueueId) (e : Entry) (size z : Nat) : List Nat → State → Nat → State × Nat × Option Work ⊕ Nat
  | [], s, n => .inl (s, n, some (.done false false false []))
  | j :: js, s, n =>
    let core := homeCore q e
    let r := (s.core core).ring z
    if r.full then .inl (s, n, none)
    else match s.cmdRead q e e.source.1 e.source.2 ((j : Nat) * sextNat 32 (bitsOf (e.d 10) 31 0)) size with
      | .fault c f => .inl (s, n, some (.failed c f))
      | .wait t => .inr t
      | .ok v t => feedFrom q e size z js (t.modCore core fun k => k.setRing z ((k.ring z).push (sextWord (8 * size) v) true)) (n + 1)

/-- K.FEED (13 R279): the ring's configuration and the alignment are checked at its start, then elements go on to the ring while it has room;
`progress` counts those appended. -/
def execKFeed (_h : CmdHdr) (_o : CmdOps) (s : State) : Answer :=
  withCmd s fun q e =>
    let size := 2 ^ bitsOf (e.d 11) 3 2
    let z := e.d 8 % 8
    let r := (s.core (homeCore q e)).ring z
    if e.begun = false ∧ (r.prod ≠ 3 ∨ r.depth = 0) then s.setWork q e.seq (.failed 0x02 false)
    else if e.begun = false ∧ ((e.source.2 = false ∧ e.d 7 % size ≠ 0) ∨ bitsOf (e.d 10) 31 0 % size ≠ 0) then s.setWork q e.seq (.failed 0x03 false)
    else
      let left := (List.range (e.rowBytes - e.progress)).map (e.progress + ·)
      match feedFrom q e size z left s e.progress with
      | .inr n => s.askTile q e n
      | .inl (t, n, w) =>
        t.modQueue q fun v => v.modEntry e.seq fun e =>
          { e with progress := n, begun := true, escaped := e.escaped || decide (0 < n), work := w.getD .pending }

/-- Pages that a K.PREFETCH's rows cover, as the translations that it brings in: the cache's key, then the entry's location and large bit. -/
def State.prefetchEntries (s : State) (q : QueueId) (e : Entry) : List ((Bool × Nat × Nat) × Nat × Bool) :=
  let core := homeCore q e
  let (sr, st) := e.source
  (List.range e.rows).flatMap fun j =>
    let o : Int := refBase sr st + (j : Nat) * sextNat 32 (bitsOf (e.d 10) 31 0)
    let lo := (o / 65536).toNat
    let hi := ((o + e.rowBytes - 1) / 65536).toNat
    (List.range (hi + 1 - lo)).filterMap fun i =>
      let h := e.shape (bitsOf sr 23 0)
      if st then match s.tileEntry core h (lo + i) with
        | .entry l v => if peMalformed v true false || decide (peState v = 0 ∨ peState v = 7) then none else some ((true, core, h.table + 8 * (lo + i)), l, false)
        | _ => none
      else match place core ((lo + i) * 65536) with
        | .paged => (s.walk ((lo + i) * 65536)).bind fun w => if peMalformed w.entry false w.large || decide (peState w.entry = 0 ∨ peState w.entry = 7) then none else some ((false, core, lo + i), w.entryLoc, w.large)
        | _ => none

/-- Brings a translation into its cache, as the entry now stands (17 R326). -/
def State.fillFrom (s : State) (p : (Bool × Nat × Nat) × Nat × Bool) : State :=
  s.fill { tile := p.1.1, core := p.1.2.1, key := p.1.2.2, loc := p.2.1, entry := s.read p.2.1 8, large := p.2.2 }

/-- K.PREFETCH (13 R283, 17 R336): the translations of the pages it covers are brought in, and the heat of each rises by 16, and by 1 where
a cache did not hold it; parts that do not translate are skipped. -/
def execKPrefetch (_h : CmdHdr) (_o : CmdOps) (s : State) : Answer :=
  withCmd s fun q e =>
    let ps := (s.prefetchEntries q e).eraseDups
    let missed (l : Nat) : Bool := ps.any fun p => p.2.1 == l && !s.tlb.any fun c => c.tile == p.1.1 && c.core == p.1.2.1 && c.key == p.1.2.2
    let warm := ((ps.map (·.2.1)).eraseDups).foldl (fun s l => s.addHeat l (16 + b2n (missed l))) s
    (ps.foldl State.fillFrom warm).setWork q e.seq (.done false false false [])

/-- K.NOP (13 R282): nothing, done at once. -/
def execKNop (_h : CmdHdr) (_o : CmdOps) (s : State) : Answer := withCmd s fun q e => s.setWork q e.seq (.done false false false [])

/-- The object that a K.EVENT names, or the cause of its failed check; none names the core event word. The command is a party of the device,
whatever its queue (13 R282, 16 R312, R317). -/
def State.eventObject (s : State) (q : QueueId) (e : Entry) : Except Nat (Option Nat) :=
  if e.d 7 = 0 then .ok none else (s.checkObject (homeCore q e) e.ctx (e.d 7) e.priv false true).map some

/-- K.EVENT (13 R282): its work is the check of its object; the bits are set when it retires. -/
def execKEvent (_h : CmdHdr) (_o : CmdOps) (s : State) : Answer :=
  withCmd s fun q e =>
    match s.eventObject q e with
    | .error c => s.setWork q e.seq (.failed c false)
    | .ok _ => s.setWork q e.seq (.done false false false [])

/-- The bits of a K.EVENT at its retirement (16 R317). -/
def State.raiseEvent (s : State) (q : QueueId) (e : Entry) : State :=
  if e.opcode ≠ 0x14 then s
  else match s.eventObject q e with
    | .ok none => (s.noteEvents (e.supplies q) (evwMark (homeCore q e))).signal (homeCore q e) (e.d 8)
    | .ok (some loc) => (s.noteEvents (e.supplies q) (loc + 16)).signalObject loc (e.d 8 % 2 ^ 32)
    | .error _ => s

end Sys2Proof.Machine
end

