-- ==== Sys2Proof/Machine/Jobs.lean ====
section
/-! DEFINITION. K.JOB (13 R281) and K.NEST (08 R208) at work, and the steps of running streams: landings, last cycles, ends, arrivals, breakpoints, debug stops and trace samples (06 R124, 07 R173, 08 R186, R200, 14 R294, 23 R404, R405). -/

namespace Sys2Proof.Machine

/-! ### K.JOB (13 R281) -/

/-- The 128 entries of a format image at a slice offset, 0 for none; bytes past the slice read zero. -/
def State.formatImage (s : State) (core off : Nat) : Tbl Elem :=
  if off = 0 then []
  else (List.range 128).foldl (fun t i =>
    if off + 4 * i + 4 ≤ 2 ^ 22 then Tbl.set 0 t i (BitVec.ofNat 32 (s.read (sliceLoc core (off + 4 * i)) 4)) else t) []

/-- The kernel record of the iteration that pushed a command. -/
def State.recordOf (s : State) (e : Entry) : List Word := ((e.iter.bind fun r => s.kernel r.kq r.record).map (·.record)).getD []

/-- Matrix predicates from d9: p1 to p7 in [6:0], p12 to p15 in [10:7] (08 R185, 13 R281). -/
def jobPreds (d9 : Nat) : Nat := 2 * bitsOf d9 6 0 + 2 ^ 12 * bitsOf d9 10 7

/-- Starts the streams of a job at schedule cycle 0 (13 R281 steps 1 to 4); on a core that is being pre-empted they stop there (10 R248). -/
def State.startJob (s : State) (core : Nat) (e : Entry) : State :=
  let r := recD (s.recordOf e) 10
  let image (own kernel : Nat) : Tbl Elem := s.formatImage core (if own ≠ 0 then own else kernel)
  let vimg := image (bitsOf (e.d 10) 21 0) (bitsOf r 21 0)
  let mimg := image (bitsOf (e.d 10) 53 32) (bitsOf r 53 32)
  let job : Job :=
    { seq := e.seq, core := e.core, ctx := e.ctx, iter := e.iter, priv := e.priv, det := bitOf (e.d 0) 16, slack := bitsOf (e.d 15) 15 0
      reads := e.readSets, writes := e.writeSets, group := s.lockstepJob e, shapes := e.shapes, debug := false, code := s.mem }
  let v : Bool := e.d 7 ≠ 0
  let m : Bool := e.d 8 ≠ 0
  let stop := if (s.core core).preempt.state = 0 then 0 else stopCode 0x10 false
  ((s.dropStall core).modCore core fun k =>
    { k with
      preempt := { k.preempt with streams := k.preempt.streams || decide (k.preempt.state ≠ 0) }
      job := some job, cmMerge := none, zeroed := none
      vs := if v then { VStream.reset with st := .running, atStop := stop, base := e.d 7, fmt := vimg } else VStream.reset
      ms := if m then { MStream.reset with st := .running, atStop := stop, base := e.d 8, fmt := mimg, preds := jobPreds (e.d 9), snapshot := e.snapshot } else MStream.reset
      vfst := if v then k.vfstHeld.getD 0 else k.vfst, vfstHeld := if v then none else k.vfstHeld
      mfst := if m then k.mfstHeld.getD 0 else k.mfst, mfstHeld := if m then none else k.mfstHeld }).modQueue (.vq core) fun q =>
    q.modEntry e.seq fun e => { e with progress := 1 }

/-- K.JOB (13 R281): the streams start; from then on they do the job's work. -/
def execKJob (_h : CmdHdr) (_o : CmdOps) (s : State) : Answer :=
  withCmd s fun q e => if e.progress = 0 then s.startJob (homeCore q e) e else s

/-! ### K.NEST (08 R208) -/

/-- A nest under way: the core as the landed steps left it, and the accumulator keys written. -/
structure NestRun where
  k : Core
  keys : List Nat

/-- How a nest's step ends. -/
inductive NestEnd where
  | going (r : NestRun)
  | failed (r : NestRun) (cause : Nat) (lines : List Nat)
  | wait (entry : Nat)

/-- What the steps of a K.NEST read by. -/
def State.nestEnv (_s : State) (core : Nat) (e : Entry) (idx : List Nat) : MatEnv :=
  { core := core, snap := e.snapshot, shapes := e.shapes, priv := e.priv
    checked := bitOf (e.d 0) 16 && (e.readSets ++ e.writeSets).any fun l => decide (l.length ≠ 0)
    sets := e.readSets ++ e.writeSets, idx := idx, latch := [], member := none }

/-- A nest step's last cycle: its writes, its flags in MFST and its stop (08 R186, R208). -/
def NestRun.land (r : NestRun) (tile : Nat) (writes : StepWrites) (slotC flags : Nat) (stop : Option Nat) : NestEnd :=
  if r.k.readsPoison tile writes then .failed r 0x06 []
  else
    let w := r.k.foldWrites tile slotC writes
    let f := flags ||| w.2
    let k1 := { r.k.writeAcc w.1 with mfst := r.k.mfst ||| BitVec.ofNat 32 f }
    let r1 : NestRun := { k := k1, keys := r.keys ++ w.1.map (·.1) }
    match stop with
    | some c => .failed r1 c []
    | none => if f &&& (k1.mfst.toNat / 2 ^ 10) &&& 0x1F ≠ 0 then .failed r1 0x12 [] else .going r1

/-- One index tuple of a K.NEST. -/
def State.nestStepAt (s : State) (core : Nat) (e : Entry) (idx : List Nat) (r : NestRun) : NestEnd :=
  let ea := bitsOf (e.d 10) 31 0
  let eb := bitsOf (e.d 10) 63 32
  let ec := bitsOf (e.d 11) 31 0
  let clr := bitsOf (e.d 11) 34 32
  match (decodeMatrix e.nestWord).toOption with
  | some (.mzero h _ m n tile off) =>
    if !zeroSlotOk ec then .failed r 0x07 []
    else if !nestPred idx h.guard then .going r
    else match zeroElems e.snapshot idx off (m * n) with
      | none => .failed r 0x01 []
      | some es => r.land tile (.zeros es) ec 0 none
  | some i =>
    match tileStep i with
    | none => .failed r 0x01 []
    | some (kind, h, t) =>
      if !slotsOk ea eb ec then .failed r 0x07 []
      else if !nestPred idx h.guard then .going r
      else match s.tileStepOut (s.nestEnv core e idx) { kind := kind, t := t, ea := ea, eb := eb, ec := ec, acc := t.acc && !(decide (clr ≠ 7) && decide (idx.getD clr 0 = 0)) } with
        | .halt (.stop c) => .failed r c []
        | .halt (.wait n) => .wait n
        | .poison _ lines => .failed r 0x06 lines
        | .step _ writes slotC flags stop => r.land t.tile writes slotC flags stop
  | none => .failed r 0x01 []

/-- Every index tuple in turn. -/
def State.nestSteps (s : State) (core : Nat) (e : Entry) : List (List Nat) → NestRun → NestEnd
  | [], r => .going r
  | t :: ts, r =>
    match s.nestStepAt core e t r with
    | .going r' => s.nestSteps core e ts r'
    | other => other

/-- The summary of the final values of what a K.NEST wrote (08 R208). -/
def NestRun.work (r : NestRun) (fmt : Nat) : Work :=
  let c := classAll fmt (r.keys.eraseDups.map fun key => (Tbl.get 0 r.k.acc key).toNat)
  if r.keys.isEmpty then .done false false false [] else .done true c.1 c.2.1 []

/-- K.NEST (08 R208): the whole nest at one moment (DESIGN CHOICE, unsafe: notes/assumptions/87.md); the steps that landed before a failed one
stay written. -/
def execKNest (_h : CmdHdr) (_o : CmdOps) (s : State) : Answer :=
  withCmd s fun q e =>
    let core := homeCore q e
    let counts := nestCounts e.snapshot
    if counts.contains 0 then s.setWork q e.seq (.done false false false [])
    else match s.nestSteps core e (nestTuples counts) { k := s.core core, keys := [] } with
      | .wait n => s.askTile q e n
      | .failed r c lines =>
        ((s.setCore core r.k).modQueue q fun v => v.modEntry e.seq fun e => { e with met := e.met ++ lines }).setWork q e.seq (.failed c false)
      | .going r => (s.setCore core r.k).setWork q e.seq (r.work (bitsOf (e.d 11) 3 0))

/-! ### Landings, last cycles and ends -/

/-- VECTOR_LANDING (06 R124): what is due at the vector stream's cycle takes effect. A frozen cycle counts for nothing, and no result lands
in it (R125, 14 R295). -/
def execVectorLanding (core : Nat) (s : State) : Answer :=
  let k := s.core core
  if k.vs.st ≠ .running ∨ k.vs.land.any k.landable = false ∨ s.vecHeld core = true ∨ k.matrixBehind = true then .next s
  else .next (s.vecLand core)

/-- STREAM_END (07 R173): a stream whose stop word has issued, with nothing in flight, ends; with the last one the job's work is done. -/
def execStreamEnd (core : Nat) (matrix : Bool) (s : State) : Answer :=
  let k := s.core core
  if matrix then
    if k.ms.st = .running ∧ k.ms.stopIssued = true ∧ k.ms.step = none ∧ k.ms.mldi = [] then
      .next ((s.modMs core fun m => { m with st := .ended }).settleJob core)
    else .next s
  else if k.vs.st = .running ∧ k.vs.stopIssued = true ∧ k.vs.land = [] then
    .next ((s.modCore core fun k => { k with vs := { k.vs with st := .ended } }).settleJob core)
  else .next s

/-- MATRIX_STEP_LAST_CYCLE (08 R186). -/
def execMatrixStepLastCycle (core : Nat) (s : State) : Answer :=
  let k := s.core core
  if k.ms.st = .running ∧ k.vectorFirst = false ∧ s.matHeld core = false then .next (s.matLast core) else .next s

/-- Whether a cycle breakpoint falls on the matrix stream's present word, which no vector stream has met before it; an interrupt's stop that
waits gives way to it (12 R259, 23 R404). -/
def Core.matrixBreak (k : Core) : Bool :=
  let c := k.bpcyc.toNat
  decide (c ≠ 0) && decide (k.ms.atStop = 0 ∨ codeCause k.ms.atStop = 0x10) &&
    match k.ms.step with
    | some st => decide (k.ms.cycle ≤ c) && decide (c ≤ st.due)
    | none => decide (c = k.ms.cycle)

/-- Gather indices that can land now: due within the present word, arrived, and room for the gm token (08 R200). -/
def Core.mldiReady (k : Core) : Bool :=
  let now := match k.ms.step with | some st => st.due | none => k.ms.cycle
  match k.ms.mldi with
  | [] => false
  | f :: _ => decide (f.due ≤ now) && (f.arrived || f.poison) && decide (k.token 7 < 15)

/-- Gather indices that are due and cannot land: the counter stands (08 R200), except for a word that pops the gm token which it waits on. -/
def Core.mldiHeld (k : Core) : Bool :=
  let now := match k.ms.step with | some st => st.due | none => k.ms.cycle
  match k.ms.mldi with
  | [] => false
  | f :: _ => decide (f.due ≤ now)

/-- MLDI_LANDING (08 R200): the oldest gather indices land in the latch and push a gm token; a load read afresh that met poison stops the
stream there, or at the end of the step in flight. -/
def execMldiLanding (core : Nat) (s : State) : Answer :=
  let k := s.core core
  match k.ms.mldi with
  | [] => .next s
  | f :: rest =>
    if k.ms.st ≠ .running ∨ k.mldiReady = false ∨ s.matHeld core = true then .next s
    else if f.poison then
      if k.ms.step.isSome then
        .next (s.modMs core fun m => { m with
          mldi := rest ++ [{ f with poison := false, arrived := true }]
          atStop := if m.atStop = 0 then stopCode 0x06 true else m.atStop
          step := m.step.map fun st => { st with bad := st.bad ++ s.poisonLines core f.addrs } })
      else .next (s.matHalt core 0x06 k.ms.cycle (s.poisonLines core f.addrs))
    else .next (s.setCore core ({ k with ms := { k.ms.latchFrom f with mldi := rest, frozen := false } }.pushToken 7))

/-- The first landing of a load that has not come, arrived. -/
def arriveFirst : List Landing → List Landing
  | [] => []
  | r :: rs => if r.kind = .load ∧ r.arrived = false then { r with arrived := true } :: rs else r :: arriveFirst rs

/-- The first gather load that has not come, arrived. -/
def arriveMldi : List MldiFly → List MldiFly
  | [] => []
  | f :: fs => if f.arrived then f :: arriveMldi fs else { f with arrived := true } :: fs

/-- ELASTIC_DATA_ARRIVAL (14 R294): the oldest variable-latency result of a core's streams arrives, with the values read at its issue. (DEDUCED, safe: notes/assumptions/35.md) -/
def execElasticDataArrival (core : Nat) (s : State) : Answer :=
  .next (s.modCore core fun k =>
    if k.vs.land.any fun r => decide (r.kind = .load) && !r.arrived then { k with vs := { k.vs with land := arriveFirst k.vs.land, frozen := false } }
    else { k with ms := { k.ms with mldi := arriveMldi k.ms.mldi, frozen := false } })

/-! ### Breakpoints and debug stops (23 R404) -/

/-- BREAKPOINT_CYCLE: the running stream reaches the cycle of BPCYC and stops with 0x0D; inside a matrix step, at its end. -/
def execBreakpointCycle (core : Nat) (s : State) : Answer :=
  let k := s.core core
  if k.vs.st = .running ∧ k.bpcyc ≠ 0 ∧ k.bpcyc.toNat = k.vs.cycle then .next (s.vecStop core 0x0D true)
  else if k.ms.st = .running ∧ k.matrixBreak = true ∧ k.vectorFirst = false then
    if k.ms.step.isSome then .next (s.modMs core fun m => { m with atStop := stopCode 0x0D true }) else .next (s.matStop core 0x0D k.ms.cycle true)
  else .next s

/-- DEBUG_STOP: both streams of the core's job stop at their next stop points, without a trap. -/
def execDebugStop (core : Nat) (s : State) : Answer :=
  .next (s.modCore core fun k =>
    match k.job with
    | none => k
    | some j => { k with job := some { j with debug := true } }.follow (stopCode 0 false))

/-- Whether a core's streams stand stopped by a debug stop alone: neither records a cause nor owes a trap. -/
def Core.debugStopped (k : Core) : Bool :=
  (decide (k.vs.st ≠ .stopped) || (k.vs.cause == 0 && k.vs.atStop == 0)) && (decide (k.ms.st ≠ .stopped) || (k.ms.cause == 0 && k.ms.atStop == 0))

/-- DEBUG_RESUME: Crecheot resumes the streams at their stop cycles as RFE would, and the core's debug-stopped contexts. (DEDUCED, safe: notes/assumptions/48.md) -/
def execDebugResume (core : Nat) (s : State) : Answer :=
  let s1 := [0, 1, 2].foldl (fun s n => s.modCtx core n fun c => { c with dbg := false }) s
  match (s.core core).job with
  | none => .next s1
  | some j =>
    let s2 := s1.modCore core fun k => { k with job := some { j with debug := false } }
    .next (if j.debug && (s.core core).debugStopped then s2.resumeStreams core else s2)

/-! ### Trace samples (23 R405) -/

/-- TRACE_SAMPLE: a kind 1 record of a context or stream, where TRCTL asks for samples. -/
def execTraceSample (core source : Nat) (s : State) : Answer :=
  let k := s.core core
  if bitsOf k.trctl.toNat 31 16 = 0 ∨ 4 < source then .next s
  else
    let (cycle, pc, n) : Nat × Nat × Nat := match source with
      | 3 => (k.vs.cycle, k.vs.pc, 0)
      | 4 => (k.ms.cycle, k.ms.pc, 0)
      | c => (k.cycle, (k.ctx c).pc.toNat, (k.ctx c).log.iret)
    .next (s.trace core 1 1 source cycle pc n)

end Sys2Proof.Machine
end

