-- ==== Sys2Proof/Machine/Engines.lean ====
section
/-! DEFINITION. The steps that move commands through their queues: messages, starts, rounds, retirements, faults, held tokens (13 R265 to R277, 15 R304) and the rerun of a phase (23 R398). -/

namespace Sys2Proof.Machine

/-! ### Messages (13 R265, R266, R271) -/

def execArmArrival (q : QueueId) (s : State) : Answer := .next (s.deliverNext .arm q)
def execSuccessorDecrement (q : QueueId) (s : State) : Answer := .next (s.deliverNext .decrement q)
def execEbbArrival (q : QueueId) (s : State) : Answer := .next (s.deliverNext .ebb q)

/-- DEFERRED_TOKEN_PUSH (13 R280): a held token is pushed when its queue has room. -/
def execDeferredTokenPush (core tokenQueue : Nat) (s : State) : Answer :=
  let k := s.core core
  let n := Tbl.get 0 k.deferred tokenQueue
  if 0 < n ∧ k.token tokenQueue < 15 then
    .next (s.setCore core { k.setToken tokenQueue (k.token tokenQueue + 1) with deferred := Tbl.set 0 k.deferred tokenQueue (n - 1) })
  else .next s

/-! ### Starts (13 R269, 15 R304) -/

/-- COMMAND_START (13 R268, R269): waiting commands become ready, and the queue's engine starts the first ready one it can take. -/
def execCommandStart (q : QueueId) (s : State) : Answer :=
  let t := s.advance q
  match t.firstReady q with
  | some e => .next (t.startCmd q e)
  | none => .next t

/-- The lockstep job of a group that a core's VQ would start now (15 R304). -/
def State.roundEntry (s : State) (g core : Nat) : Option Entry :=
  if !s.mayStart (.vq core) then none
  else
    let v := s.queue (.vq core)
    let able := v.entries.filter fun e => decide (e.st = .ready) && s.tokenReady (.vq core) e && s.engineFree (.vq core) e
    (able.find? fun a => able.all fun b => a.seq == b.seq || comesFirst v.next a b).filter fun e => decide (s.lockstepJob e = some g)

/-- Starts a member's job with its streams. -/
def State.startRoundJob (s : State) (core : Nat) (e : Entry) : State :=
  let t := s.startCmd (.vq core) e
  match (t.queue (.vq core)).find e.seq with
  | some e1 => if e1.st = .running then t.startJob core e1 else t
  | none => t

/-- LOCKSTEP_ROUND_START (15 R304, R305): when every member's VQ would start a job of the group, all start in one cycle; a job that faults
at its start ends the round of the others. -/
def execLockstepRoundStart (group : Nat) (s : State) : Answer :=
  let v := s.group group
  let cores := v.members.map fun m => m.2.1
  let t := cores.foldl (fun s c => s.advance (.vq c)) s
  let jobs := cores.filterMap fun c => (t.roundEntry group c).map fun e => (c, e)
  if v.kind ≠ .lockstep ∨ jobs.length ≠ cores.length ∨ cores.isEmpty = true then .next s
  else
    let u := jobs.foldl (fun s p => s.startRoundJob p.1 p.2) t
    let failed := jobs.any fun p => match (u.queue (.vq p.1)).find p.2.seq with | some e => decide (e.st = .faulted) | none => false
    .next (if failed then cores.foldl (fun s c => s.modCore c fun k => k.follow (stopCode 0 true)) u else u)

/-! ### Retirement and faults (13 R276) -/

/-- The optical unit of a queue, whose pending darkening may now take effect (20 R359). -/
def State.afterEnd (s : State) (q : QueueId) : State := match q with | .oq u => s.settleDark u | _ => s

/-- The job of a core is over when its command leaves. -/
def State.endJob (s : State) (q : QueueId) (e : Entry) : State :=
  if e.opcode = 6 then s.modCore (homeCore q e) fun k => match k.job with
    | some j => if j.seq = e.seq then { k with job := none } else k
    | none => k
  else s

/-- COMMAND_RETIRE (13 R276): a command whose work is done leaves when its report, token and decrements find room. A K.EVENT sets its bits
then, or faults on a failed check (16 R317). -/
def execCommandRetire (q : QueueId) (seq : Nat) (s : State) : Answer :=
  match (s.queue q).find seq with
  | none => .next s
  | some e =>
    match e.st, e.work with
    | .running, .done v z f tiles =>
      if !s.retireRoom q e then .next s
      else match (if e.opcode = 0x14 then s.eventObject q e else .ok none) with
        | .error c => .next ((s.faultCmd q seq c false).afterEnd q)
        | .ok _ => .next (((((s.raiseEvent q e).endJob q e).retireCmd q e v z f tiles).installCal q e).afterEnd q)
    | _, _ => .next s

/-- The cause with which a running job faults for a stop that no context is there to take (10 R244), and whether its queue freezes. -/
def State.orphanStop (s : State) (q : QueueId) (e : Entry) : Option (Nat × Bool) :=
  let k := s.core (homeCore q e)
  match k.job with
  | none => none
  | some j =>
    let code := if k.vs.st = .stopped ∧ k.vs.atStop ≠ 0 then k.vs.atStop else if k.ms.st = .stopped then k.ms.atStop else 0
    let frozen : Bool := decide ((s.ctx j.core j.ctx).st = .frozen)
    if e.opcode = 6 ∧ j.seq = e.seq ∧ code ≠ 0 ∧ (frozen = true ∨ s.pusherThere j = false) then some (codeCause code, frozen) else none

/-- COMMAND_FAULT (13 R276): the work of a running command faults; a phase that is to rerun does not (23 R398). -/
def execCommandFault (q : QueueId) (seq : Nat) (s : State) : Answer :=
  match (s.queue q).find seq with
  | none => .next s
  | some e =>
    if e.st ≠ .running then .next s
    else match e.work with
    | .failed c f =>
      if c = 0x06 ∧ e.eligible (s.core (homeCore q e)) = true then .next s else .next ((s.faultCmd q seq c f).afterEnd q)
    | _ =>
      match s.orphanStop q e with
      | some (c, f) =>
        .next ((s.modCore (homeCore q e) fun k => { k with vs := { k.vs with atStop := 0 }, ms := { k.ms with atStop := 0 } }).faultCmd q seq c f)
      | none => .next s

/-! ### Reruns (23 R396 to R398) -/

/-- The locations of the unit, and of the index, that a copy's run reads next where it stands. -/
def State.copyReads (s : State) (q : QueueId) (e : Entry) : List Nat :=
  let at_ (op : Nat × Bool) (o : Int) : List Nat := match s.cmdReach q e op.1 op.2 o false with | .loc l _ => [l] | _ => []
  let j := e.progress / e.rowUnits
  let idx := if e.indexed then at_ (e.d 10, false) (4 * j : Nat) else []
  idx ++ (match (s.rowList q e)[j]? with | some r => at_ e.source (r.1 + (4 * (e.progress % e.rowUnits) : Nat)) | none => [])

/-- The poisoned lines that a cancelled phase read, by their first locations: those that its streams, or its nest, met and kept, or those of the
unit at which its copy stands (23 R398). -/
def State.poisonedReads (s : State) (q : QueueId) (e : Entry) : List Nat :=
  let read : List Nat := if copyFamily e.opcode then (s.copyReads q e).filter s.poisoned else e.met
  (read.map fun l => l / 64 * 64).eraseDups

/-- The retired copy that a refetch runs again, as a command of the phase's pushing context (notes/assumptions/20.md). (DEDUCED, unsafe: notes/assumptions/20.md) -/
def State.refetchEntry (s : State) (core : Nat) (e : Entry) (seq : Nat) (image : List Word) : Entry :=
  { e with seq := seq, image := image, shapes := (imageTensors image []).map fun t => (t, s.shapeRecord core t), work := .pending, progress := 0 }

/-- The entry of a refetch table whose write sets cover a line, the most recently retired first. -/
def Core.covering (k : Core) (line : Nat) : Option (Nat × List Word) :=
  k.refetch.find? fun r => ([setOf ((r.2.getD 14 0).toNat % 2 ^ 32), setOf ((r.2.getD 14 0).toNat / 2 ^ 32)] : List LineSet).any fun l =>
    decide (l.start ≤ line) && decide (line < l.start + l.length)

/-- The entry that writes a poisoned line of a phase again; none covers a line outside the core's slice. -/
def Core.refetchOf (k : Core) (core loc : Nat) : Option (Nat × List Word) :=
  if localLoc core loc then k.covering ((loc - sliceBase core) / 64) else none

/-- Refetches still to run: each copy's number and image, and how many of its units it has written. -/
abbrev Refetches := List (Nat × List Word × Nat)

/-- How the refetches of a phase end in a turn: done, failed, or waiting with those that are left. -/
inductive Refetched where
  | ok (s : State)
  | fault (s : State) (cause : Nat)
  | wait (s : State) (left : Refetches)

/-- Whether a refetch waits to start: for a free copy channel, or for an active phase that its write sets overlap (23 R398). -/
def State.refetchWaits (s : State) (core : Nat) (q0 : QueueId) (e f : Entry) : Bool :=
  decide (4 ≤ ((s.core core).cq.entries.filter fun b => decide (b.st = .running)).length)
    || (coreQueues core).any fun v => (s.queue v).entries.any fun b =>
        decide (b.st = .running) && !(decide (v = q0) && b.seq == e.seq) && f.writeSets.any fun x => (b.readSets ++ b.writeSets).any (setsMeet x)

/-- Runs the refetches of a phase of queue q0 one after another, each line once a stalled log has room for it (22 R389). -/
def refetchAll (core : Nat) (q0 : QueueId) (e : Entry) : Refetches → State → Refetched
  | [], s => .ok s
  | (seq, image, done) :: rest, s =>
    let f := { s.refetchEntry core e seq image with progress := done }
    let q : QueueId := .cq core
    let room := s.copyRoom q f
    let kept (t : State) (units : List (Int × Nat)) : State := s.logCopy t q f ((units.reverse.map fun u => unitLine f u.1).eraseDups)
    let targets := s.copyTargets q f
    if decide (room = 0) || (decide (done = 0) && s.refetchWaits core q0 e f) then .wait s ((seq, image, done) :: rest)
    else match copySpans q f (f.spans done room) { s := s, units := [] } with
      | .going r =>
        let t := kept (r.s.cleanUnits q f r.units) r.units
        if done + room = targets.length then refetchAll core q0 e rest t else .wait t ((seq, image, done + room) :: rest)
      | .wait n => .wait (s.askTile q0 e n) ((seq, image, done) :: rest)
      | .fault r c _ =>
        let units := completedUnits f (targets.drop done) r.units
        .fault (kept (((s.writeUnits q f units).cleanUnits q f units).keepSpor r.s f) units) c

/-- Whether a command is a phase that waits to run again (23 R398). -/
def Entry.rerunWaits (e : Entry) (k : Core) : Bool := decide (e.st = .running) && (match e.work with | .failed c _ => c == 0x06 | _ => false) && e.eligible k

/-- The refetches with which a phase's rerun begins, or goes on; none where a poisoned line that it read has no entry, or none is known. -/
def State.refetchesOf (s : State) (q : QueueId) (e : Entry) : Option Refetches :=
  match e.refetches with
  | some l => some l
  | none =>
    let core := homeCore q e
    let found := (s.poisonedReads q e).map ((s.core core).refetchOf core)
    if found.isEmpty || found.any Option.isNone then none else some ((found.filterMap id).eraseDups.map fun r => (r.1, r.2, 0))

/-- The wrack entry of a phase's rerun, event 3, or of its fault, event 4, with the fault's cause (23 R398, R407). -/
def State.noteRerun (s : State) (q : QueueId) (e : Entry) (event cause : Nat) : State :=
  let core := homeCore q e
  s.wrackAdd event cause 1 (wrackSource core (queueKind q - 1)) (BitVec.ofNat 64 e.seq) (s.core core).cycle

/-- PHASE_RERUN (23 R398): an eligible phase that met poison refetches the lines it read and starts again, or faults where a line has no
entry or a refetch faults. -/
def execPhaseRerun (q : QueueId) (seq : Nat) (s : State) : Answer :=
  match (s.queue q).find seq with
  | none => .next s
  | some e =>
    let core := homeCore q e
    if !e.rerunWaits (s.core core) || s.serviceOwed q seq then .next s
    else match s.refetchesOf q e with
      | none => .next ((s.noteRerun q e 4 0x06).faultCmd q seq 0x06 false)
      | some l =>
        match refetchAll core q e l s with
        | .wait t left => .next (t.modQueue q fun v => v.modEntry seq fun e => { e with refetches := some left })
        | .fault t c => .next ((t.noteRerun q e 4 c).faultCmd q seq c false)
        | .ok t =>
          let t1 := t.modQueue q fun v => v.modEntry seq fun e =>
            { e with work := .pending, progress := 0, begun := false, reruns := e.reruns + 1, met := [], refetches := none }
          .next ((t1.noteRerun q e 3 0x06).modCore core fun k =>
            { k with reruns := k.reruns + 1
                     mfst := if e.opcode = 7 then k.mfstHeld.getD 0 else k.mfst, mfstHeld := if e.opcode = 7 then none else k.mfstHeld })

end Sys2Proof.Machine
end

