-- ==== Sys2Proof/Machine/Optics.lean ====
section
/-! DEFINITION. What an optical frame computes (20 R358, R365, R366) and how far its analogue result may lie from it (20 R370). Complex numbers are in units of 2^-96; the exact output is worked out to within 2^-80 of itself, and the bounds are widened by one part in 2^40 for it (notes/assumptions/9.md). -/

namespace Sys2Proof.Machine

/-- A complex number in units of 2^-96. -/
structure Cx where
  re : Int
  im : Int
  deriving DecidableEq, Repr

def Cx.add (a b : Cx) : Cx := { re := a.re + b.re, im := a.im + b.im }

/-- The product, cut to units of 2^-96. -/
def Cx.mul (a b : Cx) : Cx := { re := (a.re * b.re - a.im * b.im) / 2 ^ 96, im := (a.re * b.im + a.im * b.re) / 2 ^ 96 }

/-- The number times p/q. -/
def Cx.frac (a : Cx) (p q : Nat) : Cx := { re := a.re * p / q, im := a.im * p / q }

/-- The squared magnitude, in units of 2^-192. -/
def Cx.norm2 (a : Cx) : Int := a.re * a.re + a.im * a.im

/-- e^(2πik/256). -/
def unitTurn (k : Nat) : Cx :=
  let sc := sinCos (twoPi * (k % 64) / 256) 0 (2 ^ 120) 0 0 44
  let c := sc.2 / 2 ^ 24
  let s := sc.1 / 2 ^ 24
  match k % 256 / 64 with
  | 0 => { re := c, im := s }
  | 1 => { re := -s, im := c }
  | 2 => { re := -c, im := -s }
  | _ => { re := s, im := -c }

/-- The value of a bin's code (20 R358): amplitude in [5:0] over 63, phase in [11:6] in 64ths of a turn. -/
def maskValue (code : Nat) : Cx := (unitTurn (4 * bitsOf code 11 6)).frac (bitsOf code 5 0) 63

/-- Element (y, x) of an image of side s held by rows. -/
def imageAt (img : List Cx) (s y x : Nat) : Cx := img.getD (s * y + x) { re := 0, im := 0 }

/-- The sum over an image of side s of its elements times e^(±2πi(vy + ux)/s), for every (v, u). -/
def transform (img : List Cx) (s : Nat) (inv : Bool) : List Cx :=
  let turn (k : Nat) : Cx := unitTurn (if inv then k * (256 / s) else 256 - k * (256 / s) % 256)
  let sum (f : Nat → Cx) : Cx := (List.range s).foldl (fun a i => a.add (f i)) { re := 0, im := 0 }
  let rows : List Cx := (List.range s).flatMap fun y => (List.range s).map fun u => sum fun x => (imageAt img s y x).mul (turn (u * x % s))
  (List.range s).flatMap fun v => (List.range s).map fun u => sum fun y => (imageAt rows s y u).mul (turn (v * y % s))

/-- The mode of a frame (20 R364). -/
structure OftMode where
  bank : Nat
  path : Nat
  phase : Nat
  rep : Nat
  compact : Bool

def Entry.oftMode (e : Entry) : OftMode :=
  { bank := bitsOf (e.d 9) 5 0, path := bitsOf (e.d 9) 8 6, phase := bitsOf (e.d 9) 10 9, rep := bitsOf (e.d 9) 13 11, compact := bitOf (e.d 9) 14 }

/-- Side of the input block (20 R365). -/
def OftMode.side (m : OftMode) : Nat := 256 / 2 ^ m.rep

/-- The bins or pixels of a path that carry light, those that are multiples of 256/side, from an input of integers (20 R358, R365). In path
0 they are one period of the output. -/
def OftMode.light (m : OftMode) (bank : Nat → Cx) (input : List Cx) : List Cx :=
  let s := m.side
  let r := 256 / s
  let masked (img : List Cx) : List Cx := (List.range (s * s)).map fun i => (bank (256 * (r * (i / s)) + r * (i % s))).mul (imageAt img s (i / s) (i % s))
  match m.path with
  | 0 => (transform (masked (transform input s false)) s true).map fun z => z.frac 1 (s * s)
  | 1 => (masked (transform input s false)).map fun z => z.frac (r * r) 256
  | _ => (masked (transform input s true)).map fun z => z.frac (r * r) 256

/-- The squared magnitude as the real element of an intensity frame (20 R366). -/
def OftMode.detect (m : OftMode) (z : Cx) : Cx := if m.phase = 2 then { re := z.norm2 / 2 ^ 96, im := 0 } else z

/-- The exact elements of a frame in the order in which they are stored (20 R365). -/
def OftMode.stored (m : OftMode) (small : List Cx) : List Cx :=
  let s := m.side
  let r := 256 / s
  let w := if m.compact then s else 256
  let k := if m.compact && m.path == 1 then r else 1
  (List.range (w * w)).map fun i =>
    let y := k * (i / w)
    let x := k * (i % w)
    if m.path = 0 then imageAt small s (y % s) (x % s)
    else if y % r = 0 ∧ x % r = 0 then imageAt small s (y / r) (x / r)
    else { re := 0, im := 0 }

/-- Whether an error of squared magnitude e2 lies within 2^-k of a peak of squared magnitude p2, a frame of drive D below 64 having 64/D of
that in every mode but the differential one (20 R370). -/
def withinPeak (phase drive k : Nat) (e2 p2 : Int) : Bool :=
  let d : Int := if drive < 64 ∧ phase ≠ 3 then drive else 64
  decide (e2 * d * d * 4 ^ k * 2 ^ 40 ≤ p2 * 4096 * (2 ^ 40 + 1))

/-- The bounds of R370 on each element and on the RMS, as powers of two below the peak. -/
def bounds (phase : Nat) : Nat × Nat := match phase with | 1 => (10, 12) | 2 => (7, 9) | _ => (8, 10)

/-- The errors of a frame: those the device draws where the bounds admit them, and none otherwise; the peak is that of the whole output. A drive
below 16 has no bound. -/
def admitted (phase drive : Nat) (light errs : List Cx) : List Cx :=
  let p2 := light.foldl (fun p z => max p z.norm2) 0
  let b := bounds phase
  if drive < 16 then errs
  else
    let each := errs.map fun e => if withinPeak phase drive b.1 e.norm2 p2 then e else { re := 0, im := 0 }
    let sum := each.foldl (fun t e => t + e.norm2) 0
    if withinPeak phase drive b.2 sum (p2 * errs.length) then each else each.map fun _ => { re := 0, im := 0 }

/-- A real number in units of 2^-96 as a value. -/
def fixedVal (v k : Int) : Val := .num (decide (v < 0)) v.natAbs (k - 96)

/-- The elements that frame n writes for an input of integer pairs (20 R365 to R367): an all-zero frame is exact; the n-th frame of light
errs by Config.opticalError. (DESIGN CHOICE, safe: notes/assumptions/9.md) -/
def frameElements (m : OftMode) (bank : Nat → Cx) (scale : Int) (out : Slot) (n : Nat) (input : List (Int × Int)) : List Elem :=
  let drive := input.foldl (fun d p => max d (max p.1.natAbs p.2.natAbs)) 0
  let count := if m.compact then m.side * m.side else 65536
  if drive = 0 then List.replicate count 0
  else
    let light := m.light bank (input.map fun p => { re := p.1 * 2 ^ 96, im := p.2 * 2 ^ 96 })
    let exact := (m.stored light).map m.detect
    let errs := (List.range count).map fun i =>
      let e := Config.opticalError n i
      ({ re := e.1, im := if m.phase = 2 then 0 else e.2 } : Cx)
    let k := if m.phase = 2 then 2 * scale else scale
    List.zipWith (fun z e => BitVec.ofNat 32 (convertElem out [fixedVal (z.re + e.re) k, fixedVal (z.im + e.im) k]).1) exact (admitted m.phase drive (light.map m.detect) errs)

end Sys2Proof.Machine
end

