-- ==== Sys2Proof/Machine/Optical.lean ====
section
/-! DEFINITION. The commands of an optical unit at work (20 R363 to R374) and the steps that end a frame and a bank load. -/

namespace Sys2Proof.Machine

/-- Reads units of 4 bytes of an operand at rising offsets. -/
def readUnits (q : QueueId) (e : Entry) (ref : Nat) (tensor : Bool) : List Int → State → State × (List Nat ⊕ (Nat × Bool ⊕ Nat))
  | [], s => (s, .inl [])
  | o :: os, s =>
    match s.cmdRead q e ref tensor o 4 with
    | .fault c f => (s, .inr (.inl (c, f)))
    | .wait n => (s, .inr (.inr n))
    | .ok v t =>
      match readUnits q e ref tensor os t with
      | (u, .inl vs) => (u, .inl (v :: vs))
      | other => other

/-- Writes units of 4 bytes of an operand: none where all are written, else a fault or a wait. -/
def writeUnitsAt (q : QueueId) (e : Entry) (ref : Nat) (tensor : Bool) : List (Int × Nat) → State → State × Option (Nat × Bool ⊕ Nat)
  | [], s => (s, none)
  | u :: us, s =>
    match s.cmdWrite q e ref tensor u.1 4 u.2 with
    | .fault c f => (s, some (.inl (c, f)))
    | .wait n => (s, some (.inr n))
    | .ok _ t => writeUnitsAt q e ref tensor us t

/-- The units of rising offsets whose lines such a run completes before it ends: a failed run leaves those written and no others (20 R368). -/
def linesDone (q : QueueId) (e : Entry) (ref : Nat) (tensor : Bool) (units : List (Int × Nat)) (s : State) : List (Int × Nat) :=
  let line (o : Int) : Int := (refBase ref tensor + o) / 64
  let rec reached : List (Int × Nat) → State → Option Int
    | [], _ => none
    | u :: us, s => match s.cmdWrite q e ref tensor u.1 4 u.2 with | .ok _ t => reached us t | _ => some (line u.1)
  match reached units s with
  | some l => units.takeWhile fun u => decide (line u.1 ≠ l)
  | none => units

/-- The offsets of n units from an offset. -/
def unitOffsets (base : Int) (n : Nat) : List Int := (List.range n).map fun i => base + (4 * i : Nat)

/-- The unit that runs a command. -/
def ofuOf (q : QueueId) : Nat := match q with | .oq u => u | _ => 0

/-- Ends the work of a command at a fault of its access, or asks for the tile that it waits on. -/
def State.endAccess (s : State) (q : QueueId) (e : Entry) (r : Nat × Bool ⊕ Nat) : State :=
  match r with
  | .inl (c, f) => s.setWork q e.seq (.failed c f)
  | .inr n => s.askTile q e n

/-! ### K.OFT (20 R364 to R369) -/

/-- Bytes of a bank's codes: bin by bin, as last loaded, the identity where none was (20 R359, R373). -/
def Ofu.bin (u : Ofu) (bank bin : Nat) : Nat := Tbl.get identityBin u.banks (65536 * bank + bin)

/-- The integer pairs that CI8 units hold, two elements in each. -/
def pairsOf (v : Nat) : List (Int × Int) :=
  [(sextNat 8 (bitsOf v 7 0), sextNat 8 (bitsOf v 15 8)), (sextNat 8 (bitsOf v 23 16), sextNat 8 (bitsOf v 31 24))]

/-- The read of the input of frame j of a K.OFT (20 R365). -/
def State.readFrame (s : State) (q : QueueId) (e : Entry) (j : Nat) : State × (List Nat ⊕ (Nat × Bool ⊕ Nat)) :=
  readUnits q e e.source.1 e.source.2 (unitOffsets (64 * bitsOf (e.d 9) 47 32 * j : Nat) (e.oftMode.side * e.oftMode.side / 2)) s

/-- The light of frame j of a K.OFT begins, its input having been read (20 R367). -/
def State.beginLight (s : State) (q : QueueId) (e : Entry) (j : Nat) (vs : List Nat) : State :=
  let m := e.oftMode
  let unit := ofuOf q
  let (n, t) := s.takeFresh
  let u := t.ofu unit
  let elems := frameElements m (fun b => maskValue (u.bin m.bank b)) (Slot.of (bitsOf (e.d 10) 31 0)).scale (Slot.of (bitsOf (e.d 10) 63 32)) n (vs.flatMap pairsOf)
  (t.setOfu unit { u with frameBuf := some (j, elems), frameNext := none }).modQueue q fun v => v.modEntry e.seq fun e => if j = 0 then { e with chunks := [] } else e

/-- Frame j of a K.OFT begins: with the input that was read while the frame before was in the optics, or with a read of its own (20 R367). -/
def State.beginFrame (s : State) (q : QueueId) (e : Entry) (j : Nat) : State :=
  match (s.ofu (ofuOf q)).frameNext.filter fun f => f.1 == j with
  | some (_, .inl vs) => s.beginLight q e j (vs.map BitVec.toNat)
  | some (_, .inr r) => s.endAccess q e (.inl r)
  | none =>
    match s.readFrame q e j with
    | (t, .inr r) => (s.keepSpor t e).endAccess q e r
    | (t, .inl vs) => t.beginLight q e j vs

/-- Whether the frame behind frame j is still to be read. -/
def State.nextUnread (s : State) (q : QueueId) (e : Entry) (j : Nat) : Bool :=
  decide (j < bitsOf (e.d 9) 31 16) && !((s.ofu (ofuOf q)).frameNext.any fun f => f.1 == j + 1)

/-- The input of the frame behind frame j is read while frame j is in the optics (20 R367): read or faulted, or waiting for a tile. -/
def State.readAhead (s : State) (q : QueueId) (e : Entry) (j : Nat) : State :=
  let unit := ofuOf q
  if !s.nextUnread q e j then s
  else match s.readFrame q e (j + 1) with
    | (t, .inl vs) => t.setOfu unit { t.ofu unit with frameNext := some (j + 1, .inl (vs.map (BitVec.ofNat 32))) }
    | (t, .inr (.inl r)) => let u := s.keepSpor t e; u.setOfu unit { u.ofu unit with frameNext := some (j + 1, .inr r) }
    | (_, .inr (.inr n)) => s.askTile q e n

/-- K.OFT (20 R363 to R367): the checks of its start, then a frame at a time; a stale unit recalibrates or faults the command at a frame's
boundary. While a frame is in the optics the next one's input is read; the frame's output is written when its light ends. -/
def execKOft (_h : CmdHdr) (_o : CmdOps) (s : State) : Answer :=
  withCmd s fun q e =>
    let u := s.ofu (ofuOf q)
    match u.frameBuf, u.st with
    | some (j, _), _ => s.readAhead q e j
    | none, .dark | none, .faulted => s.setWork q e.seq (.failed 0x0B false)
    | none, .warming | none, .calibrating => s
    | none, _ =>
      if bitsOf (e.d 10) 3 0 ≠ 10 ∨ bitsOf (e.d 10) 35 32 ≠ 9 then s.setWork q e.seq (.failed 0x07 false)
      else if (e.source.2 = false ∧ e.d 7 % 4 ≠ 0) ∨ (e.destination.2 = false ∧ e.d 8 % 4 ≠ 0) then s.setWork q e.seq (.failed 0x03 false)
      else if u.st = .stale then
        if u.auto then s.setOfu (ofuOf q) { u with st := .calibrating } else s.setWork q e.seq (.failed 0x0B false)
      else s.beginFrame q e e.progress

/-- Classes of a frame's written units: of all of them, and of each tile of a tensor, joined with those of the frames before (20 R367). -/
def frameTiles (base : Int) (units : List (Int × Nat)) (before : List (Nat × Nat × List Nat)) : List (Nat × Nat × List Nat) :=
  let tiles := (before.map (·.1) ++ units.map fun u => ((base + u.1) / 65536).toNat).eraseDups
  tiles.map fun t =>
    let bits := summaryBits (classAll 9 ((units.filter fun u => decide (((base + u.1) / 65536).toNat = t)).map (·.2)))
    let old := ((before.find? fun b => b.1 == t).map (·.2.1)).getD 15
    (t, bits &&& old, [])

/-- The work of a K.OFT whose frames are all written: summaries in tensor mode, none in byte mode (20 R367, 21 R378). -/
def oftWork (tensor : Nat) (tensorMode : Bool) (tiles : List (Nat × Nat × List Nat)) : Work :=
  if tensorMode then .done true (tiles.all fun t => bitOf t.2.1 2) (tiles.all fun t => bitOf t.2.1 1) (tiles.map fun t => (tensor, t.1, t.2.1))
  else .done false false false []

/-- Writes a frame, its token after it (20 R367, R369), and the end of the command after the last. -/
def State.endFrame (s : State) (q : QueueId) (e : Entry) (unit j : Nat) (elems : List Elem) : State :=
  let clear (t : State) : State := t.setOfu unit { t.ofu unit with frameBuf := none }
  let units := List.zipWith (fun o v => (o, v.toNat)) (unitOffsets (64 * bitsOf (e.d 9) 63 48 * j : Nat) elems.length) elems
  match writeUnitsAt q e e.destination.1 e.destination.2 units s with
  | (_, some (.inr n)) => s.askTile q e n
  | (t, some (.inl (c, f))) =>
    let done := linesDone q e e.destination.1 e.destination.2 units s
    let kept := (writeUnitsAt q e e.destination.1 e.destination.2 done s).1
    (((clear kept).cleanUnits q e done).keepSpor t e).setWork q e.seq (.failed c f)
  | (t, none) =>
    let t1 := clear ((t.cleanUnits q e units).sealHost q e e.destination.1 e.destination.2 (units.map (·.1)))
    let t2 := if bitOf (e.d 9) 15 then t1.modCore (homeCore q e) fun k => k.setToken 12 (k.token 12 + 1) else t1
    let tiles := if e.destination.2 then frameTiles (refBase e.destination.1 true) units e.chunks else []
    t2.modQueue q fun v => v.modEntry e.seq fun e =>
      { e with progress := j + 1, chunks := tiles
               work := if j = bitsOf (e.d 9) 31 16 then oftWork (bitsOf e.destination.1 23 0) e.destination.2 tiles else .pending }

/-- OFU_FRAME_DONE: the light of the frame under way has ended, the next one's input having been read; its output waits while its token finds
no room (20 R367, R369). -/
def execOfuFrameDone (unit : Nat) (s : State) : Answer :=
  let u := s.ofu unit
  match u.frameBuf, u.queue.entries.find? fun e => decide (e.st = .running) with
  | some (j, elems), some e =>
    if s.serviceOwed (.oq unit) e.seq then .next s
    else
      let t := s.readAhead (.oq unit) e j
      if t.nextUnread (.oq unit) e j = true ∨ (bitOf (e.d 9) 15 = true ∧ 15 ≤ (t.core (homeCore (.oq unit) e)).token 12) then .next t
      else .next (t.endFrame (.oq unit) e unit j elems)
  | _, _ => .next s

/-! ### K.OMASK (20 R373) -/

/-- K.OMASK: the image is read whole, and a code with [15:12] set faults before the bank changes. -/
def execKOmask (_h : CmdHdr) (_o : CmdOps) (s : State) : Answer :=
  withCmd s fun q e =>
    let u := s.ofu (ofuOf q)
    if u.maskBuf.isSome then s
    else match u.st with
    | .dark | .faulted => s.setWork q e.seq (.failed 0x0B false)
    | .warming | .calibrating => s
    | _ =>
      if e.source.2 = false ∧ e.d 7 % 4 ≠ 0 then s.setWork q e.seq (.failed 0x03 false)
      else match readUnits q e e.source.1 e.source.2 (unitOffsets 0 32768) s with
      | (t, .inr r) => (s.keepSpor t e).endAccess q e r
      | (t, .inl vs) =>
        let codes := vs.flatMap fun v => [v % 2 ^ 16, v / 2 ^ 16]
        if codes.any fun c => decide (2 ^ 12 ≤ c) then t.setWork q e.seq (.failed 0x07 false)
        else t.setOfu (ofuOf q) { t.ofu (ofuOf q) with maskBuf := some (e.d 8 % 64, codes) }

/-- The banks with one of them loaded. -/
def Ofu.loadBank (u : Ofu) (bank : Nat) (codes : List Nat) : Ofu :=
  { u with maskBuf := none, banks := codes.zipIdx.foldl (fun b c => Tbl.set identityBin b (65536 * bank + c.2) c.1) u.banks }

/-- OFU_MASK_SET_DONE: the bank is set and the K.OMASK has done its work (20 R373). -/
def execOfuMaskSetDone (unit : Nat) (s : State) : Answer :=
  let u := s.ofu unit
  match u.maskBuf, u.queue.entries.find? fun e => decide (e.st = .running) with
  | some (bank, codes), some e => .next ((s.setOfu unit (u.loadBank bank codes)).setWork (.oq unit) e.seq (.done false false false []))
  | _, _ => .next s

/-! ### K.OCAL (20 R374) -/

/-- Bytes of a calibration block. -/
def calBytes : Nat := 262208

/-- K.OCAL, run form: it joins the warm-up or calibration under way, or starts one (20 R359, R374). -/
def execKOcalRun (_h : CmdHdr) (_o : CmdOps) (s : State) : Answer :=
  withCmd s fun q e =>
    let u := s.ofu (ofuOf q)
    match u.st with
    | .dark => s.setWork q e.seq (.failed 0x0B false)
    | .warming | .calibrating => s
    | _ => s.setOfu (ofuOf q) { u with st := .calibrating }

/-- Whether a reserved byte of a block's header is not zero (20 R374). -/
def calReserved (bytes : List Nat) : Bool :=
  ([6, 7, 14, 15, 18, 19, 20, 21, 22, 23] ++ (List.range 36).map (28 + ·)).any fun i => decide (bytes.getD i 0 ≠ 0)

/-- The block that reads as the calibration in force, with an epoch (20 R374). -/
def Ofu.calByte (u : Ofu) (i : Nat) : Nat :=
  if 0x18 ≤ i ∧ i < 0x1C then u.epoch / 256 ^ (i - 0x18) % 256
  else match u.calFree with
    | some n => if calReserved ((List.range 64).map fun j => b2n (decide (j = i))) then 0 else (Config.calibrationByte n i).toNat
    | none => (Tbl.get 0 u.calBlock i).toNat

/-- K.OCAL, write form: reads a block, which its retirement installs as the calibration; a reserved bit keeps the old one (20 R359, R374). -/
def execKOcalWrite (_h : CmdHdr) (_o : CmdOps) (s : State) : Answer :=
  withCmd s fun q e =>
    let u := s.ofu (ofuOf q)
    match u.st with
    | .warming | .calibrating => s
    | .dark => s.setWork q e.seq (.failed 0x0B false)
    | _ =>
      if e.d 7 % 64 ≠ 0 then s.setWork q e.seq (.failed 0x03 false)
      else match readUnits q e (e.d 7) false (unitOffsets 0 (calBytes / 4)) s with
      | (t, .inr r) => (s.keepSpor t e).endAccess q e r
      | (t, .inl vs) =>
        let bytes := vs.flatMap fun v => (List.range 4).map fun i => v / 256 ^ i % 256
        if calReserved (bytes.take 64) then t.setWork q e.seq (.failed 0x01 false)
        else
          let cells : Tbl Byte := (bytes.zipIdx.filter fun b => decide (b.1 ≠ 0)).map fun b => (b.2, BitVec.ofNat 8 b.1)
          (t.setOfu (ofuOf q) { t.ofu (ofuOf q) with calNext := some cells }).setWork q e.seq (.done false false false [])

/-- The first n lines of a calibration block, which have been written whole, are clean (17 R335). -/
def State.cleanBlock (s : State) (q : QueueId) (e : Entry) (a n : Nat) : State :=
  (List.range n).foldl (fun s i =>
    match s.cmdReach q e a false (64 * i : Nat) true with
    | .loc l t => t.setPoison l false
    | _ => s) s

/-- The phase record of a K.OCAL read that wrote n lines: each line's address and old bytes, from the states before and after (22 R383). -/
def State.logBlock (before after : State) (q : QueueId) (e : Entry) (a n : Nat) : State :=
  if !(after.ctx e.core e.ctx).log.en then after
  else
    let body := (List.range n).flatMap fun i =>
      match after.cmdReach q e a false (64 * i : Nat) true with
      | .loc _ _ =>
        let old : List Word := match before.cmdReach q e a false (64 * i : Nat) false with
          | .loc o _ => before.readDs o 8
          | _ => List.replicate 8 0
        BitVec.ofNat 64 (flatten (homeCore q e) (a + 64 * i)) :: old
      | _ => []
    if body.isEmpty then after else after.logRec e.core e.ctx 3 0 0 body

/-- K.OCAL, read form: writes the calibration in force into the block (20 R374), `progress` counting its lines; a stalled log holds it before its
next line (22 R389). -/
def execKOcalRead (_h : CmdHdr) (_o : CmdOps) (s : State) : Answer :=
  withCmd s fun q e =>
    let u := s.ofu (ofuOf q)
    match u.st with
    | .warming | .calibrating => s
    | .dark => s.setWork q e.seq (.failed 0x0B false)
    | _ =>
      if e.d 7 % 64 ≠ 0 then s.setWork q e.seq (.failed 0x03 false)
      else
        let log := (s.ctx e.core e.ctx).log
        let left := calBytes / 64 - e.progress
        let n := if log.blocks (9 * left) then (log.room - log.used - 16) / 72 else left
        let a := e.d 7 + 64 * e.progress
        let unit4 (i : Nat) : Nat := (List.range 4).foldl (fun n j => n + u.calByte (64 * e.progress + 4 * i + j) * 256 ^ j) 0
        let units := (List.range (16 * n)).map fun i => (((4 * i : Nat) : Int), unit4 i)
        if n = 0 then s
        else match writeUnitsAt q e a false units s with
        | (_, some (.inr w)) => s.askTile q e w
        | (t, some (.inl (c, f))) =>
          let done := linesDone q e a false units s
          let kept := ((writeUnitsAt q e a false done s).1.keepSpor t e)
          ((s.logBlock kept q e a (done.length / 16)).cleanBlock q e a (done.length / 16)).setWork q e.seq (.failed c f)
        | (t, none) =>
          (((s.logBlock t q e a n).cleanBlock q e a n).sealHost q e a false (unitOffsets 0 (16 * n))).modQueue q fun v => v.modEntry e.seq fun e =>
            { e with progress := e.progress + n, work := if n = left then .done false false false [] else .pending }

end Sys2Proof.Machine
end

