-- ==== Sys2Proof/Machine/Collective.lean ====
section
/-! DEFINITION. The collective commands (19 R348 to R357): ranks, blocks, the left fold, chunks and the events that other modules raise. What this module sends out, and on which ports, is free (notes/assumptions/15.md). -/

namespace Sys2Proof.Machine

/-! ### Fields, ranks and blocks (19 R348 to R350) -/

def Entry.collCount (e : Entry) : Nat := bitsOf (e.d 9) 31 0
def Entry.collFormat (e : Entry) : Nat := bitsOf (e.d 9) 35 32
def Entry.collReduction (e : Entry) : Nat := bitsOf (e.d 9) 37 36
def Entry.collRoot (e : Entry) : Nat := bitsOf (e.d 11) 31 16

/-- The ranks of a collective as this module sees them: modules, ranks in all, and this module's first rank. -/
structure Ranks where
  modules : Nat
  total : Nat
  first : Nat
  deriving DecidableEq, Repr

/-- The ranks that a rank table gives, or the cause of its failed check (19 R349). -/
def ranksOf (node mine : Nat) (header : Nat) (entries : List Nat) : Except Nat Ranks :=
  let counts := entries.map fun v => bitsOf v 28 16
  let here := entries.zipIdx.filter fun p => decide (bitsOf p.1 15 0 = node)
  if header = 0 ∨ 256 < header ∨ entries.any (fun v => decide (bitsOf v 63 29 ≠ 0)) = true then .error 0x01
  else match here with
    | [p] =>
      if bitsOf p.1 28 16 ≠ mine ∨ 65536 < counts.sum then .error 0x01
      else .ok { modules := entries.length, total := counts.sum, first := (counts.take p.2).sum }
    | _ => .error 0x01

/-- Whether a format is one that the command's reduction folds (19 R353). -/
def foldsFormat (reduction fmt : Nat) : Bool :=
  decide (fmt ≤ 5) || decide (fmt = 11) || (decide (fmt = 9) && decide (reduction = 0))

/-- Whether an opcode folds values: K.ALLRED and K.REDSCAT (19 R352). -/
def reduces (op : Nat) : Bool := decide (op = 0x0B ∨ op = 0x0D)

/-- Reference and mode of the source and the destination: d11 [12] and [13] (19 R348). -/
def Entry.collSource (e : Entry) : Nat × Bool := (e.d 7, bitOf (e.d 11) 12)
def Entry.collDest (e : Entry) : Nat × Bool := (e.d 8, bitOf (e.d 11) 13)

/-- The checks of a start that the rank table does not settle (19 R348 to R353). -/
def Entry.collCause (e : Entry) (r : Ranks) : Option Nat :=
  if r.total ≤ e.collRoot then some 0x01
  else if e.opcode = 0x0D ∧ e.collCount % r.total ≠ 0 then some 0x01
  else if reduces e.opcode = true ∧ foldsFormat e.collReduction e.collFormat = false then some 0x07
  else if (e.collSource.2 = false ∧ e.collSource.1 % 4 ≠ 0) ∨ (e.collDest.2 = false ∧ e.collDest.1 % 4 ≠ 0) then some 0x03
  else none

/-- Elements of a source block and of a destination block (19 R350). -/
def Entry.collIn (e : Entry) (r : Ranks) : Nat := if e.opcode = 0x0F then e.collCount * r.total else e.collCount
def Entry.collOut (e : Entry) (r : Ranks) : Nat :=
  match e.opcode with
  | 0x0C | 0x0F => e.collCount * r.total
  | 0x0D => e.collCount / r.total
  | _ => e.collCount

/-- Bytes that the packed elements of a block of n fill, to the end of its last byte or group (02 R20). -/
def packedBytes (fmt n : Nat) : Nat :=
  if fmt = 8 then (n + 4) / 5 else if fmt = 7 then (n + 3) / 4 * 3 else (codeBits fmt * n + 7) / 8

/-- The first bit and the width of an element of a block; elements from `n` on are the UINT32 indices of a K.TOPKM (02 R20, 19 R352). -/
def elemBits (fmt n i : Nat) (indexed : Bool) : Nat × Nat :=
  if indexed && decide (n ≤ i) then (8 * packedBytes fmt n + 32 * (i - n), 32)
  else if fmt = 8 then (8 * (i / 5), 8)
  else (codeBits fmt * i, codeBits fmt)

/-- Bytes of a block of n elements, with indices in a K.TOPKM. -/
def Entry.blockBytes (e : Entry) (n : Nat) : Nat :=
  if e.opcode = 0x10 then packedBytes e.collFormat n + 256 else packedBytes e.collFormat n

/-- Whether a byte reference lies in the local alias. -/
def localAlias (a : Nat) : Bool := decide (2 ^ 33 ≤ a ∧ a < 2 ^ 33 + 2 ^ 22)

/-- Byte `off` of local rank j's block of an operand: the command as the party that reaches it, the reference and its offset. In the local alias it
is the same offset in the slice of member j's core, whose alias it is; elsewhere j blocks on (19 R350). -/
def Entry.blockByte (e : Entry) (op : Nat × Bool) (bytes j off : Nat) : Entry × Nat × Bool × Int :=
  if op.2 = false ∧ localAlias op.1 = true then
    (if localAlias (op.1 + off) then { e with core := (e.members.getD j (e.core, 0)).1 } else e, op.1, false, off)
  else (e, op.1, op.2, (j * ((bytes + 63) / 64 * 64) + off : Nat))

/-- Reads n bytes of a block from byte `off` on, little-endian. -/
def State.blockRead (s : State) (q : QueueId) (e : Entry) (op : Nat × Bool) (bytes j off : Nat) : Nat → CmdGot
  | 0 => .ok 0 s
  | n + 1 =>
    let a := e.blockByte op bytes j off
    match s.cmdRead q a.1 a.2.1 a.2.2.1 a.2.2.2 1 with
    | .ok v t =>
      match t.blockRead q e op bytes j (off + 1) n with
      | .ok w u => .ok (v + 256 * w) u
      | other => other
    | other => other

/-- Writes n bytes of a block from byte `off` on. -/
def State.blockWrite (s : State) (q : QueueId) (e : Entry) (op : Nat × Bool) (bytes j off v : Nat) : Nat → CmdGot
  | 0 => .ok 0 s
  | n + 1 =>
    let a := e.blockByte op bytes j off
    match s.cmdWrite q a.1 a.2.1 a.2.2.1 a.2.2.2 1 (v % 256) with
    | .ok _ t => t.blockWrite q e op bytes j (off + 1) (v / 256) n
    | other => other

/-- Digit i of a T3 byte; the last one is whole, so that the five of any byte give it back (02 R33). -/
def t3Digit (b i : Nat) : Nat := if i % 5 = 4 then b / 81 else b / 3 ^ (i % 5) % 3

/-- Whether the five elements of the byte that holds element i of rank c's source block all go, in their places, into one destination byte: a
move copies its bits whole (19 R352). -/
def Entry.wholeByte (e : Entry) (c i : Nat) : Bool :=
  let n := e.collCount
  let i0 := i / 5 * 5
  match e.opcode with
  | 0x0C => decide (i0 + 4 < n) && decide (c * n % 5 = 0)
  | 0x0E => decide (i0 + 4 < n)
  | 0x0F => decide (i0 / n = (i0 + 4) / n) && decide ((c * n + i0 % n) % 5 = 0)
  | _ => false

/-- Digit i of a T3 byte of rank c's block as a collective moves it: a reserved byte that is not moved whole reads as zeros (02 R34). -/
def Entry.movedDigit (e : Entry) (c b i : Nat) : Nat := if 243 ≤ b ∧ e.wholeByte c i = false then 0 else t3Digit b i

/-- A T3 byte with digit p set; one that is reserved holds five zeros before, and a digit that no byte holds is zero (02 R33, R34). -/
def withDigit (b p c : Nat) : Nat :=
  let b0 := if 243 ≤ b then 0 else b
  let v := b0 - t3Digit b0 p * 3 ^ (p % 5) + c * 3 ^ (p % 5)
  if v < 256 then v else b0 - t3Digit b0 p * 3 ^ (p % 5)

/-- The code of element i of local rank j's source block. -/
def State.sourceCode (s : State) (q : QueueId) (e : Entry) (r : Ranks) (j i : Nat) : CmdGot :=
  let n := e.collIn r
  let (b, w) := elemBits e.collFormat n i (e.opcode == 0x10)
  match s.blockRead q e e.collSource (e.blockBytes n) j (b / 8) ((b % 8 + w + 7) / 8) with
  | .ok v t => .ok (if e.collFormat = 8 ∧ i < n then e.movedDigit (r.first + j) v i else v / 2 ^ (b % 8) % 2 ^ w) t
  | other => other

/-- The byte of a destination block that a partial write keeps, as memory holds it. -/
def State.keptByte (s : State) (q : QueueId) (e : Entry) (bytes j off : Nat) : Nat :=
  let a := e.blockByte e.collDest bytes j off
  match s.cmdReach q a.1 a.2.1 a.2.2.1 a.2.2.2 false with
  | .loc l _ => (s.byte l).toNat
  | _ => 0

/-- Writes element p of local rank j's destination block; the last packed element also sets to zero what it leaves unused of the block's last
byte or group (02 R20). -/
def State.writeCode (s : State) (q : QueueId) (e : Entry) (r : Ranks) (j p c : Nat) : CmdGot :=
  let n := e.collOut r
  let bytes := e.blockBytes n
  let (b, w) := elemBits e.collFormat n p (e.opcode == 0x10)
  let last := decide (p + 1 = n)
  let m := if last then packedBytes e.collFormat n - b / 8 else (b % 8 + w + 7) / 8
  let old := (List.range m).foldl (fun v i => v + s.keptByte q e bytes j (b / 8 + i) * 256 ^ i) 0
  let new :=
    if e.collFormat = 8 ∧ p < n then withDigit (if last then old % 3 ^ (p % 5) else old) p c
    else if last then old % 2 ^ (b % 8) + c % 2 ^ w * 2 ^ (b % 8) else putBits old (b % 8) w c
  s.blockWrite q e e.collDest bytes j (b / 8) new m

/-! ### What an element becomes (19 R352, R353) -/

/-- The element of rank c's source block that goes into element p of rank k's destination block, if some does (19 R352). -/
def Entry.feeds (e : Entry) (r : Ranks) (k p c : Nat) : Option Nat :=
  let n := e.collCount
  match e.opcode with
  | 0x0B => some p
  | 0x0D => some (k * (n / r.total) + p)
  | 0x0C => if p / n = c then some (p % n) else none
  | 0x0E => if c = e.collRoot then some p else none
  | 0x0F => if p / n = c then some (k * n + p % n) else none
  | _ => some p

/-- The slot under which a fold works: nearest even, no saturation, no flush (19 R353). -/
def foldSlot (fmt : Nat) : Slot := { fmt := fmt, scale := 0, rnd := 0, sat := false, zabs := false, badtrap := false, flush := false }

/-- One step of a fold on codes (19 R353). -/
def foldStep (reduction fmt v c : Nat) : Nat :=
  if isFloat fmt then
    if reduction = 0 then (sumRounded fmt (foldSlot fmt) [] [fpVal fmt false v, fpVal fmt false c]).1
    else (minmaxFp fmt (foldSlot fmt) (reduction == 1) v c).1
  else if fmt = 9 then
    let half (i : Nat) : Nat := (sumRounded 2 (foldSlot 2) [] [fpVal 2 false (v / 65536 ^ i % 65536), fpVal 2 false (c / 65536 ^ i % 65536)]).1
    half 0 + half 1 * 65536
  else
    let x := intOf fmt v
    let y := intOf fmt c
    let z : Int := match reduction with | 0 => x + y | 1 => max x y | _ => min x y
    (z % 2 ^ intWidth fmt).toNat

/-- The left fold in rank order (19 R353). -/
def foldCodes (reduction fmt : Nat) : List Nat → Nat
  | [] => 0
  | v :: vs => vs.foldl (foldStep reduction fmt) v

/-- The 64 best of all ranks' pairs (07 R177, 19 R352): `get c i` is element i of rank c's block, 64 values and then 64 indices. -/
def mergeTop (fmt ranks : Nat) (get : Nat → Nat → Nat) : List Nat :=
  let xs := (List.range ranks).flatMap fun c => (List.range 64).map fun i => (get c i, get c (64 + i), 64 * c + i)
  let rows := topRows (foldSlot fmt) xs
  rows.1.map (fun v => v % 2 ^ codeBits fmt) ++ rows.2

/-! ### Chunks (19 R354) -/

/-- Keys of the tables that a collective keeps in `chunks`: contributions under their rank, and above all ranks a mark for each chunk
written, the classes of each destination tile, and the classes of all that was written. -/
def chunkWritten : Nat := 65536
def chunkTile : Nat := 65537
def chunkAll : Nat := 65538

/-- Elements of a destination block, indices of a K.TOPKM among them. -/
def Entry.outElems (e : Entry) (r : Ranks) : Nat := if e.opcode = 0x10 then 128 else e.collOut r

/-- The chunk of the destination range in which an element begins. (DEDUCED, safe: notes/assumptions/49.md) -/
def Entry.chunkOf (e : Entry) (r : Ranks) (p : Nat) : Nat := (elemBits e.collFormat (e.collOut r) p (e.opcode == 0x10)).1 / 8 / 65536

/-- Chunks of the destination range. -/
def Entry.chunkCount (e : Entry) (r : Ranks) : Nat := (e.blockBytes (e.collOut r) + 65535) / 65536

/-- Elements that begin in a chunk. -/
def Entry.chunkElems (e : Entry) (r : Ranks) (k : Nat) : List Nat := (List.range (e.outElems r)).filter fun p => decide (e.chunkOf r p = k)

/-- The local ranks whose destinations differ in what they take: all in K.REDSCAT and K.ALLTOALL, one for the rest. -/
def Entry.targets (e : Entry) : List Nat := if e.opcode = 0x0D ∨ e.opcode = 0x0F then List.range e.members.length else (List.range e.members.length).take 1

/-- What chunk k takes from rank c: for each target in order and each element in order, the element of c's block. -/
def Entry.needs (e : Entry) (r : Ranks) (k c : Nat) : List (Nat × Nat × Nat) :=
  e.targets.flatMap fun j => (e.chunkElems r k).filterMap fun p => (e.feeds r (r.first + j) p c).map fun i => (j, p, i)

/-- Whether a rank is of this module. -/
def Entry.localRank (e : Entry) (r : Ranks) (c : Nat) : Bool := decide (r.first ≤ c) && decide (c < r.first + e.members.length)

/-- A contribution that has arrived. -/
def Entry.contribution (e : Entry) (c k : Nat) : Option (List Nat) := (e.chunks.find? fun x => x.1 == c && x.2.1 == k).map (·.2.2)

/-- Whether chunk k has what it needs of every rank of another module. -/
def Entry.chunkReady (e : Entry) (r : Ranks) (k : Nat) : Bool :=
  (List.range r.total).all fun c => e.localRank r c || (e.needs r k c).isEmpty || (e.contribution c k).isSome

/-- Reads one list of elements of a local rank's source block. -/
def readCodes (q : QueueId) (e : Entry) (r : Ranks) (j : Nat) : List Nat → State → State × (List Nat ⊕ (Nat × Bool ⊕ Nat))
  | [], s => (s, .inl [])
  | i :: is, s =>
    match s.sourceCode q e r j i with
    | .fault c f => (s, .inr (.inl (c, f)))
    | .wait n => (s, .inr (.inr n))
    | .ok v t =>
      match readCodes q e r j is t with
      | (u, .inl vs) => (u, .inl (v :: vs))
      | other => other

/-- Gathers what chunk k takes from each rank: for every (target, element) the codes in rank order. -/
def gatherChunk (q : QueueId) (e : Entry) (r : Ranks) (k : Nat) : List Nat → State → State × (List ((Nat × Nat) × Nat) ⊕ (Nat × Bool ⊕ Nat))
  | [], s => (s, .inl [])
  | c :: cs, s =>
    let needs := e.needs r k c
    let got : State × (List Nat ⊕ (Nat × Bool ⊕ Nat)) :=
      if e.localRank r c then readCodes q e r (c - r.first) (needs.map fun x => x.2.2) s else (s, .inl ((e.contribution c k).getD []))
    match got with
    | (_, .inr x) => (s, .inr x)
    | (t, .inl vs) =>
      match gatherChunk q e r k cs t with
      | (u, .inl rest) => (u, .inl (List.zipWith (fun n v => ((n.1, n.2.1), v)) needs vs ++ rest))
      | other => other

/-- The code of element p for a target, from what was gathered (19 R352, R353). -/
def Entry.outCode (e : Entry) (gathered : List ((Nat × Nat) × Nat)) (j p : Nat) : Nat :=
  foldCodes (if reduces e.opcode then e.collReduction else 0) e.collFormat ((gathered.filter fun g => decide (g.1 = (j, p))).map (·.2))

/-- The elements that chunk k writes: local rank, element, code. -/
def Entry.chunkWrites (e : Entry) (r : Ranks) (k : Nat) (gathered : List ((Nat × Nat) × Nat)) : List (Nat × Nat × Nat) :=
  let all := List.range e.members.length
  let many : Bool := e.opcode == 0x0D || e.opcode == 0x0F
  if e.opcode = 0x10 then
    let get (c i : Nat) : Nat := (((gathered.filter fun g => decide (g.1 = (0, i))).map (·.2)).getD c 0)
    let rows := mergeTop e.collFormat r.total get
    all.flatMap fun j => rows.zipIdx.map fun v => (j, v.2, v.1)
  else all.flatMap fun j => (e.chunkElems r k).map fun p => (j, p, e.outCode gathered (if many then j else 0) p)

/-- Writes elements one after another. -/
def writeCodes (q : QueueId) (e : Entry) (r : Ranks) : List (Nat × Nat × Nat) → State → State × Option (Nat × Bool ⊕ Nat)
  | [], s => (s, none)
  | w :: ws, s =>
    match s.writeCode q e r w.1 w.2.1 w.2.2 with
    | .fault c f => (s, some (.inl (c, f)))
    | .wait n => (s, some (.inr n))
    | .ok _ t => writeCodes q e r ws t

/-- The tile of an element of a tensor-mode destination. -/
def Entry.outTile (e : Entry) (r : Ranks) (j p : Nat) : Nat :=
  let n := e.collOut r
  let b := (elemBits e.collFormat n p (e.opcode == 0x10)).1 / 8
  ((refBase e.collDest.1 true + (e.blockByte e.collDest (e.blockBytes n) j b).2.2.2) / 65536).toNat

/-- The classes of elements written, joined with those recorded before (03 R72, 17 R324). (DEDUCED, unsafe: notes/assumptions/21.md) -/
def Entry.recordClasses (e : Entry) (r : Ranks) (ws : List (Nat × Nat × Nat)) : List (Nat × Nat × List Nat) :=
  let n := e.collOut r
  let bits (ws : List (Nat × Nat × Nat)) : Nat :=
    let one (w : Nat × Nat × Nat) : Nat := summaryBits (classAll (if e.opcode = 0x10 ∧ n ≤ w.2.1 then 3 else e.collFormat) [w.2.2])
    ws.foldl (fun b w => b &&& one w) 15
  let old (key sub : Nat) : Nat := ((e.chunks.find? fun x => x.1 == key && x.2.1 == sub).bind fun x => x.2.2.head?).getD 15
  let tiles := if e.collDest.2 then (ws.map fun w => e.outTile r w.1 w.2.1).eraseDups else []
  let kept := e.chunks.filter fun x => decide (x.1 ≠ chunkAll) && !(decide (x.1 = chunkTile) && tiles.contains x.2.1)
  kept ++ [(chunkAll, 0, [bits ws &&& old chunkAll 0])]
    ++ tiles.map fun t => (chunkTile, t, [bits (ws.filter fun w => decide (e.outTile r w.1 w.2.1 = t)) &&& old chunkTile t])

/-- Lines that a chunk's writes cover whole are clean (17 R335). -/
def State.cleanChunk (s : State) (q : QueueId) (e : Entry) (r : Ranks) (k : Nat) : State :=
  let bytes := e.blockBytes (e.collOut r)
  let hi := min bytes (65536 * (k + 1))
  (List.range e.members.length).foldl (fun s j =>
    (List.range ((hi - 65536 * k) / 64 + 1)).foldl (fun s i =>
      let a := e.blockByte e.collDest bytes j (65536 * k + 64 * i)
      match s.cmdReach q a.1 a.2.1 a.2.2.1 a.2.2.2 true with
      | .loc l t => if l % 64 = 0 ∧ 65536 * k + 64 * i + 64 ≤ hi then t.setPoison l false else s
      | _ => s) s) s

/-- Writes of a chunk to host memory seal the pushing context's windows (22 R390, code 2). -/
def State.sealChunk (s : State) (q : QueueId) (e : Entry) (r : Ranks) (k : Nat) : State :=
  let bytes := e.blockBytes (e.collOut r)
  let hi := min bytes (65536 * (k + 1))
  let hosts := (List.range e.members.length).any fun j => (List.range ((hi - 65536 * k + 63) / 64)).any fun i =>
    let a := e.blockByte e.collDest bytes j (65536 * k + 64 * i)
    match s.cmdReach q a.1 a.2.1 a.2.2.1 a.2.2.2 true with | .loc l _ => hostMemory l | _ => false
  if hosts then s.sealCtx e.core e.ctx 2 else s

/-- Folds chunk k and writes it at every destination of this module (19 R352 to R354). -/
def State.foldChunk (s : State) (q : QueueId) (e : Entry) (r : Ranks) (k : Nat) : State × Option (Nat × Bool ⊕ Nat) :=
  match gatherChunk q e r k (List.range r.total) s with
  | (_, .inr x) => (s, some x)
  | (t, .inl gathered) =>
    let ws := e.chunkWrites r k gathered
    match writeCodes q e r ws t with
    | (u, some (.inl x)) => (u, some (.inl x))
    | (_, some (.inr n)) => (s, some (.inr n))
    | (u, none) =>
      (((u.cleanChunk q e r k).sealChunk q e r k).modQueue q fun v => v.modEntry e.seq fun b =>
        { b with chunks := (b.recordClasses r ws) ++ [(chunkWritten, k, [])] }, none)

/-- The work of a collective whose chunks are all acknowledged: its summaries (03 R72; notes/assumptions/21.md). -/
def Entry.collWork (e : Entry) : Work :=
  let all := ((e.chunks.find? fun x => x.1 == chunkAll).bind fun x => x.2.2.head?).getD 15
  let tiles := (e.chunks.filter fun x => x.1 == chunkTile).map fun x => (bitsOf e.collDest.1 23 0, x.2.1, x.2.2.headD 0)
  .done true (bitOf all 2) (bitOf all 1) tiles

/-! ### The commands (19 R351 to R356) -/

/-- The ranks of a command, read from its table as it starts, or the cause with which it faults, or a wait (19 R349). -/
def State.collRanks (s : State) (q : QueueId) (e : Entry) : State × (Ranks ⊕ (Nat × Bool ⊕ Nat)) :=
  let mine := e.members.length
  if e.d 10 = 0 then (s, .inl { modules := 1, total := mine, first := 0 })
  else if e.d 10 % 8 ≠ 0 then (s, .inr (.inl (0x03, false)))
  else match s.cmdDoublewords q e (e.d 10) 1 with
    | (_, .inr x) => (s, .inr x)
    | (t, .inl hs) =>
      let h := (hs.headD 0).toNat
      if h = 0 ∨ 256 < h then (s, .inr (.inl (0x01, false)))
      else match t.cmdDoublewords q e (e.d 10 + 8) h with
        | (_, .inr x) => (s, .inr x)
        | (u, .inl es) => match ranksOf s.node mine h (es.map (·.toNat)) with | .ok r => (u, .inl r) | .error c => (s, .inr (.inl (c, false)))

/-- Writes every chunk of a collective of this module alone. -/
def foldAll (q : QueueId) (e : Entry) (r : Ranks) : List Nat → State → State
  | [], s =>
    match (s.queue q).find e.seq with
    | some b => s.setWork q e.seq b.collWork
    | none => s
  | k :: ks, s =>
    let b := ((s.queue q).find e.seq).getD e
    match s.foldChunk q b r k with
    | (t, some x) => t.endAccess q e x
    | (t, none) => foldAll q e r ks t

/-- Keeps the ranks of a command that has passed the checks of its start (19 R349). -/
def State.keepRanks (s : State) (q : QueueId) (e : Entry) (r : Ranks) : State :=
  s.modQueue q fun v => v.modEntry e.seq fun b => { b with ranks := some (r.modules, r.total, r.first) }

/-- The ranks that a running command keeps. -/
def Entry.keptRanks (e : Entry) : Option Ranks := e.ranks.map fun x => { modules := x.1, total := x.2.1, first := x.2.2 }

/-- Whether a chunk is written. -/
def Entry.wrote (e : Entry) (k : Nat) : Bool := e.chunks.any fun x => x.1 == chunkWritten && x.2.1 == k

/-- The first open chunk that is whole and not yet written: at most 32 chunks from the first unacknowledged one are open (19 R354). -/
def Entry.nextChunk (e : Entry) (r : Ranks) : Option Nat :=
  ((List.range 32).map (e.acked + ·)).find? fun k =>
    decide (k < e.chunkCount r) && e.chunkReady r k && !e.wrote k

/-- What a collective does once its ranks are known: alone, its whole effect, the chunks that stand written before a wait not again; with other modules, once all their commands run, a chunk, whose
acknowledgement it transmits (19 R351, R352, R354). -/
def State.collectiveRun (s : State) (q : QueueId) (e : Entry) (r : Ranks) : State :=
  if r.modules = 1 then foldAll q e r ((List.range (e.chunkCount r)).filter fun k => !e.wrote k) s
  else if !e.peers then s
  else match e.nextChunk r with
    | none => s
    | some k =>
      match s.foldChunk q e r k with
      | (u, some x) => u.endAccess q e x
      | (u, none) => u.transmitFor e 1

/-- The turn of a collective command: in the first its checks and its ranks (19 R348 to R353); then its work. -/
def collective (s : State) : Answer :=
  withCmd s fun q e =>
    match e.keptRanks with
    | some r => s.collectiveRun q e r
    | none =>
      match s.collRanks q e with
      | (_, .inr x) => s.endAccess q e x
      | (t, .inl r) =>
        match e.collCause r with
        | some c => s.setWork q e.seq (.failed c false)
        | none => (t.keepRanks q e r).collectiveRun q e r

def execKAllred (_h : CmdHdr) (_o : CmdOps) (s : State) : Answer := collective s
def execKAllgath (_h : CmdHdr) (_o : CmdOps) (s : State) : Answer := collective s
def execKRedscat (_h : CmdHdr) (_o : CmdOps) (s : State) : Answer := collective s
def execKBcast (_h : CmdHdr) (_o : CmdOps) (s : State) : Answer := collective s
def execKAlltoall (_h : CmdHdr) (_o : CmdOps) (s : State) : Answer := collective s
def execKTopkm (_h : CmdHdr) (_o : CmdOps) (s : State) : Answer := collective s

/-- A running collective of several modules that has passed the checks of its start, with its ranks, for the events of other modules. -/
def State.runningColl (s : State) (q : QueueId) (seq : Nat) : Option (Entry × Ranks) :=
  match (s.queue q).find seq with
  | none => none
  | some e =>
    if e.st = .running ∧ e.work = .pending ∧ 0x0B ≤ e.opcode ∧ e.opcode ≤ 0x10 then
      match e.keptRanks with
      | some r => if r.modules = 1 then none else some (e, r)
      | none => none
    else none

/-- COLLECTIVE_MATCH: with cause 0 every module's command runs and they agree; 0x01: they differ, which faults them all (19 R351); 0x03 to 0x06:
the command of another module has faulted on its own access, and 0x0C: no causeway route was found for a link between other modules (R356). The channel of coordination has transmitted, which seals the open windows of
the pushing context (22 R390); the chunks then leave on the collective channel. -/
def execCollectiveMatch (q : QueueId) (seq cause : Nat) (s : State) : Answer :=
  match s.runningColl q seq with
  | none => .next s
  | some (e, _) =>
    if cause = 0 then
      if e.peers then .next s
      else
        .next (((s.modQueue q fun v => v.modEntry seq fun b => { b with peers := true, chunks := [], acked := 0, since := s.time }).transmitFor
          e 1).transmit 0)
    else if (cause = 1 ∧ e.peers = false) ∨ (3 ≤ cause ∧ cause ≤ 6) ∨ (cause = 0x0C ∧ e.peers = true) then
      .next ((s.setWork q seq (.failed cause false)).transmitFor e 1)
    else .next s

/-- CHUNK_CONTRIBUTION: what rank `rank` of another module contributes to a chunk, as codes in the order of `needs`; one for a chunk beyond
the window, or one that has come before, is held at its sender or discarded (19 R354, R355). -/
def execChunkContribution (q : QueueId) (seq rank chunk : Nat) (bytes : List Nat) (s : State) : Answer :=
  match s.runningColl q seq with
  | none => .next s
  | some (e, r) =>
    if !e.peers || decide (chunk < e.acked) || decide (e.acked + 32 ≤ chunk) || decide (e.chunkCount r ≤ chunk) || decide (r.total ≤ rank)
        || e.localRank r rank || (e.contribution rank chunk).isSome || decide (bytes.length ≠ (e.needs r chunk rank).length) then .next s
    else .next (s.modQueue q fun v => v.modEntry seq fun b => { b with chunks := b.chunks ++ [(rank, chunk, bytes)] })

/-- CHUNK_ACK: every destination write of the first open chunk is complete on every module; after the last the work is done (19 R354). -/
def execChunkAck (q : QueueId) (seq chunk : Nat) (s : State) : Answer :=
  match s.runningColl q seq with
  | none => .next s
  | some (e, r) =>
    if chunk ≠ e.acked ∨ e.wrote chunk = false then .next s
    else
      let b := { e with acked := e.acked + 1, since := s.time, chunks := e.chunks.filter fun x => decide (chunkWritten < x.1) || decide (x.2.1 ≠ chunk) }
      .next (s.modQueue q fun v => v.modEntry seq fun _ => { b with work := if b.acked = e.chunkCount r then b.collWork else .pending })

/-- Whether the oldest open chunk still lacks a contribution. -/
def Entry.lacks (e : Entry) (r : Ranks) : Bool :=
  !e.chunkReady r e.acked && !e.wrote e.acked

/-- TIME has come CTIME past a command's `since` (19 R347, R354). -/
def State.pastCtime (s : State) (e : Entry) : State := s.advanceTime (e.since + 1000 * s.ctime)

/-- COLLECTIVE_TIMEOUT: the oldest open chunk has lacked a contribution for CTIME, and the link it is expected on is suspect; the collective starts
again from the first chunk not acknowledged, its later chunks sent again (19 R346, R354, R355). -/
def execCollectiveTimeout (q : QueueId) (seq port : Nat) (s : State) : Answer :=
  match s.runningColl q seq with
  | none => .next s
  | some (e, r) =>
    let v := s.strand port
    if e.peers = true ∧ e.lacks r = true ∧ port < 18 ∧ (v.st = .up ∨ v.st = .degraded) then
      let t := s.pastCtime e
      .next (t.setStrand port { t.strand port with st := .suspect }).restartColls
    else .next s

/-- CAUSEWAY_TIMEOUT: with a link suspect or excluded, no causeway route within CTIME of the suspicion; the collective faults with 0x0C, its
acknowledged chunks written (19 R356). -/
def execCausewayTimeout (q : QueueId) (seq : Nat) (s : State) : Answer :=
  match s.runningColl q seq with
  | none => .next s
  | some (e, _) =>
    let broken := (List.range 18).any fun p => decide ((s.strand p).st = .suspect ∨ (s.strand p).st = .excluded)
    if e.peers && broken then .next ((s.pastCtime e).setWork q seq (.failed 0x0C false)) else .next s

end Sys2Proof.Machine
end

