-- ==== Sys2Proof/Machine/Pages.lean ====
section
/-! DEFINITION. Pages that move, are discarded, fail or cool (17 R331 to R337), and the scrubber (23 R399). -/

namespace Sys2Proof.Machine

/-- What a K.MIGR or K.DISCARD has counted: entries changed, skipped and found incompressible, and frames released (17 R337). -/
structure PageCount where
  changed : Nat
  skipped : Nat
  incompressible : Nat
  released : Nat
  deriving DecidableEq, Repr

/-- The counts that a command keeps between its entries; none before the first. -/
def Entry.pageCount (e : Entry) : PageCount :=
  match e.progress, e.chunks with
  | _ + 1, [(c, k, [i, r])] => { changed := c, skipped := k, incompressible := i, released := r }
  | _, _ => { changed := 0, skipped := 0, incompressible := 0, released := 0 }

/-- Moves a command on, with its counts. -/
def State.pageStep (s : State) (q : QueueId) (e : Entry) (progress : Nat) (c : PageCount) : State :=
  s.modQueue q fun v => v.modEntry e.seq fun e => { e with progress := progress, chunks := [(c.changed, c.skipped, [c.incompressible, c.released])] }

/-- Entries of a K.MIGR or K.DISCARD. -/
def Entry.pages (e : Entry) : Nat := bitsOf (e.d 9) 11 0 + 1

/-- Whether the addresses of the two commands are aligned (17 R337). -/
def Entry.pagesAligned (e : Entry) : Bool := decide (e.d 7 % 8 = 0) && decide (e.d 10 % 8 = 0) && decide (e.d 11 % 8 = 0)

/-- The result doubleword (17 R337). -/
def PageCount.result (c : PageCount) : Nat := c.changed % 2 ^ 32 + c.skipped % 2 ^ 16 * 2 ^ 32 + c.incompressible % 2 ^ 16 * 2 ^ 48

/-- The end of the two commands: the result doubleword, where one is asked for. -/
def State.endPages (s : State) (q : QueueId) (e : Entry) : State :=
  let ok (t : State) : State := t.setWork q e.seq (.done false false false [])
  if e.d 11 = 0 then ok s
  else match s.cmdWrite q e (e.d 11) false 0 8 e.pageCount.result with
    | .ok _ t => ok t
    | .fault c f => s.setWork q e.seq (.failed c f)
    | .wait n => s.askTile q e n

/-- Writes a released frame number to the release list: the state, or how the write ended (17 R337). -/
def State.releaseFrame (s : State) (q : QueueId) (e : Entry) (c : PageCount) (fn : Nat) : CmdGot :=
  if e.d 10 = 0 then .ok 0 s else s.cmdWrite q e (e.d 10) false (8 * c.released : Nat) 8 fn

/-- Moves a command past an entry that it has changed to `t`, with its old frame on the release list where it is released. The first change seals
the windows of the pushing context (22 R390). -/
def State.pageChanged (s t : State) (q : QueueId) (e : Entry) (progress : Nat) (old : Option Nat) : State :=
  let c := { e.pageCount with changed := e.pageCount.changed + 1 }
  let sealed (t : State) : State := if e.pageCount.changed = 0 then t.sealCtx e.core e.ctx 6 else t
  match old with
  | none => sealed (t.pageStep q e progress c)
  | some fn =>
    match t.releaseFrame q e c fn with
    | .ok _ u => sealed (u.pageStep q e progress { c with released := c.released + 1 })
    | .fault k f => sealed (t.setWork q e.seq (.failed k f))
    | .wait n => s.askTile q e n

/-- Reaches entry j of a command's list for a change that hardware makes: its location and the state with the table's page moved on, or how the
command ends (17 R324, R330). -/
def State.changeEntry (s : State) (q : QueueId) (e : Entry) (j : Nat) (change : Nat → State → State) : State :=
  match s.cmdReach q e (e.d 7) false (8 * j : Nat) true with
  | .loc l t => change l t
  | .fault c f => s.setWork q e.seq (.failed c f)
  | .wait n => s.askTile q e n
  | .zero => s
  | .hole t => t

/-! ### K.MIGR (17 R334, R337) -/

/-- Where entry j goes: its frame, and its half in compress mode (17 R337). A large entry takes 32 frames. -/
def Entry.target (e : Entry) (j : Nat) (large : Bool) : Nat × Nat :=
  let fn := bitsOf (e.d 8) 31 0
  if bitsOf (e.d 8) 33 32 = 1 then ((fn + j / 2) % 2 ^ 32, (bitsOf (e.d 8) 34 34 + j) % 2) else ((fn + (if large then 32 * j else j)) % 2 ^ 32, 0)

/-- The checks of entry j, and the start of its migration (17 R337): the entry is `v`, read without a change to the table. A destination frame that is no
memory is refused like one of a tier that is not legal. (DESIGN CHOICE, unsafe: notes/assumptions/12.md, notes/assumptions/66.md) -/
def State.migrStart (s : State) (q : QueueId) (e : Entry) (j v : Nat) : State :=
  let st := peState v
  let large := bitOf v 48
  let compress : Bool := bitsOf (e.d 8) 33 32 == 1
  let dst := (e.target j large).1
  let c := e.pageCount
  let past (c : PageCount) (t : State) : State := t.pageStep q e (2 * j + 2) c
  if st = 0 ∨ st = 5 then past { c with skipped := c.skipped + 1 } s
  else if st = 3 ∨ st = 7 ∨ peMalformed v true true = true then s.setWork q e.seq (.failed 0x05 false)
  else if (compress && (large || decide (dst / 2 ^ 28 ≠ 0))) || (large && decide (dst % 32 ≠ 0)) || !frameExists dst || (large && !frameExists (dst + 31)) then
    s.setWork q e.seq (.failed 0x01 false)
  else
    let (n, s1) := s.takeFresh
    if compress && decide (st ≠ 4) && !Config.compressible n then past { c with skipped := c.skipped + 1, incompressible := c.incompressible + 1 } s1
    else s1.changeEntry q e j fun l t =>
      { t.writeEntry l (peSetState v 3) with moves := Tbl.set 2 t.moves l st }.pageStep q e (2 * j + 1) c

/-- The copy of entry j and its switch in one step (17 R334, R337). (DEDUCED, unsafe: notes/assumptions/55.md) -/
def State.migrSwitch (s : State) (q : QueueId) (e : Entry) (j l v : Nat) : State :=
  let large := bitOf v 48
  let size := if large then 2097152 else 65536
  let compress : Bool := bitsOf (e.d 8) 33 32 == 1
  let (fn, half) := e.target j large
  let src := s.pageBase l v
  let from_ := s.heldState l v
  let dst := if compress then imageBase fn half else frameBase fn
  let s1 := if from_ = 1 then s.zeroFrame dst size else s.copyRaw src dst size
  let st := if compress then 4 else if s1.anyPoison dst size then 6 else 2
  let inImage : Bool := src != frameBase (peFrame v)
  let s2 := if inImage then s1.setHalf (peFrame v) (bitsOf v 45 45) false else s1
  let s3 := if compress then s2.setHalf fn half true else s2
  let s4 := { s3.writeEntry l (putBits (putBits (peSetState v st) 0 32 fn) 45 1 half) with moves := Tbl.set 2 s3.moves l 2 }
  let shared := inImage && s3.halfUsed (peFrame v) (1 - bitsOf v 45 45)
  s.pageChanged s4 q e (2 * j + 2) (if shared then none else some (peFrame v))

/-- Reads entry j of a command's list and goes on with it (17 R330, R337): an entry in a zeroed or discarded page of the table, or out of range,
is 0, which is free. -/
def State.withEntry (s : State) (q : QueueId) (e : Entry) (j : Nat) (go : State → Nat → State) : State :=
  match s.cmdRead q e (e.d 7) false (8 * j : Nat) 8 with
  | .ok v t => go t v
  | .fault c f => s.setWork q e.seq (.failed c f)
  | .wait n => s.askTile q e n

/-- Whether some line of n bytes waits for its pseudo-channel (24 R420). -/
def State.spanHeld (s : State) (base n : Nat) : Bool :=
  (decide (s.mgmt.stage = 1) || s.hbm.any fun e => decide (e.2.mode ≠ 2)) && (List.range (n / 64)).any fun i => s.channelHeld (base + 64 * i)

/-- Whether the copy of entry j waits for the pseudo-channels of its source or its destination. -/
def State.migrHeld (s : State) (e : Entry) (j l v : Nat) : Bool :=
  let n := if bitOf v 48 then 2097152 else 65536
  let dst := e.target j (bitOf v 48)
  s.spanHeld (s.pageBase l v) n || s.spanHeld (if bitsOf (e.d 8) 33 32 = 1 then imageBase dst.1 dst.2 else frameBase dst.1) n

/-- K.MIGR (17 R337): each entry in turn, its start and its switch as two steps; then the result doubleword. Stores that have been translated
are in the source before the copy (17 R334). -/
def execKMigr (_h : CmdHdr) (_o : CmdOps) (s : State) : Answer :=
  withCmd s fun q e =>
    let j := e.progress / 2
    if !e.pagesAligned then s.setWork q e.seq (.failed 0x03 false)
    else if e.pages ≤ j then s.endPages q e
    else if e.progress % 2 = 0 then s.withEntry q e j fun t v => t.migrStart q e j v
    else s.settlePages.withEntry q e j fun t v =>
      if peState v = 3 then t.changeEntry q e j fun l u => if u.migrHeld e j l v then s else u.migrSwitch q e j l v else t.pageStep q e (2 * j + 2) e.pageCount

/-! ### K.DISCARD (17 R337) -/

/-- A discarded entry: frame and heat 0, the summary of a zero page (17 R337). -/
def discardedEntry (v : Nat) : Nat := putBits (putBits (putBits (peSetState v 5) 0 32 0) 56 8 0) 49 4 14

/-- Discards the page of an entry (17 R337): the entry is `v` at location `l`. -/
def State.discardPage (s : State) (q : QueueId) (e : Entry) (j l v : Nat) : State :=
  let s1 := if s.pageBase l v = frameBase (peFrame v) then s else s.setHalf (peFrame v) (bitsOf v 45 45) false
  s.pageChanged (s1.writeEntry l (discardedEntry v)) q e (j + 1) (some (peFrame v))

/-- Handles entry j of a K.DISCARD, which reads as `v`; one that migrates is waited for. -/
def State.discardEntry (s : State) (q : QueueId) (e : Entry) (j v : Nat) : State :=
  let st := peState v
  if st = 0 ∨ st = 5 then s.pageStep q e (j + 1) { e.pageCount with skipped := e.pageCount.skipped + 1 }
  else if st = 7 ∨ peMalformed v true true = true then s.setWork q e.seq (.failed 0x05 false)
  else if bitOf v 48 then s.setWork q e.seq (.failed 0x01 false)
  else if st = 3 then s
  else s.changeEntry q e j fun l t => t.discardPage q e j l v

/-- K.DISCARD (17 R337): each entry in one step. -/
def execKDiscard (_h : CmdHdr) (_o : CmdOps) (s : State) : Answer :=
  withCmd s fun q e =>
    let j := e.progress
    if !e.pagesAligned then s.setWork q e.seq (.failed 0x03 false)
    else if e.pages ≤ j then s.endPages q e
    else s.withEntry q e j fun t v => t.discardEntry q e j v

/-! ### Walks, errors, heat (17 R325, R331, R335, R336) and the scrubber (23 R399) -/

/-- PAGE_WALK: a miss of a context's translation, or of a tile entry at a byte address for the memory ports (`ctx` 3), walks the table and
fills the cache, in place of what it held, which raises the page's heat by 1; a walk that faults, or that finds a free or retired entry,
fills nothing, and the access that missed faults of its own (17 R325, R326, R329, R336). (DESIGN CHOICE, unsafe: notes/assumptions/39.md) -/
def execPageWalk (core ctx : Nat) (va : Nat) (s : State) : Answer :=
  let filled (tile : Bool) (key loc entry : Nat) (large : Bool) : Answer :=
    if peState entry = 0 ∨ peState entry = 7 then .next s
    else
      let t := s.addHeat loc 1
      .next (t.fill { tile := tile, core := core, key := key, loc := loc, entry := t.read loc 8, large := large })
  if ctx = 3 then
    match s.entryAt core va with
    | .entry l e => if peMalformed e true false then .next s else filled true va l e false
    | _ => .next s
  else if va < 2 ^ 44 ∨ 2 ^ 52 ≤ va then .next s
  else match s.walk va with
    | none => .next s
    | some w => if peMalformed w.entry false w.large then .next s else filled false (va / 65536) w.entryLoc w.entry w.large

/-! ### Where page entries and tile entries stand (17 R325, R328) -/

/-- Indices of the doublewords, of n from a location on, of which memory lists a byte: every other one reads zero. -/
def State.listedWords (s : State) (base n : Nat) : List Nat :=
  ((s.mem.filter fun c => decide (base ≤ c.1 ∧ c.1 < base + 8 * n)).map fun c => (c.1 - base) / 8).eraseDups

/-- The page table's page entries that are not zero: address of the page, location (17 R325). -/
def State.mappedEntries (s : State) : List (Nat × Nat) :=
  let root := frameBase s.ptbr.toNat
  (s.listedWords root 65536).flatMap fun i =>
    let e1 := s.read (root + 8 * i) 8
    if !pointerOk e1 then []
    else (s.listedWords (pointerTable e1) 32768).flatMap fun j =>
      let l2 := pointerTable e1 + 8 * j
      let e2 := s.read l2 8
      if bitOf e2 48 then [(i * 2 ^ 36 + j * 2 ^ 21, l2)]
      else if !pointerOk e2 then []
      else (s.listedWords (pointerTable e2) 32).map fun k => (i * 2 ^ 36 + j * 2 ^ 21 + k * 2 ^ 16, pointerTable e2 + 8 * k)

/-- Locations of the page table's page entries that are not zero. -/
def State.pageEntries (s : State) : List Nat := s.mappedEntries.map (·.2)

/-- Whether the page of an entry holds a location: a free or discarded entry holds none. -/
def State.pageHolds (s : State) (entryLoc entry loc : Nat) : Bool :=
  let base := s.pageBase entryLoc entry
  decide (peState entry ≠ 0 ∧ peState entry ≠ 5) && !peMalformed entry true true && decide (base ≤ loc)
    && decide (loc < base + (if bitOf entry 48 then 2097152 else 65536))

/-- The addresses by which a core reaches a location: flat, alias, or through a mapped page. -/
def State.addressesOf (s : State) (core loc : Nat) : List Nat :=
  let alias_ := if sliceBase core ≤ loc ∧ loc < sliceBase core + 2 ^ 22 then [2 ^ 33 + loc - sliceBase core] else []
  if loc < 2 ^ 52 then (if loc < 2 ^ 33 then [loc] else []) ++ alias_
  else s.mappedEntries.filterMap fun p =>
    let v := s.read p.2 8
    if s.pageHolds p.2 v loc then some (p.1 + (loc - s.pageBase p.2 v)) else none

/-- Tensors of a core's directory whose records memory lists a byte of: every other record is broken (17 R328). -/
def State.listedTensors (s : State) (core : Nat) : List Nat :=
  let tdir := (s.core core).tdir.toNat
  (s.mem.flatMap fun c => (s.addressesOf core c.1).filterMap fun a =>
    if tdir + 64 ≤ a ∧ a < tdir + 64 * 2 ^ 24 then some ((a - tdir) / 64) else none).eraseDups

/-- Locations of the tile entries of the tensors in a core's directory (17 R328). -/
def State.tileEntries (s : State) (core : Nat) : List Nat :=
  (s.listedTensors core).flatMap fun n =>
    let ds := s.shapeRecord core n
    if (shapeCause ds).isSome then []
    else (s.mem.flatMap fun c => (s.addressesOf core c.1).filterMap fun a =>
        let h := Shape.of ds
        if h.table ≤ a ∧ a < h.table + 8 * h.tiles then some ((a - h.table) / 8) else none).eraseDups.filterMap fun t =>
      match s.tileEntry core (Shape.of ds) t with | .entry l _ => some l | _ => none

/-- Cores whose directories can differ: those that the state lists and those of whose slice memory lists a byte; core 0 stands for all others,
whose directory stands at address 0. -/
def State.directoryCores (s : State) : List Nat :=
  ([0] ++ s.cores.map (fun (k : Nat × Core) => k.1) ++ s.mem.filterMap fun (c : Host.Cell) => if c.1 < 2 ^ 33 then some (c.1 / 2 ^ 22) else none).eraseDups

/-- Locations of every page entry and tile entry that is not zero. -/
def State.allEntries (s : State) : List Nat :=
  (s.pageEntries ++ s.directoryCores.flatMap s.tileEntries).eraseDups

/-- The pages that hold a location, zeroed, live or compressed till then, are poisoned (17 R331, R335). -/
def State.poisonPages (s : State) (loc : Nat) (entries : List Nat) : State :=
  entries.foldl (fun t l =>
    let v := s.read l 8
    let st := peState v
    if s.pageHolds l v loc = true ∧ (st = 1 ∨ st = 2 ∨ st = 4) then t.writeEntry l (peSetState v 6) else t) s

/-! ### Row retirement (17 R338) -/

/-- The frame of a location of tier 0: a compressed page's image lies in a half of one (17 R332). -/
def frameOf (loc : Nat) : Nat := if 2 ^ 53 ≤ loc then (loc - 2 ^ 53) / 131072 else (loc - 2 ^ 52) / 65536

/-- Whether a frame of tier 0 holds a byte of a DRAM row, `bad` of which is known to (17 R338). -/
def meetsRow (row bad fn : Nat) : Bool :=
  fn == bad || (decide (fn < hbmFrames) && (List.range 1024).any fun i => decide ((Config.rowOf (frameBase fn + 64 * i)).toNat = row))

/-- The frames in the zeroed pool, the next to be taken first (24 R415). -/
def State.poolFrames (s : State) : List Nat :=
  (List.range s.poolCount).map fun i => s.read (harbourBase + s.mgmt.zpbase + 4 * ((s.mgmt.zphead + i) % s.mgmt.zplen)) 4

/-- The zeroed pool without the frames that are withdrawn, which never return to it (17 R338). -/
def State.withdrawPool (s : State) (bad : Nat → Bool) : State :=
  let kept := s.poolFrames.filter fun fn => !bad fn
  if kept.length = s.poolFrames.length then s
  else
    let t := kept.zipIdx.foldl (fun t p => t.write (harbourBase + s.mgmt.zpbase + 4 * ((s.mgmt.zphead + p.2) % s.mgmt.zplen)) 4 p.1) s
    s.lowMark { t with mgmt := { t.mgmt with zptail := (s.mgmt.zphead + kept.length) % s.mgmt.zplen } }

/-- A page whose frame is withdrawn moves to a frame of the pool; one whose contents hold poison cannot be recovered and is retired (17 R338). A
large or migrating page stays, and so does one for which the pool has no frame. (DEDUCED, unsafe: notes/assumptions/70.md) -/
def State.moveOut (s : State) (bad : Nat → Bool) (l : Nat) : State :=
  let v := s.read l 8
  let st := peState v
  let src := s.pageBase l v
  let leave (t : State) : State := if src = frameBase (peFrame v) then t else t.setHalf (peFrame v) (bitsOf v 45 45) false
  if (st ≠ 1 ∧ st ≠ 2 ∧ st ≠ 4 ∧ st ≠ 6) ∨ bitOf v 48 = true ∨ peMalformed v true true = true ∨ bad (peFrame v) = false then s
  else if st = 6 ∨ s.anyPoison src 65536 = true then (leave s).writeEntry l (peSetState v 7)
  else match s.takeFrame with
    | none => s
    | some (fn, t) =>
      let u := if st = 1 then t.zeroFrame (frameBase fn) 65536 else t.copyRaw src (frameBase fn) 65536
      (leave u).writeEntry l (putBits (peSetState v (if st = 4 then 2 else st)) 0 32 fn)

/-- Appends records to the row-retirement list, which holds 4096 (17 R338). -/
def State.flashAdd (s : State) (records : List Nat) : State :=
  { s with mgmt := { s.mgmt with flash := (s.mgmt.flash ++ records.map (BitVec.ofNat 64)).take 4096 } }

/-- A DRAM row is retired, with wrack event 5 (17 R338): a record of its remap to the bank's next spare; or, the four spares used up, every page
whose frame meets the row moves, and a record withdraws each such frame that a page or the pool names, and the failing one. (DEDUCED, unsafe: notes/assumptions/70.md) -/
def State.retireRow (s : State) (loc : Nat) : State :=
  let row := (Config.rowOf loc).toNat
  let spare := (s.mgmt.flash.filter fun r => decide (bitsOf r.toNat 63 60 = 1 ∧ bitsOf r.toNat 59 46 = row / 2 ^ 18)).length
  if 4096 ≤ s.mgmt.flash.length then s
  else if spare < 4 then
    let record := 2 ^ 60 + row * 2 ^ 28 + spare * 2 ^ 24
    (s.flashAdd [record]).wrackAdd 5 0 6 (row / 2 ^ 28) (BitVec.ofNat 64 record) 0
  else
    let bad := meetsRow row (frameOf loc)
    let used := (s.allEntries.map fun l => s.read l 8).filter fun v => decide (peState v = 1 ∨ peState v = 2 ∨ peState v = 4 ∨ peState v = 6)
    let gone := ([frameOf loc] ++ (used.map peFrame ++ s.poolFrames).filter bad).eraseDups
    let s1 := (s.flashAdd (gone.map (2 * 2 ^ 60 + ·))).wrackAdd 5 0 6 (row / 2 ^ 28) (BitVec.ofNat 64 (2 * 2 ^ 60 + frameOf loc)) 0
    let s2 := s1.withdrawPool bad
    s2.allEntries.foldl (fun t l => t.moveOut bad l) s2

/-- A corrected error of a DRAM row counts for RRCTL's window; at the threshold, which 0 leaves out, the row is retired and the harbour core told
(17 R338, 24 R411, R415). -/
def State.rowCorrected (s : State) (loc : Nat) : State :=
  let row := (Config.rowOf loc).toNat
  let recent := s.mgmt.rowErrors.filter fun p => decide (s.time < p.2 + s.mgmt.rrWindow * 60000000000)
  let errors := recent ++ [(row, s.time)]
  let count := (errors.filter fun p => decide (p.1 = row)).length
  if s.mgmt.rrThreshold ≠ 0 ∧ s.mgmt.rrThreshold ≤ count then
    ({ s with mgmt := { s.mgmt with rowErrors := errors.filter fun p => decide (p.1 ≠ row) } }.retireRow loc).hirq 5
  else { s with mgmt := { s.mgmt with rowErrors := errors } }

/-- Where the accumulator stores' errors are named: 16 elements a place, 65536 places a core, above every location of memory. -/
def accErrors : Nat := 2 ^ 62

/-- The core and the group of 16 accumulator elements that a location above memory names, if it names one (23 R399). -/
def accGroup (loc : Nat) : Option (Nat × Nat) :=
  if accErrors ≤ loc ∧ loc < accErrors + 2048 * 65536 then some ((loc - accErrors) / 65536, (loc - accErrors) % 65536) else none

/-- A single-bit error of a core's scratchpad or accumulator store, corrected in the access that reads it and written back, adds one to CNTST.corr (23 R399). -/
def State.sramCorrected (s : State) (loc : Nat) : State :=
  let count (core : Nat) : State := s.modCore core fun k => { k with corrected := min (2 ^ 24 - 1) (k.corrected + 1) }
  match accGroup loc with
  | some g => count g.1
  | none => if loc < 2048 * 2 ^ 22 then count (loc / 2 ^ 22) else s

/-- UNCORRECTABLE_ERROR: the line is poisoned and every page that holds it, zeroed, live or compressed till then, is poisoned (17 R331, R335);
of a DRAM error the harbour core is told, and the row is retired (17 R338, 24 R411). An error that was corrected, told by an `entry` of 2^64 or
more, only counts: for its DRAM row, or in CNTST of the core whose slice or accumulator store holds it; a double-bit error that an access finds in
an accumulator store poisons its group (23 R399). -/
def execUncorrectableError (location entry : Nat) (s : State) : Answer :=
  if 2 ^ 64 ≤ entry then .next (if inDram location then s.rowCorrected location else s.sramCorrected location)
  else match accGroup location with
  | some g => .next (s.modCore g.1 fun k => { k with accPoison := Tbl.set false k.accPoison g.2 true })
  | none =>
    let s1 := (s.setPoison location true).poisonPages location ((entry :: s.allEntries).eraseDups)
    .next (if inDram location then (s1.retireRow location).hirq 5 else s1)

/-- SCRUB_PASS: the scrubber reads the slice and the accumulator store of a core, corrects single-bit errors, which it counts, and poisons the
lines and groups of double-bit errors, and the pages that hold those lines (17 R335, 23 R399); a period of 0 stops it (R401). -/
def execScrubPass (core : Nat) (corrected : Nat) (lines groups : List Nat) (s : State) : Answer :=
  let k := s.core core
  if k.scrub = 0 then .next s
  else
    let s1 := s.setCore core { k with corrected := min (2 ^ 24 - 1) (k.corrected + corrected), accPoison := groups.foldl (fun a g => Tbl.set false a (g % 65536) true) k.accPoison }
    let all := s.allEntries
    .next (lines.foldl (fun s l => (s.setPoison (sliceLoc core (l % 65536 * 64)) true).poisonPages (sliceLoc core (l % 65536 * 64)) all) s1)

/-- An entry's heat halved (17 R336). -/
def coolEntry (v : Nat) : Nat := putBits v 56 8 (bitsOf v 63 56 / 2)

/-- HEAT_EPOCH: at an epoch boundary every heat counter is halved (17 R336); with no epoch none is. -/
def execHeatEpoch (s : State) : Answer :=
  if s.hepoch = 0 then .next s
  else
    .next (s.allEntries.foldl (fun s l => let v := s.read l 8; if bitsOf v 63 56 = 0 then s else s.write l 8 (coolEntry v)) s)

end Sys2Proof.Machine
end

