-- ==== Sys2Proof/Machine/Reverse.lean ====
section
/-! DEFINITION. The undo log's move to its region (22 R387) and reverse motion: REWIND and STEPBACK (22 R391 to R395). -/

namespace Sys2Proof.Machine

/-! ### The log's bytes: staging, the move to the region, checkpoint headers (10 R243, 22 R384, R385, R387) -/

/-- The location of a doubleword of a context's log region, with the page moved on, unless the page is not mapped, not tier 0, without priv
set, or in a state other than zeroed or live (22 R387). -/
def State.logPlace (s : State) (l : UndoLog) (off : Nat) : Option (Nat × State) :=
  match s.walk ((l.base.toNat + off % l.room) % 2 ^ 52) with
  | none => none
  | some w =>
    let st := peState w.entry
    if peMalformed w.entry false w.large || decide (peFrame w.entry / 2 ^ 28 ≠ 0) || !bitOf w.entry 46 || decide (st ≠ 1 ∧ st ≠ 2)
        || (w.large && decide (peFrame w.entry % 32 ≠ 0)) then none
    else match s.pageAccess w.entryLoc w.entry w.off 0x04 true true with
      | .loc a t => some (a, t)
      | _ => none

/-- Writes doublewords into a log region from an offset on. -/
def State.logWrite (s : State) (l : UndoLog) (off : Nat) : List Word → Option State
  | [] => some s
  | v :: vs =>
    match s.logPlace l off with
    | some (a, t) => (t.writeD a v).logWrite l (off + 8) vs
    | none => none

/-- Writes first words at their offsets in a log region, as far as its pages take them. -/
def State.logWords (s : State) (l : UndoLog) : List (Nat × Word) → State
  | [] => s
  | p :: ps => ((s.logWrite l p.1 [p.2]).getD s).logWords l ps

/-- A log whose region takes no more records: logging is off, every window dropped, the records that had not moved are gone (22 R387). -/
def UndoLog.disable (l : UndoLog) : UndoLog :=
  { l with en := false, windows := l.windows.map (fun (v : Window) => { v with st := .dropped }), recs := l.recs.filter fun r => r.at_.isSome }

/-- Bytes of the records that stand in the region. -/
def UndoLog.moved (l : UndoLog) : Nat := ((l.recs.filter fun r => r.at_.isSome).map Rec.bytes).sum

/-- The oldest staged record moves to the region at LOGHEAD (22 R387); with no room for it, it waits for LOGTAIL (R389). -/
def State.moveRec (s : State) (core ctx : Nat) : State :=
  let l := (s.ctx core ctx).log
  match l.recs.find? fun r => r.at_.isNone with
  | none => s
  | some r =>
    if l.room < l.moved + r.bytes then s
    else match s.logWrite l l.head.toNat (r.header l.windows ++ r.body) with
      | none => s.modCtx core ctx fun c => { c with log := l.disable }
      | some t =>
        let moved := l.recs.takeWhile fun r => r.at_.isSome
        let rest := l.recs.drop (moved.length + 1)
        let r1 := { r with at_ := some l.head.toNat, put := some (l.head.toNat, (r.header l.windows).headD 0) }
        t.modCtx core ctx fun c =>
          { c with log := { l with recs := moved ++ [r1] ++ rest, head := BitVec.ofNat 64 ((l.head.toNat + r.bytes) % l.room) } }

/-- LOG_RECORD_MOVE (22 R387). -/
def execLogRecordMove (core ctx : Nat) (s : State) : Answer := .next (s.moveRec core ctx)

/-- Bytes of the records that are staged. -/
def UndoLog.staged (l : UndoLog) : Nat := ((l.recs.filter fun r => r.at_.isNone).map Rec.bytes).sum

/-- Records move while more is staged than the 4 KiB of the area holds (10 R243, 22 R387). `fuel` bounds the number of records. -/
def State.moveOver (s : State) (core ctx : Nat) : Nat → State
  | 0 => s
  | fuel + 1 => if (s.ctx core ctx).log.staged ≤ 4096 then s else (s.moveRec core ctx).moveOver core ctx fuel

/-- Writes doublewords of a context's staging area, circularly (10 R243). -/
def State.stageWords (s : State) (core ctx off : Nat) : List Word → State
  | [] => s
  | v :: vs => (s.writeD (sliceLoc core (0x3F6000 + 4096 * ctx + off % 4096)) v).stageWords core ctx (off + 8) vs

/-- What memory holds of one record: a new one is written into the staging area at an offset, and a first word that is no longer its window's
is written over, there or in the region (22 R385, R387). -/
def State.stageRec (s : State) (core ctx : Nat) (l : UndoLog) (off : Nat) (r : Rec) : State × Rec :=
  let w := (r.header l.windows).headD 0
  match r.at_, r.put with
  | some o, p => if p.map (·.2) = some w then (s, r) else ((s.logWrite l o [w]).getD s, { r with put := some (o, w) })
  | none, some (o, v) => if v = w then (s, r) else (s.stageWords core ctx o [w], { r with put := some (o, w) })
  | none, none => (s.stageWords core ctx off (r.header l.windows ++ r.body), { r with put := some (off % 4096, w) })

/-- What memory holds of a log's records, the staged ones behind LOGHEAD modulo the area's size. -/
def State.stageRecs (s : State) (core ctx : Nat) (l : UndoLog) (off : Nat) : List Rec → State × List Rec
  | [] => (s, [])
  | r :: rs =>
    let one := s.stageRec core ctx l off r
    let rest := one.1.stageRecs core ctx l (if r.at_.isNone then off + r.bytes else off) rs
    (rest.1, one.2 :: rest.2)

/-- The log's memory brought up to date for one context: records that the staging area cannot hold move on, the others stand there, and every
checkpoint's header has its window's present state, a dropped one's too. (DESIGN CHOICE, unsafe: notes/assumptions/41.md) -/
def State.settleLog (s : State) (core ctx : Nat) : State :=
  let l0 := (s.ctx core ctx).log
  if l0.recs.isEmpty && l0.dead.isEmpty then s
  else
    let s1 := (s.logWords l0 l0.dead).moveOver core ctx l0.recs.length
    let l := (s1.ctx core ctx).log
    let r := s1.stageRecs core ctx l l.head.toNat l.recs
    r.1.modCtx core ctx fun c => { c with log := { c.log with recs := r.2, dead := [] } }

/-- Every context's log brought up to date, as it is at the start of every step. -/
def State.settleLogs (s : State) : State := s.listed.foldl (fun s p => s.settleLog p.1 p.2) s

/-! ### Scopes and refusals (22 R391, R392) -/

/-- The contexts of a scope. -/
def State.scope (s : State) (group : Option Nat) (core ctx : Nat) : List (Nat × Nat) :=
  match group with
  | none => [(core, ctx)]
  | some g => (s.group g).members.map fun m => m.2

/-- A context's windows from w on that still have their records, oldest first. -/
def UndoLog.from_ (l : UndoLog) (w : Nat) : List Window :=
  (l.windows.dropWhile fun (v : Window) => decide (v.num ≠ w)).filter fun (v : Window) => decide (v.st ≠ .dropped)

/-- Whether a window is a rewind target (22 R391). -/
def Window.isTarget (v : Window) : Bool := decide (v.st = .opened ∨ v.st = .reversible)

/-- The window that a rewind names, if it is a target. -/
def UndoLog.target (l : UndoLog) (w : Nat) : Option Window := l.windows.find? fun (v : Window) => v.num == w && v.isTarget

/-- The records that a rewind to w restores, newest first. -/
def UndoLog.after (l : UndoLog) (w : Nat) : List Rec :=
  (l.recs.filter fun r => (l.from_ w).any fun (v : Window) => v.num == r.window).reverse

/-- What a record's old bytes cover, as (first, length) spans: byte addresses, tensor lines by their location, accumulator tiles apart. -/
def Rec.spans (r : Rec) (core : Nat) : List (Nat × Nat) :=
  match r.kind with
  | 1 => [(r.loc, 2 ^ r.size)]
  | 2 => (r.body.drop 1).map fun v => (v.toNat % 2 ^ 32 * 4, 4)
  | 3 => (List.range (r.body.length / 9)).map fun i => ((r.body.getD (9 * i) 0).toNat, 64)
  | 4 => [(2 ^ 60 + core * 8 + r.loc % 8, 1)]
  | _ => []

/-- Whether two span lists name a common location. -/
def spansMeet (a b : List (Nat × Nat)) : Bool := a.any fun x => b.any fun y => decide (x.1 < y.1 + y.2) && decide (y.1 < x.1 + x.2)

/-- Whether a queue accepted a push from a context outside the members since a sequence number (22 R392). -/
def Queue.foreign (q : Queue) (members : List (Nat × Nat)) (since : Nat) : Bool :=
  q.pushers.any fun p => decide ((p.1 + 2 ^ 32 - since) % 2 ^ 32 < (q.next + 2 ^ 32 - since) % 2 ^ 32) && !members.contains p.2

/-- Whether a PUSH or RPUSH of the context stands in w or in any later window, dropped or not (22 R391, R392). -/
def UndoLog.pushedFrom (l : UndoLog) (w : Nat) : Bool :=
  (l.windows.dropWhile fun (v : Window) => decide (v.num ≠ w)).any fun (v : Window) => v.pushed

/-- Whether a change of a group's membership opened a window after w: no rewind of the group reaches further back (15 R308). -/
def UndoLog.regrouped (l : UndoLog) (w g : Nat) : Bool :=
  ((l.windows.dropWhile fun (v : Window) => decide (v.num ≠ w)).drop 1).any fun (v : Window) =>
    decide (v.opener = 4) && (v.joint.map (·.1)) == some g

/-- Whether the kernel of a context's iteration is deterministic. -/
def State.kernelDet (s : State) (core ctx : Nat) : Bool :=
  match (s.ctx core ctx).iter.bind fun r => s.kernel r.kq r.record with
  | some k => recDet k.record
  | none => false

/-- Whether a REWIND of a scope to w is refused (22 R392). -/
def State.rewindRefused (s : State) (group : Option Nat) (members : List (Nat × Nat)) (w : Nat) : Bool :=
  let log (m : Nat × Nat) : UndoLog := (s.ctx m.1 m.2).log
  let spans (m : Nat × Nat) : List (Nat × Nat) := ((log m).after w).flatMap fun r => r.spans m.1
  members.isEmpty || members.any (fun m => ((log m).target w).isNone) ||
    match group with
    | none => members.any fun m => (log m).pushedFrom w
    | some g =>
      let joints := members.map fun m => ((log m).target w).bind fun (v : Window) => if v.opener = 3 ∨ v.opener = 4 then v.joint else none
      !members.all (fun m => s.kernelDet m.1 m.2) || joints.any (fun j => j.isNone || decide (j.map (·.1) ≠ some g) || decide (j ≠ joints.headD none))
        || members.any (fun m => (log m).regrouped w g)
        || members.any (fun m => match (log m).target w with
          | some v => (s.core m.1).mq.foreign members v.nextM || (s.core m.1).vq.foreign members v.nextV || (s.core m.1).cq.foreign members v.nextC
          | none => true)
        || members.any fun a => members.any fun b => decide (a ≠ b) && spansMeet (spans a) (spans b)

/-! ### The motion itself (22 R392) -/

/-- Restores n old bytes at a byte address, or at a location beside the address space, that a record names. -/
def State.restoreAt (s : State) (core a n v : Nat) : State :=
  if 2 ^ 52 ≤ a then s.write a n v
  else match place core a with
    | .sram l => s.write l n v
    | .paged => match s.pagedAccess a true true true with | .loc l t => t.write l n v | _ => s
    | _ => s

/-- Restores what a record holds (22 R384, R392). -/
def State.restoreRec (s : State) (core : Nat) (r : Rec) : State :=
  match r.kind with
  | 1 => s.restoreAt core r.loc (2 ^ r.size) (r.body.headD 0).toNat
  | 2 => (r.body.drop 1).foldl (fun s v => s.restoreAt core (v.toNat % 2 ^ 32 * 4) 4 (v.toNat / 2 ^ 32)) s
  | 3 => (List.range (r.body.length / 9)).foldl (fun s i =>
      let a := (r.body.getD (9 * i) 0).toNat
      (List.range 8).foldl (fun s j => s.restoreAt core (a + 8 * j) 8 (r.body.getD (9 * i + 1 + j) 0).toNat) s) s
  | 4 => s.modCore core fun k => k.writeAcc (r.body.zipIdx.flatMap fun (v : Word × Nat) =>
      [(131072 * (r.loc % 8) + 2 * v.2, BitVec.ofNat 32 v.1.toNat), (131072 * (r.loc % 8) + 2 * v.2 + 1, BitVec.ofNat 32 (v.1.toNat / 2 ^ 32))])
  | _ => s

/-- Cancels every command of a scope, with the streams of its jobs and an optical unit's frame, mask or calibration block under way (22 R392): none of them comes to pass. -/
def State.cancelScope (s : State) (members : List (Nat × Nat)) : State :=
  let mine (e : Entry) : Bool := members.contains (e.core, e.ctx)
  let gone : List (QueueId × Nat) := s.allQueues.flatMap fun q => ((s.queue q).entries.filter mine).map fun e => (q, e.seq)
  let s1 := s.allQueues.foldl (fun s q =>
    let t := match q with
      | .oq u => if (s.queue q).entries.any (fun (e : Entry) => mine e && decide (e.st = CmdSt.running)) then s.setOfu u { s.ofu u with frameBuf := none, maskBuf := none, calNext := none } else s
      | _ => s
    let t1 := t.modQueue q fun v => { v with entries := v.entries.filter fun (e : Entry) => !mine e }
    match q with | .oq u => t1.settleDark u | _ => t1) s
  let s2 := s1.cores.foldl (fun s c => s.modCore c.1 fun k =>
    let k1 := { k with faultLog := k.faultLog.filter fun p => !gone.any fun g => decide (g.1 = (if p.1 = 0 then QueueId.mq c.1 else if p.1 = 1 then .vq c.1 else .cq c.1)) && g.2 == p.2 }
    match k.job with
    | some j => if members.contains (j.core, j.ctx) then { k1 with job := none, vs := { k.vs with st := .ended }, ms := { k.ms with st := .ended } } else k1
    | none => k1) s1
  { s2 with msgs := s2.msgs.filter fun m => !gone.contains (m.target, m.seq) && !gone.contains (m.fromQ, m.fromSeq) }

/-- Restores a context to the checkpoint of a window; the context stays debug-stopped (22 R392; notes/assumptions/22.md). -/
def State.restoreCtx (s : State) (core ctx : Nat) (v : Window) : State :=
  let s1 := s.dropWaiter core ctx
  let s2 := s1.modCtx core ctx fun c =>
    { c with x := v.x, p := v.p, c := v.c, pc := v.pc, sbuf := [], loads := [], dbg := true, codeSince := s.overwritten.length, codeFenced := none
             st := if c.st = CtxSt.waiting ∨ c.st = CtxSt.idle then (if c.busy then CtxSt.handler else CtxSt.running) else c.st
             log := { c.log with iret := v.iret, replay := none, inputs := [], irqs := [], lead := none } }
  s2.modCore core fun k => k.restoreCounters ctx v.counters

/-- Sets a queue's `next` back, with what it kept of later pushes (22 R392). -/
def Queue.backTo (q : Queue) (next : Nat) : Queue :=
  let later (seq : Nat) : Bool := decide ((seq + 2 ^ 32 - next) % 2 ^ 32 < (q.next + 2 ^ 32 - next) % 2 ^ 32)
  { q with next := next, fired := q.fired.filter (fun n => !later n), pushers := q.pushers.filter fun p => !later p.1 }

/-- Drops the windows after w and opens a new one with opener 6 (22 R392, R395). -/
def State.reopen (s : State) (core ctx w : Nat) : State :=
  let l := (s.ctx core ctx).log
  let late := ((l.windows.dropWhile fun (v : Window) => decide (v.num ≠ w)).drop 1).map fun (v : Window) => v.num
  let ws := l.windows.map fun (v : Window) => if late.contains v.num then { v with st := .dropped } else if v.num = w then { v with st := .reversible } else v
  let s1 := s.modCtx core ctx fun c => { c with log := { c.log with windows := ws } }
  s1.openWindow core ctx 6 (s1.ctx core ctx).pc

/-- A REWIND that is not refused (22 R392): the scope's stores are performed, its commands cancelled, each member's records restored newest
first, its registers and, for a group, its core's `next` numbers set back, and its later windows dropped. -/
def State.rewindTo (s : State) (group : Option Nat) (members : List (Nat × Nat)) (w : Nat) : State :=
  let s1 := (members.foldl (fun s m => s.drain m.1 m.2) s).cancelScope members
  members.foldl (fun s m =>
    let l := (s.ctx m.1 m.2).log
    match l.target w with
    | none => s
    | some v =>
      let t := ((l.after w).foldl (fun s r => s.restoreRec m.1 r) s).restoreCtx m.1 m.2 v
      let u := if group.isSome then t.modCore m.1 fun k => { k with mq := k.mq.backTo v.nextM, vq := k.vq.backTo v.nextV, cq := k.cq.backTo v.nextC } else t
      u.reopen m.1 m.2 w) s1

/-- REWIND (22 R392): a refusal changes nothing. -/
def execRewind (group : Option Nat) (core ctx window : Nat) (s : State) : Answer :=
  let members := s.scope group core ctx
  if s.rewindRefused group members window then .next s else .next (s.rewindTo group members window)

/-! ### STEPBACK (22 R393, R394) -/

/-- The recorded values that a replay from w takes, and the recorded interrupts, each by its count and by whether a stream stop took it, oldest
first. -/
def UndoLog.inputsFrom (l : UndoLog) (w : Nat) : List Rec × List (Nat × Bool) :=
  let rs := (l.after w).reverse.filter fun r => decide (r.kind = 6)
  (rs.filter fun r => decide (r.size = 0), (rs.filter fun r => decide (r.size ≠ 0)).map fun r => (r.loc, decide (r.size = 2)))

/-- The latest target whose checkpoint lies at or before instruction T (22 R393). -/
def UndoLog.stepTarget (l : UndoLog) (t : Nat) : Option Nat :=
  ((l.windows.filter fun (v : Window) => v.isTarget && decide (v.iret ≤ t)).getLast?).map fun (v : Window) => v.num

/-- STEPBACK (22 R393, R394): the rewind, then each member replays: the one named to T, another to where it stood, waiting where only the named
one's later instructions supply a value; a member that has arrived stays debug-stopped. (DEDUCED, safe: notes/assumptions/22.md) -/
def execStepback (group : Option Nat) (core ctx n : Nat) (s : State) : Answer :=
  let members := s.scope group core ctx
  let l := (s.ctx core ctx).log
  if l.iret < n ∨ members.contains (core, ctx) = false then .next s
  else match l.stepTarget (l.iret - n) with
    | none => .next s
    | some w =>
      if s.rewindRefused group members w then .next s
      else
        .next (members.foldl (fun t m =>
          let old := (s.ctx m.1 m.2).log
          let (ins, irqs) := old.inputsFrom w
          t.modCtx m.1 m.2 fun c =>
            { c with dbg := false, log := { c.log with replay := some (if m = (core, ctx) then l.iret - n else old.iret), inputs := ins, irqs := irqs, lead := if m = (core, ctx) then none else some (core, ctx) } })
          (s.rewindTo group members w))

end Sys2Proof.Machine
end

