-- ==== Sys2Proof/Machine/Platform.lean ====
section
/-! DEFINITION. The host's accesses (09 R230, 24 R414), resets and boot (24 R412, R413), the watchdog (R410), and power and heat (R416, R417). -/

namespace Sys2Proof.Machine

/-! ### The host window (24 R414) -/

/-- Location of byte 0 of the mailboxes and of the doorbell object (24 R414). -/
def mailboxes : Nat := sliceLoc 0 0x3F9000
def doorbellObject : Nat := sliceLoc 0 0x3F9400

/-- A DOORBELL write: the mask's bits are set in the doorbell object, then the host interrupt is raised (24 R414). -/
def State.ring (s : State) (mask : Nat) : State :=
  if s.windowOpen && !s.mgmt.tripped then (s.signalObject doorbellObject (mask % 2 ^ 16)).raiseIrq 1 else s

def execDoorbell (mask : Nat) (s : State) : Answer := .next (s.ring mask)

/-- The 64-bit register at an offset, a multiple of 8, of the host window (24 R414). (DESIGN CHOICE, safe: notes/assumptions/10.md) -/
def State.windowReg (s : State) (off : Nat) : Nat :=
  if off = 0 then 0x2048 + Config.siliconRevision.toNat * 2 ^ 16
  else if off = 8 then s.mgmt.stage % 16 + b2n s.mgmt.tripped * 16 + s.mgmt.dropped % 2 ^ 16 * 2 ^ 16
  else if off = 0x10 then s.node % 2 ^ 16
  else if 0x100 ≤ off ∧ off < 0x180 then s.kqStatus ((off - 0x100) / 8)
  else if 0x400 ≤ off ∧ off < 0x800 then s.read (mailboxes + (off - 0x400)) 8
  else 0

/-- What a host read of n bytes of the window returns (24 R414). -/
def State.windowRead (s : State) (off n : Nat) : Nat :=
  if (n = 4 ∨ n = 8) ∧ off % n = 0 then s.windowReg (off / 8 * 8) / 256 ^ (off % 8) % 256 ^ n else 0

/-- Whether a host access to the window is aligned and of 4 or 8 bytes; another is ignored (24 R414). -/
def windowAligned (off n : Nat) : Bool := decide (n = 4 ∨ n = 8) && decide (off % n = 0) && decide (off < 2 ^ 16)

/-! ### Resets and boot (24 R412, R413) -/

/-- The harbour core alone restarts at its boot ROM (24 R410, R412). (DESIGN CHOICE, safe: notes/assumptions/23.md) -/
def State.startHarbour (s : State) : State :=
  (s.setCore harbourId Core.reset).modCtx harbourId 0 fun c => { c with st := .running, priv := true, pc := Config.bootRom, codeSince := s.overwritten.length }

/-- The pseudo-channels as after reset; what their lanes are stays (25 R424). -/
def State.bareHbm (s : State) : Tbl Hbm := s.hbm.foldl (fun t e => Tbl.set Hbm.reset t e.1 { Hbm.reset with windows := e.2.windows }) []

/-- A power-on reset (24 R412): the state after reset, with the flash, the memory that lies off the module (17 R323), and what the lanes of HBM4E are. -/
def State.powerOn (s : State) : State :=
  { State.reset with
    hbm := s.bareHbm
    mem := s.mem.filter fun e => decide (frameBase (2 ^ 28) ≤ e.1 ∧ e.1 < frameBase (3 * 2 ^ 28 - 1) + 65536)
    poison := s.poison.filter fun e => decide (frameBase (2 ^ 28) ≤ e.1 * 64 ∧ e.1 * 64 < frameBase (3 * 2 ^ 28 - 1) + 65536)
    mgmt := { Mgmt.reset with flash := s.mgmt.flash }, agenda := s.agenda, turns := s.turns, fresh := s.fresh }

/-- A warm reset (24 R413): stages 2 to 5 are to come again; queues, kernels and windows are discarded, pages keep their contents, and the
wrack record and the flash are kept. The harbour core keeps its contexts, as no stage from 2 on resets it. (DEDUCED, unsafe: notes/assumptions/51.md) -/
def State.warmReset (s : State) : State :=
  let h := s.core harbourId
  let quiet (c : Ctx) : Ctx := { c with log := UndoLog.reset, iter := none }
  let s1 := s.cores.foldl (fun s c => s.setCore c.1 Core.reset) s
  let s2 := s1.setCore harbourId { h with cq := Queue.reset, results := [], held := [], faultLog := [], ctxs := h.ctxs.map fun e => (e.1, quiet e.2) }
  { s2 with
    groups := [], kqs := [], lqs := [], msgs := [], tlb := []
    ofus := s2.ofus.map fun u =>
      let v := { u.2 with queue := Queue.reset, frameBuf := none, frameNext := none, maskBuf := none, calNext := none }
      (u.1, if v.darkPending then v.goDark else v)
    mgmt := { s2.mgmt with stage := 1, tripped := false, halted := false, dropped := 0, tsq := [], tsAnswering := [], tsWaiters := [] } }

def execHresetWarm (s : State) : Answer := .next (if s.windowOpen then s.warmReset else s)
def execHresetPowerOn (s : State) : Answer := .next (if s.windowOpen then s.powerOn else s)

/-- POWER_ON_RESET (24 R412). -/
def execPowerOnReset (s : State) : Answer := .next s.powerOn

/-- The lane repairs that the row-retirement list holds for a pseudo-channel, in order, as its HREP (17 R338, 24 R421). -/
def repairOf (flash : List Word) (key : Nat) : Nat :=
  flash.foldl (fun rep r =>
    let v := r.toNat
    if bitsOf v 63 60 = 3 ∧ bitsOf v 59 56 * 64 + bitsOf v 55 51 * 2 + bitsOf v 50 50 = key then
      storedRepair (if bitOf v 39 then putBits rep 8 7 (64 + bitsOf v 45 40) else putBits rep 0 7 (64 + bitsOf v 45 40))
    else rep) 0

/-- Stage 2: every pseudo-channel is trained, its repairs are reapplied, and it enters mission mode (24 R412). (DESIGN CHOICE, safe: notes/assumptions/11.md) -/
def State.trainHbm (s : State) : State :=
  { s with hbm := (List.range 768).map fun key => (key, { Hbm.reset with mode := 2, trained := true, rep := repairOf s.mgmt.flash key, windows := (s.pseudo key).windows }) }

/-- The zeroed pool as firmware fills it: where the ring stands, its low mark and its frames are free values. (DESIGN CHOICE, safe: notes/assumptions/81.md) -/
def State.fillPool (s : State) : State :=
  let (n, t) := s.takeFresh
  let (off, low, count) := Config.bootPool n
  let base := 8 * off.toNat
  let u := (List.range count.toNat).foldl (fun u i => u.write (harbourBase + base + 4 * i) 4 ((Config.poolFrame n i).toNat % hbmFrames)) t
  { u with mgmt := { u.mgmt with zpbase := base, zplow := low.toNat, zplen := count.toNat + 1, zphead := 0, zptail := count.toNat } }

/-- Stage 4: the node's number, and CXL ports 0 to 3 train, with the link interrupt; with how many lanes each comes up is a free value (24 R412, 10 R239). (DESIGN CHOICE, safe: notes/assumptions/81.md) -/
def State.trainLinks (s : State) (node : Nat) : State :=
  let (n, t) := s.takeFresh
  let u := { t with node := node % 2 ^ 16, strands := [], cxl := (List.range 4).foldl (fun c p => match Config.bootWidth n p with | some w => Tbl.set 0 c p w | none => c) t.cxl }
  if (List.range 4).any fun p => (Config.bootWidth n p).isSome then u.raiseIrq 2 else u

/-- Stage 3: the zeroed pool is filled and the compute dies leave reset, every scratchpad and accumulator word zero; the harbour core has set up the doorbell object, an
event object of device scope (24 R412, R414). -/
def State.startDies (s : State) : State :=
  let h := s.core harbourId
  let s1 := { s with
    cores := Tbl.set Core.reset [] harbourId h
    mem := s.mem.filter fun e => decide (2 ^ 33 ≤ e.1)
    poison := s.poison.filter fun e => decide (2 ^ 33 ≤ e.1 * 64) }
  (s1.writeD doorbellObject (BitVec.ofNat 64 (2 ^ 56 + 3 * 2 ^ 48))).fillPool

/-- BOOT_STAGE_DONE: the next stage completes, or fails and halts boot with a wrack entry (24 R412). `node` is the flash configuration's node. -/
def execBootStageDone (pass : Bool) (node : Nat) (s : State) : Answer :=
  let m := s.mgmt
  if 5 ≤ m.stage ∨ m.halted = true ∨ m.tripped = true then .next s
  else if !pass then
    .next ({ s with mgmt := { m with halted := true } }.wrackAdd Config.bootFailEvent.toNat 0 7 0 (BitVec.ofNat 64 (m.stage + 1)) 0)
  else
    let s1 := { s with mgmt := { m with stage := m.stage + 1 } }
    .next (match m.stage with
      | 0 => s1.startHarbour
      | 1 => s1.trainHbm
      | 2 => s1.startDies
      | 3 => s1.trainLinks node
      | _ => s1)

/-- A host write of n bytes to the window (24 R414). A placement reads its record behind every earlier write of the host: with one held for the
zeroed pool it is held too. (DEDUCED, unsafe: notes/assumptions/53.md) -/
def State.windowWrite (s : State) (off n v : Nat) : State :=
  if off = 8 then { s with mgmt := { s.mgmt with dropped := s.mgmt.dropped - (s.mgmt.dropped &&& bitsOf v 31 16) } }
  else if off = 0x18 then (if bitOf v 1 then s.powerOn else if bitOf v 0 then s.warmReset else s)
  else if 0x100 ≤ off ∧ off < 0x180 ∧ off % 8 = 0 then
    s.placeByHost ((off - 0x100) / 8) (v % 256 ^ n)
  else if off = 0x200 then s.ring v
  else if 0x400 ≤ off ∧ off < 0x800 ∧ s.mgmt.tripped = false then s.storeAt (mailboxes + (off - 0x400)) n v
  else s

/-- HOST_WINDOW_ACCESS: an aligned access of 4 or 8 bytes while the window is open; a read leaves its value with the host (24 R414). -/
def execHostWindowAccess (write : Bool) (offset size value : Nat) (s : State) : Answer :=
  if write then .next (if s.windowOpen && windowAligned offset size then s.windowWrite offset size value else s)
  else if s.windowOpen then .next { s with mgmt := { s.mgmt with hostRead := s.windowRead offset size, hostPoison := false } }
  else .next s

/-! ### The host's accesses to device memory (09 R230, 17 R330, R335) -/

/-- Whether a location is device memory that CXL.mem offers: a tier-0 frame, or a compressed page's plain bytes (17 R332, 19 R342). (DEDUCED, safe: notes/assumptions/50.md) -/
def hostReaches (loc : Nat) : Bool := decide (2 ^ 52 ≤ loc ∧ loc < frameBase hbmFrames) || decide (2 ^ 53 ≤ loc ∧ loc < imageBase hbmFrames 0)

/-- Writes n bytes for the host; whole lines are clean (17 R335). -/
def State.hostWrite (s : State) (loc n v : Nat) : State := (s.storeAt loc n v).cleanLines loc n

/-- Leaves what a host read returned, with the poison indication (17 R335). -/
def State.hostTake (s : State) (v : Nat) (poison : Bool) : State := { s with mgmt := { s.mgmt with hostRead := v, hostPoison := poison } }

/-- The plain access of the host. -/
def State.hostPlain (s : State) (write : Bool) (loc n v : Nat) : State :=
  if write then s.hostWrite loc n v else s.hostTake (s.read loc n) (s.anyPoison loc n)

/-- HOST_MEM_ACCESS: a host read or write of n bytes at a location of device memory, or of its own, which the device shares as tier-2 frames (09 R230). A page entry or tile entry that maps device memory
there decides by its page's state what the access does; a write that finds the zeroed pool empty is held until the harbour core refills it
(17 R330, R332). An access to a pseudo-channel out of mission mode, or to an entry there, takes place once the channel is back (24 R420). -/
def execHostMemAccess (write : Bool) (location size value : Nat) (s : State) : Answer :=
  if hostMemory location then .next (s.hostPlain write location size value)
  else if !hostReaches location || s.mgmt.hostFrozen || s.mgmt.tripped || decide (s.mgmt.stage < 4) then .next s
  else if s.channelHeld location then .next s
  else match s.allEntries.find? fun l => s.pageHolds l (s.read l 8) location with
    | none => .next (s.hostPlain write location size value)
    | some l =>
      let v := s.read l 8
      match s.pageAccess l v (location - s.pageBase l v) 0x04 write true with
      | .loc a t => .next (if s.channelHeld l || s.channelHeld a then s else t.hostPlain write a size value)
      | .zero => .next (if write then s else s.hostTake 0 false)
      | .wait _ => .next { s with mgmt := { s.mgmt with hostHeld := s.mgmt.hostHeld ++ [(location, size, value)] } }
      | .fault _ => .next s

/-! ### The watchdog, power and heat (24 R410, R416, R417) -/

/-- HWDT_EXPIRE: wrack event 10, the record held, and the harbour core alone reset (24 R410). A period of 0 never expires. (DEDUCED, unsafe: notes/assumptions/52.md) -/
def execHwdtExpire (s : State) : Answer :=
  if s.mgmt.hwdt = 0 ∨ s.mgmt.stage = 0 then .next s
  else
    let s1 := (s.advanceTime s.mgmt.hwdtDue).wrackAdd 10 0 5 (2 ^ 13) 0 (s.core harbourId).cycle
    .next { s1.startHarbour with mgmt := { s1.mgmt with hwdt := 1000, hwdtDue := s1.time + 1000 * 1000000 } }

/-- SUPPLY_SAG: the die's step rises by one, up to 8 (24 R417, R418). -/
def execSupplySag (die : Nat) (s : State) : Answer :=
  if 8 ≤ die then .next s
  else
    let v := s.tow die
    let k := min 8 (v.k + 1)
    .next (s.setTow die { v with k := k, kmax := max v.kmax k, events := min (2 ^ 32 - 1) (v.events + 1) })

/-- UNDERTOW_RECOVER: 10 µs without sag lower the die's step by one, down to its floor (24 R417). -/
def execUndertowRecover (die : Nat) (s : State) : Answer :=
  if 8 ≤ die then .next s
  else
    let v := s.tow die
    .next (s.setTow die { v with k := if s.mgmt.floor die < v.k then v.k - 1 else v.k })

/-- THERMAL_STEP: a die that has grown so many °C hotter above 95 °C has its floor raised by as many steps; an HBM4E stack above 95 °C has its
refresh rate doubled (24 R416). -/
def execThermalStep (hbm : Bool) (which degrees : Nat) (s : State) : Answer :=
  if hbm then
    if 12 ≤ which ∨ s.mgmt.refreshDouble.contains which = true then .next s
    else .next { s with mgmt := { s.mgmt with refreshDouble := s.mgmt.refreshDouble ++ [which] } }
  else if 8 ≤ which then .next s
  else
    let m := s.mgmt
    .next ({ s with mgmt := { m with pwrctl := putBits m.pwrctl (4 * which) 4 (min 8 (m.floor which + degrees)) } }.raiseToFloor which)

/-- POWER_TRIP: the compute dies' clocks stop; wrack event 9, the record held, BSTAT tripped and stage 15, until a reset (24 R416). -/
def execPowerTrip (s : State) : Answer :=
  if s.mgmt.tripped then .next s
  else
    let s1 := s.wrackAdd 9 0 7 0 0 0
    .next { s1 with mgmt := { s1.mgmt with stage := 15, tripped := true } }

end Sys2Proof.Machine
end

