-- ==== Sys2Proof/Machine/Dispatch.lean ====
section
/-! DEFINITION. The meaning of each instruction: one arm per constructor of Instr, each a direct call of its meaning. -/

namespace Sys2Proof.Machine

def exec (i : Instr) (s : State) : Host.Outcome State Fault Refusal :=
  match i with
  | .add rd ra rb g => Sys2Proof.Machine.execAdd rd ra rb g s
  | .sub rd ra rb g => Sys2Proof.Machine.execSub rd ra rb g s
  | .and rd ra rb g => Sys2Proof.Machine.execAnd rd ra rb g s
  | .or rd ra rb g => Sys2Proof.Machine.execOr rd ra rb g s
  | .xor rd ra rb g => Sys2Proof.Machine.execXor rd ra rb g s
  | .sll rd ra rb g => Sys2Proof.Machine.execSll rd ra rb g s
  | .srl rd ra rb g => Sys2Proof.Machine.execSrl rd ra rb g s
  | .sra rd ra rb g => Sys2Proof.Machine.execSra rd ra rb g s
  | .mul rd ra rb g => Sys2Proof.Machine.execMul rd ra rb g s
  | .mulh rd ra rb g => Sys2Proof.Machine.execMulh rd ra rb g s
  | .div rd ra rb g => Sys2Proof.Machine.execDiv rd ra rb g s
  | .divu rd ra rb g => Sys2Proof.Machine.execDivu rd ra rb g s
  | .rem rd ra rb g => Sys2Proof.Machine.execRem rd ra rb g s
  | .min rd ra rb g => Sys2Proof.Machine.execMin rd ra rb g s
  | .max rd ra rb g => Sys2Proof.Machine.execMax rd ra rb g s
  | .addi rd ra imm => Sys2Proof.Machine.execAddi rd ra imm s
  | .andi rd ra imm => Sys2Proof.Machine.execAndi rd ra imm s
  | .ori rd ra imm => Sys2Proof.Machine.execOri rd ra imm s
  | .xori rd ra imm => Sys2Proof.Machine.execXori rd ra imm s
  | .slli rd ra sh => Sys2Proof.Machine.execSlli rd ra sh s
  | .srli rd ra sh => Sys2Proof.Machine.execSrli rd ra sh s
  | .srai rd ra sh => Sys2Proof.Machine.execSrai rd ra sh s
  | .lui rd imm => Sys2Proof.Machine.execLui rd imm s
  | .ceq pd ra rb g => Sys2Proof.Machine.execCeq pd ra rb g s
  | .cne pd ra rb g => Sys2Proof.Machine.execCne pd ra rb g s
  | .clt pd ra rb g => Sys2Proof.Machine.execClt pd ra rb g s
  | .cltu pd ra rb g => Sys2Proof.Machine.execCltu pd ra rb g s
  | .cge pd ra rb g => Sys2Proof.Machine.execCge pd ra rb g s
  | .cgeu pd ra rb g => Sys2Proof.Machine.execCgeu pd ra rb g s
  | .ceqi pd ra imm => Sys2Proof.Machine.execCeqi pd ra imm s
  | .clti pd ra imm => Sys2Proof.Machine.execClti pd ra imm s
  | .pand pd pa pb na nb g => Sys2Proof.Machine.execPand pd pa pb na nb g s
  | .por pd pa pb na nb g => Sys2Proof.Machine.execPor pd pa pb na nb g s
  | .b g off => Sys2Proof.Machine.execB g off s
  | .j off => Sys2Proof.Machine.execJ off s
  | .jal off => Sys2Proof.Machine.execJal off s
  | .jr ra g => Sys2Proof.Machine.execJr ra g s
  | .jalr rd ra g => Sys2Proof.Machine.execJalr rd ra g s
  | .ld rd base size off => Sys2Proof.Machine.execLd rd base size off s
  | .st rd base size off => Sys2Proof.Machine.execSt rd base size off s
  | .lda rd base size off => Sys2Proof.Machine.execLda rd base size off s
  | .stl rd base size off => Sys2Proof.Machine.execStl rd base size off s
  | .lds rd base size off => Sys2Proof.Machine.execLds rd base size off s
  | .sts rd base size off => Sys2Proof.Machine.execSts rd base size off s
  | .amoadd rd ra rb dbl scope g => Sys2Proof.Machine.execAmoadd rd ra rb dbl scope g s
  | .amoand rd ra rb dbl scope g => Sys2Proof.Machine.execAmoand rd ra rb dbl scope g s
  | .amoor rd ra rb dbl scope g => Sys2Proof.Machine.execAmoor rd ra rb dbl scope g s
  | .amomax rd ra rb dbl scope g => Sys2Proof.Machine.execAmomax rd ra rb dbl scope g s
  | .amoswp rd ra rb dbl scope g => Sys2Proof.Machine.execAmoswp rd ra rb dbl scope g s
  | .amocas rd ra rb dbl scope g => Sys2Proof.Machine.execAmocas rd ra rb dbl scope g s
  | .fence scope g => Sys2Proof.Machine.execFence scope g s
  | .acq ra scope g => Sys2Proof.Machine.execAcq ra scope g s
  | .rel ra scope g => Sys2Proof.Machine.execRel ra scope g s
  | .bind rd ra rb g => Sys2Proof.Machine.execBind rd ra rb g s
  | .cset c width pos ra => Sys2Proof.Machine.execCset c width pos ra s
  | .cseti c width pos imm => Sys2Proof.Machine.execCseti c width pos imm s
  | .cclr first last => Sys2Proof.Machine.execCclr first last s
  | .push rd queue g => Sys2Proof.Machine.execPush rd queue g s
  | .rpush rd ra rb g => Sys2Proof.Machine.execRpush rd ra rb g s
  | .fpop rd source g => Sys2Proof.Machine.execFpop rd source g s
  | .zpop rd z g => Sys2Proof.Machine.execZpop rd z g s
  | .zpush z rb g => Sys2Proof.Machine.execZpush z rb g s
  | .gjoin rd ra lockstep g => Sys2Proof.Machine.execGjoin rd ra lockstep g s
  | .gleave ra g => Sys2Proof.Machine.execGleave ra g s
  | .barr rd ra g => Sys2Proof.Machine.execBarr rd ra g s
  | .sig ra rb g => Sys2Proof.Machine.execSig ra rb g s
  | .waits rd ra rb g => Sys2Proof.Machine.execWaits rd ra rb g s
  | .tmark rd mask => Sys2Proof.Machine.execTmark rd mask s
  | .csrr rd csr => Sys2Proof.Machine.execCsrr rd csr s
  | .csrw ra csr => Sys2Proof.Machine.execCsrw ra csr s
  | .trap imm => Sys2Proof.Machine.execTrap imm s
  | .rfe => Sys2Proof.Machine.execRfe s
  | .contextWaitComplete core ctx => Sys2Proof.Machine.execContextWaitComplete core ctx s
  | .interruptTake core ctx => Sys2Proof.Machine.execInterruptTake core ctx s
  | .tkpush ra => Sys2Proof.Machine.execTkpush ra s
  | .tkvx rd => Sys2Proof.Machine.execTkvx rd s
  | .tkmx rd => Sys2Proof.Machine.execTkmx rd s
  | .tcmpWrite ra => Sys2Proof.Machine.execTcmpWrite ra s
  | .vaddF h d a b => Sys2Proof.Machine.execVaddF h d a b s
  | .vsubF h d a b => Sys2Proof.Machine.execVsubF h d a b s
  | .vmulF h d a b => Sys2Proof.Machine.execVmulF h d a b s
  | .vfmaF h d a b => Sys2Proof.Machine.execVfmaF h d a b s
  | .vminF h d a b => Sys2Proof.Machine.execVminF h d a b s
  | .vmaxF h d a b => Sys2Proof.Machine.execVmaxF h d a b s
  | .vdivF h d a b => Sys2Proof.Machine.execVdivF h d a b s
  | .vsqrtF h d a => Sys2Proof.Machine.execVsqrtF h d a s
  | .vabsF h d a => Sys2Proof.Machine.execVabsF h d a s
  | .vnegF h d a => Sys2Proof.Machine.execVnegF h d a s
  | .vaddI h d a b => Sys2Proof.Machine.execVaddI h d a b s
  | .vsubI h d a b => Sys2Proof.Machine.execVsubI h d a b s
  | .vmulI h d a b => Sys2Proof.Machine.execVmulI h d a b s
  | .vmacI h d a b => Sys2Proof.Machine.execVmacI h d a b s
  | .vand h d a b => Sys2Proof.Machine.execVand h d a b s
  | .vor h d a b => Sys2Proof.Machine.execVor h d a b s
  | .vxor h d a b => Sys2Proof.Machine.execVxor h d a b s
  | .vshl h d a b => Sys2Proof.Machine.execVshl h d a b s
  | .vshr h d a b => Sys2Proof.Machine.execVshr h d a b s
  | .vsra h d a b => Sys2Proof.Machine.execVsra h d a b s
  | .vminI h d a b => Sys2Proof.Machine.execVminI h d a b s
  | .vmaxI h d a b => Sys2Proof.Machine.execVmaxI h d a b s
  | .vcmpF h pd rel a b => Sys2Proof.Machine.execVcmpF h pd rel a b s
  | .vcmpI h pd rel a b => Sys2Proof.Machine.execVcmpI h pd rel a b s
  | .vsel h d a b => Sys2Proof.Machine.execVsel h d a b s
  | .vcvt h d a src => Sys2Proof.Machine.execVcvt h d a src s
  | .vpack h d a src => Sys2Proof.Machine.execVpack h d a src s
  | .vunpk h d a src => Sys2Proof.Machine.execVunpk h d a src s
  | .vcmul h d a b => Sys2Proof.Machine.execVcmul h d a b s
  | .vcfma h d a b => Sys2Proof.Machine.execVcfma h d a b s
  | .vtwid h d a b => Sys2Proof.Machine.execVtwid h d a b s
  | .vreds h sd a => Sys2Proof.Machine.execVreds h sd a s
  | .vredm h sd a mode => Sys2Proof.Machine.execVredm h sd a mode s
  | .vperm h d a b => Sys2Proof.Machine.execVperm h d a b s
  | .vbcst h d a b => Sys2Proof.Machine.execVbcst h d a b s
  | .vmovg h d a => Sys2Proof.Machine.execVmovg h d a s
  | .vclmp h d a b => Sys2Proof.Machine.execVclmp h d a b s
  | .vpopc h sd a => Sys2Proof.Machine.execVpopc h sd a s
  | .vtopk h d a b => Sys2Proof.Machine.execVtopk h d a b s
  | .vnms h pd a b => Sys2Proof.Machine.execVnms h pd a b s
  | .vboxd h d a b => Sys2Proof.Machine.execVboxd h d a b s
  | .vdwc h d a b => Sys2Proof.Machine.execVdwc h d a b s
  | .vlut h d a b => Sys2Proof.Machine.execVlut h d a b s
  | .vld h d a => Sys2Proof.Machine.execVld h d a s
  | .vst h d a => Sys2Proof.Machine.execVst h d a s
  | .vgath h d a b => Sys2Proof.Machine.execVgath h d a b s
  | .vscat h d a b => Sys2Proof.Machine.execVscat h d a b s
  | .vacld h d f => Sys2Proof.Machine.execVacld h d f s
  | .vacz h f => Sys2Proof.Machine.execVacz h f s
  | .vsadd h sd sa sb => Sys2Proof.Machine.execVsadd h sd sa sb s
  | .vsaddi h sd sa v => Sys2Proof.Machine.execVsaddi h sd sa v s
  | .vsmov h sd a => Sys2Proof.Machine.execVsmov h sd a s
  | .vloop slot pop push loop rot drain count off => Sys2Proof.Machine.execVloop slot pop push loop rot drain count off s
  | .vlbr slot pop push loop => Sys2Proof.Machine.execVlbr slot pop push loop s
  | .vbr slot pop push g all off => Sys2Proof.Machine.execVbr slot pop push g all off s
  | .vj slot pop push off => Sys2Proof.Machine.execVj slot pop push off s
  | .vtok h np nq => Sys2Proof.Machine.execVtok h np nq s
  | .vrdv slot pop push sd => Sys2Proof.Machine.execVrdv slot pop push sd s
  | .vfmtSelect slot pop push loop base => Sys2Proof.Machine.execVfmtSelect slot pop push loop base s
  | .vfmtLoad slot pop push row sn => Sys2Proof.Machine.execVfmtLoad slot pop push row sn s
  | .vkac h a const => Sys2Proof.Machine.execVkac h a const s
  | .vwait slot pop push a => Sys2Proof.Machine.execVwait slot pop push a s
  | .vsig slot pop push a => Sys2Proof.Machine.execVsig slot pop push a s
  | .vstop slot pop push => Sys2Proof.Machine.execVstop slot pop push s
  | .vnop h => Sys2Proof.Machine.execVnop h s
  | .vectorLanding core => Sys2Proof.Machine.execVectorLanding core s
  | .streamEnd core matrix => Sys2Proof.Machine.execStreamEnd core matrix s
  | .mma h t => Sys2Proof.Machine.execMma h t s
  | .mmaS h t => Sys2Proof.Machine.execMmaS h t s
  | .mmaG h t => Sys2Proof.Machine.execMmaG h t s
  | .mmaT h t => Sys2Proof.Machine.execMmaT h t s
  | .mwin h t => Sys2Proof.Machine.execMwin h t s
  | .mconv h t => Sys2Proof.Machine.execMconv h t s
  | .mzero h slotC m n tile offset => Sys2Proof.Machine.execMzero h slotC m n tile offset s
  | .mldi h gen off count => Sys2Proof.Machine.execMldi h gen off count s
  | .mloop h loop count off => Sys2Proof.Machine.execMloop h loop count off s
  | .mlbr h loop => Sys2Proof.Machine.execMlbr h loop s
  | .mbr h p neg off => Sys2Proof.Machine.execMbr h p neg off s
  | .mj h off => Sys2Proof.Machine.execMj h off s
  | .mtok h => Sys2Proof.Machine.execMtok h s
  | .mrdv h => Sys2Proof.Machine.execMrdv h s
  | .mstop h => Sys2Proof.Machine.execMstop h s
  | .mfmt h loop base => Sys2Proof.Machine.execMfmt h loop base s
  | .mkat h slotA slotB slotC m n k gen off const => Sys2Proof.Machine.execMkat h slotA slotB slotC m n k gen off const s
  | .msig h mask => Sys2Proof.Machine.execMsig h mask s
  | .matrixStepLastCycle core => Sys2Proof.Machine.execMatrixStepLastCycle core s
  | .mldiLanding core => Sys2Proof.Machine.execMldiLanding core s
  | .kCopy h o => Sys2Proof.Machine.execKCopy h o s
  | .kGather h o => Sys2Proof.Machine.execKGather h o s
  | .kScatter h o => Sys2Proof.Machine.execKScatter h o s
  | .kFill h o => Sys2Proof.Machine.execKFill h o s
  | .kFeed h o => Sys2Proof.Machine.execKFeed h o s
  | .kJob h o => Sys2Proof.Machine.execKJob h o s
  | .kNest h o => Sys2Proof.Machine.execKNest h o s
  | .kOft h o => Sys2Proof.Machine.execKOft h o s
  | .kOmask h o => Sys2Proof.Machine.execKOmask h o s
  | .kOcalRun h o => Sys2Proof.Machine.execKOcalRun h o s
  | .kOcalWrite h o => Sys2Proof.Machine.execKOcalWrite h o s
  | .kOcalRead h o => Sys2Proof.Machine.execKOcalRead h o s
  | .kAllred h o => Sys2Proof.Machine.execKAllred h o s
  | .kAllgath h o => Sys2Proof.Machine.execKAllgath h o s
  | .kRedscat h o => Sys2Proof.Machine.execKRedscat h o s
  | .kBcast h o => Sys2Proof.Machine.execKBcast h o s
  | .kAlltoall h o => Sys2Proof.Machine.execKAlltoall h o s
  | .kTopkm h o => Sys2Proof.Machine.execKTopkm h o s
  | .kMigr h o => Sys2Proof.Machine.execKMigr h o s
  | .kDiscard h o => Sys2Proof.Machine.execKDiscard h o s
  | .kKernel h o => Sys2Proof.Machine.execKKernel h o s
  | .kEvent h o => Sys2Proof.Machine.execKEvent h o s
  | .kNop h o => Sys2Proof.Machine.execKNop h o s
  | .kPrefetch h o => Sys2Proof.Machine.execKPrefetch h o s
  | .armArrival q => Sys2Proof.Machine.execArmArrival q s
  | .successorDecrement q => Sys2Proof.Machine.execSuccessorDecrement q s
  | .ebbArrival q => Sys2Proof.Machine.execEbbArrival q s
  | .commandStart q => Sys2Proof.Machine.execCommandStart q s
  | .commandRetire q seq => Sys2Proof.Machine.execCommandRetire q seq s
  | .commandFault q seq => Sys2Proof.Machine.execCommandFault q seq s
  | .resultElementAppend core source => Sys2Proof.Machine.execResultElementAppend core source s
  | .deferredTokenPush core tokenQueue => Sys2Proof.Machine.execDeferredTokenPush core tokenQueue s
  | .preemptSaved core => Sys2Proof.Machine.execPreemptSaved core s
  | .resumeSettled core => Sys2Proof.Machine.execResumeSettled core s
  | .streamStopTrap core => Sys2Proof.Machine.execStreamStopTrap core s
  | .lockstepRoundStart group => Sys2Proof.Machine.execLockstepRoundStart group s
  | .kernelStart kq => Sys2Proof.Machine.execKernelStart kq s
  | .iterationHandoff kq => Sys2Proof.Machine.execIterationHandoff kq s
  | .kernelRetire kq => Sys2Proof.Machine.execKernelRetire kq s
  | .tsqPop rd => Sys2Proof.Machine.execTsqPop rd s
  | .tsdone ra => Sys2Proof.Machine.execTsdone ra s
  | .tinv ra => Sys2Proof.Machine.execTinv ra s
  | .cmclr ra => Sys2Proof.Machine.execCmclr ra s
  | .wrctlWrite ra => Sys2Proof.Machine.execWrctlWrite ra s
  | .ofuFrameDone unit => Sys2Proof.Machine.execOfuFrameDone unit s
  | .ofuMaskSetDone unit => Sys2Proof.Machine.execOfuMaskSetDone unit s
  | .hctlWrite ra => Sys2Proof.Machine.execHctlWrite ra s
  | .hrepWrite ra => Sys2Proof.Machine.execHrepWrite ra s
  | .hwdtWrite ra => Sys2Proof.Machine.execHwdtWrite ra s
  | .bootStageDone pass node => Sys2Proof.Machine.execBootStageDone pass node s
  | .hbmTestDone stack channel pc => Sys2Proof.Machine.execHbmTestDone stack channel pc s
  | .illegalInstruction word => Sys2Proof.Machine.execIllegalInstruction word s
  | .illegalVectorWord word => Sys2Proof.Machine.execIllegalVectorWord word s
  | .illegalMatrixWord word => Sys2Proof.Machine.execIllegalMatrixWord word s
  | .loadReturn core ctx => Sys2Proof.Machine.execLoadReturn core ctx s
  | .storeBufferDrain core ctx => Sys2Proof.Machine.execStoreBufferDrain core ctx s
  | .ringTimeout core ctx => Sys2Proof.Machine.execRingTimeout core ctx s
  | .timerInterrupt core ctx time => Sys2Proof.Machine.execTimerInterrupt core ctx time s
  | .elasticDataArrival core => Sys2Proof.Machine.execElasticDataArrival core s
  | .timerWheelRelease time => Sys2Proof.Machine.execTimerWheelRelease time s
  | .qctlRetry q seq => Sys2Proof.Machine.execQctlRetry q seq s
  | .qctlCancel q seq => Sys2Proof.Machine.execQctlCancel q seq s
  | .pctlPreempt core => Sys2Proof.Machine.execPctlPreempt core s
  | .pctlResume core => Sys2Proof.Machine.execPctlResume core s
  | .interruptStreamStop core => Sys2Proof.Machine.execInterruptStreamStop core s
  | .objectOperation op core ctx object value => Sys2Proof.Machine.execObjectOperation op core ctx object value s
  | .kqaddrWrite kq address => Sys2Proof.Machine.execKqaddrWrite kq address s
  | .pageWalk core ctx va => Sys2Proof.Machine.execPageWalk core ctx va s
  | .uncorrectableError location entry => Sys2Proof.Machine.execUncorrectableError location entry s
  | .scrubPass core corrected lines groups => Sys2Proof.Machine.execScrubPass core corrected lines groups s
  | .heatEpoch => Sys2Proof.Machine.execHeatEpoch s
  | .logRecordMove core ctx => Sys2Proof.Machine.execLogRecordMove core ctx s
  | .phaseRerun q seq => Sys2Proof.Machine.execPhaseRerun q seq s
  | .cntctlUnfence core => Sys2Proof.Machine.execCntctlUnfence core s
  | .breakpointCycle core => Sys2Proof.Machine.execBreakpointCycle core s
  | .debugStop core => Sys2Proof.Machine.execDebugStop core s
  | .debugResume core => Sys2Proof.Machine.execDebugResume core s
  | .rewind group core ctx window => Sys2Proof.Machine.execRewind group core ctx window s
  | .stepback group core ctx n => Sys2Proof.Machine.execStepback group core ctx n s
  | .freezeRelease kind core which => Sys2Proof.Machine.execFreezeRelease kind core which s
  | .lctlEnable port => Sys2Proof.Machine.execLctlEnable port s
  | .lctlRetrain port => Sys2Proof.Machine.execLctlRetrain port s
  | .lctlExclude port => Sys2Proof.Machine.execLctlExclude port s
  | .lctlClearSuspect port => Sys2Proof.Machine.execLctlClearSuspect port s
  | .strandTrainingDone port lanes peer => Sys2Proof.Machine.execStrandTrainingDone port lanes peer s
  | .flitReceive port flit => Sys2Proof.Machine.execFlitReceive port flit s
  | .flitRetryLimit port => Sys2Proof.Machine.execFlitRetryLimit port s
  | .cxlPortTrained port width => Sys2Proof.Machine.execCxlPortTrained port width s
  | .farTierTimeout write location port => Sys2Proof.Machine.execFarTierTimeout write location port s
  | .hostMemAccess write location size value => Sys2Proof.Machine.execHostMemAccess write location size value s
  | .collectiveMatch q seq cause => Sys2Proof.Machine.execCollectiveMatch q seq cause s
  | .chunkContribution q seq rank chunk bytes => Sys2Proof.Machine.execChunkContribution q seq rank chunk bytes s
  | .chunkAck q seq chunk => Sys2Proof.Machine.execChunkAck q seq chunk s
  | .collectiveTimeout q seq port => Sys2Proof.Machine.execCollectiveTimeout q seq port s
  | .causewayTimeout q seq => Sys2Proof.Machine.execCausewayTimeout q seq s
  | .ocfgEnable unit => Sys2Proof.Machine.execOcfgEnable unit s
  | .ocfgDisable unit => Sys2Proof.Machine.execOcfgDisable unit s
  | .octlRetry unit seq => Sys2Proof.Machine.execOctlRetry unit seq s
  | .octlCancel unit seq => Sys2Proof.Machine.execOctlCancel unit seq s
  | .ofuWarmupDone unit => Sys2Proof.Machine.execOfuWarmupDone unit s
  | .ofuCalibrationDone unit pass => Sys2Proof.Machine.execOfuCalibrationDone unit pass s
  | .ofuValidityLapse unit => Sys2Proof.Machine.execOfuValidityLapse unit s
  | .ofuTemperatureDrift unit => Sys2Proof.Machine.execOfuTemperatureDrift unit s
  | .hpatReadTest stack channel pc => Sys2Proof.Machine.execHpatReadTest stack channel pc s
  | .hpatWriteReadTest stack channel pc => Sys2Proof.Machine.execHpatWriteReadTest stack channel pc s
  | .hwdtExpire => Sys2Proof.Machine.execHwdtExpire s
  | .doorbell mask => Sys2Proof.Machine.execDoorbell mask s
  | .hostWindowAccess write offset size value => Sys2Proof.Machine.execHostWindowAccess write offset size value s
  | .hresetWarm => Sys2Proof.Machine.execHresetWarm s
  | .hresetPowerOn => Sys2Proof.Machine.execHresetPowerOn s
  | .powerOnReset => Sys2Proof.Machine.execPowerOnReset s
  | .supplySag die => Sys2Proof.Machine.execSupplySag die s
  | .undertowRecover die => Sys2Proof.Machine.execUndertowRecover die s
  | .thermalStep hbm which degrees => Sys2Proof.Machine.execThermalStep hbm which degrees s
  | .powerTrip => Sys2Proof.Machine.execPowerTrip s
  | .traceSample core source => Sys2Proof.Machine.execTraceSample core source s

end Sys2Proof.Machine
end

