-- ==== Sys2Proof/Machine/Fetch.lean ====
section
/-! DEFINITION. What moves next: the turn of a context, a stream, a command or an event, the instruction that the turn fetches (03 R46, R50; 10 R232, R247; 06 R124; 08 R186), and the turn that an empty agenda gives (notes/assumptions/1.md). -/

namespace Sys2Proof.Machine

/-- What a turn comes to: a next state in which no instruction runs, an instruction to run, or no such party. -/
inductive Turned where
  | stay (s : State)
  | run (i : Instr) (s : State)
  | fault

/-- Whether an instruction is a step of the device that no word encodes (95): the only ones that the agenda names itself. -/
def isStep (i : Instr) : Bool :=
  match i with
  | .contextWaitComplete .. | .interruptTake .. | .vectorLanding .. | .streamEnd .. | .matrixStepLastCycle .. | .mldiLanding ..
  | .armArrival .. | .successorDecrement .. | .ebbArrival .. | .commandStart .. | .commandRetire .. | .commandFault ..
  | .resultElementAppend .. | .deferredTokenPush .. | .preemptSaved .. | .resumeSettled .. | .streamStopTrap .. | .lockstepRoundStart ..
  | .kernelStart .. | .iterationHandoff .. | .kernelRetire .. | .ofuFrameDone .. | .ofuMaskSetDone .. | .bootStageDone .. | .loadReturn ..
  | .storeBufferDrain .. | .ringTimeout .. | .timerInterrupt .. | .elasticDataArrival .. | .timerWheelRelease .. | .qctlRetry ..
  | .qctlCancel .. | .pctlPreempt .. | .pctlResume .. | .interruptStreamStop .. | .objectOperation .. | .kqaddrWrite .. | .pageWalk ..
  | .uncorrectableError .. | .scrubPass .. | .heatEpoch | .logRecordMove .. | .phaseRerun .. | .cntctlUnfence .. | .breakpointCycle ..
  | .debugStop .. | .debugResume .. | .rewind .. | .stepback .. | .freezeRelease .. | .lctlEnable .. | .lctlRetrain .. | .lctlExclude ..
  | .lctlClearSuspect .. | .strandTrainingDone .. | .flitReceive .. | .flitRetryLimit .. | .cxlPortTrained .. | .farTierTimeout ..
  | .hostMemAccess .. | .collectiveMatch .. | .chunkContribution .. | .chunkAck .. | .collectiveTimeout .. | .causewayTimeout ..
  | .ocfgEnable .. | .ocfgDisable .. | .octlRetry .. | .octlCancel .. | .ofuWarmupDone .. | .ofuCalibrationDone .. | .ofuValidityLapse ..
  | .ofuTemperatureDrift .. | .hpatReadTest .. | .hpatWriteReadTest .. | .hbmTestDone .. | .hwdtExpire | .doorbell .. | .hostWindowAccess ..
  | .hresetWarm | .hresetPowerOn | .powerOnReset | .supplySag .. | .undertowRecover .. | .thermalStep .. | .powerTrip | .traceSample .. => true
  | _ => false

/-- A trip stops every clock but the I/O die's (24 R416). -/
def State.clocked (s : State) (core : Nat) : Bool := !s.mgmt.tripped || core == harbourId

/-- The core whose clock a queue's commands need; a compute die's stands for the optical units and for the memory that a collective moves. -/
def queueClock (q : QueueId) : Nat := match q with | .mq c | .vq c | .cq c => c | .oq _ | .lq _ => 0

/-- The core whose clock a step of the device needs, core 0's standing for the other dies'; none for a step of the I/O die, of its ports and
sensors, or of the host and the debug port (01 R9, 24 R416). -/
def stepClock (i : Instr) : Option Nat :=
  match i with
  | .contextWaitComplete c _ | .interruptTake c _ | .vectorLanding c | .streamEnd c _ | .matrixStepLastCycle c | .mldiLanding c
  | .resultElementAppend c _ | .deferredTokenPush c _ | .preemptSaved c | .resumeSettled c | .streamStopTrap c | .loadReturn c _
  | .storeBufferDrain c _ | .ringTimeout c _ | .timerInterrupt c _ _ | .elasticDataArrival c | .interruptStreamStop c
  | .objectOperation _ c _ _ _ | .pageWalk c _ _ | .scrubPass c _ _ _ | .logRecordMove c _ | .breakpointCycle c | .traceSample c _ => some c
  | .armArrival q | .successorDecrement q | .ebbArrival q | .commandStart q | .commandRetire q _ | .commandFault q _ | .phaseRerun q _
  | .collectiveMatch q _ _ | .chunkContribution q _ _ _ _ | .chunkAck q _ _ | .collectiveTimeout q _ _ | .causewayTimeout q _ => some (queueClock q)
  | .lockstepRoundStart _ | .iterationHandoff _ | .ofuFrameDone _ | .ofuMaskSetDone _ | .ofuWarmupDone _ | .ofuCalibrationDone _ _
  | .ofuValidityLapse _ | .ofuTemperatureDrift _ | .heatEpoch | .hpatReadTest .. | .hpatWriteReadTest .. | .hbmTestDone .. => some 0
  | _ => none

/-- Whether a step of the device can happen: a trip leaves only those whose clock runs on (24 R416). -/
def State.stepClocked (s : State) (i : Instr) : Bool := match stepClock i with | some c => s.clocked c | none => true

/-! ### Contexts (10 R232) -/

/-- x registers that an instruction names, where it may issue past an outstanding load: arithmetic, immediates, compares, predicates,
command registers, ZPUSH, plain loads, and plain stores that no undo log records (10 R247; notes/assumptions/4.md). -/
def passes (logging : Bool) (i : Instr) : Option (List Nat) :=
  match i with
  | .add d a b _ | .sub d a b _ | .and d a b _ | .or d a b _ | .xor d a b _ | .sll d a b _ | .srl d a b _ | .sra d a b _
  | .mul d a b _ | .mulh d a b _ | .div d a b _ | .divu d a b _ | .rem d a b _ | .min d a b _ | .max d a b _ => some [d, a, b]
  | .addi d a _ | .andi d a _ | .ori d a _ | .xori d a _ | .slli d a _ | .srli d a _ | .srai d a _ => some [d, a]
  | .lui d _ => some [d]
  | .ceq _ a b _ | .cne _ a b _ | .clt _ a b _ | .cltu _ a b _ | .cge _ a b _ | .cgeu _ a b _ => some [a, b]
  | .ceqi _ a _ | .clti _ a _ => some [a]
  | .pand .. | .por .. => some []
  | .cset _ _ _ a => some [a]
  | .cseti .. | .cclr .. => some []
  | .zpush _ b _ => some [b]
  | .ld d a _ _ => some [d, a]
  | .st d a _ _ => if logging then none else some [d, a]
  | _ => none

/-- A load or store that traps waits for the outstanding loads: the trap of an earlier load comes first. -/
def State.cleanAccess (s : State) (i : Instr) : Bool :=
  match i with
  | .ld _ base size off =>
    let a := s.ea base off
    decide (a % sizeBytes size = 0) && (match s.reach s.focus.core a false (s.privileged s.focus.core s.focus.ctx) false with | .loc _ _ => true | _ => false)
  | .st _ base size off => match s.ctxStoreAt (s.ea base off) (sizeBytes size) with | .sram _ => true | _ => false
  | .zpush z _ _ => decide ((s.here.ring z).depth ≠ 0) && decide ((s.here.ring z).prod = s.focus.ctx)
  | _ => true

/-- Whether the acting context may issue an instruction while it has outstanding loads (10 R247). (DESIGN CHOICE, safe: notes/assumptions/4.md) -/
def State.issuesPast (s : State) (i : Instr) : Bool :=
  match passes s.cur.log.en i with
  | none => false
  | some rs => rs.all (fun r => decide (r = 0) || !s.cur.loads.any fun l => l.rd == r) && s.cleanAccess i

/-- A fetch of the acting context: memory without the context's buffered stores, and without those that it has made since it last fenced and
jumped (03 R50). (DEDUCED, unsafe: notes/assumptions/59.md) -/
def State.fetchWord (s : State) (a : Nat) : Got :=
  if a % 4 ≠ 0 then .trap s 0x03 a
  else
    match s.reach s.focus.core a false (s.privileged s.focus.core s.focus.ctx) false with
    | .fault c => .trap s c a
    | .wait _ => .trap s 0x04 a
    | .hole => s.outOfRange a
    | .zero => .ok 0 s
    | .loc l t => if s.anyPoison l 4 then .trap s 0x06 a else .ok (t.codeRead s.cur l 4) t

/-- The instruction of a fetched word: an unassigned or broken one is the illegal instruction (03 R74). -/
def controlInstr (w : Nat) : Instr := match decodeControl w with | .ok i => i | .error _ => .illegalInstruction w

/-- The memory that a control instruction would access: each address, and whether it is written (05 R97 to R108). -/
def State.accesses (s : State) (i : Instr) : List (Nat × Bool) :=
  let x (r : Nat) : Nat := (s.x r).toNat
  match i with
  | .ld _ base _ off | .lda _ base _ off | .lds _ base _ off => [(s.ea base off, false)]
  | .st _ base _ off | .stl _ base _ off | .sts _ base _ off => [(s.ea base off, true)]
  | .amoadd _ ra _ _ _ g | .amoand _ ra _ _ _ g | .amoor _ ra _ _ _ g | .amomax _ ra _ _ _ g | .amoswp _ ra _ _ _ g | .amocas _ ra _ _ _ g =>
      if s.holds g then [(x ra, false), (x ra, true)] else []
  | .acq ra _ g => if s.holds g then [(x ra, false)] else []
  | .rel ra _ g => if s.holds g then [(x ra, false), (x ra, true)] else []
  | .rpush _ ra _ g => if s.holds g then [(x ra, false)] else []
  | _ => []

/-- Whether an access of the acting context waits for a pseudo-channel out of mission mode: it is made once the channel is back
(24 R420). (DESIGN CHOICE, safe: notes/assumptions/40.md) -/
def State.accessHeld (s : State) (a : Nat) (write : Bool) : Bool :=
  decide (2 ^ 44 ≤ a) && s.pagedHeld a write (s.privileged s.focus.core s.focus.ctx) false

/-- The acting context fetches and issues the instruction at its program counter. -/
def State.issue (s : State) : Turned :=
  let c := s.cur
  if c.pc = iterationEnd then .stay (s.endPart s.focus.core s.focus.ctx)
  else if s.accessHeld c.pc.toNat false then .stay s
  else
    let go (w : Nat) (t : State) : Turned :=
      let i := controlInstr w
      if (c.loads.isEmpty || s.issuesPast i) && !(s.accesses i).any (fun a => s.accessHeld a.1 a.2) then .run i t else .stay s
    match s.fetchWord c.pc.toNat with
    | .ok w t => go w t
    | .hole t => go 0 t
    | .trap t cause a => if c.loads.isEmpty then .stay (t.trapHere cause (trapInfo cause a)) else .stay s

/-- Whether the acting context meets its breakpoint: an instruction that waits has issued already (23 R404). -/
def Ctx.atBreakpoint (c : Ctx) : Bool :=
  bitOf c.bpaddr.toNat 0 && decide (c.pc.toNat / 4 = c.bpaddr.toNat / 4) && decide (c.st ≠ .waiting)

/-- A recorded interrupt that the acting context's replay takes here (22 R393): one taken as a stream stop waits for that stop while such a
stream runs. -/
def State.replayIrq (s : State) : Option State :=
  match s.cur.log.irqs with
  | (n, stop) :: _ =>
    if !s.replaying || decide (n ≠ s.cur.log.iret) then none
    else if stop && s.holdsIrq s.focus.core s.focus.ctx then some s
    else some ((s.dropIrq s.focus.core s.focus.ctx).takeIrq s.focus.core s.focus.ctx)
  | [] => none

/-- The turn of a context in its core's next slot: the context that owns the slot issues (10 R232). It takes the traps held for its boundary
(05 R122), ends a replay (22 R393), meets a breakpoint, or issues its next instruction. A watchpoint's hit is traced as its trap is taken, at
CYCLE then (23 R405). (DEDUCED, unsafe: notes/assumptions/42.md) -/
def State.ctxTurn (s0 : State) (core named : Nat) : Turned :=
  let slot := (s0.core core).nextSlot named
  let ctx := slotOwner slot
  let s := { (s0.modCore core fun k => { k with cycle := slot }).chargeStopped core (slot - (s0.core core).cycle) with
    focus := { core := core, ctx := ctx, queue := .cq core, seq := 0 } }
  let c : Ctx := s.ctx core ctx
  if harbourId < core ∨ 3 ≤ named then .fault
  else if c.dbg || !s.clocked core || decide (c.st = .idle ∨ c.st = .frozen ∨ c.st = .saved) then .stay s
  else if (match c.log.replay with | some t => decide (t ≤ c.log.iret) | none => false) then
    .stay (s.modCur fun c => { c with dbg := true, log := { c.log with replay := none, inputs := [], irqs := [], lead := none } })
  else if c.atBoundary && (s.owedStop core ctx).isSome then
    match s.owedStop core ctx with | some t => .stay (s.takeStop core ctx t) | none => .stay s
  else if c.atBoundary && c.wpTrap then .stay (((s.modCur fun c => { c with wpTrap := false }).trace core 0 6 ctx slot c.wpobj.toNat c.wpcyc.toNat).trapHere 0x0E 0)
  else if c.atBoundary && decide (s.takeable core ctx ≠ 0) && !s.replaying then .stay (s.takeIrq core ctx)
  else match s.replayIrq with
    | some t => .stay t
    | none =>
      if c.atBreakpoint then (if c.loads.isEmpty then .stay (s.trapHere 0x0D 0) else .stay s)
      else s.issue

/-! ### Streams (06 R124, 08 R186) -/

/-- Words of 4 bytes of memory as a stream's code, the first lowest; code that no memory holds reads zero (03 R46). (DEDUCED, unsafe: notes/assumptions/38.md) -/
def State.codeWords (s : State) (core a : Nat) : Nat → Nat
  | 0 => 0
  | n + 1 => s.peek core (a % 2 ^ 64) 4 + 2 ^ 32 * s.codeWords core (a + 4) n

/-- A word of n times 4 bytes of the code of a core's job: whole, as memory held it when the job started (03 R50). (DESIGN CHOICE, unsafe: notes/assumptions/74.md) -/
def State.codeWord (s : State) (core a n : Nat) : Nat :=
  { s with mem := ((s.core core).job.map fun (j : Job) => j.code).getD s.mem }.codeWords core a n

/-- The instruction of a vector word. -/
def vectorInstr (w : Nat) : Instr := match decodeVector w with | .ok i => i | .error _ => .illegalVectorWord w

/-- The instruction of a matrix word. -/
def matrixInstr (w : Nat) : Instr := match decodeMatrix w with | .ok i => i | .error _ => .illegalMatrixWord w

/-- The state with a job's streams acting. -/
def State.focusJob (s : State) (core : Nat) (j : Job) : State :=
  { s with focus := { core := core, ctx := j.ctx, queue := .vq core, seq := j.seq } }

/-- The word at a core's vector stream's program counter. -/
def State.vectorNext (s : State) (core : Nat) : Instr :=
  let v := (s.core core).vs
  vectorInstr (s.codeWord core (v.base + 12 * v.pc) 3)

/-- The word at a core's matrix stream's program counter. -/
def State.matrixNext (s : State) (core : Nat) : Instr :=
  let m := (s.core core).ms
  matrixInstr (s.codeWord core (m.base + 24 * m.pc) 6)

/-- Whether the next matrix word stops of its own cause as it issues. -/
def State.matrixWouldStop (s : State) (core : Nat) : Bool :=
  match exec (s.matrixNext core) s with
  | .next t => decide ((t.core core).ms.st = .stopped)
  | _ => false

/-- Whether a matrix word pops a gm token, which the gather unit's frozen landing waits for (08 R200). -/
def popsGather (i : Instr) : Bool := match i with | .mmaG h _ | .mtok h => decide (h.pop = 7) | _ => false

/-- The turn of a matrix stream by itself: gather landings, the last cycle of the word in flight, a stop between words, or the next word
(08 R186). A landing that finds 15 gm tokens freezes the stream but for a word due there that pops one (08 R200). -/
def State.matrixDue (s : State) (core : Nat) : Turned :=
  let k := s.core core
  let m := k.ms
  if m.st ≠ .running ∨ s.clocked core = false then .stay s
  else if s.matHeld core then .stay (if k.vs.st = .running then s else s.chargeWire core)
  else if k.matrixBreak then .run (.breakpointCycle core) s
  else if k.mldiReady then .run (.mldiLanding core) s
  else if k.mldiHeld && decide (m.atStop = 0) then
    if m.step.isNone && !m.stopIssued && popsGather (s.matrixNext core) then .run (s.matrixNext core) s
    else .stay (s.modMs core fun m => { m with frozen := true })
  else if m.step.isSome then .run (.matrixStepLastCycle core) s
  else if m.atStop ≠ 0 then
    if k.matBoth then .run (s.matrixNext core) s
    else .stay (s.matStop core (codeCause m.atStop) m.cycle (decide (256 < m.atStop)))
  else if s.irqAlone core then .stay (s.matStop core 0x10 m.cycle true)
  else if m.stopIssued then
    if m.mldi.isEmpty then .run (.streamEnd core true) s else .stay (s.modMs core fun m => { m with cycle := m.cycle + 1 })
  else .run (s.matrixNext core) s

/-- Whether the matrix stream moves before a vector word that is due in the same cycle: a step's last cycle that stops it, or a word that
stops (10 R245). A step's other last cycle comes after the word, which reads the store before its writes (08 R211). (DEDUCED, unsafe: notes/assumptions/32.md) -/
def State.matrixFirst (s : State) (core : Nat) : Bool :=
  let k := s.core core
  let m := k.ms
  decide (m.st = .running) && !m.frozen && decide (m.atStop = 0) && decide (k.matTime = k.vecTime) &&
    (match m.step with
     | some _ => decide (((s.matLast core).core core).ms.st = .stopped)
     | none => !m.stopIssued && s.matrixWouldStop core)

/-- The turn of a vector stream by itself: its cycle's landings, then a stop, its own before an interrupt's (12 R259), then the word that issues
in it (06 R124, 10 R244). A held clock counts no cycle. -/
def State.vectorDue (s : State) (core : Nat) : Turned :=
  let k := s.core core
  let v := k.vs
  let due := v.land.any fun r => decide (r.due ≤ v.cycle)
  if v.st ≠ .running ∨ s.clocked core = false then .stay s
  else if s.vecHeld core then .stay (s.chargeWire core)
  else if v.land.any k.landable then .run (.vectorLanding core) s
  else if k.bpcyc ≠ 0 ∧ k.bpcyc.toNat = v.cycle ∧ (v.atStop = 0 ∨ codeCause v.atStop = 0x10 ∨ k.vecBoth = true) then .run (.breakpointCycle core) s
  else if v.atStop ≠ 0 then
    if k.vecBoth && !due && !v.stopIssued then .run (s.vectorNext core) s
    else .stay (s.vecStop core (codeCause v.atStop) (decide (256 < v.atStop)))
  else if s.irqStop core then .stay (s.vecStop core 0x10 true)
  else if due then .stay (s.modVs fun v => { v with frozen := true })
  else if v.stopIssued then
    if v.land.isEmpty then .run (.streamEnd core false) s else .stay (s.modVs fun v => { v with cycle := v.cycle + 1 })
  else if s.matrixFirst core then s.matrixDue core
  else .run (s.vectorNext core) s

/-! A stop in one cycle of a lockstep round is every member's (10 R244, 15 R305): a word does not issue ahead of another member's stop in its
cycle. -/

/-- The state behind a turn. -/
def Turned.after (t : Turned) (s : State) : State :=
  match t with
  | .stay u => u
  | .run i u => match exec i u with | .next v => v | _ => s
  | .fault => s

/-- Whether a core's streams stop of a cause of their own in a cycle of the clock, as far as its landings and the word there tell. -/
def State.stopsAt (s : State) (core time : Nat) : Bool :=
  match (s.core core).job with
  | none => false
  | some j =>
    let turn (t : State) : State :=
      let k := t.core core
      if k.vecCounts && decide (k.vecTime = time) then (t.vectorDue core).after t
      else if k.matCounts && decide (k.matTime = time) then (t.matrixDue core).after t
      else t
    let t := turn (turn (turn (s.focusJob core j)))
    let own (st : StreamSt) (code : Nat) : Bool := decide (st = .stopped) && decide (codeCause code ≠ 0) && decide (codeCause code ≠ 0x10)
    own (t.core core).vs.st (t.core core).vs.atStop || own (t.core core).ms.st (t.core core).ms.atStop
      || (match t.jobEntry core with | some e => decide (e.st = .faulted) | none => false)

/-- Whether another member of a core's round stops in this cycle of the clock, and the core does not: the core's word waits for that stop. -/
def State.peerStops (s : State) (core time : Nat) : Bool :=
  let others := (s.round core).filter fun c => decide (c ≠ core)
  others.any (fun c => s.stopsAt c time) && !s.stopsAt core time

/-- The turn of a matrix stream. -/
def State.matrixMove (s : State) (core : Nat) : Turned :=
  let k := s.core core
  if k.matCounts && k.ms.step.isNone && decide (k.ms.atStop = 0) && s.peerStops core k.matTime then .stay s else s.matrixDue core

/-- The turn of a vector stream. -/
def State.vectorMove (s : State) (core : Nat) : Turned :=
  let k := s.core core
  if k.vecCounts && decide (k.vs.atStop = 0) && !k.vs.land.any k.landable && s.peerStops core k.vecTime then .stay s else s.vectorDue core

/-- Whether an interrupt stops the vector stream before the matrix stream issues another word (10 R244, 11 R254). -/
def State.irqBefore (s : State) (core : Nat) : Bool :=
  s.irqStop core && decide ((s.core core).vs.st = .running) && (s.core core).ms.step.isNone

/-- The turn of a vector stream; a matrix stream that is behind it moves instead. -/
def State.vecTurn (s : State) (core : Nat) : Turned :=
  match (s.core core).job with
  | none => .stay s
  | some j =>
    let t := s.focusJob core j
    if (s.core core).matrixBehind && !s.irqBefore core then t.matrixMove core else t.vectorMove core

/-- The turn of a matrix stream; a vector stream that is due no later moves instead. -/
def State.matTurn (s : State) (core : Nat) : Turned :=
  match (s.core core).job with
  | none => .stay s
  | some j =>
    let t := s.focusJob core j
    if (s.core core).vectorFirst || s.irqBefore core then t.vectorMove core else t.matrixMove core

/-! ### Commands and events -/

/-- The turn of a command: a running command with work to do runs the instruction of its image, unless it waits for the answer of a page or tile
service (24 R411). -/
def State.cmdTurn (s : State) (q : QueueId) (seq : Nat) : Turned :=
  match (s.queue q).find seq with
  | none => .stay s
  | some e =>
    let t := { s with focus := { core := homeCore q e, ctx := e.ctx, queue := q, seq := seq } }
    if e.st = .running ∧ e.work = .pending ∧ s.clocked (queueClock q) = true ∧ s.serviceOwed q seq = false then
      match decodeCommand (imageWord e.image) with
      | .ok i => .run i t
      | .error _ => .stay t
    else .stay t

/-- The turn that an agenda entry names; one of a core, unit, port or queue that the module does not have is no turn (01 R9). -/
def State.turn (s : State) (t : Turn) : Turned :=
  match t with
  | .ctx c n => s.ctxTurn c n
  | .vec c => if 2048 ≤ c then .fault else s.vecTurn c
  | .mat c => if 2048 ≤ c then .fault else s.matTurn c
  | .cmd q seq => if q.wf then s.cmdTurn q seq else .fault
  | .ev i => if !(isStep i && wellFormed i) then .fault else if s.stepClocked i then .run i s else .stay s

/-! ### The default turn -/

/-- The events and turns that can move in a state, in a fixed order. -/
def State.candidates (s : State) : List Turn :=
  let msgs : List Turn := s.msgs.map fun m => match m.kind with
    | .arm => .ev (.armArrival m.target) | .decrement => .ev (.successorDecrement m.target) | .ebb => .ev (.ebbArrival m.target)
  let ofCore (c : Nat) (k : Core) : List Turn :=
    let ctxs : List Turn := k.ctxs.flatMap fun e =>
      (if e.2.log.recs.any fun r => r.at_.isNone then [Turn.ev (.logRecordMove c e.1)] else []) ++ (if e.2.loads.isEmpty then [] else [Turn.ev (.loadReturn c e.1)]) ++ (if e.2.sbuf.isEmpty then [] else [Turn.ev (.storeBufferDrain c e.1)])
        ++ (if k.live e.1 then [Turn.ctx c e.1] else [])
    let both : Bool := decide (k.vs.st = .running) && decide (k.ms.st = .running) && !k.vs.frozen && !k.ms.frozen
    let vec : List Turn := if k.vs.st = .running ∧ ¬(both = true ∧ k.matTime < k.vecTime) then [.vec c] else []
    let mat : List Turn := if k.ms.st = .running ∧ ¬(both = true ∧ k.vecTime < k.matTime) then [.mat c] else []
    let late : List Turn := if k.starved then [.ev (.elasticDataArrival c)] else []
    let pre : List Turn := match k.preempt.state with | 1 => [.ev (.preemptSaved c)] | 3 => [.ev (.resumeSettled c)] | _ => []
    ctxs ++ vec ++ mat ++ late ++ pre ++ k.deferred.map (fun e => Turn.ev (.deferredTokenPush c e.1))
      ++ ((k.held.map (·.source)).eraseDups.map fun x => Turn.ev (.resultElementAppend c x))
  let ofQueue (q : QueueId) : List Turn :=
    let v := s.queue q
    (if v.entries.any fun e => decide (e.st = .pushed ∨ e.st = .waiting ∨ e.st = .ready) then [Turn.ev (.commandStart q)] else [])
      ++ v.entries.filterMap fun e =>
        if e.st ≠ .running then none
        else match e.work with
          | .pending => if e.opcode = 6 ∧ e.progress ≠ 0 then none else some (.cmd q e.seq)
          | .done .. => some (.ev (.commandRetire q e.seq))
          | .failed c _ => some (if c = 0x06 ∧ e.eligible (s.core (homeCore q e)) = true then .ev (.phaseRerun q e.seq) else .ev (.commandFault q e.seq))
  let kqs : List Turn := s.kqs.flatMap fun p => match p.2 with
    | [] => []
    | k :: _ => match k.st with
      | .armed => [Turn.ev (.kernelStart p.1)]
      | .running => [.ev (.iterationHandoff p.1), .ev (.kernelRetire p.1)]
      | .faulted => [.ev (.kernelRetire p.1)]
      | _ => []
  let lights : List Turn := s.ofus.flatMap fun u =>
    (if u.2.frameBuf.isSome then [Turn.ev (.ofuFrameDone u.1)] else []) ++ (if u.2.maskBuf.isSome then [Turn.ev (.ofuMaskSetDone u.1)] else [])
  let tests : List Turn := (s.hbm.filter fun e => decide (e.2.test ≠ 0)).map fun e => .ev (.hbmTestDone (e.1 / 64) (e.1 / 2 % 32) (e.1 % 2))
  let rounds : List Turn := (s.groups.filter fun g => decide (g.2.kind = .lockstep)).map fun g => .ev (.lockstepRoundStart g.1)
  msgs ++ (s.cores.flatMap fun e => ofCore e.1 e.2) ++ s.allQueues.flatMap ofQueue ++ kqs ++ lights ++ tests ++ rounds

/-- The turn of an empty agenda: the next boot stage, else the candidates in rotation. (DESIGN CHOICE, safe: notes/assumptions/1.md) -/
def State.defaultTurn (s : State) : Option Turn :=
  if s.mgmt.halted || s.mgmt.tripped then none
  else if s.mgmt.stage < 5 then some (.ev (.bootStageDone true s.node))
  else
    let cs := s.candidates
    cs[s.turns % cs.length]?

/-- The turn that moves next: the head of the agenda, which leaves it, or the default turn. -/
def State.nextTurn (s : State) : Turned :=
  match s.agenda with
  | t :: rest => { s with agenda := rest }.turn t
  | [] =>
    match s.defaultTurn with
    | some t => { s with turns := s.turns + 1 }.turn t
    | none => .stay { s with turns := s.turns + 1 }

/-- The turn that moves next, the undo logs' bytes being up to date before it (22 R385, R387). -/
def State.next (s : State) : Turned := s.settleLogs.nextTurn

/-! ### Placing an instruction where the next step fetches it (notes/assumptions/18.md) -/

/-- A control-core word at the program counter of context A of core 0, which runs an iteration and has the next slot and turn. -/
def State.placeControl (s : State) (w : Nat) : State :=
  let c := s.ctx 0 0
  let s1 := s.modCore 0 fun k => { k with cycle := k.cycle / 4 * 4 + 3 }
  let t := s1.setCtx 0 0 { c with st := .running, codeSince := s.overwritten.length, codeFenced := none, loads := [], dbg := false, wpTrap := false, log := { c.log with replay := none } }
  { t.write (sliceLoc 0 (c.pc.toNat % 2 ^ 22)) 4 w with agenda := [.ctx 0 0] }

/-- A stream word at the start of the code of a running job of core 0, whose stream has the next turn. -/
def State.placeStream (s : State) (matrix : Bool) (n w : Nat) : State :=
  let job : Job := { seq := 0, core := 0, ctx := 1, iter := none, priv := false, det := false, slack := 0, reads := [], writes := [], group := none, shapes := [], debug := false, code := [] }
  let s1 := s.write (sliceLoc 0 0) n w
  let t := s1.modCore 0 fun k =>
    { k with job := some { job with code := s1.mem }, vs := { VStream.reset with st := if matrix then .ended else .running }
             ms := { MStream.reset with st := if matrix then .running else .ended } }
  { t with agenda := [if matrix then .mat 0 else .vec 0] }

/-- A command image in the queue of its kind, started, whose work has the next turn. -/
def State.placeCommand (s : State) (w : Nat) : State :=
  let img : List Word := (List.range 16).map fun j => BitVec.ofNat 64 (w / 2 ^ (64 * j))
  let q : QueueId := match w / 2 ^ 8 % 16 with | 1 => .mq 0 | 2 => .vq 0 | 4 => .oq 0 | 5 => .lq 0 | _ => .cq 0
  let e : Entry :=
    { seq := 0, image := img, st := .running, prio := 0, passes := 0, dep := 0, demand := 0, producers := [], core := 0, ctx := 0, iter := none
      priv := false, snapshot := (s.core 0).snapshot, shapes := [], hasToken := false, work := .pending, progress := 0, begun := false, reruns := 0, met := [], refetches := none, escaped := false
      members := [], peers := false, chunks := [], acked := 0, ranks := none, since := 0 }
  { s.modQueue q (fun v => { v with entries := [e], next := 1 }) with agenda := [.cmd q 0] }

/-- An instruction of so many bits placed for the next step. (DESIGN CHOICE, safe: notes/assumptions/18.md) -/
def State.placeWord (s : State) (nbits w : Nat) : State :=
  if nbits ≤ 32 then s.placeControl w
  else if nbits ≤ 96 then s.placeStream false 12 w
  else if nbits ≤ 192 then s.placeStream true 24 w
  else s.placeCommand w

end Sys2Proof.Machine
end

