-- ==== Sys2Proof/Machine/Step.lean ====
section
/-! DEFINITION. One step of the module: the party whose turn it is moves, and an instruction that it issues runs whole (95). -/

namespace Sys2Proof.Machine

/-- One step. -/
def step (s : State) : Host.Outcome State Fault Refusal :=
  match s.next with
  | .stay t => .next t
  | .run i t => exec i t
  | .fault => .fault .noSuchParty

/-- The state with an instruction of `nbits` bits placed where the next step fetches it: see `State.placeWord` (notes/assumptions/18.md). -/
def State.withFetchWord (s : State) (nbits w : Nat) : State := s.placeWord nbits w

end Sys2Proof.Machine
end

