-- ==== Sys2Proof/Safety.lean ====
section
/-! DEFINITION. What a safe state of the module is: the tables are in canonical form, and the counts that the spec bounds stay in their bounds. -/

namespace Sys2Proof.Machine

/-- Memory in its canonical form (Machine/Base.lean). -/
def State.memOk (s : State) : Prop := Memory.wf s.mem

/-- The agenda names only parties of the module (01 R9), so that `step` does not fault. -/
def Turn.named : Turn → Bool
  | .ctx c n => decide (c ≤ harbourId) && decide (n < 3)
  | .vec c => decide (c < 2048)
  | .mat c => decide (c < 2048)
  | .cmd _ _ => true
  | .ev i => isStep i

/-- The state's agenda names only parties of the module. -/
def State.agendaOk (s : State) : Bool := s.agenda.all Turn.named

end Sys2Proof.Machine
end

