-- ==== Sys2Proof/Certificates/Slice0/Obligations.lean ====
section
/-! DEFINITION. The statements for the provers, with the tables and shapes they share. A table gives, in the words of a rule, the registers and the value
that an instruction writes; a shape says what a completed instruction leaves and what it does not touch. -/

namespace Sys2Proof.Spec

open Sys2Proof.Machine

/-! ### Shapes -/

/-- Every byte of memory reads as before. -/
def SameMemory (s t : State) : Prop := ∀ a, t.byte a = s.byte a

/-- Every byte outside the n bytes at l reads as before. -/
def SameOutside (s t : State) (l n : Nat) : Prop := ∀ a, a < l ∨ l + n ≤ a → t.byte a = s.byte a

/-- The n bytes at l hold v, little-endian. -/
def Holds (t : State) (l n v : Nat) : Prop := ∀ i, i < n → t.byte (l + i) = BitVec.ofNat 8 (v / 256 ^ i)

/-- The registers x with x[d] written; a write to x0 is discarded (03 R52). -/
def putX (s : State) (d : Nat) (v : Word) (n : Nat) : Word := if n = d ∧ d ≠ 0 then v else s.x n

/-- The predicates with p[d] written; a write to p0 is discarded (03 R52). -/
def putP (s : State) (d : Nat) (v : Bool) (n : Nat) : Bool := if n = d ∧ d ≠ 0 then v else s.p n

/-- The state in which a context stands after an instruction: a wait is over (10 R233). -/
def goesOn (c : Ctx) : CtxSt := if c.st = .waiting then (if c.busy then .handler else .running) else c.st

/-- What an instruction that touches the acting context alone leaves when it completes: its registers, predicates and command registers, the next program
counter, an undo log with one instruction more, and nothing else changed. -/
structure Completed (s t : State) (x : Nat → Word) (p : Nat → Bool) (c : Nat → Word) (log : UndoLog) (pc : Word) : Prop where
  x : ∀ n, t.x n = x n
  p : ∀ n, t.p n = p n
  c : ∀ n, t.cur.getC n = c n
  pc : t.cur.pc = pc
  st : t.cur.st = goesOn s.cur
  log : t.cur.log = { log with iret := log.iret + 1 }
  ctx : t.cur = { s.cur with x := t.cur.x, p := t.cur.p, c := t.cur.c, pc := t.cur.pc, st := t.cur.st, log := t.cur.log }
  rest : t = s.setCtx s.focus.core s.focus.ctx t.cur
  memory : SameMemory s t

/-- The instruction answers a next state that `Completed` describes. -/
def Completes (i : Instr) (s : State) (x : Nat → Word) (p : Nat → Bool) (c : Nat → Word) (pc : Word) : Prop :=
  ∃ t, exec i s = .next t ∧ Completed s t x p c s.cur.log pc

/-- The instruction does nothing but go on to the next one. -/
def PassesOver (i : Instr) (s : State) : Prop := Completes i s s.x s.p s.cur.getC (s.cur.pc + 4)

/-- What the acting context's registers are after an instruction that also acts outside its context. -/
structure RegsAfter (s t : State) (x : Nat → Word) (pc : Word) : Prop where
  x : ∀ n, t.x n = x n
  p : ∀ n, t.p n = s.p n
  c : ∀ n, t.cur.getC n = s.cur.getC n
  pc : t.cur.pc = pc
  st : t.cur.st = goesOn s.cur
  level : t.cur.priv = s.cur.priv
  trap : t.cur.tvec = s.cur.tvec ∧ t.cur.tstat = s.cur.tstat ∧ t.cur.tinfo = s.cur.tinfo ∧ t.cur.busy = s.cur.busy
  others : ∀ k n, ¬(k = s.focus.core ∧ n = s.focus.ctx) → ∀ r, (t.ctx k n).getX r = (s.ctx k n).getX r
  focus : t.focus = s.focus

/-- The trap that an instruction takes in place of its effect: its own address is the return address (05 R120). -/
def Traps (i : Instr) (s : State) (cause : Nat) (info : Word) : Prop :=
  exec i s = .next (s.takeTrap s.focus.core s.focus.ctx cause info 0 s.cur.pc)

/-- The instruction waits: it has taken none of its effects (05 R89). -/
def Waits (i : Instr) (s : State) : Prop := exec i s = .next (s.modCur fun c => { c with st := .waiting })

/-! ### Integer instructions (05 R90 to R93) -/

/-- Destination, guard and value of an R-form arithmetic instruction: the table of 05 R90. -/
def r90 (i : Instr) (s : State) : Option (Nat × Guard × Word) :=
  match i with
  | .add d a b g => some (d, g, BitVec.ofNat 64 ((s.x a).toNat + (s.x b).toNat))
  | .sub d a b g => some (d, g, BitVec.ofInt 64 ((s.x a).toNat - (s.x b).toNat))
  | .and d a b g => some (d, g, s.x a &&& s.x b)
  | .or d a b g => some (d, g, s.x a ||| s.x b)
  | .xor d a b g => some (d, g, s.x a ^^^ s.x b)
  | .sll d a b g => some (d, g, BitVec.ofNat 64 ((s.x a).toNat * 2 ^ ((s.x b).toNat % 64)))
  | .srl d a b g => some (d, g, BitVec.ofNat 64 ((s.x a).toNat / 2 ^ ((s.x b).toNat % 64)))
  | .sra d a b g => some (d, g, BitVec.ofInt 64 ((s.x a).toInt / 2 ^ ((s.x b).toNat % 64)))
  | .mul d a b g => some (d, g, BitVec.ofNat 64 ((s.x a).toNat * (s.x b).toNat))
  | .mulh d a b g => some (d, g, BitVec.ofInt 64 ((s.x a).toInt * (s.x b).toInt / 2 ^ 64))
  | .div d a b g => some (d, g, if s.x b = 0 then BitVec.allOnes 64 else BitVec.ofInt 64 ((s.x a).toInt.tdiv (s.x b).toInt))
  | .divu d a b g => some (d, g, if s.x b = 0 then BitVec.allOnes 64 else BitVec.ofNat 64 ((s.x a).toNat / (s.x b).toNat))
  | .rem d a b g => some (d, g, if s.x b = 0 then s.x a else BitVec.ofInt 64 ((s.x a).toInt.tmod (s.x b).toInt))
  | .min d a b g => some (d, g, BitVec.ofInt 64 (min (s.x a).toInt (s.x b).toInt))
  | .max d a b g => some (d, g, BitVec.ofInt 64 (max (s.x a).toInt (s.x b).toInt))
  | _ => none

/-- Destination and value of an I-form arithmetic instruction: the table of 05 R91. -/
def r91 (i : Instr) (s : State) : Option (Nat × Word) :=
  match i with
  | .addi d a imm => some (d, BitVec.ofInt 64 ((s.x a).toInt + sextNat 15 imm))
  | .andi d a imm => some (d, s.x a &&& BitVec.ofNat 64 imm)
  | .ori d a imm => some (d, s.x a ||| BitVec.ofNat 64 imm)
  | .xori d a imm => some (d, s.x a ^^^ BitVec.ofNat 64 imm)
  | .slli d a sh => some (d, BitVec.ofNat 64 ((s.x a).toNat * 2 ^ sh))
  | .srli d a sh => some (d, BitVec.ofNat 64 ((s.x a).toNat / 2 ^ sh))
  | .srai d a sh => some (d, BitVec.ofInt 64 ((s.x a).toInt / 2 ^ sh))
  | .lui d imm => some (d, BitVec.ofInt 64 (sextNat 15 imm * 2 ^ 15))
  | _ => none

/-- Destination, guard (none: always) and value of a compare or of predicate logic: 05 R92, R93. -/
def r92 (i : Instr) (s : State) : Option (Nat × Option Guard × Bool) :=
  match i with
  | .ceq d a b g => some (d, some g, decide ((s.x a).toNat = (s.x b).toNat))
  | .cne d a b g => some (d, some g, decide ((s.x a).toNat ≠ (s.x b).toNat))
  | .clt d a b g => some (d, some g, decide ((s.x a).toInt < (s.x b).toInt))
  | .cltu d a b g => some (d, some g, decide ((s.x a).toNat < (s.x b).toNat))
  | .cge d a b g => some (d, some g, decide ((s.x b).toInt ≤ (s.x a).toInt))
  | .cgeu d a b g => some (d, some g, decide ((s.x b).toNat ≤ (s.x a).toNat))
  | .ceqi d a imm => some (d, none, decide ((s.x a).toInt = sextNat 15 imm))
  | .clti d a imm => some (d, none, decide ((s.x a).toInt < sextNat 15 imm))
  | .pand d a b na nb g => some (d, some g, (s.p a != na) && (s.p b != nb))
  | .por d a b na nb g => some (d, some g, (s.p a != na) || (s.p b != nb))
  | _ => none

/-- The opcodes of 05 R90, R91 and R92 with what each stands for. -/
def r90Words : List (Nat × (Nat → Nat → Nat → Guard → Instr)) :=
  [(0x01, .add), (0x02, .sub), (0x03, .and), (0x04, .or), (0x05, .xor), (0x06, .sll), (0x07, .srl), (0x08, .sra), (0x09, .mul), (0x0A, .mulh), (0x0B, .div), (0x0C, .divu), (0x0D, .rem),
   (0x0E, .min), (0x0F, .max)]
def r91Words : List (Nat × (Nat → Nat → Nat → Instr)) := [(0x10, .addi), (0x11, .andi), (0x12, .ori), (0x13, .xori)]
def r91Shifts : List (Nat × (Nat → Nat → Nat → Instr)) := [(0x14, .slli), (0x15, .srli), (0x16, .srai)]
def r92Words : List (Nat × (Nat → Nat → Nat → Guard → Instr)) := [(0x18, .ceq), (0x19, .cne), (0x1A, .clt), (0x1B, .cltu), (0x1C, .cge), (0x1D, .cgeu)]
def r92Immediates : List (Nat × (Nat → Nat → Nat → Instr)) := [(0x1E, .ceqi), (0x1F, .clti)]
def r93Words : List (Nat × (Nat → Nat → Nat → Bool → Bool → Guard → Instr)) := [(0x20, .pand), (0x21, .por)]

/-- An R-form word and an I-form word from their fields (03 R52, R53). -/
def rWord (op rd ra rb : Nat) (g : Guard) (fn : Nat) : Nat := op * 2 ^ 25 + rd * 2 ^ 20 + ra * 2 ^ 15 + rb * 2 ^ 10 + g.p * 2 ^ 6 + (if g.neg then 2 ^ 5 else 0) + fn
def iWord (op rd ra imm : Nat) : Nat := op * 2 ^ 25 + rd * 2 ^ 20 + ra * 2 ^ 15 + imm

/-- A word that traps with 0x01: it decodes to nothing, and the illegal instruction that stands for it takes that trap. -/
def IllegalWord (w : Nat) : Prop := controlInstr w = .illegalInstruction w ∧ ∀ s, Traps (.illegalInstruction w) s 0x01 0

/-- Register and new value of CSET and CSETI: one field of 64, 32, 16 or 8 bits, the other bits kept (03 R55). -/
def r106 (i : Instr) (s : State) : Option (Nat × Nat × Nat × Word) :=
  match i with
  | .cset c width pos a => some (c, width, pos, s.x a)
  | .cseti c width pos imm => some (c, width, pos, BitVec.ofInt 64 (sextNat 15 imm))
  | _ => none

/-! ### Control transfer (05 R94, R95) -/

/-- Whether a transfer is taken, its target and the register it links: the table of 05 R94. -/
def r94 (i : Instr) (s : State) : Option (Bool × Word × Option Nat) :=
  match i with
  | .b g off => some (s.holds g, BitVec.ofInt 64 (s.cur.pc.toInt + 4 * sextNat 20 off), none)
  | .j off => some (true, BitVec.ofInt 64 (s.cur.pc.toInt + 4 * sextNat 25 off), none)
  | .jal off => some (true, BitVec.ofInt 64 (s.cur.pc.toInt + 4 * sextNat 25 off), some 31)
  | .jr a g => some (s.holds g, s.x a, none)
  | .jalr d a g => some (s.holds g, s.x a, some d)
  | _ => none

/-- The registers after a transfer. -/
def linked (s : State) (link : Option Nat) : Nat → Word :=
  match link with
  | some d => putX s d (s.cur.pc + 4)
  | none => s.x

/-! ### Loads, stores and atomics (05 R97, R99, R104) -/

/-- Destination, address and bytes of a load: 05 R96, R97. -/
def loadOf (i : Instr) (s : State) : Option (Nat × Nat × Nat) :=
  match i with
  | .ld d base size off => some (d, s.ea base off, 2 ^ size)
  | .lda d base size off => some (d, s.ea base off, 2 ^ size)
  | .lds d base size off => some (d, s.ea base off, 2 ^ size)
  | _ => none

/-- Whether a load leaves an input record: LDA and LDS do (22 R386). -/
def strong : Instr → Bool
  | .ld .. => false
  | _ => true

/-- The undo log after a value has entered the context (22 R386). -/
def entered (s : State) (v : Word) (src : InputSrc) : UndoLog := s.cur.log.append 6 0 s.cur.log.iret [v] s.cur.pc src

/-- Source register, address and bytes of a store: 05 R96, R97. -/
def storeOf (i : Instr) (s : State) : Option (Nat × Nat × Nat) :=
  match i with
  | .st r base size off => some (r, s.ea base off, 2 ^ size)
  | .stl r base size off => some (r, s.ea base off, 2 ^ size)
  | .sts r base size off => some (r, s.ea base off, 2 ^ size)
  | _ => none

/-- Where a write of n bytes at a by the acting context goes, with its page's state moved on. -/
def storeTarget (s : State) (a n : Nat) : Option (Nat × State) :=
  match s.ctxStoreAt a n with
  | .sram l => some (l, s)
  | .frame l t => some (l, t)
  | _ => none

/-- Destination, address, bytes and guard of an atomic, and the new value from the old one: the table of 05 R99. -/
def r99 (i : Instr) (s : State) : Option (Nat × Nat × Nat × Guard × (Nat → Option Nat)) :=
  let n (dbl : Bool) : Nat := if dbl then 8 else 4
  let b (dbl : Bool) (r : Nat) : Nat := (s.x r).toNat % 256 ^ n dbl
  match i with
  | .amoadd d ra rb dbl _ g => some (d, (s.x ra).toNat, n dbl, g, fun old => some ((old + b dbl rb) % 256 ^ n dbl))
  | .amoand d ra rb dbl _ g => some (d, (s.x ra).toNat, n dbl, g, fun old => some (old &&& b dbl rb))
  | .amoor d ra rb dbl _ g => some (d, (s.x ra).toNat, n dbl, g, fun old => some (old ||| b dbl rb))
  | .amomax d ra rb dbl _ g => some (d, (s.x ra).toNat, n dbl, g, fun old =>
      some (if sextNat (8 * n dbl) old ≤ sextNat (8 * n dbl) (b dbl rb) then b dbl rb else old))
  | .amoswp d ra rb dbl _ g => some (d, (s.x ra).toNat, n dbl, g, fun _ => some (b dbl rb))
  | .amocas d ra rb dbl _ g => some (d, (s.x ra).toNat, n dbl, g, fun old => if old = (s.x d).toNat % 256 ^ n dbl then some (b dbl rb) else none)
  | _ => none

/-- The value the acting context reads at l: its own buffered stores over memory. -/
def seenAt (s : State) (l n : Nat) : Nat := s.seen s.cur.sbuf l n

/-- The access of n bytes at a by the acting context reaches location l, aligned and unpoisoned. -/
structure Readable (s : State) (a n l : Nat) : Prop where
  aligned : a % n = 0
  reached : s.reach s.focus.core a false (s.privileged s.focus.core s.focus.ctx) false = .loc l s
  sound : s.anyPoison l n = false

end Sys2Proof.Spec

open Sys2Proof Sys2Proof.Machine Sys2Proof.Spec

/-- 05 R90: an R-form arithmetic word with fn = 0 is the instruction of its opcode; when the guard holds it writes x[rd] as the table gives and touches nothing else; guarded off it changes
nothing. -/
def Obligations.ArithmeticWritesRd : Prop :=
  (∀ p ∈ r90Words, ∀ rd ra rb g, rd < 32 → ra < 32 → rb < 32 → g.p < 16 → decodeControl (rWord p.1 rd ra rb g 0) = .ok (p.2 rd ra rb g)) ∧
  ∀ i s d g v, r90 i s = some (d, g, v) → Completes i s (if s.holds g then putX s d v else s.x) s.p s.cur.getC (s.cur.pc + 4)

/-- 05 R91: an I-form arithmetic word is the instruction of its opcode; it has no guard and writes x[rd] as the table gives; nothing else changes. A shift with a bit of imm15[14:6] set and a
LUI with a register in ra are illegal. -/
def Obligations.ImmediateArithmeticWritesRd : Prop :=
  (∀ p ∈ r91Words, ∀ rd ra imm, rd < 32 → ra < 32 → imm < 2 ^ 15 → decodeControl (iWord p.1 rd ra imm) = .ok (p.2 rd ra imm)) ∧
  (∀ p ∈ r91Shifts, ∀ rd ra imm, rd < 32 → ra < 32 → imm < 2 ^ 15 →
    (imm < 64 → decodeControl (iWord p.1 rd ra imm) = .ok (p.2 rd ra imm)) ∧ (64 ≤ imm → IllegalWord (iWord p.1 rd ra imm))) ∧
  (∀ rd ra imm, rd < 32 → ra < 32 → imm < 2 ^ 15 →
    (ra = 0 → decodeControl (iWord 0x17 rd ra imm) = .ok (.lui rd imm)) ∧ (ra ≠ 0 → IllegalWord (iWord 0x17 rd ra imm))) ∧
  ∀ i s d v, r91 i s = some (d, v) → Completes i s (putX s d v) s.p s.cur.getC (s.cur.pc + 4)

/-- 05 R92, R93: a compare or predicate word is the instruction of its opcode; a compare writes p[pd] with whether its relation holds, predicate logic with its result; guarded off p[pd]
stays; nothing else changes. A compare word with bit [24] set, or a predicate word with a bit of [24], [19], [14] or fn[4:2] set, traps with 0x01. -/
def Obligations.CompareWritesPd : Prop :=
  (∀ p ∈ r92Words, ∀ pd ra rb g, pd < 16 → ra < 32 → rb < 32 → g.p < 16 → decodeControl (rWord p.1 pd ra rb g 0) = .ok (p.2 pd ra rb g)) ∧
  (∀ p ∈ r92Immediates, ∀ pd ra imm, pd < 16 → ra < 32 → imm < 2 ^ 15 → decodeControl (iWord p.1 pd ra imm) = .ok (p.2 pd ra imm)) ∧
  (∀ p ∈ r93Words, ∀ pd pa pb na nb g, pd < 16 → pa < 16 → pb < 16 → g.p < 16 →
    decodeControl (rWord p.1 pd pa pb g ((if na then 2 else 0) + if nb then 1 else 0)) = .ok (p.2 pd pa pb na nb g)) ∧
  (∀ w, w < 2 ^ 32 → 0x18 ≤ w / 2 ^ 25 → w / 2 ^ 25 ≤ 0x1F → w.testBit 24 = true → IllegalWord w) ∧
  (∀ w, w < 2 ^ 32 → w / 2 ^ 25 = 0x20 ∨ w / 2 ^ 25 = 0x21 → w.testBit 24 = true ∨ w.testBit 19 = true ∨ w.testBit 14 = true ∨ w / 4 % 8 ≠ 0 → IllegalWord w) ∧
  ∀ i s d g v, r92 i s = some (d, g, v) →
    Completes i s s.x (if g.all s.holds then putP s d v else s.p) s.cur.getC (s.cur.pc + 4)

/-- 03 R55, 05 R106: CSET and CSETI write one field of a command register and keep its other bits; CCLR clears a range. -/
def Obligations.CommandRegistersWritten : Prop :=
  (∀ i s c width pos v, r106 i s = some (c, width, pos, v) →
    ∃ w : Word, (∀ b, b < 64 → w.getLsbD b =
        if 64 / 2 ^ width * pos ≤ b ∧ b < 64 / 2 ^ width * (pos + 1) then v.getLsbD (b - 64 / 2 ^ width * pos) else (s.cur.getC c).getLsbD b) ∧
      Completes i s s.x s.p (fun n => if n = c then w else s.cur.getC n) (s.cur.pc + 4)) ∧
  ∀ s lo hi, lo ≤ hi → Completes (.cclr lo hi) s s.x s.p (fun n => if lo ≤ n ∧ n ≤ hi then 0 else s.cur.getC n) (s.cur.pc + 4)

/-- 05 R94, R95: a transfer that is not taken goes on; one that is taken goes to its target and links; a target that is no multiple of 4 traps with 0x03 at the
jump with no link; the iteration-end address ends the context's part and leaves it idle. `s.taken` is s with the code behind the context's last fence shown to its
fetches (03 R50, log entry 59). -/
def Obligations.TransfersGoToTheirTarget : Prop :=
  ∀ i s taken target link, r94 i s = some (taken, target, link) →
    (taken = false → PassesOver i s) ∧
    (taken = true → target.toNat % 4 ≠ 0 → Traps i s 0x03 target) ∧
    (taken = true → target.toNat % 4 = 0 → target ≠ 0xFFFFFFFFFFFFFFFC →
      ∃ t, exec i s = .next t ∧ Completed s.taken t (linked s link) s.p s.cur.getC s.cur.log target) ∧
    (taken = true → target = 0xFFFFFFFFFFFFFFFC → ∃ t, exec i s = .next t ∧ t.cur.st = .idle ∧ t.cur.iter = none)

/-- 05 R97: a load that passes its checks extends the bytes it reads into x[rd], a zeroed page reads zero, and nothing else changes; each failed check traps with
its cause, in the order alignment, translation, poison. An out-of-range load writes zero and records SPOR, or traps with 0x11. That a plain load is answered at
once is the model's choice (log entry 4), and so is what is noted as the supplier of a logged value (log entry 22); the context does not replay. -/
def Obligations.LoadsReadMemory : Prop :=
  ∀ i s d a n, loadOf i s = some (d, a, n) → s.cur.log.replay = none → s.cur.lateLoads = false →
    let after (v : Word) : UndoLog := if strong i then entered s v (s.supplierAt a n) else s.cur.log
    let goes := s.reach s.focus.core a false (s.privileged s.focus.core s.focus.ctx) false
    (∀ l, Readable s a n l →
      ∃ t, exec i s = .next t ∧ Completed s t (putX s d (sextWord (8 * n) (seenAt s l n))) s.p s.cur.getC (after (sextWord (8 * n) (seenAt s l n))) (s.cur.pc + 4)) ∧
    (a % n = 0 → goes = .zero → ∃ t, exec i s = .next t ∧ Completed s t (putX s d 0) s.p s.cur.getC (after 0) (s.cur.pc + 4)) ∧
    (a % n ≠ 0 → Traps i s 0x03 (BitVec.ofNat 64 a)) ∧
    (a % n = 0 → goes = .fault 0x04 → Traps i s 0x04 (BitVec.ofNat 64 a)) ∧
    (a % n = 0 → goes = .fault 0x02 → Traps i s 0x02 0) ∧
    (∀ l, a % n = 0 → goes = .loc l s → s.anyPoison l n = true → Traps i s 0x06 (BitVec.ofNat 64 a)) ∧
    (a % n = 0 → goes = .hole → s.cur.sporen = false →
      ∃ t, exec i s = .next t ∧ RegsAfter s t (putX s d 0) (s.cur.pc + 4) ∧ SameMemory s t ∧
        (s.cur.spor.getLsbD 63 = false → t.cur.spor = BitVec.ofNat 64 (2 ^ 63 + a % 2 ^ 52))) ∧
    (a % n = 0 → goes = .hole → s.cur.sporen = true →
      exec i s = .next ((s.recordSpor s.focus.core s.focus.ctx a).takeTrap s.focus.core s.focus.ctx 0x11 (BitVec.ofNat 64 a) 0 s.cur.pc))

/-- 05 R88, R97: a store whose address passes its checks goes into the context's buffer of 16 entries; no byte of memory changes yet but what its page's own move changes, and no
register. A full buffer or a full log makes the context wait; an out-of-range store writes nothing; each failed check traps with its cause. Also 05 R88: the oldest buffered
entry of a context is performed unless an outstanding load precedes it: a store's bytes stand in memory, a release has grown by one, a ring entry is its consumer's to take, a
SIG's bits stand in the core's event word; every other byte and every register is as before, and the buffer holds the rest. When a buffered entry is performed is the model's choice
(log entry 6). -/
def Obligations.StoresWriteTheirBytes : Prop :=
  (
    ∀ i s r a n, storeOf i s = some (r, a, n) →
      let v := (s.x r).toNat % 256 ^ n
      (∀ l u, storeTarget s a n = some (l, u) → s.cur.sbuf.length < 16 → s.cur.log.blocks 1 = false →
        ∃ t, exec i s = .next t ∧ RegsAfter s t s.x (s.cur.pc + 4) ∧ SameMemory u t ∧
          t.cur.sbuf = s.cur.sbuf ++ [{ kind := .store, loc := l, size := n, value := BitVec.ofNat 64 v, iret := s.cur.log.iret }]) ∧
      (∀ l u, storeTarget s a n = some (l, u) → 16 ≤ s.cur.sbuf.length ∨ s.cur.log.blocks 1 = true → Waits i s) ∧
      (∀ u, s.ctxStoreAt a n = .hole u → ∃ t, exec i s = .next t ∧ RegsAfter s t s.x (s.cur.pc + 4) ∧ SameMemory s t ∧ t.cur.sbuf = s.cur.sbuf) ∧
      (a % n ≠ 0 → Traps i s 0x03 (BitVec.ofNat 64 a)) ∧
      (a % n = 0 → s.reach s.focus.core a true (s.privileged s.focus.core s.focus.ctx) false = .fault 0x04 → Traps i s 0x04 (BitVec.ofNat 64 a)) ∧
      (a % n = 0 → s.reach s.focus.core a true (s.privileged s.focus.core s.focus.ctx) false = .fault 0x02 → Traps i s 0x02 0)
  ) ∧ (
    ∀ s core ctx e rest, (s.ctx core ctx).sbuf = e :: rest → (∀ l ∈ (s.ctx core ctx).loads, l.mark.sbuf ≠ 0) →
      ∃ t, exec (.storeBufferDrain core ctx) s = .next t ∧ (t.ctx core ctx).sbuf = rest ∧
        (∀ k n r, (t.ctx k n).getX r = (s.ctx k n).getX r ∧ (t.ctx k n).pc = (s.ctx k n).pc) ∧
        (e.kind = .store → Holds t e.loc e.size e.value.toNat ∧ SameOutside s t e.loc e.size) ∧
        (e.kind = .release → Holds t e.loc 8 ((s.read e.loc 8 + 1) % 2 ^ 64) ∧ SameOutside s t e.loc 8) ∧
        (e.kind = .ring → SameMemory s t ∧ ((t.core e.loc).ring e.size).visible = max ((s.core e.loc).ring e.size).visible (e.value.toNat + 1) ∧
          ((t.core e.loc).ring e.size).entries = ((s.core e.loc).ring e.size).entries) ∧
        (e.kind = .signal → e.size = 0 → SameMemory s t ∧ (t.core e.loc).evw = (s.core e.loc).evw ||| BitVec.ofNat 32 e.value.toNat)
  )

/-- 05 R99: an atomic returns the old value, sign-extended, and stores the new one behind the context's earlier stores; where AMOCAS does not match, nothing is
written; guarded off nothing happens; a misaligned address traps with 0x03, and one in a page that no context may write with 0x04; out of range it returns zero and
writes nothing. That it performs the context's earlier buffered stores first, so that none is left in its buffer, is the model's choice (log entry 6). -/
def Obligations.AtomicsReadModifyWrite : Prop :=
  ∀ i s d a n g f, r99 i s = some (d, a, n, g, f) → s.cur.log.replay = none →
    (s.holds g = false → PassesOver i s) ∧
    (s.holds g = true → a % n ≠ 0 → Traps i s 0x03 (BitVec.ofNat 64 a)) ∧
    (s.holds g = true → a % n = 0 → s.readOnly a = true → Traps i s 0x04 (BitVec.ofNat 64 a)) ∧
    (s.holds g = true → a % n = 0 → s.readOnly a = false → s.reach s.focus.core a false (s.privileged s.focus.core s.focus.ctx) false = .hole → s.cur.sporen = false →
      ∃ t, exec i s = .next t ∧ RegsAfter s t (putX s d 0) (s.cur.pc + 4) ∧ SameMemory s t) ∧
    ∀ l, s.holds g = true → s.readOnly a = false → Readable s a n l →
      let old := seenAt s l n
      let v := sextWord (8 * n) old
      (f old = none → ∃ t, exec i s = .next t ∧ Completed s t (putX s d v) s.p s.cur.getC (entered s v (s.supplierAt a n)) (s.cur.pc + 4)) ∧
      ∀ new l2 u, f old = some new → storeTarget s a n = some (l2, u) → s.cur.log.blocks 1 = false →
        ∃ t, exec i s = .next t ∧ RegsAfter s t (putX s d v) (s.cur.pc + 4) ∧ Holds t l2 n new ∧ SameOutside u.release t l2 n ∧ t.cur.sbuf = []

/-- The core's bind table after BIND, by 05 R103. -/
structure Sys2Proof.Spec.Bound (k k' : Core) (obj base len : Nat) : Prop where
  gone : len = 0 → (∀ e, e ∈ k'.bind ↔ e ∈ k.bind ∧ e.1 ≠ obj) ∧ ∀ o, o ∈ k'.bindAll ↔ o ∈ k.bindAll ∧ o ≠ obj
  room : len ≠ 0 → k.bind.length < 32 → k'.bind = k.bind ++ [(obj, base, len)] ∧ k'.bindAll = k.bindAll
  full : len ≠ 0 → 32 ≤ k.bind.length → k'.bind = k.bind ∧ obj ∈ k'.bindAll

/-- 05 R101 to R105: FENCE performs the context's earlier stores; ACQ reads the release count and changes nothing; REL puts its increment of the count into the store buffer
behind the earlier stores, and waits for room there; BIND ties a region to an object in the core's table of 32, and with length zero removes its entries. Guarded off, none does anything. That
FENCE performs the whole store buffer in its own step, whatever its scope, is the model's choice (log entry 6). -/
def Obligations.FencesAndReleaseObjects : Prop :=
  (∀ s scope g, s.holds g = true → ∃ t, exec (.fence scope g) s = .next t ∧ RegsAfter s t s.x (s.cur.pc + 4) ∧ SameMemory s.release t ∧ t.cur.sbuf = []) ∧
  (∀ s ra scope g l, s.holds g = true → Readable s (s.x ra).toNat 8 l → PassesOver (.acq ra scope g) s) ∧
  (∀ s ra scope g l l2 u, s.holds g = true → s.cur.log.replay = none → s.readOnly (s.x ra).toNat = false → Readable s (s.x ra).toNat 8 l →
    storeTarget s (s.x ra).toNat 8 = some (l2, u) →
      (s.cur.sbuf.length < 16 → ∃ t, exec (.rel ra scope g) s = .next t ∧ RegsAfter s t s.x (s.cur.pc + 4) ∧ SameMemory u t ∧
        t.cur.sbuf = s.cur.sbuf ++ [{ kind := .release, loc := l2, size := 8, value := 0, iret := s.cur.log.iret }]) ∧
      (16 ≤ s.cur.sbuf.length → Waits (.rel ra scope g) s)) ∧
  (∀ s rd ra rb g, s.holds g = true → ∃ t, exec (.bind rd ra rb g) s = .next t ∧ RegsAfter s t s.x (s.cur.pc + 4) ∧ SameMemory s t ∧
    Bound s.here t.here (flatten s.focus.core (s.x ra).toNat) (s.x rb).toNat (s.x rd).toNat) ∧
  ∀ s g scope ra rb rd, s.holds g = false →
    PassesOver (.fence scope g) s ∧ PassesOver (.acq ra scope g) s ∧ PassesOver (.rel ra scope g) s ∧ PassesOver (.bind rd ra rb g) s

/-- The command image that PUSH sends: c0 to c15. -/
def Sys2Proof.Spec.ownImage (s : State) : List Word := (List.range 16).map s.cur.getC

/-- The queue of the acting context's core that PUSH names by a number: 05 R107. -/
def Sys2Proof.Spec.pushed (s : State) (n : Nat) : QueueId := match n with | 0 => .mq s.focus.core | 1 => .vq s.focus.core | _ => .cq s.focus.core

/-- A queue takes an image from the acting context: the image passes the checks of 03 R73 and of the shape records of the tensors that it names, and the queue and the pending
tables of its successors have room. -/
structure Sys2Proof.Spec.Accepted (s : State) (q : QueueId) (img : List Word) : Prop where
  checks : pushCause q img (s.privileged s.focus.core s.focus.ctx) = none
  there : harbourLacks q = false
  room : (s.queue q).entries.length < 64 ∧ s.pendingRoom (imageSuccs img) = true
  shapes :
    let home := match q with | .mq c => c | .vq c => c | .cq c => c | _ => s.focus.core
    let op := bitsOf (img.getD 0 0).toNat 7 0
    s.shapesCause home (imageTensors img (if op = 6 ∨ op = 7 then (s.core home).snapshot else [])) = none

/-- A queue has no room for an image that passes the checks of 03 R73: it is full, or a pending table of a successor is. -/
structure Sys2Proof.Spec.Crowded (s : State) (q : QueueId) (img : List Word) : Prop where
  checks : pushCause q img (s.privileged s.focus.core s.focus.ctx) = none
  there : harbourLacks q = false
  full : 64 ≤ (s.queue q).entries.length ∨ s.pendingRoom (imageSuccs img) = false

/-- The values of x[rb] that name no queue: a bit of [63:16] or [12:11], a kind above 4, an optical unit above 15 or a link queue above 7 (05 R108). -/
def Sys2Proof.Spec.reservedTarget (v : Nat) : Prop :=
  2 ^ 16 ≤ v ∨ bitsOf v 12 11 ≠ 0 ∨ 5 ≤ bitsOf v 15 13 ∨ (bitsOf v 15 13 = 3 ∧ 16 ≤ bitsOf v 10 0) ∨ (bitsOf v 15 13 = 4 ∧ 8 ≤ bitsOf v 10 0)

/-- 05 R107, R108: a push that is not refused releases the earlier stores, leaves the command at the tail of its queue under the queue's next sequence number and
writes that number to x[rd]; a refused push traps with the check's cause; a push without room waits, with no queue changed. RPUSH takes the 16 doublewords at x[ra]; a misaligned
block traps with 0x03, whatever queue x[rb] names, and a reserved target with 0x01. That the block's alignment is looked at before the target, and that RPUSH names no
queue of the harbour core by a number of its own, is the model's choice (log entry 46). -/
def Obligations.PushesAppendCommands : Prop :=
  (∀ s rd n g seq u, s.holds g = true → n < 3 → s.cur.log.replay = none →
    let q : QueueId := match n with | 0 => .mq s.focus.core | 1 => .vq s.focus.core | _ => .cq s.focus.core
    s.release.pushImage q (ownImage s) s.focus.core s.focus.ctx = .ok seq u →
      ∃ t, exec (.push rd n g) s = .next t ∧ RegsAfter s t (putX s rd (BitVec.ofNat 64 seq)) (s.cur.pc + 4) ∧ SameMemory u t ∧
        ∀ q, t.queue q = u.queue q) ∧
  (∀ s rd n g c a, s.holds g = true → n < 3 →
    let q : QueueId := match n with | 0 => .mq s.focus.core | 1 => .vq s.focus.core | _ => .cq s.focus.core
    s.release.pushImage q (ownImage s) s.focus.core s.focus.ctx = .refused c a → Traps (.push rd n g) s c (trapInfo c a)) ∧
  (∀ s rd ra rb g img seq q u v, s.holds g = true → s.cur.log.replay = none → s.cur.block = none → (s.x ra).toNat % 128 = 0 → rpushQueue (s.x rb).toNat = some q →
    s.readBlock (s.x ra).toNat 16 = (u, .inl img) → u.release.pushImage q img s.focus.core s.focus.ctx = .ok seq v →
      ∃ t, exec (.rpush rd ra rb g) s = .next t ∧ t.x rd = (if rd = 0 then 0 else BitVec.ofNat 64 seq) ∧ t.cur.pc = s.cur.pc + 4 ∧
        ∀ q, t.queue q = v.queue q) ∧
  (∀ s rd ra rb g, s.holds g = true → (s.x ra).toNat % 128 ≠ 0 → Traps (.rpush rd ra rb g) s 0x03 (s.x ra)) ∧
  (∀ s rd ra rb g, s.holds g = true → (s.x ra).toNat % 128 = 0 → reservedTarget (s.x rb).toNat → Traps (.rpush rd ra rb g) s 0x01 0) ∧
  (∀ s rd n g, s.holds g = true → n < 3 → Crowded s.release (pushed s n) (ownImage s) →
    ∃ t, exec (.push rd n g) s = .next t ∧ t.cur.st = .waiting ∧ t.cur.pc = s.cur.pc ∧ (∀ r, t.x r = s.x r) ∧ (∀ q, t.queue q = s.queue q) ∧ SameMemory s t) ∧
  (∀ s rd ra rb g img q, s.holds g = true → (s.x ra).toNat % 128 = 0 → rpushQueue (s.x rb).toNat = some q → s.cur.block = some img → Crowded s.release q img →
    ∃ t, exec (.rpush rd ra rb g) s = .next t ∧ t.cur.st = .waiting ∧ t.cur.pc = s.cur.pc ∧ t.cur.block = some img ∧ (∀ r, t.x r = s.x r) ∧ (∀ q, t.queue q = s.queue q) ∧
      SameMemory s t) ∧
  (∀ s rd n g, s.holds g = true → n < 3 → s.cur.log.replay = none → Accepted s.release (pushed s n) (ownImage s) →
    ∃ t, exec (.push rd n g) s = .next t ∧ RegsAfter s t (putX s rd (BitVec.ofNat 64 (s.release.queue (pushed s n)).next)) (s.cur.pc + 4)) ∧
  (∀ s rd ra rb g q l, s.holds g = true → s.cur.log.replay = none → s.cur.block = none → (s.x ra).toNat % 128 = 0 → rpushQueue (s.x rb).toNat = some q →
    (∀ i, i < 16 → Readable s ((s.x ra).toNat + 8 * i) 8 (l + 8 * i)) →
    Accepted s.release q ((List.range 16).map fun i => BitVec.ofNat 64 (seenAt s (l + 8 * i) 8)) →
      ∃ t, exec (.rpush rd ra rb g) s = .next t ∧ RegsAfter s t (putX s rd (BitVec.ofNat 64 (s.release.queue q).next)) (s.cur.pc + 4)) ∧
  ∀ (s : State) q img core ctx seq u, s.pushImage q img core ctx = .ok seq u → (s.queue q).find seq = none →
    seq = (s.queue q).next ∧ (u.queue q).next = (seq + 1) % 2 ^ 32 ∧ (u.queue q).entries.length = (s.queue q).entries.length + 1 ∧
      ∃ e, (u.queue q).entries.getLast? = some e ∧ e.seq = seq ∧ e.core = core ∧ e.ctx = ctx

/-- 05 R109 to R111, 10 R237: FPOP takes the oldest element of a result queue, ZPOP the oldest entry of a ring whose consumer end the context owns, ZPUSH reserves the next
entry of a ring whose producer end it owns and buffers it behind its earlier stores, which hide it from the consumer until then; an empty queue or ring, a full ring or a full
buffer makes the context wait; a ring end it does not own traps with 0x02. A held result element goes into its queue, and a held token into its queue, when there is room; a context that waits too long at a ring
traps with 0x0C, once it has no load outstanding. -/
def Obligations.QueuesAndRings : Prop :=
  (∀ s rd c g v vs, s.holds g = true → s.cur.log.replay = none → s.here.resultsOf c = v :: vs →
    ∃ t, exec (.fpop rd c g) s = .next t ∧ RegsAfter s t (putX s rd v) (s.cur.pc + 4) ∧ SameMemory s t ∧ t.here.resultsOf c = vs ∧
      ∀ c', c' ≠ c → t.here.resultsOf c' = s.here.resultsOf c') ∧
  (∀ s rd c g, s.holds g = true → s.cur.log.replay = none → s.here.resultsOf c = [] → Waits (.fpop rd c g) s) ∧
  (∀ s rd z g v vs, s.holds g = true → s.cur.log.replay = none → let r := s.here.ring z
    r.depth ≠ 0 → r.cons = s.focus.ctx → r.entries = v :: vs → r.pops < r.visible →
      ∃ t, exec (.zpop rd z g) s = .next t ∧ RegsAfter s t (putX s rd v) (s.cur.pc + 4) ∧ SameMemory s t ∧ t.here.ring z = { r with entries := vs, pops := r.pops + 1 }) ∧
  (∀ s rd z g, s.holds g = true → s.cur.log.replay = none → let r := s.here.ring z
    (r.depth = 0 ∨ r.cons ≠ s.focus.ctx → Traps (.zpop rd z g) s 0x02 0) ∧
    (r.depth ≠ 0 → r.cons = s.focus.ctx → r.entries = [] ∨ r.visible ≤ r.pops → Waits (.zpop rd z g) s)) ∧
  (∀ s z rb g, s.holds g = true → s.cur.log.replay = none → let r := s.here.ring z
    (r.depth = 0 ∨ r.prod ≠ s.focus.ctx → Traps (.zpush z rb g) s 0x02 0) ∧
    (r.depth ≠ 0 → r.prod = s.focus.ctx → r.depth ≤ r.pushes - r.pops ∨ 16 ≤ s.cur.sbuf.length → Waits (.zpush z rb g) s) ∧
    (r.depth ≠ 0 → r.prod = s.focus.ctx → r.pushes - r.pops < r.depth → s.cur.sbuf.length < 16 →
      ∃ t, exec (.zpush z rb g) s = .next t ∧ RegsAfter s t s.x (s.cur.pc + 4) ∧ SameMemory s t ∧
        t.cur.sbuf = s.cur.sbuf ++ [{ kind := .ring, loc := s.focus.core, size := z, value := BitVec.ofNat 64 r.pushes, iret := s.cur.log.iret }] ∧
        (t.here.ring z).pushes = r.pushes + 1 ∧ (t.here.ring z).pops = r.pops ∧ (t.here.ring z).visible = r.visible ∧
        (r.pops ≤ r.pushes → (t.here.ring z).entries[r.pushes - r.pops]? = if r.pushes - r.pops ≤ r.entries.length then some (s.x rb) else none) ∧
        ∀ i, i < r.pushes - r.pops → i < r.entries.length → (t.here.ring z).entries[i]? = r.entries[i]?)) ∧
  (∀ s core c e, (s.core core).held = [{ source := c, elem := e }] → ((s.core core).resultsOf c).length < 16 →
    ∃ t, exec (.resultElementAppend core c) s = .next t ∧ (t.core core).resultsOf c = (s.core core).resultsOf c ++ [e] ∧ (t.core core).held = [] ∧ SameMemory s t) ∧
  (∀ s core q n, Tbl.get 0 (s.core core).deferred q = n + 1 → (s.core core).token q < 15 →
    ∃ t, exec (.deferredTokenPush core q) s = .next t ∧ (t.core core).token q = (s.core core).token q + 1 ∧ Tbl.get 0 (t.core core).deferred q = n ∧ SameMemory s t) ∧
  ∀ s core ctx, (s.ctx core ctx).st = .waiting → (s.ctx core ctx).loads = [] → s.ringWaits core ctx = true →
    exec (.ringTimeout core ctx) s = .next (s.takeTrap core ctx 0x0C 0 0 (s.ctx core ctx).pc)

/-- 05 R114, R115, 15 R301 to R303: GJOIN of a group that admits the context writes its member index and makes it a member; a refused join writes all ones and
changes no membership; a bad group number traps with 0x01; a member that leaves is none any more; a context that is no member passes over GLEAVE. -/
def Obligations.GroupsGainAndLoseMembers : Prop :=
  (∀ s rd ra lockstep g, s.holds g = true → s.cur.log.replay = none → let a := (s.x ra).toNat
    (2 ^ 12 ≤ a → Traps (.gjoin rd ra lockstep g) s 0x01 0) ∧
    (∀ i, a < 2 ^ 12 → (s.group a).indexOf s.focus.core s.focus.ctx = some i →
      ∃ t, exec (.gjoin rd ra lockstep g) s = .next t ∧ RegsAfter s t (putX s rd (BitVec.ofNat 64 i)) (s.cur.pc + 4) ∧ t.groups = s.groups ∧ SameMemory s t) ∧
    (a < 2 ^ 12 → (s.group a).indexOf s.focus.core s.focus.ctx = none → ((s.group a).kind = .lockstep → (s.group a).flip = false ∧ s.roundRuns a = false) →
      (s.joinRefused s.focus.core s.focus.ctx a lockstep = true →
        ∃ t, exec (.gjoin rd ra lockstep g) s = .next t ∧ RegsAfter s t (putX s rd (BitVec.allOnes 64)) (s.cur.pc + 4) ∧ t.groups = s.groups ∧ SameMemory s t) ∧
      (s.joinRefused s.focus.core s.focus.ctx a lockstep = false →
        ∃ t, exec (.gjoin rd ra lockstep g) s = .next t ∧ RegsAfter s t (putX s rd (BitVec.ofNat 64 (s.group a).freeIndex)) (s.cur.pc + 4) ∧ SameMemory s t ∧
          (t.group a).indexOf s.focus.core s.focus.ctx = some (s.group a).freeIndex))) ∧
  ∀ s ra g, s.holds g = true → let a := (s.x ra).toNat
    (2 ^ 12 ≤ a → Traps (.gleave ra g) s 0x01 0) ∧
    (a < 2 ^ 12 → (s.group a).indexOf s.focus.core s.focus.ctx = none → PassesOver (.gleave ra g) s) ∧
    (∀ i, a < 2 ^ 12 → (s.group a).indexOf s.focus.core s.focus.ctx = some i → s.jobPushed s.focus.core s.focus.ctx a = false →
      ∃ t, exec (.gleave ra g) s = .next t ∧ t.cur.pc = s.cur.pc + 4 ∧ (∀ n, t.x n = s.x n) ∧
        (t.group a).indexOf s.focus.core s.focus.ctx = none)

/-- 05 R116, R117, 16 R312 to R316: a BARR whose arrival completes its phase passes with the phase's number and moves the barrier on, one that is notified passes too,
and one that does not complete it waits; without an object it traps with 0x07. SIG puts its bits, for the core's word or an object, into the store buffer behind the earlier stores, which its
checks see; WAITS passes with the event word once its bits are set, else waits. An object that fails a check gives its cause. That BARR and WAITS perform the context's buffered stores first is the
model's choice (log entry 6), and so is that the home unit carries out a context's operation in a step of its own, OBJECT_OPERATION, where the context stands at that object (log entry 57): it
counts an arrival, sets bits and reads a word as for the instruction. -/
def Obligations.BarriersAndEvents : Prop :=
  (∀ s rd ra g loc, s.holds g = true → s.cur.log.replay = none → s.cur.waiter = none → s.x ra ≠ 0 → let u := s.release
    u.cur.bpend.names loc = false →
    u.checkObject s.focus.core s.focus.ctx (s.x ra).toNat (s.privileged s.focus.core s.focus.ctx) true false = .ok loc →
    let o := u.syncObj loc
    let n := (o.arrivals + 1) % 2 ^ 32
    (u.target o ≤ n → ∃ t, exec (.barr rd ra g) s = .next t ∧ (∀ m, t.x m = putX s rd (BitVec.ofNat 64 o.phase) m) ∧ t.cur.pc = s.cur.pc + 4 ∧
      (t.syncObj loc).phase = (o.phase + 1) % 2 ^ 32 ∧ (t.syncObj loc).arrivals = 0 ∧ SameOutside u t (loc + 8) 8) ∧
    (n < u.target o → ∃ t, exec (.barr rd ra g) s = .next t ∧ t.cur.st = .waiting ∧ t.cur.waiter = some (.phase loc o.phase) ∧ t.cur.pc = s.cur.pc ∧
      (∀ m, t.x m = s.x m) ∧ (t.syncObj loc).arrivals = n ∧ (t.syncObj loc).phase = o.phase ∧ SameOutside u t (loc + 8) 4)) ∧
  (∀ s rd ra g, s.holds g = true → s.cur.log.replay = none → s.cur.waiter = none → let a := (s.x ra).toNat
    (a = 0 → Traps (.barr rd ra g) s 0x07 0) ∧
    ∀ c, a ≠ 0 → s.release.checkObject s.focus.core s.focus.ctx a (s.privileged s.focus.core s.focus.ctx) true false = .error c → Traps (.barr rd ra g) s c (trapInfo c a)) ∧
  (∀ s ra rb rd g c, s.holds g = true → s.cur.log.replay = none → s.x ra ≠ 0 → s.cur.waiter = none →
    s.release.checkObject s.focus.core s.focus.ctx (s.x ra).toNat (s.privileged s.focus.core s.focus.ctx) false false = .error c →
    ((s.x rb).toNat < 2 ^ 32 → Traps (.sig ra rb g) s c (trapInfo c (s.x ra).toNat)) ∧ Traps (.waits rd ra rb g) s c (trapInfo c (s.x ra).toNat)) ∧
  (∀ s rd ra g loc n, s.holds g = true → s.cur.log.replay = none → s.cur.waiter = some (.flipped loc n) →
    ∃ t, exec (.barr rd ra g) s = .next t ∧ (∀ m, t.x m = putX s rd (BitVec.ofNat 64 n) m) ∧ t.cur.pc = s.cur.pc + 4 ∧ t.cur.waiter = none ∧
      t.cur.bpend = { s.cur.bpend with valid := false } ∧ SameMemory s t) ∧
  (∀ s ra rb g loc size, s.holds g = true → s.cur.log.replay = none → (s.x rb).toNat < 2 ^ 32 →
    (s.x ra = 0 ∧ loc = s.focus.core ∧ size = 0) ∨ (s.x ra ≠ 0 ∧ size = 4 ∧
      s.release.checkObject s.focus.core s.focus.ctx (s.x ra).toNat (s.privileged s.focus.core s.focus.ctx) false false = .ok loc) →
    (16 ≤ s.cur.sbuf.length → Waits (.sig ra rb g) s) ∧
    (s.cur.sbuf.length < 16 → ∃ t, exec (.sig ra rb g) s = .next t ∧ RegsAfter s t s.x (s.cur.pc + 4) ∧ SameMemory s t ∧
      t.cur.sbuf = s.cur.sbuf ++ [{ kind := .signal, loc := loc, size := size, value := s.x rb, iret := s.cur.log.iret }])) ∧
  (∀ s ra rb g, s.holds g = true → 2 ^ 32 ≤ (s.x rb).toNat → Traps (.sig ra rb g) s 0x01 0) ∧
  (∀ s rd ra rb g, s.holds g = true → s.cur.log.replay = none → s.x ra = 0 →
    let mask := (s.x rb).toNat % 2 ^ 32
    let w := s.release.here.evw.toNat
    (w &&& mask = mask → ∃ t, exec (.waits rd ra rb g) s = .next t ∧ RegsAfter s t (putX s rd (BitVec.ofNat 64 w)) (s.cur.pc + 4) ∧ SameMemory s.release t) ∧
    (w &&& mask ≠ mask → exec (.waits rd ra rb g) s = .next s.release.waitHere)) ∧
  (∀ s rd ra rb g loc, s.holds g = true → s.cur.log.replay = none → s.x ra ≠ 0 → s.cur.waiter = none →
    s.release.checkObject s.focus.core s.focus.ctx (s.x ra).toNat (s.privileged s.focus.core s.focus.ctx) false false = .ok loc →
    let mask := (s.x rb).toNat % 2 ^ 32
    let w := (s.release.syncObj loc).events
    (w &&& mask = mask → ∃ t, exec (.waits rd ra rb g) s = .next t ∧ RegsAfter s t (putX s rd (BitVec.ofNat 64 w)) (s.cur.pc + 4) ∧ SameMemory s.release t) ∧
    (w &&& mask ≠ mask → ∃ t, exec (.waits rd ra rb g) s = .next t ∧ t.cur.st = .waiting ∧ t.cur.waiter = some (.mask loc mask) ∧ t.cur.pc = s.cur.pc ∧
      (∀ m, t.x m = s.x m) ∧ SameMemory s.release t)) ∧
  ∀ s core ctx obj value loc, s.checkObject core ctx obj (s.privileged core ctx) false false = .ok loc →
    (∃ t, exec (.objectOperation 1 core ctx obj value) s = .next t ∧ (t.syncObj loc).events = (s.syncObj loc).events ||| value % 2 ^ 32 ∧ SameOutside s t (loc + 16) 4) ∧
    (s.checkObject core ctx obj (s.privileged core ctx) true false = .ok loc → s.standsAt true core ctx obj value loc = true → (s.syncObj loc).arrivals + 1 < s.target (s.syncObj loc) →
      (s.syncObj loc).arrivals + 1 < 2 ^ 32 →
      ∃ t, exec (.objectOperation 0 core ctx obj value) s = .next t ∧ (t.syncObj loc).arrivals = (s.syncObj loc).arrivals + 1 ∧ SameOutside s t (loc + 8) 4) ∧
    (s.standsAt false core ctx obj value loc = true → ∃ t, exec (.objectOperation 2 core ctx obj value) s = .next t ∧ SameMemory s t ∧
      (t.ctx core ctx).waiter = some (if (s.syncObj loc).events &&& value = value then .notified loc (s.syncObj loc).events else .mask loc value))

/-- 05 R118, 22 R382, R385: TMARK writes the number of a new undo window, which is the context's current one from then on, with the registers and the address of the
next instruction in its checkpoint; it does not change memory, predicates or another register. A matrix word in flight or a full log makes it wait. -/
def Obligations.TmarkOpensAWindow : Prop :=
  ∀ s rd mask,
    ((s.here.ms.st ≠ .running ∨ s.here.ms.step = none) → s.cur.log.blocks (markWords mask) = false →
      let w := (s.cur.log.counter + 1) % 2 ^ 32
      ∃ t, exec (.tmark rd mask) s = .next t ∧ RegsAfter s t (putX s rd (BitVec.ofNat 64 w)) (s.cur.pc + 4) ∧ SameMemory s t ∧ t.cur.log.counter = w ∧
        t.cur.log.iret = s.cur.log.iret + 1 ∧
        ∃ v ∈ t.cur.log.windows, v.num = w ∧ v.opener = 1 ∧ v.pc = s.cur.pc + 4 ∧ v.iret = s.cur.log.iret + 1 ∧
          (∀ n, ({ Ctx.reset with x := v.x }).getX n = putX s rd (BitVec.ofNat 64 w) n) ∧ v.p = s.cur.p ∧ v.c = s.cur.c) ∧
    (s.here.ms.st = .running ∧ s.here.ms.step ≠ none ∨ s.cur.log.blocks (markWords mask) = true → Waits (.tmark rd mask) s)

/-- What a CSR reads, for registers that a context or core holds under one name: 05 R113, R119, 10 R235. -/
def Sys2Proof.Spec.csrValue (n : Nat) (s : State) : Option Word :=
  match n with
  | 0x000 => some (BitVec.ofNat 64 s.here.cycle)
  | 0x001 => some (BitVec.ofNat 64 s.time)
  | 0x004 => some s.cur.spor
  | 0x208 => some (s.here.evw.setWidth 64)
  | 0x220 => some s.cur.gsel
  | 0x222 => some (BitVec.ofNat 64 (s.cur.bpend.valid.toNat * 2 ^ 63 + s.cur.bpend.harbour.toNat * 2 ^ 60 + s.cur.bpend.obj / 32 * 2 ^ 32 + s.cur.bpend.phase))
  | 0x230 => some s.cur.lsel
  | 0x232 => some (BitVec.ofNat 64 s.node)
  | 0x240 => some s.cur.osel
  | 0x251 => some (BitVec.ofNat 64 s.cur.log.iret)
  | 0x801 => some s.cur.tvec
  | 0x802 => some s.cur.tstat
  | 0x803 => some s.cur.tinfo
  | 0x808 => some s.cur.ien
  | 0x80A => some s.cur.tcmp
  | 0x902 => some s.cur.psel
  | 0x920 => some s.cur.wpobj
  | 0x921 => some s.cur.wpctl
  | 0x930 => some (s.ptbr.setWidth 64)
  | 0x931 => some s.here.tdir
  | 0x932 => some (s.hepoch.setWidth 64)
  | 0x941 => some (BitVec.ofNat 64 s.ctime)
  | 0x960 => some s.cur.log.base
  | 0x961 => some s.cur.log.len
  | 0x962 => some s.cur.log.head
  | 0x963 => some s.cur.log.tail
  | 0x971 => some s.cur.bpaddr
  | 0x972 => some s.here.bpcyc
  | 0x974 => some s.here.trbase
  | 0x975 => some s.here.trlen
  | _ => none

/-- What a written register reads afterwards, for the registers of `csrValue` that software writes freely: the bits that the register has (10 R235 and the rules it names). -/
def Sys2Proof.Spec.csrStored (n : Nat) (harbour : Bool) (w : Word) : Option Word :=
  match n with
  | 0x220 => some (w &&& 0xFFF)
  | 0x230 => some (w &&& 0x1F)
  | 0x240 => some (w &&& 0xF)
  | 0x801 => some w
  | 0x808 => some (w &&& if harbour then 0x1F else 0xF)
  | 0x902 => some (w &&& 0x7FF)
  | 0x920 => some (w &&& 0x3FFFFFFE0)
  | 0x930 => some (w &&& 0xFFFFFFFF)
  | 0x931 => some w
  | 0x932 => some (w &&& 0xFFFFFFFF)
  | 0x941 => some (if w &&& 0xFFFF = 0 then 200 else w &&& 0xFFFF)
  | 0x960 => some (w &&& 0xFFFFFFFFF0000)
  | 0x961 => some (w &&& 0xFFFFF)
  | 0x971 => some (w &&& ~~~2)
  | 0x972 => some w
  | 0x974 => some w
  | 0x975 => some w
  | _ => none

/-- Whether the acting context may access a CSR of a number: 0x800 and above are privileged (05 R119). -/
def Sys2Proof.Spec.mayAccess (s : State) (n : Nat) : Prop := n < 0x800 ∨ s.privileged s.focus.core s.focus.ctx = true

/-- 05 R119, 10 R235: CSRR writes a register's value to x[rd] and changes nothing else; CSRW leaves the register holding the bits it has; an unassigned number traps with
0x01 at either level, and a number of 0x800 or above with 0x02 from an unprivileged context. -/
def Obligations.CsrsAreReadAndWritten : Prop :=
  (∀ s rd n v, csrValue n s = some v → mayAccess s n → s.cur.log.replay = none → (n = 0x208 → s.cur.sbuf = []) →
    ∃ t, exec (.csrr rd n) s = .next t ∧ Completed s t (putX s rd v) s.p s.cur.getC (entered s v .other) (s.cur.pc + 4)) ∧
  (∀ s ra n v, csrStored n (s.focus.core == harbourId) (s.x ra) = some v → mayAccess s n →
    ∃ t, exec (.csrw ra n) s = .next t ∧ csrValue n t = some v ∧ t.cur.pc = s.cur.pc + 4 ∧ (∀ m, t.x m = s.x m) ∧ (∀ m, t.p m = s.p m) ∧ SameMemory s t ∧
      ∀ m, m ≠ n → (csrStored m true 0).isSome → csrValue m t = csrValue m s) ∧
  (∀ s r n, csrAssigned (s.focus.core == harbourId) n = false → Traps (.csrr r n) s 0x01 0 ∧ Traps (.csrw r n) s 0x01 0) ∧
  ∀ s r n, csrAssigned (s.focus.core == harbourId) n = true → 0x800 ≤ n → s.privileged s.focus.core s.focus.ctx = false →
    Traps (.csrr r n) s 0x02 0 ∧ Traps (.csrw r n) s 0x02 0

/-- 05 R113, 10 R239, 17 R327, 23 R400 to R408, 24 R410 to R421: what reads and writes of the CSRs with an effect of their own leave: the token CSRs of context X, TCMP, the tile
service queue, TLB invalidation, the conflict matrix, the wrack record's hold, an HBM4E channel's mode and repair, the watchdog's period and the fence. A channel leaves
mission mode once no load from it is outstanding; that stores under way there are performed with the write is the model's choice (log entry 40). -/
def Obligations.CsrEffects : Prop :=
  (∀ s ra, s.focus.ctx = 1 → (s.x ra).toNat % 4 = 1 → s.here.token 8 < 15 →
    ∃ t, exec (.tkpush ra) s = .next t ∧ RegsAfter s t s.x (s.cur.pc + 4) ∧ SameMemory s.release t ∧ t.here.token 8 = s.here.token 8 + 1 ∧ t.here.token 10 = s.here.token 10) ∧
  (∀ s ra, s.focus.ctx = 1 → (s.x ra).toNat % 2 = 1 → 15 ≤ s.here.token 8 → Waits (.tkpush ra) s) ∧
  (∀ s rd n, s.focus.ctx = 1 → s.cur.log.replay = none →
    (s.here.token 9 = n + 1 → ∃ t, exec (.tkvx rd) s = .next t ∧ RegsAfter s t (putX s rd (BitVec.ofNat 64 n)) (s.cur.pc + 4) ∧ t.here.token 9 = n ∧ SameMemory s t) ∧
    (s.here.token 11 = n + 1 → ∃ t, exec (.tkmx rd) s = .next t ∧ RegsAfter s t (putX s rd (BitVec.ofNat 64 n)) (s.cur.pc + 4) ∧ t.here.token 11 = n ∧ SameMemory s t) ∧
    (s.here.token 9 = 0 → Waits (.tkvx rd) s) ∧ (s.here.token 11 = 0 → Waits (.tkmx rd) s)) ∧
  (∀ s r, s.focus.ctx ≠ 1 → Traps (.tkpush r) s 0x02 0 ∧ Traps (.tkvx r) s 0x02 0 ∧ Traps (.tkmx r) s 0x02 0) ∧
  (∀ s ra, s.privileged s.focus.core s.focus.ctx = true →
    (∃ t, exec (.tcmpWrite ra) s = .next t ∧ RegsAfter s t s.x (s.cur.pc + 4) ∧ SameMemory s t ∧
      t.cur.tcmp = (if s.x ra ≠ 0 ∧ (s.x ra).toNat ≤ s.time then 0 else s.x ra) ∧
      t.cur.ipend = (if s.x ra ≠ 0 ∧ (s.x ra).toNat ≤ s.time then s.cur.ipend ||| 1 else s.cur.ipend)) ∧
    ((s.x ra).getLsbD 0 = false → ∃ t, exec (.tinv ra) s = .next t ∧ RegsAfter s t s.x (s.cur.pc + 4) ∧ SameMemory s t ∧ t.tlb = s.tlb) ∧
    ((s.x ra).getLsbD 0 = true → s.translatedOut = false →
      ∃ t, exec (.tinv ra) s = .next t ∧ RegsAfter s t s.x (s.cur.pc + 4) ∧ SameMemory s.settlePages t ∧ t.tlb = []) ∧
    ((s.x ra).getLsbD 0 = true → s.translatedOut = true → Waits (.tinv ra) s) ∧
    (∃ t, exec (.wrctlWrite ra) s = .next t ∧ RegsAfter s t s.x (s.cur.pc + 4) ∧ SameMemory s t ∧
      t.wrack.hold = (if (s.x ra).getLsbD 12 then true else if s.focus.core = harbourId then false else s.wrack.hold))) ∧
  (∀ s ra, ∃ t, exec (.cmclr ra) s = .next t ∧ RegsAfter s t s.x (s.cur.pc + 4) ∧ SameMemory s t ∧ t.here.cm = if (s.x ra).getLsbD 0 then [] else s.here.cm) ∧
  (∀ s r, s.focus.core = harbourId →
    (s.mgmt.tsq = [] → s.cur.log.replay = none → ∃ t, exec (.tsqPop r) s = .next t ∧ RegsAfter s t (putX s r 0) (s.cur.pc + 4) ∧ SameMemory s t) ∧
    (∀ c e rest, s.mgmt.tsq = (c, e) :: rest → s.cur.log.replay = none →
      ∃ t, exec (.tsqPop r) s = .next t ∧ RegsAfter s t (putX s r (BitVec.ofNat 64 (2 ^ 63 + c % 2 ^ 11 * 2 ^ 52 + e % 2 ^ 52))) (s.cur.pc + 4) ∧ SameMemory s t ∧
        e ∈ t.mgmt.tsAnswering) ∧
    ((∀ w ∈ s.mgmt.tsWaiters, w.1 = (s.x r).toNat % 2 ^ 52 → ∃ c, w.2 = .stream c) →
      ∃ t, exec (.tsdone r) s = .next t ∧ RegsAfter s t s.x (s.cur.pc + 4) ∧ SameMemory s t ∧
        (∀ w, w ∈ t.mgmt.tsWaiters ↔ w ∈ s.mgmt.tsWaiters ∧ w.1 ≠ (s.x r).toNat % 2 ^ 52) ∧ ¬(s.x r).toNat % 2 ^ 52 ∈ t.mgmt.tsAnswering) ∧
    (∀ key, hselKey s.cur.hsel.toNat = some key → (s.pseudo key).test = 0 →
      ((s.pseudo key).mode ≠ 2 ∨ 2 ≤ (s.x r).toNat % 4 ∨ s.channelOut key = false → ∃ t, exec (.hctlWrite r) s = .next t ∧ RegsAfter s t s.x (s.cur.pc + 4) ∧
        (t.pseudo key).mode = if (s.x r).toNat % 4 = 3 then (s.pseudo key).mode else (s.x r).toNat % 4) ∧
      ((s.pseudo key).mode = 2 → (s.x r).toNat % 4 < 2 → s.channelOut key = true → Waits (.hctlWrite r) s) ∧
      (∃ t, exec (.hrepWrite r) s = .next t ∧ RegsAfter s t s.x (s.cur.pc + 4) ∧
        (t.pseudo key).rep = if (s.pseudo key).mode = 1 then storedRepair (s.x r).toNat else (s.pseudo key).rep)) ∧
    (∃ t, exec (.hwdtWrite r) s = .next t ∧ RegsAfter s t s.x (s.cur.pc + 4) ∧ SameMemory s t ∧ t.mgmt.hwdt = (s.x r).toNat % 2 ^ 32)) ∧
  ∀ s core, ∃ t, exec (.cntctlUnfence core) s = .next t ∧ (t.core core).fenced = false ∧ SameMemory s t ∧ ∀ c, c ≠ core → t.core c = s.core c

/-- 10 R241 to R243: the frame of a context as a trap writes it. -/
structure Sys2Proof.Spec.Frame (s t : State) (core ctx : Nat) (ret tstat tinfo : Word) : Prop where
  x : ∀ n, n < 32 → t.readD (frameLoc core ctx + 8 * n) = (s.ctx core ctx).getX n
  p : t.readD (frameLoc core ctx + 0x100) = BitVec.ofNat 64 (s.ctx core ctx).pbits
  ret : t.readD (frameLoc core ctx + 0x108) = ret
  tstat : t.readD (frameLoc core ctx + 0x110) = tstat
  tinfo : t.readD (frameLoc core ctx + 0x118) = tinfo
  level : t.readD (frameLoc core ctx + 0x120) = if s.privileged core ctx then 1 else 0
  c : ∀ n, n < 16 → t.readD (frameLoc core ctx + 0x180 + 8 * n) = (s.ctx core ctx).getC n

/-- 10 R241: a context in its handler after a trap was taken. -/
structure Sys2Proof.Spec.Entered (s t : State) (core ctx cause source : Nat) (ret tinfo : Word) : Prop where
  frame : Frame s t core ctx ret (BitVec.ofNat 64 (source * 2 ^ 16 + cause)) tinfo
  pc : (t.ctx core ctx).pc = (s.ctx core ctx).tvec
  level : (t.ctx core ctx).priv = true ∧ (t.ctx core ctx).ppriv = (s.ctx core ctx).priv
  busy : (t.ctx core ctx).busy = true ∧ (t.ctx core ctx).st = .handler
  tstat : (t.ctx core ctx).tstat = BitVec.ofNat 64 (source * 2 ^ 16 + cause) ∧ (t.ctx core ctx).tinfo = tinfo
  regs : ∀ n, (t.ctx core ctx).getX n = (s.ctx core ctx).getX n
  memory : SameOutside (s.drain core ctx) t (frameLoc core ctx) 0x200


/-- 05 R120, 03 R74, 10 R241: TRAP with no trap outstanding enters the handler with cause 0x0F and its immediate, returning to the next instruction; an illegal word enters it with
cause 0x01, returning to itself. The frame holds the registers. That the context's buffered stores are performed at the entry, so that memory outside the frame is as after them, is the model's
choice (log entry 6). Also 10 R241, R250: a trap taken while one is outstanding freezes the context, interrupts the harbour core and enters no handler. -/
def Obligations.TrapsEnterTheHandler : Prop :=
  (
    (∀ s imm, s.cur.busy = false → s.cur.waiter = none →
      ∃ t, exec (.trap imm) s = .next t ∧ Entered s t s.focus.core s.focus.ctx 0x0F 0 (s.cur.pc + 4) (BitVec.ofNat 64 imm)) ∧
    (∀ s w, s.cur.busy = false → s.cur.waiter = none → ∃ t, exec (.illegalInstruction w) s = .next t ∧ Entered s t s.focus.core s.focus.ctx 0x01 0 s.cur.pc 0) ∧
    ∀ (s : State) core ctx cause source info ret, (s.ctx core ctx).busy = false → (s.ctx core ctx).waiter = none →
      Entered s (s.takeTrap core ctx cause info source ret) core ctx cause source ret info
  ) ∧ (
    ∀ (s : State) core ctx cause source info ret, (s.ctx core ctx).busy = true → (s.ctx core ctx).waiter = none →
      let t := s.takeTrap core ctx cause info source ret
      (t.ctx core ctx).st = .frozen ∧ (∀ n, (t.ctx core ctx).getX n = (s.ctx core ctx).getX n) ∧ (t.ctx core ctx).pc = (s.ctx core ctx).pc ∧
        t.mgmt.hirqPending = s.mgmt.hirqPending ||| 1 ∧ SameMemory s t
  )

/-- 05 R121, 10 R242: RFE restores the registers, the level and the return address that the frame holds, clears busy and goes on there; where TSTAT's source names a stream and a core's
stopped streams of the context's job may resume, it goes on there with those streams resumed; from an unprivileged context it traps with 0x02; a return address that is no multiple of 4 traps
with 0x03. That the context's buffered stores are performed first, so that the frame is read from memory as after them, is the model's choice (log entry 6). -/
def Obligations.RfeReturnsFromTheFrame : Prop :=
  (∀ s, s.privileged s.focus.core s.focus.ctx = true → s.rfeResumes s.focus.core s.focus.ctx = [] →
    let b := frameLoc s.focus.core s.focus.ctx
    let m := s.release
    (m.readD (b + 0x108)).toNat % 4 = 0 → m.readD (b + 0x108) ≠ 0xFFFFFFFFFFFFFFFC →
      ∃ t, exec .rfe s = .next t ∧ (∀ n, n < 32 → t.x n = if n = 0 then 0 else m.readD (b + 8 * n)) ∧
        (∀ n, n < 16 → t.p n = (n == 0 || (m.readD (b + 0x100)).getLsbD n)) ∧ (∀ n, n < 16 → t.cur.getC n = m.readD (b + 0x180 + 8 * n)) ∧
        t.cur.pc = m.readD (b + 0x108) ∧ t.cur.priv = (m.readD (b + 0x120)).getLsbD 0 ∧ t.cur.busy = false ∧ t.cur.st = .running ∧ SameMemory m t) ∧
  (∀ s c, s.privileged s.focus.core s.focus.ctx = true → s.rfeResumes s.focus.core s.focus.ctx = [c] → (s.core c).preempt.state = 0 →
    let ret := s.release.readD (frameLoc s.focus.core s.focus.ctx + 0x108)
    let u := (s.returnFromTrap s.focus.core s.focus.ctx).resumeStreams c
    ret.toNat % 4 = 0 → ret ≠ 0xFFFFFFFFFFFFFFFC →
      ∃ t, exec .rfe s = .next t ∧ t.cur.pc = ret ∧ t.cur.busy = false ∧ (t.core c).vs = (u.core c).vs ∧ (t.core c).ms = (u.core c).ms ∧ SameMemory u t) ∧
  (∀ s, s.privileged s.focus.core s.focus.ctx = false → Traps .rfe s 0x02 0) ∧
  ∀ s, s.privileged s.focus.core s.focus.ctx = true → s.rfeResumes s.focus.core s.focus.ctx = [] →
    let ret := s.release.readD (frameLoc s.focus.core s.focus.ctx + 0x108)
    ret.toNat % 4 ≠ 0 → Traps .rfe s 0x03 ret

/-- 05 R122, 10 R233, R239, R244, R247: a pending enabled interrupt enters the handler of a context at a boundary with cause 0x10 and source 1, unless stopped streams owe it a trap, and is held
while the context is busy; a waiting context issues again in its next slot; an outstanding load returns its value, or traps at the load with 0x06 for poison; the trap of stopped streams enters the
pushing context's handler; an interrupt with IEN[3] set makes the job's vector stream stop. That a wait which is over puts the context's next slots at the head of an agenda is the model's own
scheduling (log entry 1), the number of slots that of log entry 7. -/
def Obligations.InterruptsAndHeldTraps : Prop :=
  (∀ s core ctx, (s.ctx core ctx).atBoundary = true → s.takeable core ctx ≠ 0 → s.owedStop core ctx = none → (s.ctx core ctx).log.replay = none → (s.ctx core ctx).waiter = none →
    ∃ t, exec (.interruptTake core ctx) s = .next t ∧ Entered s t core ctx 0x10 1 (s.ctx core ctx).pc 0) ∧
  (∀ s core ctx, (s.ctx core ctx).busy = true → exec (.interruptTake core ctx) s = .next s) ∧
  (∀ s core ctx, (s.ctx core ctx).st = .waiting → exec (.contextWaitComplete core ctx) s = .next { s with agenda := List.replicate ((s.core core).slotsTo ctx) (.ctx core ctx) ++ s.agenda }) ∧
  (∀ s core ctx l, (s.ctx core ctx).loads = [l] → s.anyPoison l.loc l.size = false → (s.ctx core ctx).sbuf = [] →
    ∃ t, exec (.loadReturn core ctx) s = .next t ∧ (t.ctx core ctx).loads = [] ∧ (t.ctx core ctx).pc = (s.ctx core ctx).pc ∧ SameMemory s t ∧
      ∀ n, (t.ctx core ctx).getX n = if n = l.rd ∧ n ≠ 0 then sextWord (8 * l.size) (s.read l.loc l.size) else (s.ctx core ctx).getX n) ∧
  (∀ s core ctx l, (s.ctx core ctx).loads = [l] → s.anyPoison l.loc l.size = true → (s.ctx core ctx).busy = false → (s.ctx core ctx).waiter = none →
    ∃ t, exec (.loadReturn core ctx) s = .next t ∧ (t.ctx core ctx).st = .handler ∧ (t.ctx core ctx).pc = (s.ctx core ctx).tvec ∧ (t.ctx core ctx).loads = [] ∧
      (t.ctx core ctx).tstat = 0x06 ∧ (t.ctx core ctx).tinfo = l.addr ∧ t.readD (frameLoc core ctx + 0x108) = l.mark.pc) ∧
  (∀ s core j source cause cycle, (s.core core).job = some j → s.owedAt core = some (source, cause, cycle) → (s.ctx j.core j.ctx).atBoundary = true →
    (s.ctx j.core j.ctx).waiter = none →
    ∃ t, exec (.streamStopTrap core) s = .next t ∧ (t.ctx j.core j.ctx).st = .handler ∧ (t.ctx j.core j.ctx).pc = (s.ctx j.core j.ctx).tvec ∧
      (t.ctx j.core j.ctx).tstat = BitVec.ofNat 64 (source * 2 ^ 16 + cause) ∧ (t.ctx j.core j.ctx).tinfo = BitVec.ofNat 64 cycle) ∧
  ∀ s core, s.irqStop core = true → (s.core core).vs.st = .running → (s.core core).vs.atStop = 0 →
    ∃ t, exec (.interruptStreamStop core) s = .next t ∧ (t.core core).vs = { (s.core core).vs with atStop := 1 + 0x10 + 256 } ∧ SameMemory s t ∧ ∀ c n, t.ctx c n = s.ctx c n

namespace Sys2Proof.Spec

/-! ### The vector stream (06, 07) -/

/-- A vector word of the acting core's running stream issues at its cycle: no stop waits, no rotating loop ends wrongly there, its slot's entry is not reserved and the tokens
it pops are there (06 R129, R130, 07 R168, R169; 10 R245). -/
structure VecReady (s : State) (named : Option Nat) (slot pop np : Nat) : Prop where
  follows : s.vs.atStop = 0
  ends : s.vs.endsWrong named = false
  slotFine : slotReserved (s.vs.entry slot) = false
  tokens : pop = 0 ∨ np ≤ s.here.token pop

/-- What the issue of a vector word leaves beside what its own effect names: one cycle on, the tokens popped, the grid, registers, formats and accumulators
as they were. -/
structure VecGoes (s t : State) (pop np : Nat) : Prop where
  cycle : t.vs.cycle = s.vs.cycle + 1
  st : t.vs.st = s.vs.st ∧ t.vs.base = s.vs.base ∧ t.vs.frozen = false ∧ t.vs.atStop = 0
  grid : t.vs.grid = s.vs.grid
  sregs : t.vs.s = s.vs.s
  fmt : t.vs.fmt = s.vs.fmt
  acc : t.here.acc = s.here.acc
  status : t.here.vfst = s.here.vfst
  token : ∀ q, t.here.token q = if q = pop ∧ pop ≠ 0 then s.here.token q - np else s.here.token q

/-- `VecGoes`, and with the trace off no context and no byte of memory changed. -/
structure VecIssued (s t : State) (pop np : Nat) : Prop extends VecGoes s t pop np where
  rest : s.here.trctl.getLsbD 0 = false → SameMemory s t ∧ ∀ c n, t.ctx c n = s.ctx c n

/-- The word's successor where it is no branch: the loops settle (07 R164), and the predicates and the format selection stay. -/
structure VecNext (s t : State) : Prop where
  loops : (t.vs.pc, t.vs.l0, t.vs.l1) = settleLoops s.vs.pc s.vs.l0 s.vs.l1
  p : t.vs.p = s.vs.p
  select : t.vs.fmtRow = s.vs.fmtRow ∧ t.vs.fmtLoop = s.vs.fmtLoop ∧ t.vs.rotBase = s.vs.rotBase

/-- The one result that a word puts in flight. -/
structure LandsOne (s t : State) (h : VHdr) (lat : Nat) (dest : LandDest) (lanes : Word) (val : Nat → Elem) (flags : Nat) : Prop where
  one : ∃ r, t.vs.land = s.vs.land ++ [r] ∧ r.due = s.vs.cycle + lat ∧ r.kind = .result ∧ r.dest = dest ∧ r.lanes = lanes ∧ r.push = h.push ∧ r.flags = flags ∧
    ∀ l, l < 64 → lanes.getLsbD l → r.values.getD l 0 = val l

/-- The flags of the active lanes together. -/
def flagsOf (m : Word) (f : Nat → Nat) : Nat := (List.range 64).foldl (fun n l => n ||| if m.getLsbD l then f l else 0) 0

/-- A word of two floating sources: each lane's rounded result with its flags, and those of reading immediates (06 R131, R133). -/
def fpLane (sl : Slot) (a b : VOp) (r : Nat × Nat) : Nat × Nat := (r.1, r.2 ||| immFlag sl a ||| immFlag sl b)

/-- Header, destination, latency, slot class, and value and flags of each lane, of a word that writes one value to each active lane of its destination: the tables of 06 R133 to
R136, R145, R146, R149, R150 and 07 R179 to R181, with the latencies of 06 R127. -/
def laneWord (i : Instr) (v : VStream) (sl : Slot) : Option (VHdr × VOp × Nat × Bool × (Nat → Nat × Nat)) :=
  let int (h : VHdr) (d : VOp) (f : Nat → Int) : Option (VHdr × VOp × Nat × Bool × (Nat → Nat × Nat)) := some (h, d, 1, isInteger sl.fmt, fun l => intResult sl (f l))
  let bits (h : VHdr) (d : VOp) (f : Nat → Nat) : Option (VHdr × VOp × Nat × Bool × (Nat → Nat × Nat)) := some (h, d, 1, true, fun l => (f l % 2 ^ 32, 0))
  match i with
  | .vaddF h d a b => some (h, d, 4, isFloat sl.fmt, fun l => fpLane sl a b (sumRounded sl.fmt sl [] [v.fp sl a l, v.fp sl b l]))
  | .vsubF h d a b => some (h, d, 4, isFloat sl.fmt, fun l => fpLane sl a b (sumRounded sl.fmt sl [] [v.fp sl a l, (v.fp sl b l).negate]))
  | .vmulF h d a b => some (h, d, 4, isFloat sl.fmt, fun l => fpLane sl a b (sumRounded sl.fmt sl [(v.fp sl a l, v.fp sl b l)] []))
  | .vfmaF h d a b => some (h, d, 4, isFloat sl.fmt, fun l => fpLane sl a b (sumRounded sl.fmt sl [(v.fp sl a l, v.fp sl b l)] [v.fp sl d l]))
  | .vminF h d a b => some (h, d, 1, isFloat sl.fmt, fun l => fpLane sl a b (minmaxFp sl.fmt sl false (v.laneF sl a l) (v.laneF sl b l)))
  | .vmaxF h d a b => some (h, d, 1, isFloat sl.fmt, fun l => fpLane sl a b (minmaxFp sl.fmt sl true (v.laneF sl a l) (v.laneF sl b l)))
  | .vabsF h d a => some (h, d, 1, isFloat sl.fmt, fun l => (readBits sl.fmt sl.flush (v.laneF sl a l) % 2 ^ magBits sl.fmt, immFlag sl a))
  | .vnegF h d a => some (h, d, 1, isFloat sl.fmt, fun l =>
      let w := readBits sl.fmt sl.flush (v.laneF sl a l)
      (if bitOf w (magBits sl.fmt) then w - 2 ^ magBits sl.fmt else w + 2 ^ magBits sl.fmt, immFlag sl a))
  | .vaddI h d a b => int h d fun l => v.int sl a l + v.int sl b l
  | .vsubI h d a b => int h d fun l => v.int sl a l - v.int sl b l
  | .vmulI h d a b => int h d fun l => v.int sl a l * v.int sl b l
  | .vmacI h d a b => int h d fun l => v.int sl d l + v.int sl a l * v.int sl b l
  | .vminI h d a b => int h d fun l => min (v.int sl a l) (v.int sl b l)
  | .vmaxI h d a b => int h d fun l => max (v.int sl a l) (v.int sl b l)
  | .vand h d a b => bits h d fun l => v.lane a l &&& v.lane b l
  | .vor h d a b => bits h d fun l => v.lane a l ||| v.lane b l
  | .vxor h d a b => bits h d fun l => v.lane a l ^^^ v.lane b l
  | .vshl h d a b => bits h d fun l => v.lane a l * 2 ^ (v.lane b l % 32)
  | .vshr h d a b => bits h d fun l => v.lane a l % 2 ^ 32 / 2 ^ (v.lane b l % 32)
  | .vsra h d a b => bits h d fun l => (sextNat 32 (v.lane a l) / 2 ^ (v.lane b l % 32) % 2 ^ 32).toNat
  | .vcmul h d a b => some (h, d, 5, decide (sl.fmt = 9), fun l => cfProduct sl (cf16 sl (v.lane a l)) (cf16 sl (v.lane b l)) [])
  | .vcfma h d a b => some (h, d, 5, decide (sl.fmt = 9), fun l => cfProduct sl (cf16 sl (v.lane a l)) (cf16 sl (v.lane b l)) [cf16 sl (v.lane d l)])
  | .vtwid h d a b => some (h, d, 5, decide (sl.fmt = 9), fun l => twiddleLane sl (v.lane a l) (v.lane b l))
  | .vperm h d a b => some (h, d, 2, true, fun l => (v.lane a (v.lane b l % 64), 0))
  | .vbcst h d a b => some (h, d, 1, true, fun _ => (v.lane a (v.lane b 0 % 64), 0))
  | .vmovg h d a => some (h, d, 2, true, fun l => (v.lane a l, 0))
  | .vclmp h d a b => some (h, d, 1, isFloat sl.fmt || isInteger sl.fmt, fun l =>
      if isFloat sl.fmt then fpLane sl a b (clampLane sl (v.laneF sl a l) (v.laneF sl b l)) else clampLane sl (v.lane a l) (v.lane b l))
  | .vboxd h d a b => some (h, d, 8, decide (sl.fmt = 0), fun l => boxLane sl (v.lane a l) (v.lane b l))
  | .vdwc h d a b => some (h, d, 5, isFloat sl.fmt, fun l =>
      sumRounded sl.fmt sl ((List.range 3).map fun t => (fpVal sl.fmt sl.flush (v.tap a t l), fpVal sl.fmt sl.flush (v.tap b t l))) [v.fp sl d l])
  | .vlut h d a b => some (h, d, 4, isFloat sl.fmt, fun l => lutLane sl (v.fp sl a l) fun j => v.lane b j)
  | _ => none

/-- Header, scalar register and value of a scalar word: 07 R161. -/
def scalarOp (i : Instr) (v : VStream) : Option (VHdr × Nat × Word) :=
  match i with
  | .vsadd h sd sa sb => some (h, sd, v.getS sa + v.getS sb)
  | .vsaddi h sd sa imm => some (h, sd, v.getS sa + BitVec.ofInt 64 (sextNat 22 imm))
  | .vsmov h sd (.scalar n) => some (h, sd, v.getS n)
  | .vsmov h sd (.imm w) => some (h, sd, BitVec.ofInt 64 (sextNat 22 w))
  | .vsmov h sd o => some (h, sd, BitVec.ofInt 64 (sextNat 32 (v.lane o 0)))
  | _ => none

/-- The two entries in which a landing holds a 64-bit value. -/
def half (w : Word) (i : Nat) : Elem := if i = 0 then w.setWidth 32 else (w >>> 32).setWidth 32

/-- A word puts a 64-bit value in flight for a scalar register or a predicate, with lanes and flags. -/
structure LandsWord (s t : State) (h : VHdr) (lat : Nat) (dest : LandDest) (lanes w : Word) (flags : Nat) : Prop where
  one : ∃ r, t.vs.land = s.vs.land ++ [r] ∧ r.due = s.vs.cycle + lat ∧ r.kind = .result ∧ r.dest = dest ∧ r.push = h.push ∧ r.lanes = lanes ∧ r.flags = flags ∧
    r.values = [half w 0, half w 1]

/-- Header, destination, and value and flags of each lane, of a word of the one divider: 06 R128, R133. -/
def dividerWord (i : Instr) (v : VStream) (sl : Slot) : Option (VHdr × VOp × (Nat → Nat × Nat)) :=
  match i with
  | .vdivF h d a b => some (h, d, fun l => fpLane sl a b (divRounded sl.fmt sl (v.fp sl a l) (v.fp sl b l)))
  | .vsqrtF h d a => some (h, d, fun l => let r := sqrtRounded sl.fmt sl (v.fp sl a l); (r.1, r.2 ||| immFlag sl a))
  | _ => none

/-- The sum of 2^k values in a tree of neighbours, and the flags of its additions: 02 R45. -/
def treeSum (add : Nat → Nat → Nat × Nat) : Nat → (Nat → Nat) → Nat
  | 0, f => f 0
  | k + 1, f => treeSum add k fun i => (add (f (2 * i)) (f (2 * i + 1))).1
def treeFlags (add : Nat → Nat → Nat × Nat) : Nat → (Nat → Nat) → Nat
  | 0, _ => 0
  | k + 1, f => ((List.range (2 ^ k)).foldl (fun n i => n ||| (add (f (2 * i)) (f (2 * i + 1))).2) 0) ||| treeFlags add k fun i => (add (f (2 * i)) (f (2 * i + 1))).1

/-- One addition of a reduction (06 R147). -/
def reduceAdd (sl : Slot) (x y : Nat) : Nat × Nat :=
  if isFloat sl.fmt then sumRounded sl.fmt sl [] [fpVal sl.fmt sl.flush x, fpVal sl.fmt sl.flush y] else intResult sl (intOf sl.fmt x + intOf sl.fmt y)

/-- Whether a lane takes part in VREDM, the key it is compared by, and its bits: 06 R148. -/
def redmCand (v : VStream) (sl : Slot) (m : Word) (a : VOp) (l : Nat) : Bool :=
  m.getLsbD l && !(isFloat sl.fmt && (fpVal sl.fmt sl.flush (v.lane a l)).isNan)
def redmKey (v : VStream) (sl : Slot) (a : VOp) (l : Nat) : Int := if isFloat sl.fmt then orderKey sl.fmt (readBits sl.fmt sl.flush (v.lane a l)) else v.int sl a l
def redmBits (v : VStream) (sl : Slot) (a : VOp) (l : Nat) : Nat := if isFloat sl.fmt then readBits sl.fmt sl.flush (v.lane a l) else intElem sl.fmt (v.int sl a l)

/-- What VREDM writes: the best lane's value or index, the lowest lane where several are best; with no lane, all ones for an index, NaN or the least or greatest value: 06 R148. -/
def RedmResult (v : VStream) (sl : Slot) (m : Word) (a : VOp) (mode : Nat) (w : Word) : Prop :=
  let better (x y : Nat) : Prop := if mode = 0 ∨ mode = 2 then redmKey v sl a y < redmKey v sl a x else redmKey v sl a x < redmKey v sl a y
  (∀ l, l < 64 → redmCand v sl m a l = true → (∀ k, k < 64 → redmCand v sl m a k = true → ¬better k l ∧ (k < l → better l k)) →
    w = if 2 ≤ mode then BitVec.ofNat 64 l else scalarOf sl.fmt (redmBits v sl a l)) ∧
  ((∀ l, l < 64 → redmCand v sl m a l = false) →
    w = if 2 ≤ mode then BitVec.allOnes 64
      else if isFloat sl.fmt then BitVec.ofNat 64 (canonicalNan sl.fmt) else scalarOf sl.fmt (intElem sl.fmt (if mode = 0 then intMin sl.fmt else intMax sl.fmt)))

/-- Whether rank j of VNMS suppresses rank l: a later lane whose value lies above the threshold: 07 R178. -/
def nmsOver (sl : Slot) (cell : Nat → Nat → Nat) (thr : Val) (j l : Nat) : Bool :=
  let x := fpVal sl.fmt sl.flush (cell j l)
  decide (j < l) && !x.isNan && !thr.isNan && decide (0 < cmpVal x thr)

/-- The flags of VNMS: a signalling NaN in the threshold, or in a cell that a kept rank reads: 07 R178. -/
def nmsFlags (sl : Slot) (cell : Nat → Nat → Nat) (thr : Val) (w : Word) : Nat :=
  (List.range 64).foldl (fun f j => if w.getLsbD j then
    ((List.range 64).filter fun l => decide (j < l)).foldl (fun f l => f ||| (fpVal sl.fmt sl.flush (cell j l)).sigFlag) (f ||| thr.sigFlag) else f) 0

/-- The image that VUNPK reads, and the element of a lane: 02 R20, R34, 06 R144. -/
def unpackImage (v : VStream) (sa : Slot) (a : VOp) : Nat := joinBits 32 ((List.range (packedLanes sa.fmt)).map (v.lane a))
def unpacked (v : VStream) (sa : Slot) (a : VOp) (l : Nat) : List Val × Nat :=
  readElem sa (match imageCode sa.fmt (unpackImage v sa a) l with | some c => codeElem sa.fmt c | none => 3)

/-- What a stop of its own leaves of a core's vector stream. -/
structure StreamStops (s t : State) (core cause : Nat) : Prop where
  st : (t.core core).vs.st = .stopped ∧ (t.core core).vs.cause = cause ∧ (t.core core).vs.atStop = 1 + cause + 256 ∧ (t.core core).vs.frozen = false
  land : (t.core core).vs.land = (s.core core).vs.land
  place : (t.core core).vs.cycle = (s.core core).vs.cycle ∧ (t.core core).vs.pc = (s.core core).vs.pc
  grid : (t.core core).vs.grid = (s.core core).vs.grid ∧ (t.core core).acc = (s.core core).acc

/-- The code that VPACK puts in lane l's place: the converted element of an active lane, else the destination's zero: 06 R143. -/
def packCode (v : VStream) (sa sl : Slot) (m : Word) (a : VOp) (l : Nat) : Nat :=
  if m.getLsbD l then (convertElem sl (readElem sa (v.lane a l)).1).1 % 2 ^ codeBits sl.fmt else if sl.fmt = 7 then 0x10 else 0

end Sys2Proof.Spec

/-- 06 R124, R126 to R128, R133 to R136, R145, R146, R149, R150, 07 R179 to R181: a lane word that issues puts the value of each active lane in flight to its destination, landing after
the word's latency with the flags of the active lanes and the word's push token; the grid itself does not change at issue. So do VDIV.F and VSQRT.F, landing 12 cycles later, where the
divider's last issue lies 12 cycles or more back. Which flags VMIN, VMAX, VABS, VNEG and VCLMP raise for an immediate operand is the model's choice (log entry 62), and so is the exact zero
that a product of zeros gives the complex and boxed sums (log entry 60). -/
def Obligations.LaneWordsLandTheirValues : Prop :=
  (∀ i s h d lat ok f, laneWord i s.vs (Slot.of (s.vs.entry h.slot)) = some (h, d, lat, ok, f) → VecReady s none h.slot h.pop 1 → ok = true →
    let m := s.vs.mask h.guard
    ∃ t, exec i s = .next t ∧ VecIssued s t h.pop 1 ∧ VecNext s t ∧
      LandsOne s t h lat (s.vs.dest d) m (fun l => BitVec.ofNat 32 (f l).1) (flagsOf m fun l => (f l).2)) ∧
  ∀ i s h d f, dividerWord i s.vs (Slot.of (s.vs.entry h.slot)) = some (h, d, f) → VecReady s none h.slot h.pop 1 → isFloat (Slot.of (s.vs.entry h.slot)).fmt = true →
    (∀ c, s.vs.lastDiv = some c → c + 12 ≤ s.vs.cycle) →
    let m := s.vs.mask h.guard
    ∃ t, exec i s = .next t ∧ VecIssued s t h.pop 1 ∧ VecNext s t ∧ t.vs.lastDiv = some s.vs.cycle ∧
      LandsOne s t h 12 (s.vs.dest d) m (fun l => BitVec.ofNat 32 (f l).1) (flagsOf m fun l => (f l).2)


/-- 06 R130, 03 R48, R74, 10 R244 to R246: a word whose slot entry is reserved or of the wrong class stops the stream with cause 0x07 and puts nothing in flight, and an illegal word stops it
with 0x01. A stopped stream keeps its landings, its cycle and its word, its frame names them and the cause, and its pushing context owes a trap of source 2 with that cause and cycle, unless a word
of the matrix stream in that cycle may still stop too (log entry 73). Also 06 R128: a divider word within 12 cycles of another stops the stream with 0x01. -/
def Obligations.VectorWordsThatStop : Prop :=
  (
    (∀ i s h d lat ok f, laneWord i s.vs (Slot.of (s.vs.entry h.slot)) = some (h, d, lat, ok, f) → s.vs.endsWrong none = false →
      (slotReserved (s.vs.entry h.slot) = true ∨ ok = false) → exec i s = .next (s.vecStop s.focus.core 0x07 true)) ∧
    (∀ s w, exec (.illegalVectorWord w) s = .next (s.vecStop s.focus.core 0x01 true)) ∧
    (∀ s w, ∃ t, exec (.illegalVectorWord w) s = .next t ∧ t.vs.st = .stopped ∧ t.vs.cause = 0x01 ∧ t.vs.cycle = s.vs.cycle ∧ t.vs.pc = s.vs.pc ∧ t.vs.land = s.vs.land) ∧
    (∀ (s : State) core cause, (s.core core).job = none → StreamStops s (s.vecStop core cause true) core cause) ∧
    ∀ (s : State) core cause j, (s.core core).job = some j → (s.ctx j.core j.ctx).st ≠ .frozen → s.pusherThere j = true → j.group = none → (s.core core).trctl.getLsbD 0 = false →
      let t := s.vecStop core cause true
      StreamStops s t core cause ∧ (t.core core).job = some j ∧ (∀ q, t.queue q = s.queue q) ∧ (∀ c, c ≠ core → t.core c = s.core c) ∧
        t.readD (vframeLoc core + 0x41C0) = BitVec.ofNat 64 (s.core core).vs.pc ∧ t.readD (vframeLoc core + 0x41D8) = BitVec.ofNat 64 (s.core core).vs.cycle ∧
        t.readD (vframeLoc core + 0x41E0) = BitVec.ofNat 64 cause ∧
        (0 < cause → cause < 256 → (s.core core).ms.st ≠ .stopped → (t.core core).matBoth = false → t.owedAt core = some (2, cause, (s.core core).vs.cycle))
  ) ∧
    ∀ i s h d f c, dividerWord i s.vs (Slot.of (s.vs.entry h.slot)) = some (h, d, f) → VecReady s none h.slot h.pop 1 → isFloat (Slot.of (s.vs.entry h.slot)).fmt = true →
      s.vs.lastDiv = some c → s.vs.cycle < c + 12 → exec i s = .next (s.vecStop s.focus.core 0x01 true)

/-- 06 R137 to R139, 07 R178: a compare puts the bits of its active lanes in flight to a predicate, its inactive lanes kept; VSEL writes every lane with one of two operands by the
selector; VNMS puts in flight the ranks that are active and that no kept rank before them suppresses. Which flags VNMS raises (log entry 56) and those of reading an immediate
operand (log entry 62) are the model's choice. -/
def Obligations.ComparesAndSelects : Prop :=
  (∀ s h pd rel a b, let sl := Slot.of (s.vs.entry h.slot)
    let m := s.vs.mask h.guard
    VecReady s none h.slot h.pop 1 →
      (isFloat sl.fmt = true → ∃ t w, exec (.vcmpF h pd rel a b) s = .next t ∧ VecIssued s t h.pop 1 ∧ VecNext s t ∧
        LandsWord s t h 1 (.pred pd) m w (flagsOf m fun l => (relFp rel (s.vs.fp sl a l) (s.vs.fp sl b l)).2 ||| immFlag sl a ||| immFlag sl b) ∧
        ∀ l, l < 64 → w.getLsbD l = (m.getLsbD l && (relFp rel (s.vs.fp sl a l) (s.vs.fp sl b l)).1)) ∧
      (isInteger sl.fmt = true → ∃ t w, exec (.vcmpI h pd rel a b) s = .next t ∧ VecIssued s t h.pop 1 ∧ VecNext s t ∧ LandsWord s t h 1 (.pred pd) m w 0 ∧
        ∀ l, l < 64 → w.getLsbD l = (m.getLsbD l && relInt sl.fmt rel (s.vs.lane a l) (s.vs.lane b l)))) ∧
  (∀ s h d a b, VecReady s none h.slot h.pop 1 →
    ∃ t, exec (.vsel h d a b) s = .next t ∧ VecIssued s t h.pop 1 ∧ VecNext s t ∧
      LandsOne s t h 1 (s.vs.dest d) (BitVec.allOnes 64)
        (fun l => BitVec.ofNat 32 (if (s.vs.mask h.guard).getLsbD l then s.vs.lane a l else s.vs.lane b l)) 0) ∧
  ∀ s h pd dir i st r off b, let sl := Slot.of (s.vs.entry h.slot)
    let m := s.vs.mask h.guard
    let cell (j l : Nat) : Nat := s.vs.cell (gridKey dir ((s.vs.lineOf i st r + j) % 64) off l)
    let thr := fpVal sl.fmt sl.flush (s.vs.laneF sl b 0)
    VecReady s none h.slot h.pop 1 → isFloat sl.fmt = true →
    ∃ t w, exec (.vnms h pd (.grid dir i st r off) b) s = .next t ∧ VecIssued s t h.pop 1 ∧ VecNext s t ∧
      LandsWord s t h 12 (.pred pd) (BitVec.allOnes 64) w (if m = 0 then 0 else nmsFlags sl cell thr w ||| immFlag sl b) ∧
      ∀ l, l < 64 → w.getLsbD l = (m.getLsbD l && !(List.range l).any fun j => w.getLsbD j && nmsOver sl cell thr j l)

/-- 06 R140 to R144, 02 R20, R34: VCVT converts each active lane, VPACK packs the converted lanes into an image of the lanes that the format fills, VUNPK converts the codes of an image; a
word whose slots do not fit stops the stream with 0x07, as does a digit that has no value where the source slot's badtrap is set: VCVT and VPACK at issue, VUNPK at its landing. -/
def Obligations.ConversionsLand : Prop :=
  (∀ s h d a src, VecReady s none h.slot h.pop 1 → let sa := Slot.of (s.vs.entry src)
    let sl := Slot.of (s.vs.entry h.slot)
    let stops (i : Instr) : Prop := exec i s = .next (s.vecStop s.focus.core 0x07 true)
    (slotReserved (s.vs.entry src) = true ∨ convertible sa sl false false = false → stops (.vcvt h d a src)) ∧
    (slotReserved (s.vs.entry src) = true ∨ convertible sa sl false true = false → stops (.vpack h d a src)) ∧
    (slotReserved (s.vs.entry src) = true ∨ convertible sa sl true false = false → stops (.vunpk h d a src))) ∧
  ∀ s h d a src, let sa := Slot.of (s.vs.entry src)
    let sl := Slot.of (s.vs.entry h.slot)
    let m := s.vs.mask h.guard
    let conv (l : Nat) : Nat × Nat := let x := readElem sa (s.vs.lane a l); ((convertElem sl x.1).1, x.2 ||| (convertElem sl x.1).2)
    VecReady s none h.slot h.pop 1 → slotReserved (s.vs.entry src) = false →
      (convertible sa sl false false = true → (∀ l, l < 64 → m.getLsbD l = true → badDigit sa (s.vs.lane a l) = false) →
        ∃ t, exec (.vcvt h d a src) s = .next t ∧ VecIssued s t h.pop 1 ∧ VecNext s t ∧
          LandsOne s t h 2 (s.vs.dest d) m (fun l => BitVec.ofNat 32 (conv l).1) (flagsOf m fun l => (conv l).2)) ∧
      (∀ l, convertible sa sl false false = true → l < 64 → m.getLsbD l = true → badDigit sa (s.vs.lane a l) = true →
        exec (.vcvt h d a src) s = .next (s.vecStop s.focus.core 0x07 true)) ∧
      (convertible sa sl false true = true → (∀ l, l < 64 → m.getLsbD l = true → badDigit sa (s.vs.lane a l) = false) →
        ∃ t, exec (.vpack h d a src) s = .next t ∧ VecIssued s t h.pop 1 ∧ VecNext s t ∧
          LandsOne s t h 2 (s.vs.dest d) (BitVec.ofNat 64 (2 ^ packedLanes sl.fmt - 1))
            (fun l => BitVec.ofNat 32 ((packImage sl.fmt ((List.range 64).map (packCode s.vs sa sl m a))).getD l 0)) (flagsOf m fun l => (conv l).2)) ∧
      (∀ l, convertible sa sl false true = true → l < 64 → m.getLsbD l = true → badDigit sa (s.vs.lane a l) = true →
        exec (.vpack h d a src) s = .next (s.vecStop s.focus.core 0x07 true)) ∧
      (convertible sa sl true false = true → m = 0 ∨ sa.badtrap = false ∨ (∀ l, l < 64 → (imageCode sa.fmt (unpackImage s.vs sa a) l).isSome) →
        ∃ t, exec (.vunpk h d a src) s = .next t ∧ VecIssued s t h.pop 1 ∧ VecNext s t ∧
          LandsOne s t h 2 (s.vs.dest d) m (fun l => BitVec.ofNat 32 (convertElem sl (unpacked s.vs sa a l).1).1)
            (flagsOf m fun l => (unpacked s.vs sa a l).2 ||| (convertElem sl (unpacked s.vs sa a l).1).2)) ∧
      (∀ l, convertible sa sl true false = true → m ≠ 0 → sa.badtrap = true → l < 64 → imageCode sa.fmt (unpackImage s.vs sa a) l = none →
        ∃ t r, exec (.vunpk h d a src) s = .next t ∧ VecIssued s t h.pop 1 ∧ VecNext s t ∧ t.vs.land = s.vs.land ++ [r] ∧ r.due = s.vs.cycle + 2 ∧
          r.kind = .stop 0x07 ∧ r.push = h.push)

/-- 06 R147 to R149, 07 R177, 02 R45: the reductions put one scalar in flight: VPOPC the count of its active lanes that are not zero, VREDS the sum of the active lanes in the tree of
02 R45, inactive lanes entering as minus zero or 0, VREDM the value or the index of the best active lane. VTOPK puts its destination row and the row after in flight as one result, the
64 best of what stands there and its active lanes, and stops with 0x01 where there is no row after; that it does neither where no lane is active is the model's reading
(log entry 82). -/
def Obligations.ReductionsLand : Prop :=
  ∀ s h, let sl := Slot.of (s.vs.entry h.slot)
    let m := s.vs.mask h.guard
    VecReady s none h.slot h.pop 1 →
      (∀ sd a, ∃ t, exec (.vpopc h sd a) s = .next t ∧ VecIssued s t h.pop 1 ∧ VecNext s t ∧
        LandsWord s t h 2 (.scalar sd) m (BitVec.ofNat 64 ((List.range 64).filter fun l => m.getLsbD l && decide (s.vs.lane a l ≠ 0)).length) 0) ∧
      ((isFloat sl.fmt || isInteger sl.fmt) = true →
        (∀ sd a, let term (l : Nat) : Nat := if m.getLsbD l then s.vs.lane a l else if isFloat sl.fmt then 2 ^ magBits sl.fmt else 0
          ∃ t, exec (.vreds h sd a) s = .next t ∧ VecIssued s t h.pop 1 ∧ VecNext s t ∧
            LandsWord s t h (if isFloat sl.fmt then 24 else 6) (.scalar sd) m (scalarOf sl.fmt (treeSum (reduceAdd sl) 6 term))
              (if m = 0 then 0 else treeFlags (reduceAdd sl) 6 term)) ∧
        (∀ sd a mode, ∃ t w, exec (.vredm h sd a mode) s = .next t ∧ VecIssued s t h.pop 1 ∧ VecNext s t ∧ RedmResult s.vs sl m a mode w ∧
          LandsWord s t h 6 (.scalar sd) m w (if isFloat sl.fmt then flagsOf m fun l => (fpVal sl.fmt sl.flush (s.vs.lane a l)).sigFlag else 0)) ∧
        ∀ dir i st r off a b, let k := s.vs.lineOf i st r
          let old := (List.range 64).map fun p => (s.vs.cell (gridKey dir k off p), s.vs.cell (gridKey dir (k + 1) off p), p)
          let new := ((List.range 64).filter fun l => m.getLsbD l).map fun l => (s.vs.lane a l, s.vs.lane b l, 64 + l)
          (m = 0 → ∃ t x, exec (.vtopk h (.grid dir i st r off) a b) s = .next t ∧ VecIssued s t h.pop 1 ∧ VecNext s t ∧ t.vs.land = s.vs.land ++ [x] ∧
            x.due = s.vs.cycle + 8 ∧ x.kind = .result ∧ x.dest = .grid dir k off ∧ x.lanes = 0 ∧ x.second = [] ∧ x.push = h.push ∧ x.flags = 0) ∧
          (m ≠ 0 → k ≠ 63 → ∃ t x, exec (.vtopk h (.grid dir i st r off) a b) s = .next t ∧ VecIssued s t h.pop 1 ∧ VecNext s t ∧ t.vs.land = s.vs.land ++ [x] ∧
            x.due = s.vs.cycle + 8 ∧ x.kind = .result ∧ x.dest = .grid dir k off ∧ x.lanes = BitVec.allOnes 64 ∧ x.push = h.push ∧
            x.values = (topRows sl (old ++ new)).1.map (BitVec.ofNat 32) ∧ x.second = (topRows sl (old ++ new)).2.map (BitVec.ofNat 32) ∧
            x.flags = sigFlags sl ((old ++ new).map (·.1))) ∧
          (m ≠ 0 → k = 63 → exec (.vtopk h (.grid dir i st r off) a b) s = .next (s.vecStop s.focus.core 0x01 true)))

/-- 07 R161: a scalar word puts its sum, or the value moved, in flight for its register at the next cycle, whatever its guard. -/
def Obligations.ScalarWordsLand : Prop :=
  ∀ i s h sd w, scalarOp i s.vs = some (h, sd, w) → VecReady s none h.slot h.pop 1 →
    ∃ t, exec i s = .next t ∧ VecIssued s t h.pop 1 ∧ VecNext s t ∧ LandsWord s t h 1 (.scalar sd) (s.vs.mask h.guard) w 0

namespace Sys2Proof.Spec

/-- Header, destination, whether the latency always takes the slack, and lane addresses of a vector load: 07 R155, R156. -/
def vecLoadOf (i : Instr) (v : VStream) : Option (VHdr × VOp × Bool × (Nat → Nat)) :=
  match i with
  | .vld h d a => some (h, d, false, v.addr a)
  | .vgath h d a b => some (h, d, true, v.gatherAddr a b)
  | _ => none

/-- Header, source and lane addresses of a vector store: 07 R155, R156. -/
def vecStoreOf (i : Instr) (v : VStream) : Option (VHdr × VOp × (Nat → Nat)) :=
  match i with
  | .vst h d a => some (h, a, v.addr d)
  | .vscat h d a b => some (h, a, v.gatherAddr d b)
  | _ => none

/-- The active lanes' addresses pass every check that stops the stream: 07 R152, R158. -/
structure LanesFine (s : State) (j : Job) (m : Word) (addr : Nat → Nat) (store : Bool) : Prop where
  aligned : ∀ l, l ∈ lanesOf m → addr l % 4 = 0
  allowed : j.priv = true ∨ ∀ l, l ∈ lanesOf m → inSystemArea (addr l) = false
  inside : (s.ctx j.core j.ctx).sporen = false ∨ ∀ l, l ∈ lanesOf m → addr l < 2 ^ 33 + 2 ^ 22
  declared : j.checked = true → ∀ l x, l ∈ lanesOf m → place s.focus.core (addr l) = .sram x → localLoc s.focus.core x = true → j.declares (x % 2 ^ 22 / 64) store = true

/-- What a word that puts no result in flight leaves there: its tokens, at the next cycle. -/
def pushes (s : State) (push nq : Nat) : List Landing := if push = 0 ∨ nq = 0 then [] else [tokenLanding (s.vs.cycle + 1) push nq]

/-- A flow word that only goes on: 07 R170. -/
structure VecPasses (s t : State) (pop push np nq : Nat) : Prop extends VecIssued s t pop np where
  next : VecNext s t
  land : t.vs.land = s.vs.land ++ pushes s push nq

/-- A branch is taken: the word at the offset from its own is next, running loops that it leaves end, and nothing else changes: 07 R165, R166. -/
structure VecBranches (s t : State) (pop push off : Nat) : Prop extends VecIssued s t pop 1 where
  pc : t.vs.pc = wordIndex (s.vs.pc + sextNat 16 off)
  loops : t.vs.l0 = s.vs.l0.leave (s.vs.pc + sextNat 16 off) ∧ t.vs.l1 = s.vs.l1.leave (s.vs.pc + sextNat 16 off)
  p : t.vs.p = s.vs.p
  land : t.vs.land = s.vs.land ++ pushes s push 1

/-- The checks on lane addresses stop the stream, in their order: a misaligned address, the system area for an unprivileged job, an address out of range where the pushing context
traps on it, and a line of the slice that a checked job does not declare: 07 R152, R158. -/
structure LaneStops (i : Instr) (s : State) (j : Job) (m : Word) (addr : Nat → Nat) (store : Bool) : Prop where
  misaligned : (∃ l ∈ lanesOf m, addr l % 4 ≠ 0) → exec i s = .next (s.vecStop s.focus.core 0x03 true)
  system : (∀ l ∈ lanesOf m, addr l % 4 = 0) → j.priv = false → (∃ l ∈ lanesOf m, inSystemArea (addr l) = true) → exec i s = .next (s.vecStop s.focus.core 0x02 true)
  outside : (∀ l ∈ lanesOf m, addr l % 4 = 0) → (j.priv = true ∨ ∀ l ∈ lanesOf m, inSystemArea (addr l) = false) → (s.ctx j.core j.ctx).sporen = true →
    ∀ a rest, ((lanesOf m).map addr).filter (fun a => decide (2 ^ 33 + 2 ^ 22 ≤ a)) = a :: rest → exec i s = .next ((s.recordSpor j.core j.ctx a).vecStop s.focus.core 0x11 true)
  undeclared : (∀ l ∈ lanesOf m, addr l % 4 = 0) → (j.priv = true ∨ ∀ l ∈ lanesOf m, inSystemArea (addr l) = false) →
    ((s.ctx j.core j.ctx).sporen = false ∨ ∀ l ∈ lanesOf m, addr l < 2 ^ 33 + 2 ^ 22) → j.checked = true →
    (∃ l ∈ lanesOf m, ∃ x, place s.focus.core (addr l) = .sram x ∧ localLoc s.focus.core x = true ∧ j.declares (x % 2 ^ 22 / 64) store = false) →
      exec i s = .next (s.vecStop s.focus.core 0x08 true)

end Sys2Proof.Spec


/-- 07 R152, R153, R155, R156, R158: a load whose addresses pass puts the bytes of its active lanes in flight, eight cycles on, and the slack more where it gathers or reaches another slice;
a lane out of range reads zero. Each failed check stops the stream with its cause and puts nothing in flight. Also 07 R153, R155, R156: a store whose addresses pass performs at issue; of the lanes that name one address the highest remains, a lane out of range stores nothing, and no other byte of
memory changes; each failed check stops the stream as a load's does and stores nothing. -/
def Obligations.VectorMemoryWords : Prop :=
  (
    ∀ i s h d gather addr j, vecLoadOf i s.vs = some (h, d, gather, addr) → VecReady s none h.slot h.pop 1 → s.here.job = some j →
      let m := s.vs.mask h.guard
      let core := s.focus.core
      (LanesFine s j m addr false → ∃ t r, exec i s = .next t ∧ VecGoes s t h.pop 1 ∧ VecNext s t ∧ t.vs.land = s.vs.land ++ [r] ∧ r.kind = .load ∧ r.dest = s.vs.dest d ∧ r.lanes = m ∧
        r.push = h.push ∧ r.due = s.vs.cycle + 8 + (if gather = true ∨ ∃ l ∈ lanesOf m, laneRemote core (addr l) = true then j.slack else 0) ∧
        (∀ l, l < 64 → m.getLsbD l = true → r.values.getD l 0 = match laneLoc core (addr l) with | some x => BitVec.ofNat 32 (s.read x 4) | none => 0) ∧
        (s.here.trctl.getLsbD 0 = false → SameMemory s t)) ∧
      LaneStops i s j m addr false
  ) ∧ (
    ∀ i s h a addr j, vecStoreOf i s.vs = some (h, a, addr) → VecReady s none h.slot h.pop 1 → s.here.job = some j → s.here.trctl.getLsbD 0 = false →
      (∀ n, (s.ctx j.core j.ctx).log.blocks n = false) →
      let m := s.vs.mask h.guard
      let core := s.focus.core
      (LanesFine s j m addr true → ∃ t, exec i s = .next t ∧ VecGoes s t h.pop 1 ∧ VecNext s t ∧ t.vs.land = s.vs.land ++ pushes s h.push 1 ∧
        (∀ l x, l ∈ lanesOf m → laneLoc core (addr l) = some x → (∀ l', l' ∈ lanesOf m → l < l' → laneLoc core (addr l') ≠ some x) → Holds t x 4 (s.vs.lane a l % 2 ^ 32)) ∧
        ∀ b, (∀ l x, l ∈ lanesOf m → laneLoc core (addr l) = some x → ¬(x ≤ b ∧ b < x + 4)) → t.byte b = s.byte b) ∧
      LaneStops i s j m addr true
  )

/-- 07 R159: VACLD samples the accumulator elements that its lanes name and lands them six cycles on; VACZ puts zeros in flight for them; an element outside the tile stops the stream
with 0x01. -/
def Obligations.AccumulatorWordsLand : Prop :=
  ∀ s h d f, VecReady s none h.slot h.pop 1 →
    let m := s.vs.mask h.guard
    let inside := ∀ l, l ∈ lanesOf m → 0 ≤ s.vs.accElem f l ∧ s.vs.accElem f l < 131072
    (inside → (∀ l, l ∈ lanesOf m → Tbl.get false s.here.accPoison (accKey f.tile (s.vs.accElem f l) / 16) = false) →
      ∃ t, exec (.vacld h d f) s = .next t ∧ VecIssued s t h.pop 1 ∧ VecNext s t ∧
        LandsOne s t h 6 (s.vs.dest d) m (fun l => Tbl.get 0 s.here.acc (accKey f.tile (s.vs.accElem f l))) 0) ∧
    (inside → ∃ t, exec (.vacz h f) s = .next t ∧ VecIssued s t h.pop 1 ∧ VecNext s t ∧
        LandsOne s t h 6 (.accum f.tile) m (fun l => BitVec.ofNat 32 (s.vs.accElem f l).toNat) 0) ∧
    (¬inside → exec (.vacld h d f) s = .next (s.vecStop s.focus.core 0x01 true) ∧ exec (.vacz h f) s = .next (s.vecStop s.focus.core 0x01 true))

/-- 07 R163, R164, R168: VLOOP starts a loop that may run there, or skips its body at a count of zero, and stops the stream with 0x01 otherwise; VLBR backs its rotating loop up, shifts p8 to
p15 and turns the rotation; a VLBR that ends no such loop stops the stream. Where L1 ends at a VLBR that names L0, L1 is settled first, and L0 turns only once L1 has ended there (log 65). -/
def Obligations.VectorLoopsTurn : Prop :=
  (∀ s slot pop push loop rot drain count off, (loop = 0 ∨ loop = 1) → VecReady s none slot pop 1 →
    let n := s.vs.count count
    let named := if loop = 0 then s.vs.l0 else s.vs.l1
    let fits : Prop := named.running = false ∧ (loop = 0 → s.vs.l1.running = false) ∧ (loop = 1 → s.vs.l0.running = true → s.vs.pc + off ≤ s.vs.l0.stop)
    let made : HwLoop := { start := s.vs.pc + 1, stop := s.vs.pc + off, remaining := if n = 0 then 0 else n + drain, drain := drain, rot := rot, index := 0 }
    (fits → ∃ t, exec (.vloop slot pop push loop rot drain count off) s = .next t ∧ VecIssued s t pop 1 ∧ t.vs.land = s.vs.land ++ pushes s push 1 ∧
      t.vs.pc = (if n = 0 then s.vs.pc + off + 1 else s.vs.pc + 1) ∧
      t.vs.l0 = (if loop = 0 then made else s.vs.l0) ∧ t.vs.l1 = (if loop = 0 then s.vs.l1 else made) ∧
      t.vs.rotBase = (if rot then 0 else s.vs.rotBase) ∧
      ∀ q, 1 ≤ q → q < 16 → t.vs.getP q =
        if rot = true ∧ 8 ≤ q then (if q = 8 ∧ n ≠ 0 then BitVec.allOnes 64 else 0) else s.vs.getP q) ∧
    (¬fits → exec (.vloop slot pop push loop rot drain count off) s = .next (s.vecStop s.focus.core 0x01 true))) ∧
  ∀ s slot pop push loop, (loop = 0 ∨ loop = 1) → VecReady s (some loop) slot pop 1 →
    let l := if loop = 0 then s.vs.l0 else s.vs.l1
    let ends : Prop := l.running = true ∧ l.rot = true ∧ l.stop = s.vs.pc
    let inner : Prop := loop = 0 ∧ s.vs.l1.running = true ∧ s.vs.l1.stop = s.vs.pc
    (ends → inner → 1 < s.vs.l1.remaining → ∃ t, exec (.vlbr slot pop push loop) s = .next t ∧ VecIssued s t pop 1 ∧ t.vs.land = s.vs.land ++ pushes s push 1 ∧
      t.vs.pc = s.vs.l1.start ∧ t.vs.l0 = s.vs.l0 ∧ t.vs.l1 = { s.vs.l1 with remaining := s.vs.l1.remaining - 1, index := s.vs.l1.index + 1 } ∧
      t.vs.rotBase = s.vs.rotBase ∧ ∀ q, t.vs.getP q = s.vs.getP q) ∧
    (ends → (inner → s.vs.l1.remaining = 1) → ∃ t, exec (.vlbr slot pop push loop) s = .next t ∧ VecIssued s t pop 1 ∧ t.vs.land = s.vs.land ++ pushes s push 1 ∧
      t.vs.rotBase = (s.vs.rotBase + 63) % 64 ∧
      (1 < l.remaining → t.vs.pc = l.start ∧ (if loop = 0 then t.vs.l0 else t.vs.l1) = { l with remaining := l.remaining - 1, index := l.index + 1 }) ∧
      (l.remaining = 1 → (if loop = 0 then t.vs.l0 else t.vs.l1).remaining = 0 ∧ (loop = 0 → t.vs.pc = l.stop + 1)) ∧
      t.vs.getP 8 = (if l.drain + 1 < l.remaining then BitVec.allOnes 64 else 0) ∧ (∀ q, 9 ≤ q → q < 16 → t.vs.getP q = s.vs.getP (q - 1)) ∧
      ∀ q, q < 8 → t.vs.getP q = s.vs.getP q) ∧
    (¬ends → exec (.vlbr slot pop push loop) s = .next (s.vecStop s.focus.core 0x01 true))

/-- 07 R165, R166, R170, R172 to R174: branches go to their targets; VTOK, VNOP and a satisfied VWAIT only go on, and an unsatisfied VWAIT freezes; VSIG sets its bits at the next cycle;
VSTOP issues as the last word; VFMT selects a row, or lands one eight cycles on. -/
def Obligations.VectorFlowWords : Prop :=
  (∀ s slot pop push g all off, VecReady s none slot pop 1 →
    let taken : Prop := if all then s.vs.mask g = BitVec.allOnes 64 else s.vs.mask g ≠ 0
    (taken → ∃ t, exec (.vbr slot pop push g all off) s = .next t ∧ VecBranches s t pop push off) ∧
    (¬taken → ∃ t, exec (.vbr slot pop push g all off) s = .next t ∧ VecPasses s t pop push 1 1)) ∧
  (∀ s slot pop push off, VecReady s none slot pop 1 → ∃ t, exec (.vj slot pop push off) s = .next t ∧ VecBranches s t pop push off) ∧
  (∀ s h np nq, VecReady s none h.slot h.pop np → ∃ t, exec (.vtok h np nq) s = .next t ∧ VecPasses s t h.pop h.push np nq) ∧
  (∀ s h, VecReady s none h.slot h.pop 1 → ∃ t, exec (.vnop h) s = .next t ∧ VecPasses s t h.pop h.push 1 1) ∧
  (∀ s slot pop push a, VecReady s none slot pop 1 →
    (s.here.evw.toNat &&& s.vs.count a = s.vs.count a → ∃ t, exec (.vwait slot pop push a) s = .next t ∧ VecPasses s t pop push 1 1) ∧
    (s.here.evw.toNat &&& s.vs.count a ≠ s.vs.count a → exec (.vwait slot pop push a) s = .next (s.modVs fun v => { v with frozen := true }))) ∧
  (∀ s slot pop push a, VecReady s none slot pop 1 → s.vs.count a ≠ 0 →
    ∃ t r, exec (.vsig slot pop push a) s = .next t ∧ VecGoes s t pop 1 ∧ VecNext s t ∧ t.vs.land = s.vs.land ++ [r] ∧ r.due = s.vs.cycle + 1 ∧ r.kind = .result ∧ r.dest = .event ∧
      r.values = [BitVec.ofNat 32 (s.vs.count a)] ∧ r.push = push) ∧
  (∀ s slot pop push, VecReady s none slot pop 1 →
    ∃ t, exec (.vstop slot pop push) s = .next t ∧ VecIssued s t pop 1 ∧ t.vs.stopIssued = true ∧ t.vs.pc = s.vs.pc ∧ t.vs.land = s.vs.land ++ pushes s push 1) ∧
  (∀ s slot pop push loop base, VecReady s none slot pop 1 →
    ∃ t, exec (.vfmtSelect slot pop push loop base) s = .next t ∧ VecIssued s t pop 1 ∧ t.vs.fmtRow = base ∧ t.vs.fmtLoop = loop ∧
      (t.vs.pc, t.vs.l0, t.vs.l1) = settleLoops s.vs.pc s.vs.l0 s.vs.l1 ∧ t.vs.land = s.vs.land ++ pushes s push 1) ∧
  ∀ s slot pop push row sn j, VecReady s none slot pop 1 → s.here.job = some j → (s.vs.getS sn).toNat % 32 = 0 →
    LanesFine s j 0xFF (fun i => ((s.vs.getS sn).toNat + 4 * i) % 2 ^ 64) false →
    ∃ t r, exec (.vfmtLoad slot pop push row sn) s = .next t ∧ VecGoes s t pop 1 ∧ VecNext s t ∧ t.vs.land = s.vs.land ++ [r] ∧ r.due = s.vs.cycle + 8 ∧ r.dest = .fmtRow row ∧ r.push = push ∧
      let at' (i : Nat) : Nat := ((s.vs.getS sn).toNat + 4 * i) % 2 ^ 64
      (∀ i, i < 8 → s.lanePoison s.focus.core (at' i) = false) → r.kind = .result ∧ ∀ i, i < 8 → r.values.getD i 0 = s.laneRead s.focus.core (at' i)

/-- 07 R171: the n-th VRDV goes on once the matrix stream has met its n-th rendezvous and lands n; while that can still come the stream freezes, and after that stream's end it lands all ones.
07 R175: VKAC goes on where the lanes' fold is the word's constant; else its stop, with cause 0x0A and the core's fence, lands at the next cycle. That the n-th rendezvous of one stream meets the n-th
of the other is the model's reading (log entry 34), and that VRDV's count lands at the next cycle its choice (log entry 84). -/
def Obligations.MeetingsAndSoundings : Prop :=
  (∀ s slot pop push sd, VecReady s none slot pop 1 →
    let n := if s.vs.atRdv then s.vs.rdv else s.vs.rdv + 1
    let h : VHdr := { guard := { p := 0, neg := false }, slot := slot, pop := pop, push := push }
    (n ≤ s.here.ms.rdv → ∃ t, exec (.vrdv slot pop push sd) s = .next t ∧ VecIssued s t pop 1 ∧ VecNext s t ∧ t.vs.rdv = n ∧
      LandsWord s t h 1 (.scalar sd) (BitVec.allOnes 64) (BitVec.ofNat 64 n) 0 ∧ (s.here.ms.atRdv = true → t.ms.frozen = false)) ∧
    (s.here.ms.rdv < n → s.here.matrixMeets = true →
      exec (.vrdv slot pop push sd) s = .next (s.modVs fun v => { v with rdv := n, atRdv := true, frozen := true })) ∧
    (s.here.ms.rdv < n → s.here.matrixMeets = false → ∃ t, exec (.vrdv slot pop push sd) s = .next t ∧ VecIssued s t pop 1 ∧ VecNext s t ∧ t.vs.rdv = n - 1 ∧
      LandsWord s t h 1 (.scalar sd) (BitVec.allOnes 64) (BitVec.allOnes 64) 0)) ∧
  ∀ s h a const, VecReady s none h.slot h.pop 1 →
    let f := (lanesOf (s.vs.mask h.guard)).foldl (fun f l => f ^^^ s.vs.lane a l) 0
    let k := (f % 2 ^ 22) ^^^ (f / 2 ^ 22)
    (k = const → ∃ t, exec (.vkac h a const) s = .next t ∧ VecPasses s t h.pop h.push 1 1) ∧
    (k ≠ const → ∃ t r, exec (.vkac h a const) s = .next t ∧ VecIssued s t h.pop 1 ∧ VecNext s t ∧ t.vs.land = s.vs.land ++ [r] ∧ r.due = s.vs.cycle + 1 ∧ r.kind = .stop 0x0A ∧ r.fence = true)

/-- 06 R124, R126, 07 R169: a result that is due for a grid line writes its active lanes and no other element of the grid, raises its flags and pushes its token; no byte of memory changes.
07 R173: a stream whose stop word has issued ends once nothing is in flight. -/
def Obligations.LandingsAndStreamEnd : Prop :=
  (∀ s core r d i off, (s.core core).vs.st = .running → (s.core core).vs.land = [r] → r.kind = .result → r.dest = .grid d i off → r.second = [] → r.due ≤ (s.core core).vs.cycle →
    s.vecHeld core = false → (s.core core).matrixBehind = false →
    r.flags % 32 &&& (((s.core core).vfst.toNat ||| r.flags) / 2 ^ 10) = 0 → (r.push = 0 ∨ (s.core core).token r.push < 15) →
    ∃ t, exec (.vectorLanding core) s = .next t ∧ (t.core core).vs.land = [] ∧ (t.core core).vs.frozen = false ∧ (t.core core).vs.cycle = (s.core core).vs.cycle ∧
      (∀ l, l < 64 → r.lanes.getLsbD l = true → Tbl.get 0 (t.core core).vs.grid (gridKey d i off l) = r.values.getD l 0) ∧
      (∀ n, (∀ l, l < 64 → r.lanes.getLsbD l = true → gridKey d i off l ≠ n) → Tbl.get 0 (t.core core).vs.grid n = Tbl.get 0 (s.core core).vs.grid n) ∧
       (t.core core).vfst = (s.core core).vfst ||| BitVec.ofNat 32 r.flags ∧
      (∀ q, (t.core core).token q = if q = r.push ∧ r.push ≠ 0 then (s.core core).token q + 1 else (s.core core).token q) ∧ SameMemory s t) ∧
  (∀ s core, (s.core core).vs.st = .running → (s.core core).vs.stopIssued = true → (s.core core).vs.land = [] →
    ∃ t, exec (.streamEnd core false) s = .next t ∧ (t.core core).vs.st = .ended ∧ (t.core core).ms = (s.core core).ms ∧ SameMemory s t) ∧
  ∀ s core, (s.core core).ms.st = .running → (s.core core).ms.stopIssued = true → (s.core core).ms.step = none → (s.core core).ms.mldi = [] →
    ∃ t, exec (.streamEnd core true) s = .next t ∧ (t.core core).ms.st = .ended ∧ (t.core core).vs = (s.core core).vs ∧ SameMemory s t

namespace Sys2Proof.Spec

/-! ### The matrix stream (08) -/

/-- A matrix word of the acting core's running stream issues: no stop waits, its slots fit, its token is there and its guard holds (08 R185, R186; 03 R48; 10 R245). -/
structure MatReady (s : State) (h : MHdr) : Prop where
  follows : s.ms.atStop = 0
  tokens : h.pop = 0 ∨ 0 < s.here.token h.pop
  guard : s.ms.pred h.guard = true

/-- What the issue of a matrix word leaves: the step that it put in flight, its token popped, everything else of the two streams as it was but the loops and the next word; with the
trace off no context and no byte of memory changed. -/
structure MatGoes (s t : State) (h : MHdr) (count : Nat) (step : MatStep) : Prop where
  step : t.ms.step = some { step with due := s.ms.cycle + count - 1, push := h.push, word := s.ms.pc }
  st : t.ms.st = s.ms.st ∧ t.ms.cycle = s.ms.cycle ∧ t.ms.frozen = false ∧ t.ms.atStop = 0
  token : ∀ q, t.here.token q = if q = h.pop ∧ h.pop ≠ 0 then s.here.token q - 1 else s.here.token q
  acc : t.here.acc = s.here.acc ∧ t.here.mfst = s.here.mfst ∧ t.here.evw = s.here.evw
  vector : t.vs = s.vs
  kept : t.ms.fmt = s.ms.fmt ∧ t.ms.latch = s.ms.latch ∧ t.ms.snapshot = s.ms.snapshot
  rest : s.here.trctl.getLsbD 0 = false → SameMemory s t ∧ ∀ c n, t.ctx c n = s.ctx c n

/-- The word's successor where it is no branch. -/
def MatNext (s t : State) : Prop := (t.ms.pc, t.ms.l0, t.ms.l1) = settleLoops s.ms.pc s.ms.l0 s.ms.l1

/-- A matrix word that only goes on, in one cycle (08 R187, R207). -/
structure MatPasses (s t : State) (h : MHdr) (step : MatStep) : Prop extends MatGoes s t h 1 step where
  next : MatNext s t
  format : t.ms.fmtRow = s.ms.fmtRow ∧ t.ms.fmtLoop = s.ms.fmtLoop
  mldi : t.ms.mldi = s.ms.mldi

/-- Kind, header and fields of a tile word: 08 R196 to R202. -/
def tileOf : Instr → Option (StepKind × MHdr × MTile)
  | .mma h t => some (.mma, h, t)
  | .mmaS h t => some (.sparse, h, t)
  | .mmaG h t => some (.gather, h, t)
  | .mmaT h t => some (.transposed, h, t)
  | .mwin h t => some (.winograd, h, t)
  | .mconv h t => some (.conv, h, t)
  | _ => none

/-- Step count of a tile word whose class has an h × w array: 08 R187. -/
def r187 (kind : StepKind) (h w kh kw : Nat) (t : MTile) : Nat :=
  let mma := ((t.m + h - 1) / h) * ((t.n + w - 1) / w) * t.k
  match kind with
  | .mma => mma
  | .transposed => mma
  | .sparse => ((t.m + h - 1) / h) * ((t.n + w - 1) / w) * (t.k / 2)
  | .gather => mma + 8
  | .conv => mma * (kh * kw)
  | .winograd => mma * 6

/-- The tile word's operands and the entries of its three slots, as its step reads them. -/
def stepIn (kind : StepKind) (t : MTile) (m : MStream) : StepIn :=
  { kind := kind, t := t, ea := m.entry t.slotA, eb := m.entry t.slotB, ec := m.entry t.slotC, acc := t.acc }

/-- A matrix branch is taken: 07 R165, 08 R206. -/
structure MatBranches (s t : State) (h : MHdr) (off : Nat) : Prop extends MatGoes s t h 1 emptyStep where
  pc : t.ms.pc = wordIndex (s.ms.pc + sextNat 16 off)
  loops : t.ms.l0 = s.ms.l0.leave (s.ms.pc + sextNat 16 off) ∧ t.ms.l1 = s.ms.l1.leave (s.ms.pc + sextNat 16 off)

/-- The code that a place of an operand gives a step: the pad's where it is padded, else its element's (08 R194). -/
def codeAt (s : State) (v : MatEnv) (h : Shape) (pad : Nat) : Elt → Nat
  | .elem e => match s.tensorElem v h e with | .code c => c | _ => 0
  | _ => pad

/-- Every place of an operand is padded or holds an element that can be read: inside the tensor, reached, declared, not poisoned and not reserved (08 R194, R210). -/
def Readables (s : State) (v : MatEnv) (h : Shape) (us : List Elt) : Prop :=
  ∀ u ∈ us, u = .padded ∨ ∃ e c, u = .elem e ∧ s.tensorElem v h e = .code c

/-- The places that a tile word reads through A and B and, where it is sparse, as metadata, from their generators' origins: 08 R193, R198. -/
def placesA (v : MatEnv) (x : StepIn) (pa : Coord) : List Elt :=
  let g := genOf v.snap x.t.genA
  (coordsA x.kind g (pa.add (Coord.e0 x.t.offA)) v.latch x.t).map (locate (v.shape g.tensor) g.padon)
def placesB (v : MatEnv) (x : StepIn) (pb : Coord) : List Elt :=
  let g := genOf v.snap x.t.genB
  (coordsB x.kind (genOf v.snap x.t.genA) g (pb.add (Coord.e0 x.t.offB)) x.t).map (locate (v.shape g.tensor) g.padon)
def placesM (v : MatEnv) (x : StepIn) (pm : Coord) : List Elt :=
  let g := genOf v.snap ((x.t.genA + 1) % 8)
  if x.kind = .sparse then ((List.range x.t.m).flatMap fun (m : Nat) => (List.range (x.t.k / 4)).map fun (q : Nat) =>
    (pm.add (Coord.smul q g.vc)).add (Coord.smul m g.vr)).map (locate (v.shape g.tensor) g.padon) else []

/-- The codes that a tile word reads through A, B and the metadata. -/
def codesA (s : State) (v : MatEnv) (x : StepIn) (pa : Coord) : List Nat :=
  let g := genOf v.snap x.t.genA
  (placesA v x pa).map (codeAt s v (v.shape g.tensor) (padCode (Slot.of x.ea) g.pad))
def codesB (s : State) (v : MatEnv) (x : StepIn) (pb : Coord) : List Nat :=
  let g := genOf v.snap x.t.genB
  (placesB v x pb).map (codeAt s v (v.shape g.tensor) (padCode (Slot.of x.eb) g.pad))
def codesM (s : State) (v : MatEnv) (x : StepIn) (pm : Coord) : List Nat :=
  let g := genOf v.snap ((x.t.genA + 1) % 8)
  (placesM v x pm).map (codeAt s v (v.shape g.tensor) (padCode (Slot.of 6) g.pad))

/-- A tile word executes normally: its fields fit the tile, its formats are those of its tensors, its generators name tensors and may run where the split asks for a member, every element
can be read, and every metadata entry of a 2:4 word names two places in order: 08 R193 to R202, R209, R210, R213. -/
structure TileFine (s : State) (v : MatEnv) (x : StepIn) (cls : PairClass) (hh ww : Nat) (pa pb pm : Coord) : Prop where
  pair : pairClass (Slot.of x.ea).fmt (Slot.of x.eb).fmt = some (cls, hh, ww)
  room : 0 ≤ effOffset v.snap x.t.offset v.idx ∧ effOffset v.snap x.t.offset v.idx + (x.t.m * x.t.n : Nat) ≤ 131072
  depth : x.kind = .sparse → x.t.k % 4 = 0 ∧ hh = 128
  latch : x.kind = .gather → x.t.m ≤ v.latch.length
  window : windowBad x.kind (genOf v.snap x.t.genA) x.t = false
  origins : v.origin x.t.genA x.t.m (decide (x.kind = .gather)) = some pa ∧ v.origin x.t.genB x.t.m (decide (x.kind = .gather)) = some pb ∧
    (x.kind = .sparse → v.origin ((x.t.genA + 1) % 8) x.t.m false = some pm)
  tensors : (genOf v.snap x.t.genA).tensor ≠ 0 ∧ (genOf v.snap x.t.genB).tensor ≠ 0 ∧ (x.kind = .sparse → (genOf v.snap ((x.t.genA + 1) % 8)).tensor ≠ 0)
  formats : (v.shape (genOf v.snap x.t.genA).tensor).format = (Slot.of x.ea).fmt ∧ (v.shape (genOf v.snap x.t.genB).tensor).format = (Slot.of x.eb).fmt ∧
    (x.kind = .sparse → (v.shape (genOf v.snap ((x.t.genA + 1) % 8)).tensor).format = 6)
  readA : Readables s v (v.shape (genOf v.snap x.t.genA).tensor) (placesA v x pa)
  readB : Readables s v (v.shape (genOf v.snap x.t.genB).tensor) (placesB v x pb)
  readM : Readables s v (v.shape (genOf v.snap ((x.t.genA + 1) % 8)).tensor) (placesM v x pm)
  metadata : ∀ c ∈ codesM s v x pm, c % 4 < c / 4 % 4

/-- Whether a tile word absorbs: its absorb bit is set and the summaries of the tiles that its operands cover say that A, or B, is settled zeros: 08 R197. -/
def absorbs (s : State) (v : MatEnv) (x : StepIn) (pa pb : Coord) : Bool :=
  let ga := genOf v.snap x.t.genA
  let gb := genOf v.snap x.t.genB
  let ha := v.shape ga.tensor
  let hb := v.shape gb.tensor
  x.t.absorb && s.settledStep v x ha hb ga gb (coverOf ha (coordsA x.kind ga (pa.add (Coord.e0 x.t.offA)) v.latch x.t))
    (coverOf hb (coordsB x.kind ga gb (pb.add (Coord.e0 x.t.offB)) x.t))

/-- The elements of C that a tile word names. -/
def tileElems (v : MatEnv) (x : StepIn) : List Nat := (List.range (x.t.m * x.t.n)).map fun i => (effOffset v.snap x.t.offset v.idx).toNat + i

/-- What a tile word that reads its operands puts in flight for its last cycle: the converted group sums of each element of the tile: 02 R42, 08 R196 to R202. -/
def tileSums (s : State) (v : MatEnv) (x : StepIn) (cls : PairClass) (pa pb pm : Coord) : StepWrites :=
  let rows := denseRows x.kind (if (Slot.of x.ea).fmt = 7 then 0x10 else 0) (stepDepth x.kind (genOf v.snap x.t.genA) x.t) x.t (codesA s v x pa) (codesM s v x pm)
  let sums := (stepSums cls (Slot.of x.ea) (Slot.of x.eb) (Slot.of x.ec) x.t.n (rows.filterMap id) (codesB s v x pb)).1
  .sums x.acc (decide (cls = .int)) ((tileElems v x).zip (sums.map fun gs => gs.map (BitVec.ofNat 32)))

/-- Whether a gather index comes from elsewhere than the core's own slice (08 R200). -/
def remoteAt (s : State) (v : MatEnv) (h : Shape) : Elt → Bool
  | .elem e => !localLoc v.core (match s.tileAccess v.core h (elementPos 3 e).1 false v.priv with | .loc l _ => l | _ => paddedLoc)
  | _ => false

/-- The fold of a sounding over the elements' sums: 08 R204. -/
def katFold (cls : PairClass) (sa sb sc : Slot) (slotC : Slot) (m n k : Nat) (a : List Nat) : Nat :=
  let b := (List.range k).flatMap fun i => (List.range n).map fun j => if (i + j) % 2 = 0 then (katCodes sb.fmt).1 else (katCodes sb.fmt).2
  (stepSums cls sa sb sc n (rowsOf k m a) b).1.foldl (fun f gs => f ^^^ (gs.foldl (addGroup (decide (cls = .int)) slotC) (0, 0)).1) 0

end Sys2Proof.Spec


/-- 08 R185 to R187, R196 to R202: a tile word whose guard holds, whose fields fit and whose operands can be read puts its step in flight for the count of R187, with the sums of its
elements for its last cycle; the accumulator does not change before that. An absorbing word over settled zeros takes the same count and leaves C where it accumulates, else zeros. A word that met
poison stops the stream at its last cycle. A word guarded off takes one cycle and does nothing; a word whose slots do not fit stops the stream with 0x07; an operand that cannot be read stops it with its cause. Also 08 R203, R200, R204: MZERO puts zeros in flight for its elements; MLDI puts its indices in flight for the latch; MKAT compares its fold with the word's constant at its last cycle, and a
mismatch stops the stream with 0x0A and fences the core. -/
def Obligations.TileWordsStep : Prop :=
  (
    ∀ i s kind h t, tileOf i = some (kind, h, t) → s.ms.atStop = 0 →
      let fits := slotsOk (s.ms.entry t.slotA) (s.ms.entry t.slotB) (s.ms.entry t.slotC)
      let tokens : Prop := h.pop = 0 ∨ 0 < s.here.token h.pop
      let out := s.tileStepOut (s.matEnv s.ms) (stepIn kind t s.ms)
      (∀ cls hh ww pa pb pm, fits = true → tokens → s.ms.pred h.guard = true → TileFine s (s.matEnv s.ms) (stepIn kind t s.ms) cls hh ww pa pb pm →
        ∃ u step, exec i s = .next u ∧ MatNext s u ∧ MatGoes s u h (r187 kind hh ww (genOf s.ms.snapshot t.genA).kh (genOf s.ms.snapshot t.genA).kw t) step ∧
          step.tile = t.tile ∧ step.stop = none ∧ step.fence = false ∧ step.event = 0 ∧
          step.writes = if absorbs s (s.matEnv s.ms) (stepIn kind t s.ms) pa pb then (if t.acc then .nothing else .zeros (tileElems (s.matEnv s.ms) (stepIn kind t s.ms)))
            else tileSums s (s.matEnv s.ms) (stepIn kind t s.ms) cls pa pb pm) ∧
      (∀ count writes slotC flags stop, fits = true → tokens → s.ms.pred h.guard = true → out = .step count writes slotC flags stop →
        (∃ u, exec i s = .next u ∧ MatNext s u ∧
          MatGoes s u h count { emptyStep with tile := t.tile, writes := writes, slotC := BitVec.ofNat 32 slotC, flags := flags, stop := stop }) ∧
        ∃ cls hh ww, pairClass (s.ms.entry t.slotA % 16) (s.ms.entry t.slotB % 16) = some (cls, hh, ww) ∧
          count = r187 kind hh ww (genOf s.ms.snapshot t.genA).kh (genOf s.ms.snapshot t.genA).kw t) ∧
      (∀ count lines, fits = true → tokens → s.ms.pred h.guard = true → out = .poison count lines →
        ∃ u, exec i s = .next u ∧ MatNext s u ∧ MatGoes s u h count { emptyStep with tile := t.tile, stop := some 0x06, bad := lines }) ∧
      (fits = true → tokens → s.ms.pred h.guard = false → ∃ u, exec i s = .next u ∧ MatNext s u ∧ MatGoes s u h 1 emptyStep) ∧
      (fits = false → exec i s = .next (s.matStop s.focus.core 0x07 s.ms.cycle true)) ∧
      (∀ c, fits = true → tokens → s.ms.pred h.guard = true → out = .halt (.stop c) → exec i s = .next (s.matStop s.focus.core c s.ms.cycle true))
  ) ∧ (
    (∀ s h slotC m n tile offset, MatReady s h → zeroSlotOk (s.ms.entry slotC) = true →
      let o := effOffset s.ms.snapshot offset [s.ms.l0.index, s.ms.l1.index]
      (0 ≤ o → o + (m * n : Nat) ≤ 131072 → ∃ t, exec (.mzero h slotC m n tile offset) s = .next t ∧ MatNext s t ∧
        MatGoes s t h ((m * n + 4095) / 4096) { emptyStep with tile := tile, writes := .zeros ((List.range (m * n)).map fun i => o.toNat + i) }) ∧
      ((o < 0 ∨ 131072 < o + (m * n : Nat)) → exec (.mzero h slotC m n tile offset) s = .next (s.matStop s.focus.core 0x01 s.ms.cycle true))) ∧
    (∀ s h gen off count p, MatReady s h →
      let v := s.matEnv s.ms
      let g := genOf s.ms.snapshot gen
      let us := (List.range count).map fun (j : Nat) => locate (v.shape g.tensor) g.padon ((p.add (Coord.e0 off)).add (Coord.smul j g.vc))
      v.origin gen count false = some p → g.tensor ≠ 0 → (v.shape g.tensor).format = 3 → Readables s v (v.shape g.tensor) us →
      ∃ t f, exec (.mldi h gen off count) s = .next t ∧ MatNext s t ∧ MatGoes s t h 1 emptyStep ∧ t.ms.mldi = s.ms.mldi ++ [f] ∧
        f.values = us.map (fun u => BitVec.ofNat 32 (codeAt s v (v.shape g.tensor) (padCode (Slot.of 3) g.pad) u)) ∧ f.poison = false ∧
        f.due = s.ms.cycle + 8 + (if us.any (remoteAt s v (v.shape g.tensor)) then (match s.here.job with | some j => j.slack | none => 0) else 0)) ∧
    ∀ s h slotA slotB slotC m n k gen off const cls hh ww p, MatReady s h →
      slotsOk (s.ms.entry slotA) (s.ms.entry slotB) (s.ms.entry slotC) = true →
      let v := s.matEnv s.ms
      let sa := Slot.of (s.ms.entry slotA)
      let g := genOf s.ms.snapshot gen
      let t0 : MTile := { slotA := slotA, slotB := slotB, slotC := slotC, absorb := false, m := m, n := n, k := k, tile := 0, acc := false, offset := 0
                          genA := gen, offA := off, genB := 0, offB := 0 }
      let us := (coordsA .mma g (p.add (Coord.e0 off)) [] t0).map (locate (v.shape g.tensor) g.padon)
      pairClass sa.fmt (Slot.of (s.ms.entry slotB)).fmt = some (cls, hh, ww) → v.origin gen m false = some p → g.tensor ≠ 0 →
      (v.shape g.tensor).format = sa.fmt → Readables s v (v.shape g.tensor) us →
      let good : Prop := katFold cls sa (Slot.of (s.ms.entry slotB)) (Slot.of (s.ms.entry slotC)) (Slot.of (slotForC cls (s.ms.entry slotC))) m n k
        (us.map (codeAt s v (v.shape g.tensor) (padCode sa g.pad))) = const
      let count := r187 .mma hh ww 0 0 t0
      (good → ∃ t, exec (.mkat h slotA slotB slotC m n k gen off const) s = .next t ∧ MatNext s t ∧ MatGoes s t h count emptyStep) ∧
      (¬good → ∃ t, exec (.mkat h slotA slotB slotC m n k gen off const) s = .next t ∧ MatNext s t ∧ MatGoes s t h count { emptyStep with stop := some 0x0A, fence := true })
  )

/-- 08 R206, R207, 07 R163 to R165, R171: the matrix stream's loops, branches, tokens, rendezvous, format selection, events and stop; each takes one cycle. Where L1 ends at an MLBR that
names L0, L1 is settled first, and an MLBR outside its loop's body backs the loop up all the same (the model's choice, log entry 88); that rendezvous meet by count is log entry 34's reading. A rendezvous that the vector stream waits at lets that stream count again. -/
def Obligations.MatrixFlowWords : Prop :=
  (∀ s h loop count off, (loop = 0 ∨ loop = 1) → MatReady s h →
    let named := if loop = 0 then s.ms.l0 else s.ms.l1
    let fits : Prop := named.running = false ∧ (loop = 0 → s.ms.l1.running = false) ∧ (loop = 1 → s.ms.l0.running = true → s.ms.pc + off ≤ s.ms.l0.stop)
    let made : HwLoop := { start := s.ms.pc + 1, stop := s.ms.pc + off, remaining := count, drain := 0, rot := false, index := 0 }
    (fits → ∃ t, exec (.mloop h loop count off) s = .next t ∧ MatGoes s t h 1 emptyStep ∧ t.ms.pc = (if count = 0 then s.ms.pc + off + 1 else s.ms.pc + 1) ∧
      t.ms.l0 = (if loop = 0 then made else s.ms.l0) ∧ t.ms.l1 = (if loop = 0 then s.ms.l1 else made)) ∧
    (¬fits → exec (.mloop h loop count off) s = .next (s.matStop s.focus.core 0x01 s.ms.cycle true))) ∧
  (∀ s h loop, (loop = 0 ∨ loop = 1) → MatReady s h →
    let l := if loop = 0 then s.ms.l0 else s.ms.l1
    let inner : Prop := loop = 0 ∧ s.ms.l1.running = true ∧ s.ms.l1.stop = s.ms.pc
    (l.running = true → inner → 1 < s.ms.l1.remaining → ∃ t, exec (.mlbr h loop) s = .next t ∧ MatGoes s t h 1 emptyStep ∧ t.ms.pc = s.ms.l1.start ∧ t.ms.l0 = s.ms.l0 ∧
      t.ms.l1 = { s.ms.l1 with remaining := s.ms.l1.remaining - 1, index := s.ms.l1.index + 1 }) ∧
    (1 < l.remaining → (inner → s.ms.l1.remaining = 1) → ∃ t, exec (.mlbr h loop) s = .next t ∧ MatGoes s t h 1 emptyStep ∧ t.ms.pc = l.start ∧
      (if loop = 0 then t.ms.l0 else t.ms.l1) = { l with remaining := l.remaining - 1, index := l.index + 1 }) ∧
    (l.remaining = 1 → (inner → s.ms.l1.remaining = 1) → ∃ t, exec (.mlbr h loop) s = .next t ∧ MatGoes s t h 1 emptyStep ∧
      (if loop = 0 then t.ms.l0 else t.ms.l1) = { l with remaining := 0 } ∧ (loop = 0 → t.ms.pc = l.stop + 1)) ∧
    (l.running = false → exec (.mlbr h loop) s = .next (s.matStop s.focus.core 0x01 s.ms.cycle true))) ∧
  (∀ s h p neg off, MatReady s h →
    (xor (s.ms.pred p) neg = true → ∃ t, exec (.mbr h p neg off) s = .next t ∧ MatBranches s t h off) ∧
    (xor (s.ms.pred p) neg = false → ∃ t, exec (.mbr h p neg off) s = .next t ∧ MatPasses s t h emptyStep)) ∧
  (∀ s h off, MatReady s h → ∃ t, exec (.mj h off) s = .next t ∧ MatBranches s t h off) ∧
  (∀ s h, MatReady s h → ∃ t, exec (.mtok h) s = .next t ∧ MatPasses s t h emptyStep) ∧
  (∀ s h, MatReady s h →
    let n := if s.ms.atRdv then s.ms.rdv else s.ms.rdv + 1
    (n ≤ s.vs.rdv → s.vs.atRdv = false → ∃ t, exec (.mrdv h) s = .next t ∧ MatPasses s t h emptyStep ∧ t.ms.rdv = n) ∧
    (n ≤ s.vs.rdv → s.vs.atRdv = true → ∃ t, exec (.mrdv h) s = .next t ∧ MatNext s t ∧ t.ms.step = some { emptyStep with due := s.ms.cycle, push := h.push, word := s.ms.pc } ∧ t.ms.rdv = n ∧
      t.vs.frozen = false ∧ t.vs.cycle = s.vs.cycle ∧ t.vs.land = s.vs.land ∧ t.vs.grid = s.vs.grid) ∧
    (s.vs.rdv < n → s.here.vectorMeets = true → exec (.mrdv h) s = .next (s.modMs s.focus.core fun m => { m with rdv := n, atRdv := true, frozen := true })) ∧
    (s.vs.rdv < n → s.here.vectorMeets = false → ∃ t, exec (.mrdv h) s = .next t ∧ MatPasses s t h emptyStep)) ∧
  (∀ s h, MatReady s h → ∃ t, exec (.mstop h) s = .next t ∧ MatGoes s t h 1 emptyStep ∧ t.ms.stopIssued = true ∧ t.ms.pc = s.ms.pc) ∧
  (∀ s h loop base, MatReady s h → ∃ t, exec (.mfmt h loop base) s = .next t ∧ MatGoes s t h 1 emptyStep ∧ MatNext s t ∧ t.ms.fmtRow = base ∧ t.ms.fmtLoop = loop) ∧
  ∀ s h mask, MatReady s h → ∃ t, exec (.msig h mask) s = .next t ∧ MatPasses s t h { emptyStep with event := mask }

/-- 08 R186, R196, 02 R42: at a word's last cycle its zeros, or its converted group sums added in order to C or to zero, land in the accumulator, no other element changes, its flags,
events and token are there, and the stream's cycle is the next one. 08 R200: gather indices that are due land in the latch and push a gm token. An illegal word stops the stream with 0x01. 10 R244 to
R246: a stopped matrix stream keeps its word, its latch and C, its frame names its word, stop cycle and cause, and its pushing context owes a trap of source 3 with that cause and cycle, unless a word
of the vector stream in that cycle may still stop too (log entry 73). -/
def Obligations.MatrixWordsEnd : Prop :=
  (∀ s core st, (s.core core).ms.st = .running → (s.core core).ms.step = some st → (s.core core).readsPoison st.tile st.writes = false →
    let k := s.core core
    let w := k.foldWrites st.tile st.slotC.toNat st.writes
    let flags := st.flags ||| w.2
    st.stop = none → st.fence = false → k.ms.atStop = 0 → s.irqStop core = false → k.vectorFirst = false → s.matHeld core = false → k.zeroed = none → (flags &&& ((k.mfst.toNat ||| flags) / 2 ^ 10) &&& 0x1F) = 0 → (st.push = 0 ∨ k.token st.push < 15) →
    ∃ t, exec (.matrixStepLastCycle core) s = .next t ∧ (t.core core).ms = { k.ms with step := none, frozen := false, cycle := st.due + 1, lead := (t.core core).ms.lead, raiser := (st.word, flags) } ∧
      (t.core core).mfst = k.mfst ||| BitVec.ofNat 32 flags ∧ (t.core core).evw = k.evw ||| BitVec.ofNat 32 st.event ∧ (t.core core).vs = k.vs ∧
      (∀ q, (t.core core).token q = if q = st.push ∧ st.push ≠ 0 then k.token q + 1 else k.token q) ∧ SameMemory s t ∧
      match st.writes with
      | .nothing => (t.core core).acc = k.acc
      | .zeros es => (∀ e ∈ es, e < 131072) → ∀ n, Tbl.get 0 (t.core core).acc n = if n / 131072 = st.tile ∧ n % 131072 ∈ es then 0 else Tbl.get 0 k.acc n
      | .sums acc integer es => (es.map (·.1)).Nodup → (∀ p ∈ es, p.1 < 131072) →
        (∀ p ∈ es, Tbl.get 0 (t.core core).acc (131072 * st.tile + p.1) = BitVec.ofNat 32
          (p.2.foldl (fun a g => addGroup integer (Slot.of st.slotC.toNat) a g.toNat)
            (if acc then (Tbl.get 0 k.acc (131072 * st.tile + p.1)).toNat else 0, 0)).1) ∧
        ∀ n, (∀ p ∈ es, n ≠ 131072 * st.tile + p.1) → Tbl.get 0 (t.core core).acc n = Tbl.get 0 k.acc n) ∧
  (∀ s core f rest, (s.core core).ms.st = .running → (s.core core).ms.mldi = f :: rest → f.poison = false → (s.core core).mldiReady = true → s.matHeld core = false →
    ∃ t, exec (.mldiLanding core) s = .next t ∧ (t.core core).ms = { (s.core core).ms with latch := f.values, mldi := rest, frozen := false } ∧
      (∀ q, (t.core core).token q = if q = 7 then (s.core core).token q + 1 else (s.core core).token q) ∧ SameMemory s t) ∧
  (∀ s w, exec (.illegalMatrixWord w) s = .next (s.matStop s.focus.core 0x01 s.ms.cycle true)) ∧
  (∀ s w, ∃ t, exec (.illegalMatrixWord w) s = .next t ∧ t.ms.st = .stopped ∧ t.ms.cause = 0x01 ∧ t.ms.cycle = s.ms.cycle ∧ t.ms.pc = s.ms.pc) ∧
  ∀ (s : State) core cause stopCycle j, (s.core core).job = some j → (s.ctx j.core j.ctx).st ≠ .frozen → s.pusherThere j = true → j.group = none → (s.core core).trctl.getLsbD 0 = false →
    (s.core core).ms.mldi.length ≤ 1 → let t := s.matStop core cause stopCycle true
    let m := (s.core core).ms
    (t.core core).ms.st = .stopped ∧ (t.core core).ms.cause = cause ∧ (t.core core).ms.atStop = 1 + cause + 256 ∧ (t.core core).ms.frozen = false ∧ (t.core core).ms.stopCycle = stopCycle ∧
      (t.core core).ms.pc = m.pc ∧ (t.core core).ms.cycle = m.cycle ∧ (t.core core).ms.step = m.step ∧ (t.core core).ms.latch = m.latch ∧ (t.core core).ms.mldi = m.mldi ∧
      (t.core core).acc = (s.core core).acc ∧ (t.core core).job = some j ∧ (∀ q, t.queue q = s.queue q) ∧ (∀ c, c ≠ core → t.core c = s.core c) ∧
      t.readD (mframeLoc core + 0x340) = BitVec.ofNat 64 m.pc ∧ t.readD (mframeLoc core + 0x348) = BitVec.ofNat 64 stopCycle ∧ t.readD (mframeLoc core + 0x350) = BitVec.ofNat 64 cause ∧
      (0 < cause → cause < 256 → (s.core core).vs.st ≠ .stopped → (t.core core).vecBoth = false → t.owedAt core = some (3, cause, stopCycle))

namespace Sys2Proof.Spec

/-! ### Commands at work (13 R276 to R283) -/

/-- Command e of queue q acts: it runs and its work is to be done. -/
structure Acts (s : State) (q : QueueId) (e : Entry) : Prop where
  queue : s.focus.queue = q
  entry : (s.queue q).find s.focus.seq = some e
  runs : e.st = .running
  pending : e.work = .pending

/-- The command runs on and its work stands at w. -/
def WorkIs (t : State) (q : QueueId) (seq : Nat) (w : Work) : Prop := ∃ e, (t.queue q).find seq = some e ∧ e.st = .running ∧ e.work = w

/-- The command's work is done, with some summaries; it waits for its retirement. -/
def WorkDone (t : State) (q : QueueId) (seq : Nat) : Prop := ∃ v z f tiles, WorkIs t q seq (.done v z f tiles)

/-- The acting command's work is failed with a cause; nothing else changes. -/
def FailsWith (i : Instr) (s : State) (q : QueueId) (cause : Nat) : Prop := exec i s = .next (s.setWork q s.focus.seq (.failed cause false))

/-- K.COPY, K.GATHER, K.SCATTER and K.FILL. -/
def isCopy : Instr → Bool
  | .kCopy .. => true
  | .kGather .. => true
  | .kScatter .. => true
  | .kFill .. => true
  | _ => false

/-- n bytes at a are plain SRAM that the command may use: none is in the system area unless it is privileged. -/
def PlainSram (e : Entry) (a n : Nat) : Prop := a + n ≤ 2 ^ 33 ∧ (e.priv = true ∨ ∀ i, i < n → inSystemArea (a + i) = false)

/-- n bytes at a are plain SRAM that the command may read: none of them is poisoned. -/
def ClearSram (s : State) (e : Entry) (a n : Nat) : Prop := PlainSram e a n ∧ ∀ k, k < n → s.poisoned (a + k) = false

/-- Two ranges of n and m bytes have no byte in common. -/
def Apart (a n b m : Nat) : Prop := a + n ≤ b ∨ b + m ≤ a

/-- The index of row j of a gather or scatter, 0 for the rest of the family; the first positions of its source and of its destination row: 13 R279. -/
def indexAt (s : State) (e : Entry) (j : Nat) : Int := if e.indexed then sextNat 32 (s.read (e.d 10 + 4 * j) 4) else 0
def rowFrom (s : State) (e : Entry) (j : Nat) : Int := e.source.1 + (e.rowOffsets j (indexAt s e j)).1
def rowTo (s : State) (e : Entry) (j : Nat) : Int := e.destination.1 + (e.rowOffsets j (indexAt s e j)).2

/-- A copy of plain SRAM executes normally: aligned, not overlapping itself, its source rows and its index list readable, its destination rows off the list: 13 R279. -/
structure CopyFine (s : State) (q : QueueId) (e : Entry) : Prop where
  begins : e.progress = 0 ∧ 4 ≤ e.rowBytes ∧ e.copyAligned = true
  apart : e.opcode = 1 → s.copyOverlaps q e = false
  modes : e.source.2 = false ∧ e.destination.2 = false
  log : (s.ctx e.core e.ctx).log.en = false
  list : e.indexed = true → ClearSram s e (e.d 10) (4 * e.rows)
  rowsFrom : e.opcode ≠ 4 → ∀ j, j < e.rows → 0 ≤ rowFrom s e j ∧ ClearSram s e (rowFrom s e j).toNat e.rowBytes
  rowsTo : ∀ j, j < e.rows → 0 ≤ rowTo s e j ∧ PlainSram e (rowTo s e j).toNat e.rowBytes
  listKept : e.indexed = true → ∀ j, j < e.rows → Apart (rowTo s e j).toNat e.rowBytes (e.d 10) (4 * e.rows)

/-- The fields of a nest's tile word at an index tuple; its C starts at 0 where the clear index is 0: 08 R208. -/
def nestIn (e : Entry) (kind : StepKind) (t : MTile) (idx : List Nat) : StepIn :=
  let clr := bitsOf (e.d 11) 34 32
  { kind := kind, t := t, ea := bitsOf (e.d 10) 31 0, eb := bitsOf (e.d 10) 63 32, ec := bitsOf (e.d 11) 31 0, acc := t.acc && !(decide (clr ≠ 7) && decide (idx.getD clr 0 = 0)) }

/-- The bytes of a calibration block from the units of 4 bytes read: 20 R374. -/
def blockBytes (vs : List Nat) : List Nat := vs.flatMap fun v => (List.range 4).map fun i => v / 256 ^ i % 256

end Sys2Proof.Spec

/-- 13 R279: a copy that is aligned, does not overlap itself and meets no fault moves its rows and its work is done; one that is misaligned fails with 0x03, and a K.COPY that overlaps
itself with 0x08; a fault fails it with its cause. K.COPY, K.GATHER and K.SCATTER of plain SRAM leave each source row at its destination, K.FILL its doubleword repeated, where no row is
written over, and no other byte of memory changes. 22 R389: a full log that stalls holds the command. -/
def Obligations.CopiesMoveTheirRows : Prop :=
  ∀ i s q e, isCopy i = true → Acts s q e →
    (e.copyAligned = false → FailsWith i s q 0x03) ∧
    (e.copyAligned = true → e.progress = 0 → e.opcode = 1 → s.copyOverlaps q e = true → FailsWith i s q 0x08) ∧
    (CopyFine s q e →
      let n := e.rowBytes
      let dst (j : Nat) : Nat := (rowTo s e j).toNat
      let src (j : Nat) : Nat := (rowFrom s e j).toNat
      ∃ t, exec i s = .next t ∧ WorkDone t q s.focus.seq ∧ (∀ a, (∀ j, j < e.rows → a < dst j ∨ dst j + n ≤ a) → t.byte a = s.byte a) ∧
        ((∀ j k, j < e.rows → k < e.rows → j ≠ k → Apart (dst j) n (dst k) n) → (e.opcode ≠ 4 → ∀ j k, j < e.rows → k < e.rows → Apart (dst j) n (src k) n) →
          ∀ j b, j < e.rows → b < n → t.byte (dst j + b) = if e.opcode = 4 then BitVec.ofNat 8 (e.d 8 / 256 ^ (b % 8)) else s.byte (src j + b))) ∧
    (e.copyAligned = true → e.progress = 0 → 4 ≤ e.rowBytes → (e.opcode = 1 → s.copyOverlaps q e = false) →
      (s.ctx e.core e.ctx).log.blocks (9 * (s.copyLines q e).length) = false →
      (∀ r, copyRows q e (List.range e.rows) { s := s, units := [] } = .going r → ∃ t, exec i s = .next t ∧ WorkDone t q s.focus.seq ∧ SameMemory (r.s.cleanUnits q e r.units) t) ∧
      ∀ r c f, copyRows q e (List.range e.rows) { s := s, units := [] } = .fault r c f → ∃ t, exec i s = .next t ∧ WorkIs t q s.focus.seq (.failed c f)) ∧
    (e.copyAligned = true → (e.progress = 0 → e.opcode = 1 → s.copyOverlaps q e = false) → s.copyRoom q e = 0 → exec i s = .next s)

/-- 13 R279, R282, R283, 16 R317: K.NOP and K.PREFETCH are done at once; K.EVENT is done where its object passes its checks and fails with their cause where not; K.FEED appends elements to
its ring, all of them where the ring has room and they can be read, and fails at its start with 0x02 where it owns no producer end. 17 R326, R336: K.PREFETCH brings in the translations of its pages. -/
def Obligations.SmallCommandsFinish : Prop :=
  (∀ s q e h o, Acts s q e → exec (.kNop h o) s = .next (s.setWork q s.focus.seq (.done false false false []))) ∧
  (∀ s q e h o, Acts s q e → ∃ t, exec (.kPrefetch h o) s = .next t ∧ WorkIs t q s.focus.seq (.done false false false []) ∧
    (∀ a, (∀ p ∈ s.prefetchEntries q e, a < p.2.1 ∨ p.2.1 + 8 ≤ a) → t.byte a = s.byte a) ∧
    ∀ p ∈ s.prefetchEntries q e, t.tlb.any (fun c => c.tile == p.1.1 && c.core == p.1.2.1 && c.key == p.1.2.2) = true) ∧
  (∀ s q e h o, Acts s q e →
    (∀ l, s.eventObject q e = .ok l → exec (.kEvent h o) s = .next (s.setWork q s.focus.seq (.done false false false []))) ∧
    (∀ c, s.eventObject q e = .error c → FailsWith (.kEvent h o) s q c)) ∧
  ∀ s q e h o, Acts s q e →
    let size := 2 ^ bitsOf (e.d 11) 3 2
    let r := (s.core (homeCore q e)).ring (e.d 8 % 8)
    (e.begun = false → r.prod ≠ 3 ∨ r.depth = 0 → FailsWith (.kFeed h o) s q 0x02) ∧
    (e.begun = false → r.prod = 3 → r.depth ≠ 0 → (e.source.2 = false ∧ e.d 7 % size ≠ 0) ∨ bitsOf (e.d 10) 31 0 % size ≠ 0 → FailsWith (.kFeed h o) s q 0x03) ∧
    (e.begun = true ∨ (r.prod = 3 ∧ r.depth ≠ 0 ∧ (e.source.2 = true ∨ e.d 7 % size = 0) ∧ bitsOf (e.d 10) 31 0 % size = 0) →
      (let at_ (j : Nat) : Int := (e.d 7 : Int) + (j : Nat) * sextNat 32 (bitsOf (e.d 10) 31 0)
       e.source.2 = false → (∀ j, e.progress ≤ j → j < e.rowBytes → 0 ≤ at_ j ∧ ClearSram s e (at_ j).toNat size) → r.pops ≤ r.pushes → r.entries.length = r.pushes - r.pops →
        r.entries.length + (e.rowBytes - e.progress) ≤ r.depth →
        ∃ u, exec (.kFeed h o) s = .next u ∧ WorkIs u q s.focus.seq (.done false false false []) ∧ SameMemory s u ∧
          ((u.core (homeCore q e)).ring (e.d 8 % 8)).entries = r.entries ++ (List.range (e.rowBytes - e.progress)).map fun j => sextWord (8 * size) (s.read (at_ (e.progress + j)).toNat size)) ∧
      ∀ t n w, feedFrom q e size (e.d 8 % 8) ((List.range (e.rowBytes - e.progress)).map (e.progress + ·)) s e.progress = .inl (t, n, w) →
        ∃ u, exec (.kFeed h o) s = .next u ∧ WorkIs u q s.focus.seq (w.getD .pending) ∧ (∃ e', (u.queue q).find s.focus.seq = some e' ∧ e'.progress = n) ∧
          e.progress ≤ n ∧ (u.core (homeCore q e)).ring (e.d 8 % 8) = (t.core (homeCore q e)).ring (e.d 8 % 8) ∧ SameMemory t u)

/-- 13 R281: a K.JOB starts the streams that its image names at schedule cycle 0, each at its own first word, with the snapshot taken at its push. 08 R208: a K.NEST lands its steps in
the accumulator store; a nest with a count of zero does nothing. 14 R293: a K.KERNEL places the record that it reads, or fails with 0x03 where its address is no multiple of 256, and with 0x04 where a page that its unprivileged pusher may not read holds it. -/
def Obligations.JobsNestsAndKernelCommands : Prop :=
  (∀ s q e h o, Acts s q e → e.progress = 0 → let core := homeCore q e
    ∃ t, exec (.kJob h o) s = .next t ∧ SameMemory s t ∧ (∃ j, (t.core core).job = some j ∧ j.seq = e.seq ∧ j.core = e.core ∧ j.ctx = e.ctx ∧ j.priv = e.priv) ∧
      (e.d 7 ≠ 0 → (t.core core).vs.st = .running ∧ (t.core core).vs.base = e.d 7 ∧ (t.core core).vs.pc = 0 ∧ (t.core core).vs.cycle = 0 ∧ (t.core core).vs.land = [] ∧ (t.core core).vs.grid = []) ∧
      (e.d 7 = 0 → (t.core core).vs.st = .absent) ∧
      (e.d 8 ≠ 0 → (t.core core).ms.st = .running ∧ (t.core core).ms.base = e.d 8 ∧ (t.core core).ms.pc = 0 ∧ (t.core core).ms.cycle = 0 ∧ (t.core core).ms.step = none ∧
        (t.core core).ms.snapshot = e.snapshot) ∧
      (e.d 8 = 0 → (t.core core).ms.st = .absent)) ∧
  (∀ s q e h o, Acts s q e → let core := homeCore q e
    (0 ∈ nestCounts e.snapshot → exec (.kNest h o) s = .next (s.setWork q s.focus.seq (.done false false false []))) ∧
    (∀ r, 0 ∉ nestCounts e.snapshot → s.nestSteps core e (nestTuples (nestCounts e.snapshot)) { k := s.core core, keys := [] } = .going r →
      ∃ t, exec (.kNest h o) s = .next t ∧ WorkDone t q s.focus.seq ∧ (t.core core).acc = r.k.acc ∧ (t.core core).mfst = r.k.mfst ∧ SameMemory s t) ∧
    (∀ i kind mh t cls hh ww (pa pb pm : List Nat → Coord), 0 ∉ nestCounts e.snapshot → (decodeMatrix e.nestWord).toOption = some i → tileOf i = some (kind, mh, t) → t.absorb = false →
      slotsOk (bitsOf (e.d 10) 31 0) (bitsOf (e.d 10) 63 32) (bitsOf (e.d 11) 31 0) = true → (s.core core).mfst.toNat / 2 ^ 10 % 32 = 0 → (∀ g, Tbl.get false (s.core core).accPoison g = false) →
      (∀ idx ∈ nestTuples (nestCounts e.snapshot), nestPred idx mh.guard = true → TileFine s (s.nestEnv core e idx) (nestIn e kind t idx) cls hh ww (pa idx) (pb idx) (pm idx)) →
      ∃ u, exec (.kNest h o) s = .next u ∧ WorkDone u q s.focus.seq ∧ SameMemory s u ∧
        (u.core core).acc = ((nestTuples (nestCounts e.snapshot)).foldl (fun k idx => if nestPred idx mh.guard then
          k.writeAcc (k.foldWrites t.tile (slotForC cls (bitsOf (e.d 11) 31 0)) (tileSums s (s.nestEnv core e idx) (nestIn e kind t idx) cls (pa idx) (pb idx) (pm idx))).1 else k) (s.core core)).acc)) ∧
  ∀ s q e h o, Acts s q e → e.progress = 0 →
    let kq := bitsOf (e.d 8) 3 0
    let placed (t u : State) (r : List Word) : Prop := ∃ k, u.kq kq = t.kq kq ++ [k] ∧ k.record = r ∧ k.st = .armed ∧ k.priv = e.priv ∧ SameMemory t u ∧
      (bitOf (e.d 8) 8 = false → WorkIs u q s.focus.seq (.done false false false [])) ∧ (bitOf (e.d 8) 8 = true → WorkIs u q s.focus.seq .pending)
    (e.d 7 % 256 ≠ 0 → FailsWith (.kKernel h o) s q 0x03) ∧
    (∀ t c f, e.d 7 % 256 = 0 → s.recordOutside q e = false → s.cmdDoublewords q e (e.d 7) 32 = (t, .inr (.inl (c, f))) →
      (e.priv = false → s.privPage (e.d 7) = true → FailsWith (.kKernel h o) s q 0x04) ∧
      (e.priv = true ∨ s.privPage (e.d 7) = false → exec (.kKernel h o) s = .next (s.setWork q s.focus.seq (.failed c f)))) ∧
    (e.d 7 % 256 = 0 → s.recordOutside q e = true → ∃ u, exec (.kKernel h o) s = .next u ∧ WorkIs u q s.focus.seq (.failed 0x11 false) ∧ SameMemory s u) ∧
    (let r := (List.range 32).map fun j => s.readD (e.d 7 + 8 * j)
     e.d 7 % 256 = 0 → ClearSram s e (e.d 7) 256 → recCause (e.d 7) r (e.core == harbourId) = none → (s.kq kq).length < 16 → ∃ u, exec (.kKernel h o) s = .next u ∧ placed s u r) ∧
    ∀ t r, e.d 7 % 256 = 0 → s.recordOutside q e = false → s.cmdDoublewords q e (e.d 7) 32 = (t, .inl r) → recCause (e.d 7) r (e.core == harbourId) = none → (t.kq kq).length < 16 → ∃ u, exec (.kKernel h o) s = .next u ∧ placed t u r

/-! ### The optical unit (20) -/

/-- 20 R358, R359, R363 to R367, R370: a K.OFT of a dark or faulted unit fails with 0x0B, one with slots of the wrong formats with 0x07, a misaligned one with 0x03; a stale unit recalibrates first where
OCFG.auto is set and fails the command with 0x0B where not; a ready unit reads its next frame whole, its light begins, and the frame behind it is read while it lasts; an input of zeros gives an
output of zeros, and any other the transform that its mode names, of the input's pairs and the bank's bins, rounded under the output slot. When the light has ended, the output is written and the
command goes on to the next frame, or is done. What a frame of light errs by, within the bounds, is a free value (log entry 9). -/
def Obligations.FramesAreTransformed : Prop :=
  (∀ s u e h o, Acts s (.oq u) e →
    let m := e.oftMode
    let aligned : Prop := (e.source.2 = true ∨ e.d 7 % 4 = 0) ∧ (e.destination.2 = true ∨ e.d 8 % 4 = 0)
    let formats : Prop := bitsOf (e.d 10) 3 0 = 10 ∧ bitsOf (e.d 10) 35 32 = 9
    let lit : Prop := (s.ofu u).st = .ready ∨ (s.ofu u).st = .stale
    let input (j : Nat) : Nat := e.d 7 + 64 * bitsOf (e.d 9) 47 32 * j
    let begins (t : State) (vs : List Nat) : Prop := ∃ w elems, exec (.kOft h o) s = .next w ∧ (w.ofu u).frameBuf = some (e.progress, elems) ∧ (w.ofu u).frameNext = none ∧
      (w.ofu u).st = .ready ∧ WorkIs w (.oq u) s.focus.seq .pending ∧ SameMemory t w ∧ elems.length = (if m.compact then m.side * m.side else 65536) ∧
      (∃ n, elems = frameElements m (fun b => maskValue ((t.ofu u).bin m.bank b)) (Slot.of (bitsOf (e.d 10) 31 0)).scale (Slot.of (bitsOf (e.d 10) 63 32)) n (vs.flatMap pairsOf)) ∧
      ((∀ v ∈ vs, v % 2 ^ 32 = 0) → ∀ x ∈ elems, x = 0)
    ((s.ofu u).frameBuf = none →
      ((s.ofu u).st = .dark ∨ (s.ofu u).st = .faulted → FailsWith (.kOft h o) s (.oq u) 0x0B) ∧
      (lit → ¬formats → FailsWith (.kOft h o) s (.oq u) 0x07) ∧
      (lit → formats → ¬aligned → FailsWith (.kOft h o) s (.oq u) 0x03) ∧
      ((s.ofu u).st = .stale → formats → aligned → (s.ofu u).auto = false → FailsWith (.kOft h o) s (.oq u) 0x0B) ∧
      ((s.ofu u).st = .stale → formats → aligned → (s.ofu u).auto = true → exec (.kOft h o) s = .next (s.setOfu u { s.ofu u with st := .calibrating })) ∧
      ((s.ofu u).st = .ready → formats → aligned →
        (∀ vs, (s.ofu u).frameNext = some (e.progress, .inl vs) → begins s (vs.map BitVec.toNat)) ∧
        (∀ c f, (s.ofu u).frameNext = some (e.progress, .inr (c, f)) → exec (.kOft h o) s = .next (s.setWork (.oq u) s.focus.seq (.failed c f))) ∧
        ((∀ f, (s.ofu u).frameNext = some f → f.1 ≠ e.progress) →
          (e.source.2 = false → ClearSram s e (input e.progress) (2 * m.side * m.side) →
            begins s ((List.range (m.side * m.side / 2)).map fun i => s.read (input e.progress + 4 * i) 4)) ∧
          ∀ t vs, readUnits (.oq u) e e.source.1 e.source.2 (unitOffsets (64 * bitsOf (e.d 9) 47 32 * e.progress : Nat) (m.side * m.side / 2)) s = (t, .inl vs) → begins t vs))) ∧
    (∀ j elems, (s.ofu u).frameBuf = some (j, elems) →
      (s.nextUnread (.oq u) e j = false → exec (.kOft h o) s = .next s) ∧
      (s.nextUnread (.oq u) e j = true → e.source.2 = false → ClearSram s e (input (j + 1)) (2 * m.side * m.side) →
        ∃ w, exec (.kOft h o) s = .next w ∧ SameMemory s w ∧ (w.ofu u).frameBuf = some (j, elems) ∧
          (w.ofu u).frameNext = some (j + 1, .inl ((List.range (m.side * m.side / 2)).map fun i => BitVec.ofNat 32 (s.read (input (j + 1) + 4 * i) 4)))))) ∧
  ∀ s u e j elems, (s.ofu u).frameBuf = some (j, elems) → ((s.ofu u).queue.entries.find? fun e => decide (e.st = .running)) = some e →
    (s.ofu u).queue.find e.seq = some e → s.nextUnread (.oq u) e j = false → s.serviceOwed (.oq u) e.seq = false →
    (bitOf (e.d 9) 15 = false ∨ (s.core e.core).token 12 < 15) →
    let off := 64 * bitsOf (e.d 9) 63 48 * j
    let units := List.zipWith (fun o v => (o, v.toNat)) (unitOffsets off elems.length) elems
    let ended (t w : State) : Prop := ∃ e', (w.ofu u).frameBuf = none ∧ (w.queue (.oq u)).find e.seq = some e' ∧ e'.progress = j + 1 ∧
      (j = bitsOf (e.d 9) 31 16 → WorkDone w (.oq u) e.seq) ∧ (j ≠ bitsOf (e.d 9) 31 16 → e'.work = .pending) ∧
      (w.core e.core).token 12 = (t.core e.core).token 12 + (if bitOf (e.d 9) 15 then 1 else 0)
    (e.destination.2 = false → PlainSram e (e.d 8 + off) (4 * elems.length) → e.opcode ≠ 4 →
      ∃ w, exec (.ofuFrameDone u) s = .next w ∧ ended s w ∧ (∀ i, i < elems.length → w.read (e.d 8 + off + 4 * i) 4 = (elems.getD i 0).toNat) ∧ SameOutside s w (e.d 8 + off) (4 * elems.length)) ∧
    (∀ t, writeUnitsAt (.oq u) e e.destination.1 e.destination.2 units s = (t, none) → ∃ w, exec (.ofuFrameDone u) s = .next w ∧ ended t w ∧ SameMemory (t.cleanUnits (.oq u) e units) w) ∧
    ∀ t c f, writeUnitsAt (.oq u) e e.destination.1 e.destination.2 units s = (t, some (.inl (c, f))) →
      ∃ w, exec (.ofuFrameDone u) s = .next w ∧ WorkIs w (.oq u) e.seq (.failed c f) ∧ (w.ofu u).frameBuf = none

/-- 20 R359, R362, R373, R374: K.OMASK reads its image whole, fails with 0x07 on a code with a bit above 11 set, and its bank holds the codes once it is set; K.OCAL's run form begins a
calibration, its write form keeps a block, unless a reserved byte is set, which its retirement installs, its read form writes the block in force; each fails with 0x0B on a dark unit. -/
def Obligations.MasksAndCalibrations : Prop :=
  (∀ s u e h o, Acts s (.oq u) e → (s.ofu u).maskBuf = none →
    let outcome (t : State) (codes : List Nat) : Prop :=
      ((∃ c ∈ codes, 2 ^ 12 ≤ c) → ∃ w, exec (.kOmask h o) s = .next w ∧ WorkIs w (.oq u) s.focus.seq (.failed 0x07 false) ∧ (w.ofu u).banks = (t.ofu u).banks) ∧
      ((∀ c ∈ codes, c < 2 ^ 12) → ∃ w, exec (.kOmask h o) s = .next w ∧ (w.ofu u).maskBuf = some (e.d 8 % 64, codes) ∧ (w.ofu u).banks = (t.ofu u).banks ∧ SameMemory t w)
    ((s.ofu u).st = .dark ∨ (s.ofu u).st = .faulted → FailsWith (.kOmask h o) s (.oq u) 0x0B) ∧
    ((s.ofu u).st = .ready ∨ (s.ofu u).st = .stale → (e.source.2 = true ∨ e.d 7 % 4 = 0) →
      (e.source.2 = false → ClearSram s e (e.d 7) 131072 → outcome s ((List.range 65536).map fun i => s.read (e.d 7 + 2 * i) 2)) ∧
      ∀ t vs, readUnits (.oq u) e e.source.1 e.source.2 (unitOffsets 0 32768) s = (t, .inl vs) → outcome t (vs.flatMap fun v => [v % 2 ^ 16, v / 2 ^ 16]))) ∧
  (∀ s u e bank codes, (s.ofu u).maskBuf = some (bank, codes) → ((s.ofu u).queue.entries.find? fun e => decide (e.st = .running)) = some e →
    (s.ofu u).queue.find e.seq = some e → codes.length ≤ 65536 →
    ∃ w, exec (.ofuMaskSetDone u) s = .next w ∧ WorkIs w (.oq u) e.seq (.done false false false []) ∧ (w.ofu u).maskBuf = none ∧ SameMemory s w ∧
      (∀ i, i < codes.length → (w.ofu u).bin bank i = codes.getD i 0) ∧ ∀ b i, b ≠ bank → i < 65536 → (w.ofu u).bin b i = (s.ofu u).bin b i) ∧
  (∀ s u e h o, Acts s (.oq u) e →
    ((s.ofu u).st = .dark → FailsWith (.kOcalRun h o) s (.oq u) 0x0B ∧ FailsWith (.kOcalWrite h o) s (.oq u) 0x0B ∧ FailsWith (.kOcalRead h o) s (.oq u) 0x0B) ∧
    ((s.ofu u).st = .ready ∨ (s.ofu u).st = .stale ∨ (s.ofu u).st = .faulted →
      let kept (t : State) (bytes : List Nat) : Prop :=
        (calReserved (bytes.take 64) = true → ∃ w, exec (.kOcalWrite h o) s = .next w ∧ WorkIs w (.oq u) s.focus.seq (.failed 0x01 false) ∧ (w.ofu u).epoch = (t.ofu u).epoch) ∧
        (calReserved (bytes.take 64) = false → ∃ w block, exec (.kOcalWrite h o) s = .next w ∧ WorkIs w (.oq u) s.focus.seq (.done false false false []) ∧ SameMemory t w ∧
          (w.ofu u).st = (t.ofu u).st ∧ (w.ofu u).epoch = (t.ofu u).epoch ∧ (w.ofu u).banks = (t.ofu u).banks ∧ (w.ofu u).calNext = some block ∧
          ∀ i, i < bytes.length → Tbl.get 0 block i = BitVec.ofNat 8 (bytes.getD i 0))
      exec (.kOcalRun h o) s = .next (s.setOfu u { s.ofu u with st := .calibrating }) ∧
      (e.d 7 % 64 ≠ 0 → FailsWith (.kOcalWrite h o) s (.oq u) 0x03 ∧ FailsWith (.kOcalRead h o) s (.oq u) 0x03) ∧
      (e.d 7 % 64 = 0 → ClearSram s e (e.d 7) calBytes → kept s ((List.range calBytes).map fun i => (s.byte (e.d 7 + i)).toNat)) ∧
      (∀ t vs, e.d 7 % 64 = 0 → readUnits (.oq u) e (e.d 7) false (unitOffsets 0 (calBytes / 4)) s = (t, .inl vs) → kept t (blockBytes vs)) ∧
      (let log := (s.ctx e.core e.ctx).log
       e.d 7 % 64 = 0 → log.blocks (9 * (calBytes / 64 - e.progress)) = true → log.room - log.used < 88 → exec (.kOcalRead h o) s = .next s) ∧
      (e.d 7 % 64 = 0 → e.progress = 0 → (s.ctx e.core e.ctx).log.en = false → PlainSram e (e.d 7) calBytes →
        ∃ w, exec (.kOcalRead h o) s = .next w ∧ WorkIs w (.oq u) s.focus.seq (.done false false false []) ∧ SameOutside s w (e.d 7) calBytes ∧
          ∀ i, i < calBytes → w.byte (e.d 7 + i) = BitVec.ofNat 8 ((s.ofu u).calByte i)) ∧
      (∀ t, e.d 7 % 64 = 0 → e.progress = 0 → (s.ctx e.core e.ctx).log.blocks (9 * (calBytes / 64)) = false →
        writeUnitsAt (.oq u) e (e.d 7) false ((List.range (calBytes / 4)).map fun i =>
          (((4 * i : Nat) : Int), (List.range 4).foldl (fun n j => n + (s.ofu u).calByte (4 * i + j) * 256 ^ j) 0)) s = (t, none) →
        ∃ w, exec (.kOcalRead h o) s = .next w ∧ WorkIs w (.oq u) s.focus.seq (.done false false false []) ∧ SameMemory (t.cleanBlock (.oq u) e (e.d 7) (calBytes / 64)) w))) ∧
  ∀ s u e block, (s.ofu u).calNext = some block → e.opcode = 0x0A → bitsOf (e.d 8) 1 0 = 1 → let t := s.installCal (.oq u) e
    (t.ofu u).st = .ready ∧ (t.ofu u).epoch = ((s.ofu u).epoch + 1) % 2 ^ 32 ∧ (t.ofu u).valid = s.time + (s.ofu u).validity * 1000000 ∧ (t.ofu u).calBlock = block ∧
      (t.ofu u).calNext = none ∧ (t.ofu u).banks = (s.ofu u).banks ∧ SameMemory s t

/-- 20 R359 to R362: enabling a dark unit warms it; disabling one darkens it once its running command has ended, with its banks lost; the warm-up ends in a calibration, a passed calibration
makes the unit ready with its epoch one up and its timer anew, a failed one faults it and tells the harbour core; a lapse or a drift makes a ready unit stale; OCTL retries and cancels. -/
def Obligations.UnitStates : Prop :=
  (∀ s u, ∃ t, exec (.ocfgEnable u) s = .next t ∧ (t.ofu u).enable = true ∧ SameMemory s t ∧
    (t.ofu u).st = (if (s.ofu u).st = .dark then .warming else (s.ofu u).st) ∧ ((s.ofu u).st ≠ .dark → (t.ofu u).darkPending = false)) ∧
  (∀ s u, (s.ofu u).st ≠ .dark → ∃ t, exec (.ocfgDisable u) s = .next t ∧ (t.ofu u).enable = false ∧ SameMemory s t ∧
    ((s.ofu u).busy = true → (t.ofu u).darkPending = true ∧ (t.ofu u).st = (s.ofu u).st ∧ (t.ofu u).banks = (s.ofu u).banks) ∧
    ((s.ofu u).busy = false → (t.ofu u).st = .dark ∧ (t.ofu u).banks = [] ∧ (t.ofu u).queue = (s.ofu u).queue)) ∧
  (∀ s u, (s.ofu u).st = .warming → ∃ t, exec (.ofuWarmupDone u) s = .next t ∧ (t.ofu u).st = .calibrating ∧ (∀ b i, (t.ofu u).bin b i = identityBin) ∧ SameMemory s t) ∧
  (∀ s u, (s.ofu u).st = .calibrating → (s.runningOcal u = none →
      (∃ t, exec (.ofuCalibrationDone u true) s = .next t ∧ (t.ofu u).st = .ready ∧ (t.ofu u).epoch = ((s.ofu u).epoch + 1) % 2 ^ 32 ∧
        (t.ofu u).valid = s.time + (s.ofu u).validity * 1000000 ∧ (t.ofu u).banks = (s.ofu u).banks ∧ SameMemory s t) ∧
      (∃ t, exec (.ofuCalibrationDone u false) s = .next t ∧ (t.ofu u).st = .faulted ∧ (t.ofu u).epoch = (s.ofu u).epoch ∧
        t.mgmt.hirqPending = s.mgmt.hirqPending ||| 2 ^ 4 ∧ SameMemory s t)) ∧
    (∀ e, s.runningOcal u = some e → (s.ofu u).queue.find e.seq = some e →
      (∃ t, exec (.ofuCalibrationDone u true) s = .next t ∧ (t.ofu u).st = .ready ∧ WorkIs t (.oq u) e.seq (.done false false false [])) ∧
      ∃ t, exec (.ofuCalibrationDone u false) s = .next t ∧ (t.ofu u).st = .faulted ∧ WorkIs t (.oq u) e.seq (.failed 0x0B false) ∧ t.mgmt.hirqPending = s.mgmt.hirqPending ||| 2 ^ 4)) ∧
  (∀ s u, (s.ofu u).st = .ready →
    (∃ t, exec (.ofuValidityLapse u) s = .next t ∧ (t.ofu u).st = .stale ∧ (s.ofu u).valid ≤ t.time ∧ SameMemory s t) ∧
    ∃ t, exec (.ofuTemperatureDrift u) s = .next t ∧ (t.ofu u).st = .stale ∧ t.time = s.time ∧ SameMemory s t) ∧
  ∀ s u seq e, (s.queue (.oq u)).find seq = some e → e.st = .faulted →
    (exec (.octlRetry u seq) s = .next (s.retryCmd (.oq u) seq)) ∧
    ∃ t, exec (.octlCancel u seq) s = .next t ∧ (∀ b, b ∈ (t.queue (.oq u)).entries ↔ b ∈ (s.queue (.oq u)).entries ∧ b.seq ≠ seq) ∧ SameMemory s t

namespace Sys2Proof.Spec

/-- The six collectives. -/
def isCollective : Instr → Bool
  | .kAllred .. => true
  | .kAllgath .. => true
  | .kRedscat .. => true
  | .kBcast .. => true
  | .kAlltoall .. => true
  | .kTopkm .. => true
  | _ => false

/-- The ranks of a collective without a rank table: this module's members alone, 19 R349. -/
def aloneRanks (e : Entry) : Ranks := { modules := 1, total := e.members.length, first := 0 }

/-- The blocks of local rank j of a byte operand: blocks follow one another at multiples of 64 bytes, 19 R350. -/
def blockAt (base bytes j : Nat) : Nat := base + j * ((bytes + 63) / 64 * 64)

/-- A collective of this module alone between blocks of plain SRAM executes normally: its start passes its checks and every source block can be read: 19 R348 to R353. -/
structure CollFine (s : State) (e : Entry) : Prop where
  starts : e.ranks = none ∧ e.chunks = [] ∧ e.d 10 = 0 ∧ e.collCause (aloneRanks e) = none
  modes : e.collSource.2 = false ∧ e.collDest.2 = false
  best : e.opcode = 0x10 → e.collCount = 64
  source : ∀ j, j < e.members.length → ClearSram s e (blockAt (e.d 7) (e.blockBytes (e.collIn (aloneRanks e))) j) (e.blockBytes (e.collIn (aloneRanks e)))
  dest : ∀ j, j < e.members.length → PlainSram e (blockAt (e.d 8) (e.blockBytes (e.collOut (aloneRanks e))) j) (e.blockBytes (e.collOut (aloneRanks e)))

/-- A command of the page family has handled an entry: the place it stands at and its counts of entries changed, skipped, found incompressible and frames released. -/
def PagesAt (t : State) (q : QueueId) (seq progress changed skipped incompressible released : Nat) : Prop :=
  ∃ e, (t.queue q).find seq = some e ∧ e.st = .running ∧ e.work = .pending ∧ e.progress = progress ∧ e.chunks = [(changed, skipped, [incompressible, released])]

end Sys2Proof.Spec


/-- 19 R348 to R354: a collective whose rank table or start fails a check fails with its cause; one of this module alone folds or moves its blocks in rank order and is done; one of several
modules keeps its ranks, waits for the others and then writes a chunk that has all its contributions. Also 19 R346, R351, R354 to R356, 22 R390: the other modules' commands match, disagree with
0x01, or fail with a cause of their own access or with the 0x0C of a link between them; a contribution to an open chunk is kept once; an acknowledgement of the first open chunk that is written moves the window on, and the last one
ends the work; a contribution late by CTIME makes its link suspect, and no causeway in that time fails the command with 0x0C. -/
def Obligations.CollectivesRun : Prop :=
  (
    ∀ i s q e, isCollective i = true → Acts s q e →
      (e.ranks = none → e.d 10 ≠ 0 → e.d 10 % 8 ≠ 0 → FailsWith i s q 0x03) ∧
      (∀ t r c, e.ranks = none → s.collRanks q e = (t, .inl r) → e.collCause r = some c → FailsWith i s q c) ∧
      (CollFine s e →
        let r := aloneRanks e
        let nIn := e.blockBytes (e.collIn r)
        let nOut := e.blockBytes (e.collOut r)
        let src (j : Nat) : Nat := blockAt (e.d 7) nIn j
        let dst (j : Nat) : Nat := blockAt (e.d 8) nOut j
        let width := codeBits e.collFormat / 8
        ∃ w, exec i s = .next w ∧ WorkDone w q s.focus.seq ∧ (∀ a, (∀ j, j < r.total → a < dst j ∨ dst j + nOut ≤ a) → w.byte a = s.byte a) ∧
          (e.opcode ≠ 0x10 → e.collFormat ∈ [0, 1, 2, 3, 4, 5, 9, 10, 11] → (∀ j k, j < r.total → k < r.total → Apart (src j) nIn (dst k) nOut) →
            ∀ j p, j < r.total → p < e.collOut r → w.read (dst j + width * p) width = foldCodes (if reduces e.opcode then e.collReduction else 0) e.collFormat
              ((List.range r.total).filterMap fun c => (e.feeds r j p c).map fun i => s.read (src c + width * i) width))) ∧
      (∀ t r b u, e.ranks = none → e.chunks = [] → s.collRanks q e = (t, .inl r) → e.collCause r = none → r.modules = 1 → e.chunkCount r = 1 →
        let t1 := t.keepRanks q e r
        (t1.queue q).find e.seq = some b → t1.foldChunk q b r 0 = (u, none) → ∃ w, exec i s = .next w ∧ WorkDone w q s.focus.seq ∧ SameMemory u w) ∧
      (∀ t r, e.ranks = none → s.collRanks q e = (t, .inl r) → e.collCause r = none → r.modules ≠ 1 → e.peers = false → exec i s = .next (t.keepRanks q e r)) ∧
      (∀ r, e.keptRanks = some r → r.modules ≠ 1 → (e.peers = false ∨ e.nextChunk r = none) → exec i s = .next s) ∧
      ∀ r k u, e.keptRanks = some r → r.modules ≠ 1 → e.peers = true → e.nextChunk r = some k →
        (s.foldChunk q e r k = (u, none) → exec i s = .next (u.transmitFor e 1)) ∧
        ∀ c f, s.foldChunk q e r k = (u, some (.inl (c, f))) → exec i s = .next (u.setWork q e.seq (.failed c f))
  ) ∧ (
    ∀ s q seq e r, s.runningColl q seq = some (e, r) →
      (e.peers = false →
        ∃ t b, exec (.collectiveMatch q seq 0) s = .next t ∧ (t.queue q).find seq = some b ∧ b.peers = true ∧ b.chunks = [] ∧ b.acked = 0 ∧ b.since = s.time ∧ b.work = .pending ∧ SameMemory s t) ∧
      (∀ cause, (cause = 1 ∧ e.peers = false) ∨ (3 ≤ cause ∧ cause ≤ 6) ∨ (cause = 0x0C ∧ e.peers = true) → ∃ t, exec (.collectiveMatch q seq cause) s = .next t ∧ WorkIs t q seq (.failed cause false) ∧ SameMemory s t) ∧
      (∀ cause, (cause = 1 ∧ e.peers = true) ∨ cause = 2 ∨ (6 < cause ∧ ¬(cause = 0x0C ∧ e.peers = true)) → exec (.collectiveMatch q seq cause) s = .next s) ∧
      (∀ rank chunk codes, e.peers = true → e.acked ≤ chunk → chunk < e.acked + 32 → chunk < e.chunkCount r → rank < r.total → e.localRank r rank = false →
        codes.length = (e.needs r chunk rank).length →
        (e.contribution rank chunk = none → ∃ t b, exec (.chunkContribution q seq rank chunk codes) s = .next t ∧ (t.queue q).find seq = some b ∧
          b.chunks = e.chunks ++ [(rank, chunk, codes)] ∧ SameMemory s t) ∧
        (e.contribution rank chunk ≠ none → exec (.chunkContribution q seq rank chunk codes) s = .next s)) ∧
      ((e.chunks.any fun x => x.1 == chunkWritten && x.2.1 == e.acked) = true →
        ∃ t b, exec (.chunkAck q seq e.acked) s = .next t ∧ (t.queue q).find seq = some b ∧ b.acked = e.acked + 1 ∧ SameMemory s t ∧
          (e.acked + 1 = e.chunkCount r → WorkDone t q seq) ∧ (e.acked + 1 ≠ e.chunkCount r → b.work = .pending)) ∧
      (∀ port, e.peers = true → e.lacks r = true → port < 18 → (s.strand port).st = .up ∨ (s.strand port).st = .degraded →
        ∃ t, exec (.collectiveTimeout q seq port) s = .next t ∧ (t.strand port).st = .suspect ∧ t.time = max s.time (e.since + 1000 * s.ctime) ∧ SameMemory s t) ∧
      (e.lacks r = false → ∀ port, exec (.collectiveTimeout q seq port) s = .next s) ∧
      let broken : Prop := ∃ p, p < 18 ∧ ((s.strand p).st = .suspect ∨ (s.strand p).st = .excluded)
      (e.peers = true → broken → (∀ u, q ≠ .oq u) →
        ∃ t, exec (.causewayTimeout q seq) s = .next t ∧ WorkIs t q seq (.failed 0x0C false) ∧ t.time = max s.time (e.since + 1000 * s.ctime) ∧ SameMemory s t) ∧
      (e.peers = false ∨ ¬broken → exec (.causewayTimeout q seq) s = .next s)
  )

/-- 17 R330, R334, R337: K.MIGR marks a live entry as migrating, copies its page and switches it to the target frame, one step each; K.DISCARD leaves a discarded entry; entries that are free or
discarded, as an entry in a zeroed or discarded page of the table reads, are skipped and change nothing; misaligned addresses fail with 0x03, malformed and retired entries with 0x05, a large entry's discard
with 0x01; a discard waits while its entry migrates; after the last entry the command is done. That the copy of a page and the switch of its entry fall in one step is the model's choice (log entry 55). -/
def Obligations.PagesMoveAndGo : Prop :=
  (∀ s q e h o, Acts s q e →
    (e.pagesAligned = false → FailsWith (.kMigr h o) s q 0x03 ∧ FailsWith (.kDiscard h o) s q 0x03) ∧
    (e.pagesAligned = true → e.d 11 = 0 →
      (e.pages ≤ e.progress / 2 → exec (.kMigr h o) s = .next (s.setWork q s.focus.seq (.done false false false []))) ∧
      (e.pages ≤ e.progress → exec (.kDiscard h o) s = .next (s.setWork q s.focus.seq (.done false false false []))))) ∧
  (∀ s q e h o v t, Acts s q e → e.pagesAligned = true → e.progress % 2 = 0 → e.progress / 2 < e.pages → s.cmdRead q e (e.d 7) false (8 * (e.progress / 2) : Nat) 8 = .ok v t →
    let c := e.pageCount
    (peState v = 0 ∨ peState v = 5 →
      ∃ w, exec (.kMigr h o) s = .next w ∧ PagesAt w q s.focus.seq (e.progress + 2) c.changed (c.skipped + 1) c.incompressible c.released ∧ SameMemory t w) ∧
    (peState v = 3 ∨ peState v = 7 ∨ (peState v ≠ 0 ∧ peState v ≠ 5 ∧ peMalformed v true true = true) →
      ∃ w, exec (.kMigr h o) s = .next w ∧ WorkIs w q s.focus.seq (.failed 0x05 false)) ∧
    (peState v ≠ 0 → peState v ≠ 5 → peState v ≠ 3 → peState v ≠ 7 → peMalformed v true true = false → bitsOf (e.d 8) 33 32 ≠ 1 →
      let dst := (e.target (e.progress / 2) (bitOf v 48)).1
      (bitOf v 48 = true → dst % 32 = 0 ∧ frameExists (dst + 31) = true) → frameExists dst = true →
      ∀ l u, t.takeFresh.2.cmdReach q e (e.d 7) false (8 * (e.progress / 2) : Nat) true = .loc l u →
      ∃ w, exec (.kMigr h o) s = .next w ∧ PagesAt w q s.focus.seq (e.progress + 1) c.changed c.skipped c.incompressible c.released ∧
        w.read l 8 = peSetState v 3 ∧ SameOutside u w l 8)) ∧
  (∀ s q e h o v t l u, Acts s q e → e.pagesAligned = true → e.progress % 2 = 1 → e.progress / 2 < e.pages → s.settlePages.cmdRead q e (e.d 7) false (8 * (e.progress / 2) : Nat) 8 = .ok v t →
    t.cmdReach q e (e.d 7) false (8 * (e.progress / 2) : Nat) true = .loc l u →
    let c := e.pageCount
    peState v = 3 → bitsOf (e.d 8) 33 32 ≠ 1 → bitOf v 48 = false → Tbl.get 2 u.moves l = 2 → e.d 10 = 0 → Memory.wf u.mem = true → u.migrHeld e (e.progress / 2) l v = false →
      let fn := (e.target (e.progress / 2) false).1
      l + 8 ≤ frameBase fn ∨ frameBase fn + 65536 ≤ l →
      ∃ w, exec (.kMigr h o) s = .next w ∧ PagesAt w q s.focus.seq (e.progress + 1) (c.changed + 1) c.skipped c.incompressible (c.released + 1) ∧
        (∀ k, k < 65536 → w.byte (frameBase fn + k) = u.byte (frameBase (peFrame v) + k)) ∧ peFrame (w.read l 8) = fn ∧
        (Tbl.wf false u.poison = true → u.anyPoison (frameBase (peFrame v)) 65536 = false → peState (w.read l 8) = 2) ∧
        ∀ a, a < frameBase fn ∨ frameBase fn + 65536 ≤ a → a < l ∨ l + 8 ≤ a → w.byte a = u.byte a) ∧
  ∀ s q e h o v t, Acts s q e → e.pagesAligned = true → e.progress < e.pages → s.cmdRead q e (e.d 7) false (8 * e.progress : Nat) 8 = .ok v t →
    let c := e.pageCount
    (peState v = 0 ∨ peState v = 5 →
      ∃ w, exec (.kDiscard h o) s = .next w ∧ PagesAt w q s.focus.seq (e.progress + 1) c.changed (c.skipped + 1) c.incompressible c.released ∧ SameMemory t w) ∧
    (peState v = 7 ∨ (peState v ≠ 0 ∧ peState v ≠ 5 ∧ peMalformed v true true = true) → ∃ w, exec (.kDiscard h o) s = .next w ∧ WorkIs w q s.focus.seq (.failed 0x05 false)) ∧
    (peState v = 3 → peMalformed v true true = false → bitOf v 48 = false → exec (.kDiscard h o) s = .next t) ∧
    (peState v ≠ 0 → peState v ≠ 5 → peState v ≠ 7 → peMalformed v true true = false → bitOf v 48 = true → ∃ w, exec (.kDiscard h o) s = .next w ∧ WorkIs w q s.focus.seq (.failed 0x01 false)) ∧
    ∀ l u, t.cmdReach q e (e.d 7) false (8 * e.progress : Nat) true = .loc l u →
      peState v ≠ 0 → peState v ≠ 5 → peState v ≠ 3 → peState v ≠ 7 → peMalformed v true true = false → bitOf v 48 = false → e.d 10 = 0 →
      ∃ w, exec (.kDiscard h o) s = .next w ∧ PagesAt w q s.focus.seq (e.progress + 1) (c.changed + 1) c.skipped c.incompressible (c.released + 1) ∧
        w.read l 8 = discardedEntry v ∧ SameOutside u w l 8

/-- 17 R325, R331, R335, R336, R338, 23 R399, R401: a walk fills a context's translation, which serves
the accesses that change no entry, and raises its page's heat by one, but fills nothing from a free or retired entry; an
uncorrectable error poisons its line and every page that holds it, and one in DRAM tells the
harbour core; a corrected one poisons nothing and in a core's slice counts in its CNTST; the scrubber counts corrections and poisons lines, their pages and groups, as an access that meets an error of an accumulator store does; an
epoch halves every heat counter. What a cache keeps of a walk (log entry 39), the spare that a row takes and how an error of the corrected kind is named to the step (log entry 70) are the model's choices. -/
def Obligations.ErrorsScrubsAndHeat : Prop :=
  (∀ s core ctx va w, ctx < 3 → 2 ^ 44 ≤ va → va < 2 ^ 52 → s.walk va = some w → peMalformed w.entry false w.large = false →
    let v := s.read w.entryLoc 8
    ∃ t, exec (.pageWalk core ctx va) s = .next t ∧ SameOutside s t w.entryLoc 8 ∧
      (peState v ≠ 0 → peState v ≠ 7 → t.read w.entryLoc 8 = putBits v 56 8 (min 255 (bitsOf v 63 56 + 1)) ∧
        ∀ write, t.cached false core (va / 65536) write = if cachedServes v write then
          some { tile := false, core := core, key := va / 65536, loc := w.entryLoc, entry := t.read w.entryLoc 8, large := w.large } else none) ∧
      (peState v = 0 ∨ peState v = 7 → t = s)) ∧
  (∀ s location entry, entry < 2 ^ 64 → accGroup location = none →
    let spares := (s.mgmt.flash.filter fun r => decide (bitsOf r.toNat 63 60 = 1 ∧ bitsOf r.toNat 59 46 = (Config.rowOf location).toNat / 2 ^ 18)).length
    inDram location = false ∨ spares < 4 ∨ 4096 ≤ s.mgmt.flash.length →
    let all := (entry :: s.allEntries).eraseDups
    ∃ t, exec (.uncorrectableError location entry) s = .next t ∧ t.poisoned location = true ∧ (∀ a, (∀ l ∈ all, a < l ∨ l + 8 ≤ a) → t.byte a = s.byte a) ∧
      (∀ l ∈ all, (∀ m ∈ all, m = l ∨ m + 8 ≤ l ∨ l + 8 ≤ m) →
        let v := s.read l 8
        t.read l 8 = if s.pageHolds l v location = true ∧ (peState v = 1 ∨ peState v = 2 ∨ peState v = 4) then peSetState v 6 else v) ∧
      (inDram location = true → t.mgmt.hirqPending = s.mgmt.hirqPending ||| 2 ^ 5 ∧ t.mgmt.flash.length = (if s.mgmt.flash.length < 4096 then s.mgmt.flash.length + 1 else s.mgmt.flash.length)) ∧
      (inDram location = false → t.mgmt = s.mgmt)) ∧
  (∀ s location entry, 2 ^ 64 ≤ entry → inDram location = false ∨ s.mgmt.rrThreshold = 0 → ∃ t, exec (.uncorrectableError location entry) s = .next t ∧ SameMemory s t ∧ t.mgmt.flash = s.mgmt.flash ∧
    t.mgmt.hirqPending = s.mgmt.hirqPending ∧ t.poison = s.poison ∧
    (location < 2048 * 2 ^ 22 → (t.core (location / 2 ^ 22)).corrected = min (2 ^ 24 - 1) ((s.core (location / 2 ^ 22)).corrected + 1)) ∧
    ∀ g, accGroup location = some g → (t.core g.1).corrected = min (2 ^ 24 - 1) ((s.core g.1).corrected + 1)) ∧
  (∀ s location entry g, entry < 2 ^ 64 → accGroup location = some g →
    ∃ t, exec (.uncorrectableError location entry) s = .next t ∧ Tbl.get false (t.core g.1).accPoison g.2 = true ∧ (t.core g.1).acc = (s.core g.1).acc ∧ t.mgmt = s.mgmt ∧ SameMemory s t) ∧
  (∀ s core n lines groups, (s.core core).scrub ≠ 0 →
    ∃ t, exec (.scrubPass core n lines groups) s = .next t ∧ (t.core core).corrected = min (2 ^ 24 - 1) ((s.core core).corrected + n) ∧
      (∀ a, (∀ l ∈ s.allEntries, a < l ∨ l + 8 ≤ a) → t.byte a = s.byte a) ∧ (lines = [] → SameMemory s t) ∧
      (∀ p ∈ s.allEntries, (∀ m ∈ s.allEntries, m = p ∨ m + 8 ≤ p ∨ p + 8 ≤ m) →
        let v := s.read p 8
        t.read p 8 = if (∃ l ∈ lines, s.pageHolds p v (sliceLoc core (l % 65536 * 64)) = true) ∧ (peState v = 1 ∨ peState v = 2 ∨ peState v = 4) then peSetState v 6 else v) ∧
      (∀ l ∈ lines, t.poisoned (sliceLoc core (l % 65536 * 64)) = true) ∧ (∀ g ∈ groups, Tbl.get false (t.core core).accPoison (g % 65536) = true) ∧
      (t.core core).acc = (s.core core).acc) ∧
  ∀ s, s.hepoch ≠ 0 →
    ∃ t, exec .heatEpoch s = .next t ∧ (∀ a, (∀ l ∈ s.allEntries, a < l ∨ l + 8 ≤ a) → t.byte a = s.byte a) ∧
      ∀ l ∈ s.allEntries, (∀ m ∈ s.allEntries, m = l ∨ m + 8 ≤ l ∨ l + 8 ≤ m) → t.read l 8 = coolEntry (s.read l 8)

namespace Sys2Proof.Spec

/-- A command stands faulted with a cause, and its queue's fault bit is set (13 R276). -/
def Faulted (t : State) (q : QueueId) (seq cause : Nat) : Prop :=
  (t.queue q).fault = true ∧ ∃ e, (t.queue q).find seq = some e ∧ e.st = .faulted ∧ bitsOf (e.d 15) 31 24 = cause

/-- The messages that a command's end sends to its successors (13 R266, R284). -/
def decrements (s : State) (q : QueueId) (e : Entry) : List Msg :=
  e.succs.map fun r => { kind := .decrement, target := r.1, seq := resolveSeq (s.queue r.1).next r.2, fromQ := q, fromSeq := e.seq }

/-- The only message under way, at a queue whose target command has been pushed and stands unsaved. -/
structure LastMessage (s : State) (m : Msg) (e : Entry) : Prop where
  only : s.msgs = [m]
  pushed : wasPushed (s.queue m.target).next m.seq = true
  found : (s.queue m.target).find m.seq = some e
  here : e.st ≠ .saved

end Sys2Proof.Spec

/-- 13 R265, R266, R271: an arm adds its sender to the target's producers, a decrement lowers the target's count, an ebb lowers the target's demand and withdraws one that nothing demands any
more unless it is pinned; an arm or decrement for a command not yet pushed waits in the pending table; a message for one that has left marks the queue stale, but for a decrement
to one that an absorb rule has fired. -/
def Obligations.MessagesArrive : Prop :=
  (∀ s m e, LastMessage s m e → m.kind = .arm → ∃ t b, exec (.armArrival m.target) s = .next t ∧ t.msgs = [] ∧ (t.queue m.target).find m.seq = some b ∧ SameMemory s t ∧
    b = { e with producers := if (m.fromQ, m.fromSeq) ∈ e.producers ∨ 8 ≤ e.producers.length then e.producers else e.producers ++ [(m.fromQ, m.fromSeq)] }) ∧
  (∀ s m e, LastMessage s m e → m.kind = .decrement → bitOf (e.d 0) 17 = false →
    ∃ t, exec (.successorDecrement m.target) s = .next t ∧ t.msgs = [] ∧ (t.queue m.target).find m.seq = some { e with dep := e.dep - 1 } ∧ SameMemory s t) ∧
  (∀ s m e, LastMessage s m e → m.kind = .ebb →
    (e.demand ≠ 1 ∨ (e.st ≠ .pushed ∧ e.st ≠ .waiting ∧ e.st ≠ .ready) ∨ bitOf (e.d 0) 18 = true →
      ∃ t, exec (.ebbArrival m.target) s = .next t ∧ t.msgs = [] ∧ (t.queue m.target).find m.seq = some { e with demand := e.demand - 1 } ∧ SameMemory s t) ∧
    (e.demand = 1 → e.st = .pushed ∨ e.st = .waiting ∨ e.st = .ready → bitOf (e.d 0) 18 = false →
      ∃ t, exec (.ebbArrival m.target) s = .next t ∧ (t.queue m.target).find m.seq = none)) ∧
  (∀ s m, s.msgs = [m] → wasPushed (s.queue m.target).next m.seq = false → (s.queue m.target).find m.seq = none → (s.queue m.target).pending.length < 32 →
    (m.kind = .arm → ∃ t, exec (.armArrival m.target) s = .next t ∧ t.msgs = [] ∧ SameMemory s t ∧
      (t.queue m.target).pending = (s.queue m.target).pending ++ [{ arm := true, seq := m.seq, fromQ := m.fromQ, fromSeq := m.fromSeq }]) ∧
    (m.kind = .decrement → ∃ t, exec (.successorDecrement m.target) s = .next t ∧ t.msgs = [] ∧ SameMemory s t ∧
      (t.queue m.target).pending = (s.queue m.target).pending ++ [{ arm := false, seq := m.seq, fromQ := m.fromQ, fromSeq := m.fromSeq }])) ∧
  ∀ s m, s.msgs = [m] → wasPushed (s.queue m.target).next m.seq = true → (s.queue m.target).find m.seq = none →
    let stale (i : Instr) : Prop := ∃ t, exec i s = .next t ∧ t.msgs = [] ∧ (t.queue m.target).stale = true ∧ SameMemory s t
    (m.kind = .arm → stale (.armArrival m.target)) ∧ (m.kind = .ebb → stale (.ebbArrival m.target)) ∧
    (m.kind = .decrement → (s.queue m.target).fired.contains m.seq = false → stale (.successorDecrement m.target)) ∧
    (m.kind = .decrement → (s.queue m.target).fired.contains m.seq = true → exec (.successorDecrement m.target) s = .next { s with msgs := [] })


/-- 13 R268, R269, R274, R280, 20 R363: the first ready command that its engine can take starts, with its token popped, or faults with 0x08 where an active phase overlaps its sets, and with 0x0B on an optical unit that does not serve it. Also 13 R276, R280, 05 R109: a command whose work is done leaves its queue when its report, token and decrements find room: its bits are set, its token is pushed, its successors are told and
its report is delivered; without room it stays. A command whose work failed stands faulted with its cause. QCTL returns a faulted command to waiting, or removes it. -/
def Obligations.CommandsStartAndEnd : Prop :=
  (
    ∀ s q e, let u := s.advance q
      u.firstReady q = some e → (u.queue q).find e.seq = some e → e.image.length = 16 →
      (u.phaseOverlap q e = false → u.unlit q e = true → ∃ t, exec (.commandStart q) s = .next t ∧ Faulted t q e.seq 0x0B) ∧
      (u.phaseOverlap q e = false → u.unlit q e = false → ∃ t b, exec (.commandStart q) s = .next t ∧ (t.queue q).find e.seq = some b ∧ b.st = .running ∧ b.work = .pending ∧ b.progress = 0 ∧ b.image = e.image ∧
        (∀ k, e.popQueue = some k → (t.core (homeCore q e)).token k = if e.hasToken then (u.core (homeCore q e)).token k else (u.core (homeCore q e)).token k - 1)) ∧
      (u.phaseOverlap q e = true → ∃ t, exec (.commandStart q) s = .next t ∧ Faulted t q e.seq 0x08)
  ) ∧ (
    (∀ s q seq e v z f, (s.queue q).find seq = some e → e.st = .running → e.work = .done v z f [] → e.opcode ≠ 0x14 →
      (s.retireRoom q e = false → exec (.commandRetire q seq) s = .next s) ∧
      (s.retireRoom q e = true → s.consumers q seq = [] → (∀ u, q ≠ .oq u) → (s.core (homeCore q e)).trctl.getLsbD 0 = false →
        let k := s.core (homeCore q e)
        ∃ t, exec (.commandRetire q seq) s = .next t ∧ (t.queue q).find seq = none ∧ SameMemory s t ∧ t.msgs = s.msgs ++ decrements s q e ∧
          (t.core (homeCore q e)).evw = k.evw ||| BitVec.ofNat 32 (e.d 1 / 2 ^ 32) ∧
          (∀ n, (t.core (homeCore q e)).token n = if e.pushQueue = some n then k.token n + 1 else k.token n) ∧
          (e.reports = true → ∃ w, (t.core e.core).resultsOf e.reportClass = (s.core e.core).resultsOf e.reportClass ++ [w] ∧ w.toNat / 2 ^ 32 = e.seq % 2 ^ 32 ∧ w.toNat / 2 ^ 18 % 8 = 4))) ∧
    (∀ s q seq e c f, (s.queue q).find seq = some e → e.st = .running → e.work = .failed c f → c < 256 → e.image.length = 16 → (c ≠ 0x06 ∨ e.eligible (s.core (homeCore q e)) = false) →
      (∀ u, q ≠ .oq u) → ∃ t, exec (.commandFault q seq) s = .next t ∧ Faulted t q seq c ∧ (f = true → (t.queue q).frozen = true)) ∧
    (∀ s q seq e, (s.queue q).find seq = some e → e.st = .faulted → (∀ u, q ≠ .oq u) → (∀ d, q ≠ .lq d) →
      (bitOf (e.d 0) 17 = false → ∃ t b, exec (.qctlRetry q seq) s = .next t ∧ (t.queue q).find seq = some b ∧ b.st = .waiting ∧ b.work = .pending ∧ b.image = e.image ∧ SameMemory s t) ∧
      ∃ t, exec (.qctlCancel q seq) s = .next t ∧ (∀ b, b ∈ (t.queue q).entries ↔ b ∈ (s.queue q).entries ∧ b.seq ≠ seq) ∧ t.msgs = s.msgs ∧ SameMemory s t)
  )

/-- 14 R288 to R297: an armed head whose release time has come starts; its walker hands the next iteration to a free core that no lower-numbered queue takes, whose contexts start at the record's entries with the iteration's
indices in their registers and the iteration-end address in x31; a kernel whose iterations have all ended leaves, with its completion written where it names a place. -/
def Obligations.KernelsRun : Prop :=
  (∀ s kq k ks, s.kq kq = k :: ks → k.st = .armed → recD k.record 6 ≤ s.time →
    ∃ t k' ks', exec (.kernelStart kq) s = .next t ∧ t.kq kq = k' :: ks' ∧ k' = { k with st := .running, ran := true } ∧ SameMemory s t) ∧
  (∀ s kq k ks c, s.kq kq = k :: ks → k.st = .running → recBind k.record = false → recLock k.record = false → recDet k.record = false → k.handed < recTotal k.record →
    ((recCores k.record).filter fun c => (s.core c).free && !k.live.any fun p => p.1 == c).head? = some c → s.takenBefore kq [(c, k.handed)] = false →
    ∃ t k' ks', exec (.iterationHandoff kq) s = .next t ∧ SameMemory s t ∧ t.kq kq = k' :: ks' ∧ k'.handed = k.handed + 1 ∧ k'.live = k.live ++ [(c, k.handed)] ∧
      ∀ n, n < 3 → recD k.record (1 + n) ≠ 0 →
        (t.ctx c n).st = .running ∧ (t.ctx c n).pc = BitVec.ofNat 64 (recD k.record (1 + n)) ∧ (t.ctx c n).priv = recPriv k.record ∧ (t.ctx c n).getX 31 = iterationEnd ∧
        (∀ v r, v < 6 → (recPre k.record).getD v 0 = r → r ≠ 0 → r ≠ 31 → (∀ u, v < u → u < 7 → (recPre k.record).getD u 0 ≠ r) →
          (t.ctx c n).getX r = BitVec.ofNat 64 ((recIndex k.record k.handed).getD v 0)) ∧
        ∀ r, r ≠ 31 → (∀ v, v < 7 → (recPre k.record).getD v 0 ≠ r) → (t.ctx c n).getX r = 0) ∧
  (∀ s kq k ks, s.kq kq = k :: ks → k.live = [] → s.kernelCommands kq k.id = false → (k.st = .faulted ∨ (k.st = .running ∧ recTotal k.record ≤ k.handed)) → k.placer = none →
    recIrq k.record = false →
    (recD k.record 11 = 0 → ∃ t, exec (.kernelRetire kq) s = .next t ∧ t.kq kq = ks ∧ SameMemory s t) ∧
    let a := recD k.record 11
    (a ≠ 0 → a % 8 = 0 → a < 2 ^ 33 → (k.priv = true ∨ inSystemArea a = false) →
      ∃ t, exec (.kernelRetire kq) s = .next t ∧ t.kq kq = ks ∧ SameOutside s t a 8 ∧
        Holds t a 8 (k.ended % 2 ^ 32 * 2 ^ 32 + k.cause % 256 * 256 + (if k.st = .faulted then 4 else 3)))) ∧
  ∀ s kq k ks q seq, s.kq kq = k :: ks → k.live = [] → s.kernelCommands kq k.id = false → k.st = .running → recTotal k.record ≤ k.handed → k.placer = some (q, seq) →
    recIrq k.record = false → recD k.record 11 = 0 → exec (.kernelRetire kq) s = .next ({ s with kqs := Tbl.set [] s.kqs kq ks }.setWork q seq (.done false false false []))

/-! ### Links (19) -/


/-- 19 R344 to R347: LCTL's operations move a port between its states; a training attempt ends with the port up on eight lanes or degraded on four, three failed attempts exclude it, and a flit
sent eight times retrains it; a sound data flit in order on a channel that the port carries is delivered where its destination is this node, an unsound one changes nothing, and at most 128 flits are unacknowledged. Also 19 R342, R343, 10 R239: a CXL port's new width is recorded with the link interrupt; a far read that times out at its port returns poison, and a far write that does is dropped and told to
the harbour core: a buffered store, else the newest write that has left there; with none outstanding nothing happens. Which write that is (log entry 72), the window emptied as a port is enabled
and what an acknowledgement sends again (log entry 75) are the model's choices. -/
def Obligations.PortsFlitsAndFarMemory : Prop :=
  (
    (∀ s p, p < 18 → let v := s.strand p
      ((v.st = .down ∨ v.st = .excluded) → ∃ t, exec (.lctlEnable p) s = .next t ∧ (t.strand p).st = .training ∧ (t.strand p).window = [] ∧ (t.strand p).lanes = 0 ∧ SameMemory s t) ∧
      ((v.st = .up ∨ v.st = .degraded) → ∃ t, exec (.lctlRetrain p) s = .next t ∧ (t.strand p).st = .training ∧ (t.strand p).window = v.window ∧ SameMemory s t) ∧
      ((v.st = .up ∨ v.st = .degraded ∨ v.st = .suspect) → ∃ t, exec (.lctlExclude p) s = .next t ∧ (t.strand p).st = .excluded ∧ (t.strand p).window = [] ∧ SameMemory s t) ∧
      (v.st = .suspect → ∃ t, exec (.lctlClearSuspect p) s = .next t ∧ (t.strand p).st = (if v.lanes = 8 then .up else .degraded) ∧ SameMemory s t) ∧
      ((v.st = .up ∨ v.st = .degraded) → (∃ f ∈ v.window, 8 ≤ f.2.2) → ∃ t, exec (.flitRetryLimit p) s = .next t ∧ (t.strand p).st = .training ∧ (t.strand p).window = v.window ∧ SameMemory s t) ∧
      ((∀ f ∈ v.window, f.2.2 < 8) → exec (.flitRetryLimit p) s = .next s)) ∧
    (∀ s p lanes peer, (s.strand p).st = .training → let v := s.strand p
      ∃ t, exec (.strandTrainingDone p lanes peer) s = .next t ∧ SameMemory s t ∧ (4 ≤ lanes ∨ v.attempts ≠ 2 → ∀ n, n ≠ p → t.strand n = s.strand n) ∧
        (lanes = 8 → (t.strand p).st = .up ∧ (t.strand p).lanes = 8 ∧ (t.strand p).peer = peer % 2 ^ 16 ∧ (t.strand p).rxSeq = 0) ∧
        (4 ≤ lanes → lanes ≠ 8 → (t.strand p).st = .degraded ∧ (t.strand p).lanes = 4 ∧ (t.strand p).peer = peer % 2 ^ 16) ∧
        (lanes < 4 → v.attempts ≠ 2 → (t.strand p).st = .training ∧ (t.strand p).attempts = v.attempts + 1) ∧
        (lanes < 4 → v.attempts = 2 → (t.strand p).st = .excluded)) ∧
    ∀ s p f, let v := s.strand p
      (v.st = .up ∨ v.st = .degraded ∨ v.st = .suspect) →
        (flitSound f = false → exec (.flitReceive p f) s = .next s) ∧
        (flitSound f = true → flitByte f 0 / 16 = 1 → flitField f 1 2 = v.rxSeq → v.carries (flitByte f 0 % 16) = true →
          ∃ t, exec (.flitReceive p f) s = .next t ∧ (t.strand p).st = v.st ∧ (t.strand p).rxSeq = (v.rxSeq + 1) % 65536 ∧ SameMemory s t ∧
            (t.strand p).delivered = if flitField f 6 2 = s.node then v.delivered ++ [(f.drop 8).take 240] else v.delivered) ∧
        (flitSound f = true → (flitByte f 0 / 16 ≠ 1 ∨ flitField f 1 2 ≠ v.rxSeq ∨ v.carries (flitByte f 0 % 16) = false) →
          ∃ t, exec (.flitReceive p f) s = .next t ∧ (t.strand p).rxSeq = v.rxSeq ∧ (t.strand p).delivered = v.delivered ∧ SameMemory s t) ∧
        (flitSound f = true → flitByte f 0 / 16 ≠ 1 → v.waiting = [] → ∃ t, exec (.flitReceive p f) s = .next t ∧ (t.strand p).credits = v.credits + flitByte f 5) ∧
        (v.window.length ≤ 128 → ∃ t, exec (.flitReceive p f) s = .next t ∧ (t.strand p).window.length ≤ 128)
  ) ∧ (
    (∀ s p w, p < 4 → ∃ t, exec (.cxlPortTrained p w) s = .next t ∧ Tbl.get 0 t.cxl p = w ∧ SameMemory s t ∧
      ∀ n, n < 3 → (t.ctx harbourId n).ipend = (s.ctx harbourId n).ipend ||| BitVec.ofNat 64 4) ∧
    (∀ s l p, farPort l = some p → ∃ t, exec (.farTierTimeout false l p) s = .next t ∧ t.poisoned l = true ∧ SameMemory s t ∧ t.cores = s.cores) ∧
    (∀ s w l p, farPort l ≠ some p → exec (.farTierTimeout w l p) s = .next s) ∧
    ∀ s l p, farPort l = some p → let store (b : SbEntry) : Bool := b.storesAt l
      ((∃ c n, n < 3 ∧ (s.ctx c n).sbuf.any store = true) →
        ∃ t, exec (.farTierTimeout true l p) s = .next t ∧ t.mgmt.hirqPending = s.mgmt.hirqPending ||| 2 ^ 7 ∧ t.poison = s.poison ∧ SameMemory s t ∧
          (∀ c n, (s.ctx c n).sbuf.any store = false → (t.ctx c n).sbuf = (s.ctx c n).sbuf) ∧
          ∃ c n, n < 3 ∧ (s.ctx c n).sbuf.any store = true ∧ (t.ctx c n).sbuf = (s.ctx c n).sbuf.eraseP store) ∧
      ((∀ c n, n < 3 → (s.ctx c n).sbuf.any store = false) →
        ((s.overwritten.any fun w => w.at_ l) = false → exec (.farTierTimeout true l p) s = .next s) ∧
        ∀ newer w rest, s.overwritten = newer ++ w :: rest → (newer.any fun x => x.at_ l) = false → w.at_ l = true →
          ∃ t, exec (.farTierTimeout true l p) s = .next t ∧ t.mgmt.hirqPending = s.mgmt.hirqPending ||| 2 ^ 7 ∧ t.poison = s.poison ∧
            ∀ a, t.byte a = if w.loc ≤ a ∧ a < w.loc + w.size ∧ (newer.any fun x => x.at_ a) = false then BitVec.ofNat 8 (w.old / 256 ^ (a - w.loc)) else s.byte a)
  )

/-! ### The platform (24) -/

/-- 24 R414, 14 R296: the host's write of KQADDR places the record that it names, privileged and armed; a full queue drops the write and sets its bit. 10 R239, 14 R292: TIME at a context's
compare sets its interrupt and clears the compare; TIME moves on to a held release. Also 24 R414, 09 R230: an aligned host access to the open window reads a register or writes a mailbox; a misaligned one is ignored; a doorbell sets its bits in the doorbell object; an
access to device memory that no page maps, whose channel is in mission mode, or to the host's own memory, reads or writes it. That a record which the host places counts as privileged, and waits
behind host writes that the zeroed pool holds up (log entry 16), and that the host names memory by its location (log entry 50), are the model's choices. -/
def Obligations.HostRecordsAndAccesses : Prop :=
  (
    (∀ s kq a, s.windowOpen = true → s.mgmt.tripped = false → kq < 16 →
      (s.mgmt.hostHeld ≠ [] → ∃ t, exec (.kqaddrWrite kq a) s = .next t ∧ t.kqs = s.kqs ∧ t.mgmt.dropped = s.mgmt.dropped ∧ t.mgmt.hostHeld.length = s.mgmt.hostHeld.length + 1 ∧ SameMemory s t) ∧
      (s.mgmt.hostHeld = [] → (s.kq kq).length < 16 → a % 256 = 0 → a + 256 ≤ 2 ^ 33 → s.anyPoison a 256 = false → recCause a (s.readDs a 32) false = none →
        ∃ t k, exec (.kqaddrWrite kq a) s = .next t ∧ t.kq kq = s.kq kq ++ [k] ∧ k.record = s.readDs a 32 ∧ k.st = .armed ∧ k.priv = true ∧ k.owner = none ∧ k.handed = 0 ∧ SameMemory s t) ∧
      (s.mgmt.hostHeld = [] → 16 ≤ (s.kq kq).length → ∃ t, exec (.kqaddrWrite kq a) s = .next t ∧ t.kq kq = s.kq kq ∧ t.mgmt.dropped = s.mgmt.dropped ||| 2 ^ kq ∧ SameMemory s t)) ∧
    (∀ s core ctx now, (s.ctx core ctx).tcmp ≠ 0 → s.time < (s.ctx core ctx).tcmp.toNat →
      let at' := max (s.ctx core ctx).tcmp.toNat now
      ∃ t, exec (.timerInterrupt core ctx now) s = .next t ∧ t.time = at' ∧ (t.ctx core ctx).tcmp = 0 ∧ (t.ctx core ctx).ipend = (s.ctx core ctx).ipend ||| 1 ∧ SameMemory s t) ∧
    ∀ s now, ∃ t, exec (.timerWheelRelease now) s = .next t ∧ t.time = max s.time now ∧ SameMemory s t
  ) ∧ (
    (∀ s off n v, s.windowOpen = true → (n = 4 ∨ n = 8) → off % n = 0 →
      ∃ t, exec (.hostWindowAccess false off n v) s = .next t ∧ SameMemory s t ∧ t.mgmt.hostPoison = false ∧
        t.mgmt.hostRead = s.windowReg (off / 8 * 8) / 256 ^ (off % 8) % 256 ^ n) ∧
    (∀ s off n v, s.windowOpen = true → (n = 4 ∨ n = 8) → off % n = 0 → 0x400 ≤ off → off < 0x800 → s.mgmt.tripped = false →
      ∃ t, exec (.hostWindowAccess true off n v) s = .next t ∧ Holds t (mailboxes + (off - 0x400)) n v ∧ SameOutside s t (mailboxes + (off - 0x400)) n) ∧
    (∀ s off n v, (n ≠ 4 ∧ n ≠ 8) ∨ off % n ≠ 0 → exec (.hostWindowAccess true off n v) s = .next s) ∧
    (∀ s mask, s.windowOpen = true → s.mgmt.tripped = false →
      ∃ t, exec (.doorbell mask) s = .next t ∧ ∀ n, n < 3 → (t.ctx harbourId n).ipend.getLsbD 1 = true) ∧
    (∀ s mask, s.windowOpen = true → s.mgmt.tripped = false → mask % 2 ^ 16 ≠ 0 →
      ∃ t, exec (.doorbell mask) s = .next t ∧ Holds t (doorbellObject + 16) 4 ((s.syncObj doorbellObject).events ||| mask % 2 ^ 16)) ∧
    (∀ s l n v, hostReaches l = true → s.mgmt.hostFrozen = false → s.mgmt.tripped = false → 4 ≤ s.mgmt.stage → s.channelHeld l = false → (∀ p ∈ s.allEntries, s.pageHolds p (s.read p 8) l = false) →
      (∃ t, exec (.hostMemAccess false l n v) s = .next t ∧ t.mgmt.hostRead = s.read l n ∧ t.mgmt.hostPoison = s.anyPoison l n ∧ SameMemory s t) ∧
      ∃ t, exec (.hostMemAccess true l n v) s = .next t ∧ Holds t l n v ∧ SameOutside s t l n) ∧
    ∀ s l n v, hostMemory l = true →
      (∃ t, exec (.hostMemAccess false l n v) s = .next t ∧ t.mgmt.hostRead = s.read l n ∧ SameMemory s t) ∧
      ∃ t, exec (.hostMemAccess true l n v) s = .next t ∧ Holds t l n v ∧ SameOutside s t l n
  )

/-- 24 R412, R413, R410: each boot stage completes in turn, the first starting the harbour core alone at its boot ROM; a failed stage halts the boot; a power-on reset leaves no compute core a
context that runs; a warm reset discards queues, kernels and windows and keeps memory; an expired watchdog holds the wrack record and restarts the harbour core. That a warm reset keeps
the harbour core's contexts and the I/O die (log entry 51) and that the watchdog runs on at 1000 ms (log entry 52) are the model's choices. -/
def Obligations.ResetsAndBoot : Prop :=
  (∀ s node, s.mgmt.stage < 5 → s.mgmt.halted = false → s.mgmt.tripped = false →
    (∃ t, exec (.bootStageDone true node) s = .next t ∧ t.mgmt.stage = s.mgmt.stage + 1 ∧
      (s.mgmt.stage = 0 → (t.ctx harbourId 0).st = .running ∧ (t.ctx harbourId 0).priv = true ∧ (t.ctx harbourId 0).pc = Config.bootRom ∧ SameMemory s t) ∧
      (s.mgmt.stage = 1 → ∀ k, k < 768 → (t.pseudo k).mode = 2) ∧
      (s.mgmt.stage = 2 → ∀ a, a < 2 ^ 33 → (a < doorbellObject ∨ doorbellObject + 8 ≤ a) → t.byte a = 0) ∧
      (s.mgmt.stage = 3 → t.node = node % 2 ^ 16 ∧ SameMemory s t)) ∧
    ∃ t, exec (.bootStageDone false node) s = .next t ∧ t.mgmt.stage = s.mgmt.stage ∧ t.mgmt.halted = true ∧ SameMemory s t) ∧
  (∀ i s, i = .powerOnReset ∨ (i = .hresetPowerOn ∧ s.windowOpen = true) →
    ∃ t, exec i s = .next t ∧ t.mgmt.stage = 0 ∧ (∀ k n, (t.ctx k n).st = .idle) ∧ t.mgmt.flash = s.mgmt.flash ∧ t.time = State.reset.time ∧
      ∀ a, a < frameBase (2 ^ 28) → t.byte a = 0) ∧
  (∀ s, s.windowOpen = true → ∃ t, exec .hresetWarm s = .next t ∧ t.mgmt.stage = 1 ∧ (∀ k, k ≠ harbourId → t.core k = Core.reset) ∧ t.kqs = [] ∧ t.groups = [] ∧ t.wrack = s.wrack ∧
    t.msgs = [] ∧ t.lqs = [] ∧ t.tlb = [] ∧ (t.core harbourId).cq = Queue.reset ∧ (∀ u, (t.ofu u).queue = Queue.reset ∧ (t.ofu u).frameBuf = none) ∧
    (∀ n, (t.ctx harbourId n).log = UndoLog.reset) ∧
    t.mgmt.flash = s.mgmt.flash ∧ SameMemory s t) ∧
  ∀ s, s.mgmt.hwdt ≠ 0 → s.mgmt.stage ≠ 0 → s.wrack.hold = false →
    ∃ t, exec .hwdtExpire s = .next t ∧ t.wrack.hold = true ∧ (t.ctx harbourId 0).st = .running ∧ (t.ctx harbourId 0).pc = Config.bootRom ∧ t.mgmt.hwdt = 1000 ∧ SameMemory s t ∧
      ∀ k, k ≠ harbourId → (t.core k).vs = (s.core k).vs


/-- 24 R416 to R418: a sag raises its die's step by one up to 8 and counts; a recovery lowers it by one, not below the floor; heat raises the floor, and the step with it, or doubles a stack's
refresh; a power trip stops the dies, stage 15, with the wrack record held. Also 24 R420, R421: a test starts in training mode alone, a start outside it sets the bad bit, and a pseudo-channel under test keeps its test; a finished test is valid, with a fail bit for each
lane that miscompared, its delays outside its windows, a target lane's being its spare's. That heat raises the step at once (log entry 44) and what the windows of a lane are (log entry 11) are the
model's choices. -/
def Obligations.PowerHeatAndChannelTests : Prop :=
  (
    (∀ s d, d < 8 → ∃ t, exec (.supplySag d) s = .next t ∧ (t.tow d).k = min 8 ((s.tow d).k + 1) ∧ (t.tow d).kmax = max (s.tow d).kmax (min 8 ((s.tow d).k + 1)) ∧
      (t.tow d).events = min (2 ^ 32 - 1) ((s.tow d).events + 1) ∧ (∀ e, e ≠ d → t.tow e = s.tow e) ∧ SameMemory s t) ∧
    (∀ s d, d < 8 → ∃ t, exec (.undertowRecover d) s = .next t ∧ (t.tow d).k = (if s.mgmt.floor d < (s.tow d).k then (s.tow d).k - 1 else (s.tow d).k) ∧
      (t.tow d).events = (s.tow d).events ∧ SameMemory s t) ∧
    (∀ s d n, d < 8 → ∃ t, exec (.thermalStep false d n) s = .next t ∧ t.mgmt.floor d = min 8 (s.mgmt.floor d + n) ∧ (t.tow d).k = max (s.tow d).k (min 8 (s.mgmt.floor d + n)) ∧
      SameMemory s t) ∧
    (∀ s d n, d < 12 → s.mgmt.refreshDouble.contains d = false → ∃ t, exec (.thermalStep true d n) s = .next t ∧ t.mgmt.refreshDouble = s.mgmt.refreshDouble ++ [d] ∧ SameMemory s t) ∧
    ∀ s, s.mgmt.tripped = false → ∃ t, exec .powerTrip s = .next t ∧ t.mgmt.tripped = true ∧ t.mgmt.stage = 15 ∧ (s.wrack.hold = false → t.wrack.hold = true) ∧ SameMemory s t
  ) ∧ (
    (∀ s stack ch pc, let key := pseudoKey stack ch pc
      let v := s.pseudo key
      (v.test = 0 → v.mode = 1 →
        (∃ t, exec (.hpatReadTest stack ch pc) s = .next t ∧ t.pseudo key = { v with test := 1, fail := 0, valid := false } ∧ SameMemory s t) ∧
        ∃ t, exec (.hpatWriteReadTest stack ch pc) s = .next t ∧ t.pseudo key = { v with test := 2, fail := 0, valid := false } ∧ SameMemory s t) ∧
      (v.test = 0 → v.mode ≠ 1 →
        (∃ t, exec (.hpatReadTest stack ch pc) s = .next t ∧ t.pseudo key = { v with bad := true }) ∧
        ∃ t, exec (.hpatWriteReadTest stack ch pc) s = .next t ∧ t.pseudo key = { v with bad := true }) ∧
      (v.test ≠ 0 → exec (.hpatReadTest stack ch pc) s = .next s ∧ exec (.hpatWriteReadTest stack ch pc) s = .next s)) ∧
    ∀ s stack ch pc, let key := pseudoKey stack ch pc
      (s.pseudo key).test ≠ 0 → ∃ t, exec (.hbmTestDone stack ch pc) s = .next t ∧ (t.pseudo key).test = 0 ∧ (t.pseudo key).valid = true ∧ (t.pseudo key).mode = (s.pseudo key).mode ∧
        SameMemory s t ∧ ∀ l, l < 34 → bitOf (t.pseudo key).fail l = (s.pseudo key).lane key (s.pseudo key).test l
  )
/-! ### Reliability, debugging and pre-emption (10, 14, 15, 23) -/

/-- 14 R294, 23 R404, R405: the oldest load of a core that has not come arrives; a breakpoint stops a running stream at its cycle with 0x0D; a debug stop makes both streams follow without a
trap and a resume takes that back; a sample is written where tracing takes samples, and none where it is off. That a debug resume also frees the core's debug-stopped contexts is the model's
choice (log entry 48). -/
def Obligations.ArrivalsBreakpointsAndSamples : Prop :=
  (∀ s core a r b, (s.core core).vs.land = a ++ r :: b → (∀ x ∈ a, x.kind ≠ .load ∨ x.arrived = true) → r.kind = .load → r.arrived = false →
    ∃ t, exec (.elasticDataArrival core) s = .next t ∧ (t.core core).vs = { (s.core core).vs with land := a ++ { r with arrived := true } :: b, frozen := false } ∧ SameMemory s t) ∧
  (∀ s core a f b, (∀ x ∈ (s.core core).vs.land, x.kind ≠ .load ∨ x.arrived = true) → (s.core core).ms.mldi = a ++ f :: b → (∀ x ∈ a, x.arrived = true) → f.arrived = false →
    ∃ t, exec (.elasticDataArrival core) s = .next t ∧ (t.core core).ms = { (s.core core).ms with mldi := a ++ { f with arrived := true } :: b, frozen := false } ∧ SameMemory s t) ∧
  (∀ s core, (s.core core).vs.st = .running → (s.core core).bpcyc ≠ 0 → (s.core core).bpcyc.toNat = (s.core core).vs.cycle →
    exec (.breakpointCycle core) s = .next (s.vecStop core 0x0D true)) ∧
  (∀ s core, (s.core core).vs.st ≠ .running ∨ ((s.core core).vectorFirst = false ∧ (s.core core).bpcyc.toNat ≠ (s.core core).vs.cycle) → (s.core core).ms.st = .running → (s.core core).ms.step = none → (s.core core).ms.atStop = 0 → (s.core core).bpcyc ≠ 0 →
    (s.core core).bpcyc.toNat = (s.core core).ms.cycle → exec (.breakpointCycle core) s = .next (s.matStop core 0x0D (s.core core).ms.cycle true)) ∧
  (∀ s core j, (s.core core).job = some j → ∃ t, exec (.debugStop core) s = .next t ∧ (t.core core).job = some { j with debug := true } ∧ SameMemory s t ∧ (∀ c n, t.ctx c n = s.ctx c n) ∧
    ((s.core core).vs.st = .running → (s.core core).vs.atStop = 0 → (t.core core).vs.atStop = 1) ∧
    ((s.core core).ms.st = .running → (s.core core).ms.atStop = 0 → (t.core core).ms.atStop = 1)) ∧
  (∀ s core j, (s.core core).job = some j → j.debug = true → (s.core core).vs.st = .running → (s.core core).ms.st = .running →
    ∃ t, exec (.debugResume core) s = .next t ∧ (t.core core).job = some { j with debug := false } ∧ (t.core core).vs.atStop = 0 ∧ (t.core core).ms.atStop = 0 ∧ SameMemory s t ∧
      ∀ n, n < 3 → (t.ctx core n).dbg = false) ∧
  (∀ s core n, (s.core core).trctl.getLsbD 0 = false ∨ bitsOf (s.core core).trctl.toNat 31 16 = 0 ∨ 4 < n → exec (.traceSample core n) s = .next s) ∧
  ∀ s core n l u, (s.core core).trctl.getLsbD 0 = true → (s.core core).trctl.getLsbD 1 = true → bitsOf (s.core core).trctl.toNat 31 16 ≠ 0 → n < 3 → (s.core core).trdrops = 0 →
    let room := (s.core core).trlen.toNat * 65536
    room ≠ 0 → s.pagedAccess ((s.core core).trbase.toNat + (s.core core).trhead.toNat % room) true true true = .loc l u →
    ∃ t, exec (.traceSample core n) s = .next t ∧ SameOutside u t l 32 ∧ t.readD l = BitVec.ofNat 64 (s.core core).cycle ∧ t.readD (l + 8) = BitVec.ofNat 64 (2 ^ 56 + n * 2 ^ 52) ∧
      t.readD (l + 16) = (s.ctx core n).pc ∧ (t.core core).trhead = BitVec.ofNat 64 (((s.core core).trhead.toNat + 32) % room)


/-- 10 R248, R249: a pre-emption without a snapshot region is refused; one with makes the running streams stop with 0x10 and its kernels pre-empted; once work has drained every context and
unissued command is saved; a resume returns the contexts to the states they were saved in, with the registers and the pending arrival of their frames. That a waiting or handling context comes
back in that state, and what stops a context at its save, are the model's choices (log entry 43). -/
def Obligations.CoresArePreempted : Prop :=
  (∀ s core, let k := s.core core
    (k.preempt.state = 0 → k.preempt.psnap = 0 → ∃ t, exec (.pctlPreempt core) s = .next t ∧ (t.core core).preempt = { k.preempt with refused := true } ∧ (t.core core).vs = k.vs ∧ SameMemory s t) ∧
    (k.preempt.state = 0 → k.preempt.psnap ≠ 0 → ∃ t, exec (.pctlPreempt core) s = .next t ∧ (t.core core).preempt.state = 1 ∧ SameMemory s t ∧
      (∀ kq, t.kq kq = (s.kq kq).map fun v => if (v.st = .armed ∨ v.st = .running) ∧ core ∈ recCores v.record then { v with st := .preempted } else v) ∧
      (k.vs.st = .running → k.vs.atStop = 0 → (t.core core).vs.atStop = 17) ∧ (k.ms.st = .running → k.ms.atStop = 0 → (t.core core).ms.atStop = 17)) ∧
    (k.preempt.state ≠ 0 → exec (.pctlPreempt core) s = .next s) ∧
    (k.preempt.state = 2 → ∃ t, exec (.pctlResume core) s = .next t ∧ (t.core core).preempt.state = 3 ∧ SameMemory s t)) ∧
  (∀ s core, (s.core core).preempt.state = 1 → (s.core core).drained = true → (∀ n, n < 3 → (s.ctx core n).waiter = none ∧ (s.ctx core n).sbuf = []) →
    ∃ t, exec (.preemptSaved core) s = .next t ∧ (t.core core).preempt.state = 2 ∧ bitOf t.mgmt.hirqPending 6 = true ∧
      (∀ n, n < 3 → (s.ctx core n).st = .running ∨ (s.ctx core n).st = .waiting ∨ (s.ctx core n).st = .handler →
        (t.ctx core n).st = .saved ∧ (t.ctx core n).savedSt = (s.ctx core n).st) ∧
      ∀ q ∈ coreQueues core, ∀ e ∈ (t.queue q).entries, e.unissued = false) ∧
  ∀ s core, (s.core core).preempt.state = 3 → (s.core core).job = none → (s.core core).ms.st ≠ .stopped →
    ∃ t, exec (.resumeSettled core) s = .next t ∧ (t.core core).preempt.state = 0 ∧ SameMemory s t ∧
      ∀ n, n < 3 → (s.ctx core n).st = .saved →
        (t.ctx core n).st = (s.ctx core n).savedSt ∧ (t.ctx core n).pc = s.readD (frameLoc core n + 0x108) ∧ (t.ctx core n).bpend = Bpend.of (s.read (frameLoc core n + 0x148) 8) ∧
          ∀ r, r < 32 → (t.ctx core n).getX r = if r = 0 then 0 else s.readD (frameLoc core n + 8 * r)

/-- 23 R396 to R398: an eligible phase that met poison runs again once its lines have been refetched, and goes on with those still to run where one waits; one that read a poisoned line which no retired copy wrote
faults with 0x06, and one whose refetch faults with the refetch's cause. Which lines count as read, and 0x06 where none is known, are the model's choices (log entry 20). 10 R250: the
harbour core lifts a freeze of a context, which is then idle, of a queue, or of the host function. Also 15 R304, R305: a lockstep round starts when every member's queue would start a job of the group, and then every member's job starts in that step with its streams at cycle 0; while one
would not, nothing starts. -/
def Obligations.RerunsReleasesAndRounds : Prop :=
  (
    (∀ s q seq e, (s.queue q).find seq = some e → e.rerunWaits (s.core (homeCore q e)) = true → s.serviceOwed q seq = false →
      let found := (s.poisonedReads q e).map ((s.core (homeCore q e)).refetchOf (homeCore q e))
      (e.image.length = 16 → e.refetches = none → (found = [] ∨ none ∈ found) → ∃ t, exec (.phaseRerun q seq) s = .next t ∧ Faulted t q seq 0x06) ∧
      (∀ l, e.refetches = some l ∨ (e.refetches = none ∧ found ≠ [] ∧ none ∉ found ∧ l = (found.filterMap id).eraseDups.map fun r => (r.1, r.2, 0)) →
        let refetched := refetchAll (homeCore q e) q e l s
        (∀ u, refetched = .ok u →
          ∃ t b, exec (.phaseRerun q seq) s = .next t ∧ SameMemory u t ∧ (t.queue q).find seq = some b ∧ b.st = .running ∧ b.work = .pending ∧ b.progress = 0 ∧ b.reruns = e.reruns + 1) ∧
        (∀ u left, refetched = .wait u left → exec (.phaseRerun q seq) s = .next (u.modQueue q fun v => v.modEntry seq fun b => { b with refetches := some left })) ∧
        ∀ u c, refetched = .fault u c → e.image.length = 16 → c < 256 → (u.queue q).find seq = some e → ∃ t, exec (.phaseRerun q seq) s = .next t ∧ Faulted t q seq c)) ∧
    (∀ s core n, (s.ctx core n).st = .frozen → (s.ctx core n).iter = none → ∃ t, exec (.freezeRelease 0 core n) s = .next t ∧ (t.ctx core n).st = .idle) ∧
    (∀ s core n, ∃ t, exec (.freezeRelease 1 core n) s = .next t ∧ SameMemory s t ∧ (n = 0 → (t.queue (.mq core)).frozen = false) ∧ (n = 1 → (t.queue (.vq core)).frozen = false) ∧
      (n = 2 → (t.queue (.cq core)).frozen = false) ∧ (n = 3 → (t.queue (.oq core)).frozen = false) ∧ (4 ≤ n → (t.queue (.lq core)).frozen = false)) ∧
    ∀ s core n, exec (.freezeRelease 2 core n) s = .next { s with mgmt := { s.mgmt with hostFrozen := false } }
  ) ∧ (
    ∀ s g, (s.group g).kind = .lockstep →
      let cores := (s.group g).members.map fun m => m.2.1
      let u := cores.foldl (fun s c => s.advance (.vq c)) s
      ((∃ c ∈ cores, u.roundEntry g c = none) → exec (.lockstepRoundStart g) s = .next s) ∧
      (cores ≠ [] → cores.Nodup → (∀ c ∈ cores, ∃ e, u.roundEntry g c = some e ∧ (u.queue (.vq c)).find e.seq = some e ∧ u.phaseOverlap (.vq c) e = false) →
        ∃ t, exec (.lockstepRoundStart g) s = .next t ∧ ∀ c ∈ cores, ∀ e, u.roundEntry g c = some e →
          (∃ j, (t.core c).job = some j ∧ j.seq = e.seq) ∧ (e.d 7 ≠ 0 → (t.core c).vs.st = .running ∧ (t.core c).vs.cycle = 0) ∧ (e.d 8 ≠ 0 → (t.core c).ms.st = .running ∧ (t.core c).ms.cycle = 0))
  )

/-! ### Reverse motion (22) -/

/-- 22 R385, R387, R389, R391 to R394, 10 R243: the oldest staged record moves to the log region where there is room, or logging is disabled where its page takes it no more; a staged record stands
in the staging area, and a checkpoint's header, there or in the region, takes its window's state (where it stands and when it is written are log entry 41); a rewind that is refused changes nothing, one that is not
returns the context to its window's checkpoint and restores what its records hold; a step back rewinds and then replays to its instruction. That a
rewound context stays debug-stopped and a replaying one does not is the model's choice (log entry 22). -/
def Obligations.ReverseMotion : Prop :=
  (∀ s core ctx r, let l := (s.ctx core ctx).log
    l.recs = [r] → r.at_ = none →
    (l.room < r.bytes → exec (.logRecordMove core ctx) s = .next s) ∧
    (∀ u, r.bytes ≤ l.room → s.logWrite l l.head.toNat (r.header l.windows ++ r.body) = some u → ∃ t, exec (.logRecordMove core ctx) s = .next t ∧ SameMemory u t ∧
      (t.ctx core ctx).log.recs = [{ r with at_ := some l.head.toNat, put := some (l.head.toNat, (r.header l.windows).headD 0) }] ∧ (t.ctx core ctx).log.head = BitVec.ofNat 64 ((l.head.toNat + r.bytes) % l.room)) ∧
    (r.bytes ≤ l.room → s.logWrite l l.head.toNat (r.header l.windows ++ r.body) = none → ∃ t, exec (.logRecordMove core ctx) s = .next t ∧ (t.ctx core ctx).log.en = false ∧
      (t.ctx core ctx).log.recs = [] ∧ SameMemory s t)) ∧
  (∀ (s : State) core ctx (r : Rec), let l := (s.ctx core ctx).log
    let w := (r.header l.windows).headD 0
    let t := s.settleLog core ctx
    l.recs = [r] → l.dead = [] →
    (r.at_ = none → r.put = none → r.bytes ≤ 4096 → SameMemory (s.stageWords core ctx l.head.toNat (r.header l.windows ++ r.body)) t ∧ (t.ctx core ctx).log.recs = [{ r with put := some (l.head.toNat % 4096, w) }]) ∧
    (∀ o u, r.at_ = some o → r.put.map (·.2) ≠ some w → s.logWrite l o [w] = some u → SameMemory u t ∧ (t.ctx core ctx).log.recs = [{ r with put := some (o, w) }]) ∧
    (r.put.map (·.2) = some w → r.bytes ≤ 4096 → t.mem = s.mem)) ∧
  (∀ s g core ctx w, s.rewindRefused g (s.scope g core ctx) w = true → exec (.rewind g core ctx w) s = .next s) ∧
  (∀ s core ctx w v, let c := s.ctx core ctx
    s.rewindRefused none [(core, ctx)] w = false → c.log.target w = some v → c.waiter = none → c.sbuf = [] →
    ∃ t, exec (.rewind none core ctx w) s = .next t ∧ (t.ctx core ctx).x = v.x ∧ (t.ctx core ctx).p = v.p ∧ (t.ctx core ctx).c = v.c ∧ (t.ctx core ctx).pc = v.pc ∧
      (t.ctx core ctx).dbg = true ∧ (c.log.after w = [] → SameMemory s t) ∧
      ∀ r, c.log.after w = [r] → r.kind = 1 → r.loc + 2 ^ r.size ≤ 2 ^ 33 → Holds t r.loc (2 ^ r.size) (r.body.headD 0).toNat ∧ SameOutside s t r.loc (2 ^ r.size)) ∧
  (∀ s core ctx n, (s.ctx core ctx).log.iret < n → exec (.stepback none core ctx n) s = .next s) ∧
  ∀ s core ctx n w v, let c := s.ctx core ctx
    n ≤ c.log.iret → c.log.stepTarget (c.log.iret - n) = some w → s.rewindRefused none [(core, ctx)] w = false → c.log.target w = some v → c.waiter = none → c.sbuf = [] →
    ∃ t, exec (.stepback none core ctx n) s = .next t ∧ (t.ctx core ctx).x = v.x ∧ (t.ctx core ctx).pc = v.pc ∧ (t.ctx core ctx).dbg = false ∧
      (t.ctx core ctx).log.replay = some (c.log.iret - n)

/-! ### The step and the encodings (03 R46 to R72) -/

namespace Sys2Proof.Spec

/-- The instructions that are words of the control core (03 R51). -/
def isControl (i : Instr) : Bool :=
  match i with
  | .add .. | .sub .. | .and .. | .or .. | .xor .. | .sll .. | .srl .. | .sra .. | .mul .. | .mulh .. | .div .. | .divu .. | .rem ..
  | .min .. | .max .. | .addi .. | .andi .. | .ori .. | .xori .. | .slli .. | .srli .. | .srai .. | .lui .. | .ceq .. | .cne .. | .clt ..
  | .cltu .. | .cge .. | .cgeu .. | .ceqi .. | .clti .. | .pand .. | .por .. | .b .. | .j .. | .jal .. | .jr .. | .jalr .. | .ld ..
  | .st .. | .lda .. | .stl .. | .lds .. | .sts .. | .amoadd .. | .amoand .. | .amoor .. | .amomax .. | .amoswp .. | .amocas .. | .fence ..
  | .acq .. | .rel .. | .bind .. | .cset .. | .cseti .. | .cclr .. | .push .. | .rpush .. | .fpop .. | .zpop .. | .zpush .. | .gjoin ..
  | .gleave .. | .barr .. | .sig .. | .waits .. | .tmark .. | .csrr .. | .csrw .. | .trap .. | .rfe | .tkpush .. | .tkvx .. | .tkmx ..
  | .tcmpWrite .. | .tsqPop .. | .tsdone .. | .tinv .. | .cmclr .. | .wrctlWrite .. | .hctlWrite .. | .hrepWrite .. | .hwdtWrite .. => true
  | _ => false

/-- The instructions that are words of the vector engine (03 R57). -/
def isVector (i : Instr) : Bool :=
  match i with
  | .vaddF .. | .vsubF .. | .vmulF .. | .vfmaF .. | .vminF .. | .vmaxF .. | .vdivF .. | .vsqrtF .. | .vabsF .. | .vnegF .. | .vaddI ..
  | .vsubI .. | .vmulI .. | .vmacI .. | .vand .. | .vor .. | .vxor .. | .vshl .. | .vshr .. | .vsra .. | .vminI .. | .vmaxI .. | .vcmpF ..
  | .vcmpI .. | .vsel .. | .vcvt .. | .vpack .. | .vunpk .. | .vcmul .. | .vcfma .. | .vtwid .. | .vreds .. | .vredm .. | .vperm ..
  | .vbcst .. | .vmovg .. | .vclmp .. | .vpopc .. | .vtopk .. | .vnms .. | .vboxd .. | .vdwc .. | .vlut .. | .vld .. | .vst .. | .vgath ..
  | .vscat .. | .vacld .. | .vacz .. | .vsadd .. | .vsaddi .. | .vsmov .. | .vloop .. | .vlbr .. | .vbr .. | .vj .. | .vtok .. | .vrdv ..
  | .vfmtSelect .. | .vfmtLoad .. | .vkac .. | .vwait .. | .vsig .. | .vstop .. | .vnop .. => true
  | _ => false

/-- The instructions that are words of the matrix engine (03 R64). -/
def isMatrix (i : Instr) : Bool :=
  match i with
  | .mma .. | .mmaS .. | .mmaG .. | .mmaT .. | .mwin .. | .mconv .. | .mzero .. | .mldi .. | .mloop .. | .mlbr .. | .mbr .. | .mj ..
  | .mtok .. | .mrdv .. | .mstop .. | .mfmt .. | .mkat .. | .msig .. => true
  | _ => false

/-- The instructions that are words of the queues (03 R67). -/
def isCommand (i : Instr) : Bool :=
  match i with
  | .kCopy .. | .kGather .. | .kScatter .. | .kFill .. | .kFeed .. | .kJob .. | .kNest .. | .kOft .. | .kOmask .. | .kOcalRun ..
  | .kOcalWrite .. | .kOcalRead .. | .kAllred .. | .kAllgath .. | .kRedscat .. | .kBcast .. | .kAlltoall .. | .kTopkm .. | .kMigr ..
  | .kDiscard .. | .kKernel .. | .kEvent .. | .kNop .. | .kPrefetch .. => true
  | _ => false

/-- A context at its slot whose next thing is to issue the instruction at its program counter: it runs, nothing is held for its boundary, no replay and no breakpoint stands in the way,
no load of its own is outstanding, and its code's channel is in mission mode (05 R122, 10 R232, R247, 24 R420). -/
structure CtxIssues (s : State) (core n : Nat) : Prop where
  named : core ≤ harbourId
  here : s.focus.core = core ∧ s.focus.ctx = n
  clock : s.clocked core = true
  st : s.cur.st = .running ∨ s.cur.st = .waiting ∨ s.cur.st = .handler
  debug : s.cur.dbg = false
  replay : s.cur.log.replay = none
  irqs : s.cur.log.irqs = []
  stop : s.cur.atBoundary = true → s.owedStop core n = none
  watch : s.cur.atBoundary = true → s.cur.wpTrap = false
  irq : s.cur.atBoundary = true → s.takeable core n = 0
  bp : s.cur.atBreakpoint = false
  loads : s.cur.loads = []
  inside : s.cur.pc ≠ iterationEnd
  channel : s.accessHeld s.cur.pc.toNat false = false
  aligned : s.cur.pc.toNat % 4 = 0

/-- A vector stream that issues its next word in its cycle (06 R124, 10 R244, R245). -/
structure VecIssues (s : State) (core : Nat) : Prop where
  named : core < 2048
  st : (s.core core).vs.st = .running
  clock : s.clocked core = true
  free : s.vecHeld core = false ∧ (s.core core).matrixBehind = false ∧ s.peerStops core (s.core core).vecTime = false
  landed : (s.core core).vs.land.any (s.core core).landable = false
  due : ∀ r ∈ (s.core core).vs.land, (s.core core).vs.cycle < r.due
  stop : (s.core core).vs.atStop = 0 ∧ (s.core core).vs.stopIssued = false ∧ s.irqStop core = false
  bp : (s.core core).bpcyc = 0 ∨ (s.core core).bpcyc.toNat ≠ (s.core core).vs.cycle
  first : s.matrixFirst core = false

/-- A matrix stream that issues its next word (08 R186, 10 R245). -/
structure MatIssues (s : State) (core : Nat) : Prop where
  named : core < 2048
  st : (s.core core).ms.st = .running
  clock : s.clocked core = true
  free : s.matHeld core = false ∧ s.peerStops core (s.core core).matTime = false
  bp : (s.core core).matrixBreak = false
  gather : (s.core core).mldiReady = false ∧ (s.core core).mldiHeld = false
  step : (s.core core).ms.step = none
  stop : (s.core core).ms.atStop = 0 ∧ (s.core core).ms.stopIssued = false ∧ s.irqStop core = false
  first : (s.core core).vectorFirst = false

end Sys2Proof.Spec

/-- 03 R46, R50, 10 R232: a step runs the decoded instruction. A turn moves a core to its next slot that is not empty, whose owner issues the instruction that the four bytes of its code decode
to, which are those in memory unless a write has changed them since it last fenced and jumped; a stream that has the turn issues the word that its code holds; a running command whose work is due
runs the instruction of its image; a step of the device that the agenda names runs. That the agenda says whose turn it is (log entry 1), which older bytes a fetch still sees (log entry 59) and
that the logs' bytes in memory are brought up to date at the start of a step (log entry 41) are the model's own. -/
def Obligations.StepRunsTheDecodedInstruction : Prop :=
  (∀ (s v : State) core named rest l u i, v = s.settleLogs → v.agenda = .ctx core named :: rest → named < 3 →
    let slot := (v.core core).nextSlot named
    let n := slotOwner slot
    let t := { ({ v with agenda := rest }.modCore core fun k => { k with cycle := slot }).chargeStopped core (slot - (v.core core).cycle) with
      focus := { core := core, ctx := n, queue := .cq core, seq := 0 } }
    CtxIssues t core n → t.reach core t.cur.pc.toNat false (t.privileged core n) false = .loc l u → t.anyPoison l 4 = false → decodeControl (u.codeRead t.cur l 4) = .ok i →
      (t.accesses i).any (fun a => t.accessHeld a.1 a.2) = false → step s = exec i u) ∧
  (∀ (s : State) (c : Ctx) l, s.overwritten.length ≤ c.codeSince → s.codeRead c l 4 = s.read l 4) ∧
  (∀ s : State, (∀ core n, (s.ctx core n).log.recs = [] ∧ (s.ctx core n).log.dead = []) → s.settleLogs = s) ∧
  (∀ (s v : State) core rest j i, v = s.settleLogs → v.agenda = .vec core :: rest → (v.core core).job = some j →
    let t := { v with agenda := rest }.focusJob core j
    VecIssues t core → decodeVector (t.codeWord core ((v.core core).vs.base + 12 * (v.core core).vs.pc) 3) = .ok i → step s = exec i t) ∧
  (∀ (s v : State) core rest j i, v = s.settleLogs → v.agenda = .mat core :: rest → (v.core core).job = some j →
    let t := { v with agenda := rest }.focusJob core j
    MatIssues t core → decodeMatrix (t.codeWord core ((v.core core).ms.base + 24 * (v.core core).ms.pc) 6) = .ok i → step s = exec i t) ∧
  (∀ (s v : State) q seq rest e i, v = s.settleLogs → v.agenda = .cmd q seq :: rest → q.wf = true → (v.queue q).find seq = some e → e.st = .running → e.work = .pending →
    v.clocked (queueClock q) = true → v.serviceOwed q seq = false → decodeCommand (imageWord e.image) = .ok i →
      step s = exec i { v with agenda := rest, focus := { core := homeCore q e, ctx := e.ctx, queue := q, seq := seq } }) ∧
  ∀ (s v : State) i rest, v = s.settleLogs → v.agenda = .ev i :: rest → isStep i = true → wellFormed i = true → v.stepClocked i = true → step s = exec i { v with agenda := rest }

/-- 03 R47, R51 to R59: words that the spec writes out, with the instruction that each stands for, and two that stand for none: an unassigned opcode and a reserved bit. -/
def Obligations.WordsDecode : Prop :=
  decodeControl 0x2051FFFE = .ok (.addi 5 3 0x7FFE) ∧
  decodeControl 0x02410CA0 = .ok (.add 4 2 3 { p := 2, neg := true }) ∧
  decodeControl 0x3C250000 = .ok (.ceqi 2 10 0) ∧
  decodeControl 0x4A0F8000 = .ok (.jr 31 { p := 0, neg := false }) ∧
  decodeControl 0x90000000 = .ok .rfe ∧
  decodeVector 0x3F0000000000000000000000 = .ok (.vstop 0 0 0) ∧
  decodeVector 0x340000410000801000000000 = .ok (.vsmov { guard := { p := 0, neg := false }, slot := 0, pop := 0, push := 0 } 4 (.imm 0x1000)) ∧
  decodeControl 0xFE000000 = .error .unassignedOpcode ∧
  decodeControl 0x4A0F8001 = .error .reservedField

/-- 03 R51 to R72: for every well-formed instruction of a record, its words fit the record and decode to it, every operand at every value that its field admits. -/
def Obligations.DecodeOfEncode : Prop :=
  (∀ i, wellFormed i = true → isControl i = true → encode i < 2 ^ 32 ∧ decodeControl (encode i) = .ok i) ∧
  (∀ i, wellFormed i = true → isVector i = true → encode i < 2 ^ 96 ∧ decodeVector (encode i) = .ok i) ∧
  (∀ i, wellFormed i = true → isMatrix i = true → encode i < 2 ^ 192 ∧ decodeMatrix (encode i) = .ok i) ∧
  ∀ i, wellFormed i = true → isCommand i = true → encode i < 2 ^ 1024 ∧ decodeCommand (encode i) = .ok i

/-- 03 R51 to R66: a word of the control core or of a stream that decodes at all decodes to a well-formed instruction of its record, whose encoding is that word: no bit of it is dropped and no
two words stand for one instruction. -/
def Obligations.EncodeOfDecode : Prop :=
  (∀ w i, w < 2 ^ 32 → decodeControl w = .ok i → isControl i = true ∧ wellFormed i = true ∧ encode i = w) ∧
  (∀ w i, w < 2 ^ 96 → decodeVector w = .ok i → isVector i = true ∧ wellFormed i = true ∧ encode i = w) ∧
  ∀ w i, w < 2 ^ 192 → decodeMatrix w = .ok i → isMatrix i = true ∧ wellFormed i = true ∧ encode i = w

/-- Every step keeps memory in its canonical form: addresses strictly rising, and no entry equal to what an unlisted address reads as. -/
def Obligations.StepKeepsMemoryCanonical : Prop :=
  ∀ s t, Memory.wf s.mem → step s = .next t → Memory.wf t.mem

/-- 24 R412, R414, 20 R361, 15 R298, 23 R407: what reset leaves. No boot stage is complete, every context is idle and unprivileged, every queue empty and unfaulted, every group empty, every
optical unit dark, nothing is tripped or pending, and memory is canonical. The registers whose reset value the spec does not give are log entry 2's; that every byte reads 0 is entry 3's. -/
def Obligations.ResetState : Prop :=
  let s := State.reset
  Memory.wf s.mem ∧ s.mgmt.stage = 0 ∧ s.mgmt.tripped = false ∧ s.mgmt.hirqPending = 0 ∧ s.wrack.hold = false ∧ s.msgs = [] ∧
  (∀ core n, (s.ctx core n).st = .idle ∧ (s.ctx core n).priv = false ∧ (s.ctx core n).busy = false) ∧
  (∀ q, (s.queue q).entries = [] ∧ (s.queue q).fault = false ∧ (s.queue q).frozen = false ∧ (s.queue q).next = 0) ∧
  (∀ g, (s.group g).kind = .empty ∧ (s.group g).members = []) ∧
  (∀ u, (s.ofu u).st = .dark ∧ (s.ofu u).queue.entries = []) ∧
  (∀ core, (s.core core).job = none ∧ (s.core core).vs.st = .absent ∧ (s.core core).ms.st = .absent) ∧
  ∀ a, s.byte a = 0
end

