-- ==== Sys2Proof/Laws/Table.lean ====
section
/-! SUPPORT. The laws of sparse tables: read after write, and that every write keeps the canonical form. -/

namespace Sys2Proof.Machine

variable {α : Type}

theorem Tbl.get_erase_same (d : α) (t : Tbl α) (k : Nat) : Tbl.get d (Tbl.erase t k) k = d := by
  induction t with
  | nil => rfl
  | cons e t ih =>
    obtain ⟨k', v⟩ := e
    by_cases h : k' = k <;> simp [Tbl.erase, Tbl.get, h, ih]

theorem Tbl.get_erase_other (d : α) (t : Tbl α) (k j : Nat) (hj : j ≠ k) :
    Tbl.get d (Tbl.erase t k) j = Tbl.get d t j := by
  induction t with
  | nil => rfl
  | cons e t ih =>
    obtain ⟨k', v⟩ := e
    by_cases h : k' = k
    · subst h; simp [Tbl.erase, Tbl.get, ih, Ne.symm hj]
    · by_cases h2 : k' = j
      · subst h2; simp [Tbl.erase, Tbl.get, h]
      · simp [Tbl.erase, Tbl.get, h, h2, ih]

theorem Tbl.get_insert_other (d : α) (t : Tbl α) (k j : Nat) (v : α) (hj : j ≠ k) :
    Tbl.get d (Tbl.insert t k v) j = Tbl.get d t j := by
  induction t with
  | nil => simp [Tbl.insert, Tbl.get, Ne.symm hj]
  | cons e t ih =>
    obtain ⟨k', v'⟩ := e
    unfold Tbl.insert
    split
    · simp [Tbl.get, Ne.symm hj]
    · by_cases h2 : k' = j <;> simp [Tbl.get, h2, ih]

theorem Tbl.get_insert_erased (d : α) (t : Tbl α) (k : Nat) (v : α) :
    Tbl.get d (Tbl.insert (Tbl.erase t k) k v) k = v := by
  induction t with
  | nil => simp [Tbl.erase, Tbl.insert, Tbl.get]
  | cons e t ih =>
    obtain ⟨k', v'⟩ := e
    by_cases h : k' = k
    · simp [Tbl.erase, h, ih]
    · simp only [Tbl.erase, h, if_false, Tbl.insert]
      split
      · simp [Tbl.get]
      · simp [Tbl.get, h, ih]

theorem Tbl.mem_erase {t : Tbl α} {k : Nat} {e : Nat × α} (h : e ∈ Tbl.erase t k) : e ∈ t ∧ e.1 ≠ k := by
  induction t with
  | nil => simp [Tbl.erase] at h
  | cons a t ih =>
    obtain ⟨k', v⟩ := a
    by_cases hk : k' = k
    · simp only [Tbl.erase, hk, if_true] at h
      exact ⟨List.mem_cons_of_mem _ (ih h).1, (ih h).2⟩
    · simp only [Tbl.erase, hk, if_false, List.mem_cons] at h
      rcases h with h | h
      · subst h; exact ⟨List.mem_cons_self, hk⟩
      · exact ⟨List.mem_cons_of_mem _ (ih h).1, (ih h).2⟩

theorem Tbl.mem_insert {t : Tbl α} {k : Nat} {v : α} {e : Nat × α} (h : e ∈ Tbl.insert t k v) :
    e = (k, v) ∨ e ∈ t := by
  induction t with
  | nil => simpa [Tbl.insert] using h
  | cons a t ih =>
    obtain ⟨k', v'⟩ := a
    unfold Tbl.insert at h
    split at h
    · simpa using h
    · rcases List.mem_cons.1 h with h | h
      · exact .inr (h ▸ List.mem_cons_self)
      · rcases ih h with h | h
        · exact .inl h
        · exact .inr (List.mem_cons_of_mem _ h)

theorem Tbl.erase_pairwise {t : Tbl α} (k : Nat) (h : t.Pairwise fun a b => a.1 < b.1) :
    (Tbl.erase t k).Pairwise fun a b => a.1 < b.1 := by
  induction t with
  | nil => exact List.Pairwise.nil
  | cons a t ih =>
    obtain ⟨k', v⟩ := a
    rw [List.pairwise_cons] at h
    by_cases hk : k' = k
    · simpa [Tbl.erase, hk] using ih h.2
    · simp only [Tbl.erase, hk, if_false]
      exact List.pairwise_cons.2 ⟨fun b hb => h.1 b (Tbl.mem_erase hb).1, ih h.2⟩

theorem Tbl.insert_pairwise {t : Tbl α} (k : Nat) (v : α) (h : t.Pairwise fun a b => a.1 < b.1)
    (hk : ∀ e ∈ t, e.1 ≠ k) : (Tbl.insert t k v).Pairwise fun a b => a.1 < b.1 := by
  induction t with
  | nil => simp [Tbl.insert]
  | cons a t ih =>
    obtain ⟨k', v'⟩ := a
    rw [List.pairwise_cons] at h
    unfold Tbl.insert
    split
    · rename_i hlt
      refine List.pairwise_cons.2 ⟨fun b hb => ?_, List.pairwise_cons.2 h⟩
      rcases List.mem_cons.1 hb with rfl | hb
      · exact hlt
      · exact Nat.lt_trans hlt (h.1 b hb)
    · rename_i hlt
      refine List.pairwise_cons.2 ⟨fun b hb => ?_, ih h.2 fun e he => hk e (List.mem_cons_of_mem _ he)⟩
      rcases Tbl.mem_insert hb with rfl | hb
      · have := hk (k', v') List.mem_cons_self
        simp only at this ⊢; omega
      · exact h.1 b hb

variable [DecidableEq α]

@[simp] theorem Tbl.get_set_same (d : α) (t : Tbl α) (k : Nat) (v : α) : Tbl.get d (Tbl.set d t k v) k = v := by
  unfold Tbl.set
  split
  · rename_i h; rw [Tbl.get_erase_same, h]
  · exact Tbl.get_insert_erased d t k v

theorem Tbl.get_set_other (d : α) (t : Tbl α) (k j : Nat) (v : α) (hj : j ≠ k) :
    Tbl.get d (Tbl.set d t k v) j = Tbl.get d t j := by
  unfold Tbl.set
  split
  · exact Tbl.get_erase_other d t k j hj
  · rw [Tbl.get_insert_other d _ k j v hj, Tbl.get_erase_other d t k j hj]

theorem Tbl.wf_iff (d : α) (t : Tbl α) :
    Tbl.wf d t = true ↔ t.Pairwise (fun a b => a.1 < b.1) ∧ ∀ e ∈ t, e.2 ≠ d := by
  simp [Tbl.wf]

/-- Writing keeps the canonical form. -/
theorem Tbl.set_wf (d : α) (t : Tbl α) (k : Nat) (v : α) (h : Tbl.wf d t = true) : Tbl.wf d (Tbl.set d t k v) = true := by
  rw [Tbl.wf_iff] at h ⊢
  unfold Tbl.set
  split
  · exact ⟨Tbl.erase_pairwise k h.1, fun e he => h.2 e (Tbl.mem_erase he).1⟩
  · rename_i hv
    refine ⟨Tbl.insert_pairwise k v (Tbl.erase_pairwise k h.1) fun e he => (Tbl.mem_erase he).2, fun e he => ?_⟩
    rcases Tbl.mem_insert he with rfl | he
    · exact hv
    · exact h.2 e (Tbl.mem_erase he).1

/-- Clearing a range keeps the canonical form. -/
theorem Tbl.clear_wf (d : α) (t : Tbl α) (lo n : Nat) (h : Tbl.wf d t = true) : Tbl.wf d (Tbl.clear t lo n) = true := by
  rw [Tbl.wf_iff] at h ⊢
  exact ⟨List.Pairwise.filter _ h.1, fun e he => h.2 e (List.mem_filter.1 he).1⟩

omit [DecidableEq α] in
theorem Tbl.get_clear_outside (d : α) (t : Tbl α) (lo n k : Nat) (hk : k < lo ∨ lo + n ≤ k) :
    Tbl.get d (Tbl.clear t lo n) k = Tbl.get d t k := by
  induction t with
  | nil => rfl
  | cons e t ih =>
    obtain ⟨k', v⟩ := e
    unfold Tbl.clear at ih ⊢
    by_cases h : k' = k
    · subst h; simp [Tbl.get, hk]
    · by_cases h2 : k' < lo ∨ lo + n ≤ k'
      · rw [List.filter_cons_of_pos (by simpa using h2)]; simpa [Tbl.get, h] using ih
      · rw [List.filter_cons_of_neg (by simpa using h2)]; simpa [Tbl.get, h] using ih

end Sys2Proof.Machine
end

