-- ==== Sys2Proof/Laws/State.lean ====
section
/-! SUPPORT. What each update of the state leaves as it was, one lemma for a field and an update, and what it reads as afterwards where it wrote. -/

namespace Sys2Proof.Machine

/-! ### Fields of State under its updates -/

@[simp] theorem State.setCore_mem (s : State) (c : Nat) (k : Core) : (s.setCore c k).mem = s.mem := rfl
@[simp] theorem State.setCore_overwritten (s : State) (c : Nat) (k : Core) : (s.setCore c k).overwritten = s.overwritten := rfl
@[simp] theorem State.setCore_poison (s : State) (c : Nat) (k : Core) : (s.setCore c k).poison = s.poison := rfl
@[simp] theorem State.setCore_halves (s : State) (c : Nat) (k : Core) : (s.setCore c k).halves = s.halves := rfl
@[simp] theorem State.setCore_moves (s : State) (c : Nat) (k : Core) : (s.setCore c k).moves = s.moves := rfl
@[simp] theorem State.setCore_tlb (s : State) (c : Nat) (k : Core) : (s.setCore c k).tlb = s.tlb := rfl
@[simp] theorem State.setCore_time (s : State) (c : Nat) (k : Core) : (s.setCore c k).time = s.time := rfl
@[simp] theorem State.setCore_groups (s : State) (c : Nat) (k : Core) : (s.setCore c k).groups = s.groups := rfl
@[simp] theorem State.setCore_kqs (s : State) (c : Nat) (k : Core) : (s.setCore c k).kqs = s.kqs := rfl
@[simp] theorem State.setCore_kernelIds (s : State) (c : Nat) (k : Core) : (s.setCore c k).kernelIds = s.kernelIds := rfl
@[simp] theorem State.setCore_openings (s : State) (c : Nat) (k : Core) : (s.setCore c k).openings = s.openings := rfl
@[simp] theorem State.setCore_strands (s : State) (c : Nat) (k : Core) : (s.setCore c k).strands = s.strands := rfl
@[simp] theorem State.setCore_node (s : State) (c : Nat) (k : Core) : (s.setCore c k).node = s.node := rfl
@[simp] theorem State.setCore_ctime (s : State) (c : Nat) (k : Core) : (s.setCore c k).ctime = s.ctime := rfl
@[simp] theorem State.setCore_cxl (s : State) (c : Nat) (k : Core) : (s.setCore c k).cxl = s.cxl := rfl
@[simp] theorem State.setCore_ofus (s : State) (c : Nat) (k : Core) : (s.setCore c k).ofus = s.ofus := rfl
@[simp] theorem State.setCore_lqs (s : State) (c : Nat) (k : Core) : (s.setCore c k).lqs = s.lqs := rfl
@[simp] theorem State.setCore_msgs (s : State) (c : Nat) (k : Core) : (s.setCore c k).msgs = s.msgs := rfl
@[simp] theorem State.setCore_ptbr (s : State) (c : Nat) (k : Core) : (s.setCore c k).ptbr = s.ptbr := rfl
@[simp] theorem State.setCore_hepoch (s : State) (c : Nat) (k : Core) : (s.setCore c k).hepoch = s.hepoch := rfl
@[simp] theorem State.setCore_hbm (s : State) (c : Nat) (k : Core) : (s.setCore c k).hbm = s.hbm := rfl
@[simp] theorem State.setCore_undertow (s : State) (c : Nat) (k : Core) : (s.setCore c k).undertow = s.undertow := rfl
@[simp] theorem State.setCore_mgmt (s : State) (c : Nat) (k : Core) : (s.setCore c k).mgmt = s.mgmt := rfl
@[simp] theorem State.setCore_wrack (s : State) (c : Nat) (k : Core) : (s.setCore c k).wrack = s.wrack := rfl
@[simp] theorem State.setCore_focus (s : State) (c : Nat) (k : Core) : (s.setCore c k).focus = s.focus := rfl
@[simp] theorem State.setCore_agenda (s : State) (c : Nat) (k : Core) : (s.setCore c k).agenda = s.agenda := rfl
@[simp] theorem State.setCore_turns (s : State) (c : Nat) (k : Core) : (s.setCore c k).turns = s.turns := rfl
@[simp] theorem State.setCore_fresh (s : State) (c : Nat) (k : Core) : (s.setCore c k).fresh = s.fresh := rfl

@[simp] theorem State.modCore_mem (s : State) (c : Nat) (f : Core → Core) : (s.modCore c f).mem = s.mem := rfl
@[simp] theorem State.modCore_overwritten (s : State) (c : Nat) (f : Core → Core) : (s.modCore c f).overwritten = s.overwritten := rfl
@[simp] theorem State.modCore_poison (s : State) (c : Nat) (f : Core → Core) : (s.modCore c f).poison = s.poison := rfl
@[simp] theorem State.modCore_halves (s : State) (c : Nat) (f : Core → Core) : (s.modCore c f).halves = s.halves := rfl
@[simp] theorem State.modCore_moves (s : State) (c : Nat) (f : Core → Core) : (s.modCore c f).moves = s.moves := rfl
@[simp] theorem State.modCore_tlb (s : State) (c : Nat) (f : Core → Core) : (s.modCore c f).tlb = s.tlb := rfl
@[simp] theorem State.modCore_time (s : State) (c : Nat) (f : Core → Core) : (s.modCore c f).time = s.time := rfl
@[simp] theorem State.modCore_groups (s : State) (c : Nat) (f : Core → Core) : (s.modCore c f).groups = s.groups := rfl
@[simp] theorem State.modCore_kqs (s : State) (c : Nat) (f : Core → Core) : (s.modCore c f).kqs = s.kqs := rfl
@[simp] theorem State.modCore_kernelIds (s : State) (c : Nat) (f : Core → Core) : (s.modCore c f).kernelIds = s.kernelIds := rfl
@[simp] theorem State.modCore_openings (s : State) (c : Nat) (f : Core → Core) : (s.modCore c f).openings = s.openings := rfl
@[simp] theorem State.modCore_strands (s : State) (c : Nat) (f : Core → Core) : (s.modCore c f).strands = s.strands := rfl
@[simp] theorem State.modCore_node (s : State) (c : Nat) (f : Core → Core) : (s.modCore c f).node = s.node := rfl
@[simp] theorem State.modCore_ctime (s : State) (c : Nat) (f : Core → Core) : (s.modCore c f).ctime = s.ctime := rfl
@[simp] theorem State.modCore_cxl (s : State) (c : Nat) (f : Core → Core) : (s.modCore c f).cxl = s.cxl := rfl
@[simp] theorem State.modCore_ofus (s : State) (c : Nat) (f : Core → Core) : (s.modCore c f).ofus = s.ofus := rfl
@[simp] theorem State.modCore_lqs (s : State) (c : Nat) (f : Core → Core) : (s.modCore c f).lqs = s.lqs := rfl
@[simp] theorem State.modCore_msgs (s : State) (c : Nat) (f : Core → Core) : (s.modCore c f).msgs = s.msgs := rfl
@[simp] theorem State.modCore_ptbr (s : State) (c : Nat) (f : Core → Core) : (s.modCore c f).ptbr = s.ptbr := rfl
@[simp] theorem State.modCore_hepoch (s : State) (c : Nat) (f : Core → Core) : (s.modCore c f).hepoch = s.hepoch := rfl
@[simp] theorem State.modCore_hbm (s : State) (c : Nat) (f : Core → Core) : (s.modCore c f).hbm = s.hbm := rfl
@[simp] theorem State.modCore_undertow (s : State) (c : Nat) (f : Core → Core) : (s.modCore c f).undertow = s.undertow := rfl
@[simp] theorem State.modCore_mgmt (s : State) (c : Nat) (f : Core → Core) : (s.modCore c f).mgmt = s.mgmt := rfl
@[simp] theorem State.modCore_wrack (s : State) (c : Nat) (f : Core → Core) : (s.modCore c f).wrack = s.wrack := rfl
@[simp] theorem State.modCore_focus (s : State) (c : Nat) (f : Core → Core) : (s.modCore c f).focus = s.focus := rfl
@[simp] theorem State.modCore_agenda (s : State) (c : Nat) (f : Core → Core) : (s.modCore c f).agenda = s.agenda := rfl
@[simp] theorem State.modCore_turns (s : State) (c : Nat) (f : Core → Core) : (s.modCore c f).turns = s.turns := rfl
@[simp] theorem State.modCore_fresh (s : State) (c : Nat) (f : Core → Core) : (s.modCore c f).fresh = s.fresh := rfl

@[simp] theorem State.setCtx_mem (s : State) (c n : Nat) (v : Ctx) : (s.setCtx c n v).mem = s.mem := rfl
@[simp] theorem State.setCtx_overwritten (s : State) (c n : Nat) (v : Ctx) : (s.setCtx c n v).overwritten = s.overwritten := rfl
@[simp] theorem State.setCtx_poison (s : State) (c n : Nat) (v : Ctx) : (s.setCtx c n v).poison = s.poison := rfl
@[simp] theorem State.setCtx_halves (s : State) (c n : Nat) (v : Ctx) : (s.setCtx c n v).halves = s.halves := rfl
@[simp] theorem State.setCtx_moves (s : State) (c n : Nat) (v : Ctx) : (s.setCtx c n v).moves = s.moves := rfl
@[simp] theorem State.setCtx_tlb (s : State) (c n : Nat) (v : Ctx) : (s.setCtx c n v).tlb = s.tlb := rfl
@[simp] theorem State.setCtx_time (s : State) (c n : Nat) (v : Ctx) : (s.setCtx c n v).time = s.time := rfl
@[simp] theorem State.setCtx_groups (s : State) (c n : Nat) (v : Ctx) : (s.setCtx c n v).groups = s.groups := rfl
@[simp] theorem State.setCtx_kqs (s : State) (c n : Nat) (v : Ctx) : (s.setCtx c n v).kqs = s.kqs := rfl
@[simp] theorem State.setCtx_kernelIds (s : State) (c n : Nat) (v : Ctx) : (s.setCtx c n v).kernelIds = s.kernelIds := rfl
@[simp] theorem State.setCtx_openings (s : State) (c n : Nat) (v : Ctx) : (s.setCtx c n v).openings = s.openings := rfl
@[simp] theorem State.setCtx_strands (s : State) (c n : Nat) (v : Ctx) : (s.setCtx c n v).strands = s.strands := rfl
@[simp] theorem State.setCtx_node (s : State) (c n : Nat) (v : Ctx) : (s.setCtx c n v).node = s.node := rfl
@[simp] theorem State.setCtx_ctime (s : State) (c n : Nat) (v : Ctx) : (s.setCtx c n v).ctime = s.ctime := rfl
@[simp] theorem State.setCtx_cxl (s : State) (c n : Nat) (v : Ctx) : (s.setCtx c n v).cxl = s.cxl := rfl
@[simp] theorem State.setCtx_ofus (s : State) (c n : Nat) (v : Ctx) : (s.setCtx c n v).ofus = s.ofus := rfl
@[simp] theorem State.setCtx_lqs (s : State) (c n : Nat) (v : Ctx) : (s.setCtx c n v).lqs = s.lqs := rfl
@[simp] theorem State.setCtx_msgs (s : State) (c n : Nat) (v : Ctx) : (s.setCtx c n v).msgs = s.msgs := rfl
@[simp] theorem State.setCtx_ptbr (s : State) (c n : Nat) (v : Ctx) : (s.setCtx c n v).ptbr = s.ptbr := rfl
@[simp] theorem State.setCtx_hepoch (s : State) (c n : Nat) (v : Ctx) : (s.setCtx c n v).hepoch = s.hepoch := rfl
@[simp] theorem State.setCtx_hbm (s : State) (c n : Nat) (v : Ctx) : (s.setCtx c n v).hbm = s.hbm := rfl
@[simp] theorem State.setCtx_undertow (s : State) (c n : Nat) (v : Ctx) : (s.setCtx c n v).undertow = s.undertow := rfl
@[simp] theorem State.setCtx_mgmt (s : State) (c n : Nat) (v : Ctx) : (s.setCtx c n v).mgmt = s.mgmt := rfl
@[simp] theorem State.setCtx_wrack (s : State) (c n : Nat) (v : Ctx) : (s.setCtx c n v).wrack = s.wrack := rfl
@[simp] theorem State.setCtx_focus (s : State) (c n : Nat) (v : Ctx) : (s.setCtx c n v).focus = s.focus := rfl
@[simp] theorem State.setCtx_agenda (s : State) (c n : Nat) (v : Ctx) : (s.setCtx c n v).agenda = s.agenda := rfl
@[simp] theorem State.setCtx_turns (s : State) (c n : Nat) (v : Ctx) : (s.setCtx c n v).turns = s.turns := rfl
@[simp] theorem State.setCtx_fresh (s : State) (c n : Nat) (v : Ctx) : (s.setCtx c n v).fresh = s.fresh := rfl

@[simp] theorem State.modCtx_mem (s : State) (c n : Nat) (f : Ctx → Ctx) : (s.modCtx c n f).mem = s.mem := rfl
@[simp] theorem State.modCtx_overwritten (s : State) (c n : Nat) (f : Ctx → Ctx) : (s.modCtx c n f).overwritten = s.overwritten := rfl
@[simp] theorem State.modCtx_poison (s : State) (c n : Nat) (f : Ctx → Ctx) : (s.modCtx c n f).poison = s.poison := rfl
@[simp] theorem State.modCtx_halves (s : State) (c n : Nat) (f : Ctx → Ctx) : (s.modCtx c n f).halves = s.halves := rfl
@[simp] theorem State.modCtx_moves (s : State) (c n : Nat) (f : Ctx → Ctx) : (s.modCtx c n f).moves = s.moves := rfl
@[simp] theorem State.modCtx_tlb (s : State) (c n : Nat) (f : Ctx → Ctx) : (s.modCtx c n f).tlb = s.tlb := rfl
@[simp] theorem State.modCtx_time (s : State) (c n : Nat) (f : Ctx → Ctx) : (s.modCtx c n f).time = s.time := rfl
@[simp] theorem State.modCtx_groups (s : State) (c n : Nat) (f : Ctx → Ctx) : (s.modCtx c n f).groups = s.groups := rfl
@[simp] theorem State.modCtx_kqs (s : State) (c n : Nat) (f : Ctx → Ctx) : (s.modCtx c n f).kqs = s.kqs := rfl
@[simp] theorem State.modCtx_kernelIds (s : State) (c n : Nat) (f : Ctx → Ctx) : (s.modCtx c n f).kernelIds = s.kernelIds := rfl
@[simp] theorem State.modCtx_openings (s : State) (c n : Nat) (f : Ctx → Ctx) : (s.modCtx c n f).openings = s.openings := rfl
@[simp] theorem State.modCtx_strands (s : State) (c n : Nat) (f : Ctx → Ctx) : (s.modCtx c n f).strands = s.strands := rfl
@[simp] theorem State.modCtx_node (s : State) (c n : Nat) (f : Ctx → Ctx) : (s.modCtx c n f).node = s.node := rfl
@[simp] theorem State.modCtx_ctime (s : State) (c n : Nat) (f : Ctx → Ctx) : (s.modCtx c n f).ctime = s.ctime := rfl
@[simp] theorem State.modCtx_cxl (s : State) (c n : Nat) (f : Ctx → Ctx) : (s.modCtx c n f).cxl = s.cxl := rfl
@[simp] theorem State.modCtx_ofus (s : State) (c n : Nat) (f : Ctx → Ctx) : (s.modCtx c n f).ofus = s.ofus := rfl
@[simp] theorem State.modCtx_lqs (s : State) (c n : Nat) (f : Ctx → Ctx) : (s.modCtx c n f).lqs = s.lqs := rfl
@[simp] theorem State.modCtx_msgs (s : State) (c n : Nat) (f : Ctx → Ctx) : (s.modCtx c n f).msgs = s.msgs := rfl
@[simp] theorem State.modCtx_ptbr (s : State) (c n : Nat) (f : Ctx → Ctx) : (s.modCtx c n f).ptbr = s.ptbr := rfl
@[simp] theorem State.modCtx_hepoch (s : State) (c n : Nat) (f : Ctx → Ctx) : (s.modCtx c n f).hepoch = s.hepoch := rfl
@[simp] theorem State.modCtx_hbm (s : State) (c n : Nat) (f : Ctx → Ctx) : (s.modCtx c n f).hbm = s.hbm := rfl
@[simp] theorem State.modCtx_undertow (s : State) (c n : Nat) (f : Ctx → Ctx) : (s.modCtx c n f).undertow = s.undertow := rfl
@[simp] theorem State.modCtx_mgmt (s : State) (c n : Nat) (f : Ctx → Ctx) : (s.modCtx c n f).mgmt = s.mgmt := rfl
@[simp] theorem State.modCtx_wrack (s : State) (c n : Nat) (f : Ctx → Ctx) : (s.modCtx c n f).wrack = s.wrack := rfl
@[simp] theorem State.modCtx_focus (s : State) (c n : Nat) (f : Ctx → Ctx) : (s.modCtx c n f).focus = s.focus := rfl
@[simp] theorem State.modCtx_agenda (s : State) (c n : Nat) (f : Ctx → Ctx) : (s.modCtx c n f).agenda = s.agenda := rfl
@[simp] theorem State.modCtx_turns (s : State) (c n : Nat) (f : Ctx → Ctx) : (s.modCtx c n f).turns = s.turns := rfl
@[simp] theorem State.modCtx_fresh (s : State) (c n : Nat) (f : Ctx → Ctx) : (s.modCtx c n f).fresh = s.fresh := rfl

@[simp] theorem State.modCur_mem (s : State) (f : Ctx → Ctx) : (s.modCur f).mem = s.mem := rfl
@[simp] theorem State.modCur_overwritten (s : State) (f : Ctx → Ctx) : (s.modCur f).overwritten = s.overwritten := rfl
@[simp] theorem State.modCur_poison (s : State) (f : Ctx → Ctx) : (s.modCur f).poison = s.poison := rfl
@[simp] theorem State.modCur_halves (s : State) (f : Ctx → Ctx) : (s.modCur f).halves = s.halves := rfl
@[simp] theorem State.modCur_moves (s : State) (f : Ctx → Ctx) : (s.modCur f).moves = s.moves := rfl
@[simp] theorem State.modCur_tlb (s : State) (f : Ctx → Ctx) : (s.modCur f).tlb = s.tlb := rfl
@[simp] theorem State.modCur_time (s : State) (f : Ctx → Ctx) : (s.modCur f).time = s.time := rfl
@[simp] theorem State.modCur_groups (s : State) (f : Ctx → Ctx) : (s.modCur f).groups = s.groups := rfl
@[simp] theorem State.modCur_kqs (s : State) (f : Ctx → Ctx) : (s.modCur f).kqs = s.kqs := rfl
@[simp] theorem State.modCur_kernelIds (s : State) (f : Ctx → Ctx) : (s.modCur f).kernelIds = s.kernelIds := rfl
@[simp] theorem State.modCur_openings (s : State) (f : Ctx → Ctx) : (s.modCur f).openings = s.openings := rfl
@[simp] theorem State.modCur_strands (s : State) (f : Ctx → Ctx) : (s.modCur f).strands = s.strands := rfl
@[simp] theorem State.modCur_node (s : State) (f : Ctx → Ctx) : (s.modCur f).node = s.node := rfl
@[simp] theorem State.modCur_ctime (s : State) (f : Ctx → Ctx) : (s.modCur f).ctime = s.ctime := rfl
@[simp] theorem State.modCur_cxl (s : State) (f : Ctx → Ctx) : (s.modCur f).cxl = s.cxl := rfl
@[simp] theorem State.modCur_ofus (s : State) (f : Ctx → Ctx) : (s.modCur f).ofus = s.ofus := rfl
@[simp] theorem State.modCur_lqs (s : State) (f : Ctx → Ctx) : (s.modCur f).lqs = s.lqs := rfl
@[simp] theorem State.modCur_msgs (s : State) (f : Ctx → Ctx) : (s.modCur f).msgs = s.msgs := rfl
@[simp] theorem State.modCur_ptbr (s : State) (f : Ctx → Ctx) : (s.modCur f).ptbr = s.ptbr := rfl
@[simp] theorem State.modCur_hepoch (s : State) (f : Ctx → Ctx) : (s.modCur f).hepoch = s.hepoch := rfl
@[simp] theorem State.modCur_hbm (s : State) (f : Ctx → Ctx) : (s.modCur f).hbm = s.hbm := rfl
@[simp] theorem State.modCur_undertow (s : State) (f : Ctx → Ctx) : (s.modCur f).undertow = s.undertow := rfl
@[simp] theorem State.modCur_mgmt (s : State) (f : Ctx → Ctx) : (s.modCur f).mgmt = s.mgmt := rfl
@[simp] theorem State.modCur_wrack (s : State) (f : Ctx → Ctx) : (s.modCur f).wrack = s.wrack := rfl
@[simp] theorem State.modCur_focus (s : State) (f : Ctx → Ctx) : (s.modCur f).focus = s.focus := rfl
@[simp] theorem State.modCur_agenda (s : State) (f : Ctx → Ctx) : (s.modCur f).agenda = s.agenda := rfl
@[simp] theorem State.modCur_turns (s : State) (f : Ctx → Ctx) : (s.modCur f).turns = s.turns := rfl
@[simp] theorem State.modCur_fresh (s : State) (f : Ctx → Ctx) : (s.modCur f).fresh = s.fresh := rfl

@[simp] theorem State.modHere_mem (s : State) (f : Core → Core) : (s.modHere f).mem = s.mem := rfl
@[simp] theorem State.modHere_overwritten (s : State) (f : Core → Core) : (s.modHere f).overwritten = s.overwritten := rfl
@[simp] theorem State.modHere_poison (s : State) (f : Core → Core) : (s.modHere f).poison = s.poison := rfl
@[simp] theorem State.modHere_halves (s : State) (f : Core → Core) : (s.modHere f).halves = s.halves := rfl
@[simp] theorem State.modHere_moves (s : State) (f : Core → Core) : (s.modHere f).moves = s.moves := rfl
@[simp] theorem State.modHere_tlb (s : State) (f : Core → Core) : (s.modHere f).tlb = s.tlb := rfl
@[simp] theorem State.modHere_time (s : State) (f : Core → Core) : (s.modHere f).time = s.time := rfl
@[simp] theorem State.modHere_groups (s : State) (f : Core → Core) : (s.modHere f).groups = s.groups := rfl
@[simp] theorem State.modHere_kqs (s : State) (f : Core → Core) : (s.modHere f).kqs = s.kqs := rfl
@[simp] theorem State.modHere_kernelIds (s : State) (f : Core → Core) : (s.modHere f).kernelIds = s.kernelIds := rfl
@[simp] theorem State.modHere_openings (s : State) (f : Core → Core) : (s.modHere f).openings = s.openings := rfl
@[simp] theorem State.modHere_strands (s : State) (f : Core → Core) : (s.modHere f).strands = s.strands := rfl
@[simp] theorem State.modHere_node (s : State) (f : Core → Core) : (s.modHere f).node = s.node := rfl
@[simp] theorem State.modHere_ctime (s : State) (f : Core → Core) : (s.modHere f).ctime = s.ctime := rfl
@[simp] theorem State.modHere_cxl (s : State) (f : Core → Core) : (s.modHere f).cxl = s.cxl := rfl
@[simp] theorem State.modHere_ofus (s : State) (f : Core → Core) : (s.modHere f).ofus = s.ofus := rfl
@[simp] theorem State.modHere_lqs (s : State) (f : Core → Core) : (s.modHere f).lqs = s.lqs := rfl
@[simp] theorem State.modHere_msgs (s : State) (f : Core → Core) : (s.modHere f).msgs = s.msgs := rfl
@[simp] theorem State.modHere_ptbr (s : State) (f : Core → Core) : (s.modHere f).ptbr = s.ptbr := rfl
@[simp] theorem State.modHere_hepoch (s : State) (f : Core → Core) : (s.modHere f).hepoch = s.hepoch := rfl
@[simp] theorem State.modHere_hbm (s : State) (f : Core → Core) : (s.modHere f).hbm = s.hbm := rfl
@[simp] theorem State.modHere_undertow (s : State) (f : Core → Core) : (s.modHere f).undertow = s.undertow := rfl
@[simp] theorem State.modHere_mgmt (s : State) (f : Core → Core) : (s.modHere f).mgmt = s.mgmt := rfl
@[simp] theorem State.modHere_wrack (s : State) (f : Core → Core) : (s.modHere f).wrack = s.wrack := rfl
@[simp] theorem State.modHere_focus (s : State) (f : Core → Core) : (s.modHere f).focus = s.focus := rfl
@[simp] theorem State.modHere_agenda (s : State) (f : Core → Core) : (s.modHere f).agenda = s.agenda := rfl
@[simp] theorem State.modHere_turns (s : State) (f : Core → Core) : (s.modHere f).turns = s.turns := rfl
@[simp] theorem State.modHere_fresh (s : State) (f : Core → Core) : (s.modHere f).fresh = s.fresh := rfl

@[simp] theorem State.setX_mem (s : State) (n : Nat) (v : Word) : (s.setX n v).mem = s.mem := rfl
@[simp] theorem State.setX_overwritten (s : State) (n : Nat) (v : Word) : (s.setX n v).overwritten = s.overwritten := rfl
@[simp] theorem State.setX_poison (s : State) (n : Nat) (v : Word) : (s.setX n v).poison = s.poison := rfl
@[simp] theorem State.setX_halves (s : State) (n : Nat) (v : Word) : (s.setX n v).halves = s.halves := rfl
@[simp] theorem State.setX_moves (s : State) (n : Nat) (v : Word) : (s.setX n v).moves = s.moves := rfl
@[simp] theorem State.setX_tlb (s : State) (n : Nat) (v : Word) : (s.setX n v).tlb = s.tlb := rfl
@[simp] theorem State.setX_time (s : State) (n : Nat) (v : Word) : (s.setX n v).time = s.time := rfl
@[simp] theorem State.setX_groups (s : State) (n : Nat) (v : Word) : (s.setX n v).groups = s.groups := rfl
@[simp] theorem State.setX_kqs (s : State) (n : Nat) (v : Word) : (s.setX n v).kqs = s.kqs := rfl
@[simp] theorem State.setX_kernelIds (s : State) (n : Nat) (v : Word) : (s.setX n v).kernelIds = s.kernelIds := rfl
@[simp] theorem State.setX_openings (s : State) (n : Nat) (v : Word) : (s.setX n v).openings = s.openings := rfl
@[simp] theorem State.setX_strands (s : State) (n : Nat) (v : Word) : (s.setX n v).strands = s.strands := rfl
@[simp] theorem State.setX_node (s : State) (n : Nat) (v : Word) : (s.setX n v).node = s.node := rfl
@[simp] theorem State.setX_ctime (s : State) (n : Nat) (v : Word) : (s.setX n v).ctime = s.ctime := rfl
@[simp] theorem State.setX_cxl (s : State) (n : Nat) (v : Word) : (s.setX n v).cxl = s.cxl := rfl
@[simp] theorem State.setX_ofus (s : State) (n : Nat) (v : Word) : (s.setX n v).ofus = s.ofus := rfl
@[simp] theorem State.setX_lqs (s : State) (n : Nat) (v : Word) : (s.setX n v).lqs = s.lqs := rfl
@[simp] theorem State.setX_msgs (s : State) (n : Nat) (v : Word) : (s.setX n v).msgs = s.msgs := rfl
@[simp] theorem State.setX_ptbr (s : State) (n : Nat) (v : Word) : (s.setX n v).ptbr = s.ptbr := rfl
@[simp] theorem State.setX_hepoch (s : State) (n : Nat) (v : Word) : (s.setX n v).hepoch = s.hepoch := rfl
@[simp] theorem State.setX_hbm (s : State) (n : Nat) (v : Word) : (s.setX n v).hbm = s.hbm := rfl
@[simp] theorem State.setX_undertow (s : State) (n : Nat) (v : Word) : (s.setX n v).undertow = s.undertow := rfl
@[simp] theorem State.setX_mgmt (s : State) (n : Nat) (v : Word) : (s.setX n v).mgmt = s.mgmt := rfl
@[simp] theorem State.setX_wrack (s : State) (n : Nat) (v : Word) : (s.setX n v).wrack = s.wrack := rfl
@[simp] theorem State.setX_focus (s : State) (n : Nat) (v : Word) : (s.setX n v).focus = s.focus := rfl
@[simp] theorem State.setX_agenda (s : State) (n : Nat) (v : Word) : (s.setX n v).agenda = s.agenda := rfl
@[simp] theorem State.setX_turns (s : State) (n : Nat) (v : Word) : (s.setX n v).turns = s.turns := rfl
@[simp] theorem State.setX_fresh (s : State) (n : Nat) (v : Word) : (s.setX n v).fresh = s.fresh := rfl

@[simp] theorem State.setP_mem (s : State) (n : Nat) (v : Bool) : (s.setP n v).mem = s.mem := rfl
@[simp] theorem State.setP_overwritten (s : State) (n : Nat) (v : Bool) : (s.setP n v).overwritten = s.overwritten := rfl
@[simp] theorem State.setP_poison (s : State) (n : Nat) (v : Bool) : (s.setP n v).poison = s.poison := rfl
@[simp] theorem State.setP_halves (s : State) (n : Nat) (v : Bool) : (s.setP n v).halves = s.halves := rfl
@[simp] theorem State.setP_moves (s : State) (n : Nat) (v : Bool) : (s.setP n v).moves = s.moves := rfl
@[simp] theorem State.setP_tlb (s : State) (n : Nat) (v : Bool) : (s.setP n v).tlb = s.tlb := rfl
@[simp] theorem State.setP_time (s : State) (n : Nat) (v : Bool) : (s.setP n v).time = s.time := rfl
@[simp] theorem State.setP_groups (s : State) (n : Nat) (v : Bool) : (s.setP n v).groups = s.groups := rfl
@[simp] theorem State.setP_kqs (s : State) (n : Nat) (v : Bool) : (s.setP n v).kqs = s.kqs := rfl
@[simp] theorem State.setP_kernelIds (s : State) (n : Nat) (v : Bool) : (s.setP n v).kernelIds = s.kernelIds := rfl
@[simp] theorem State.setP_openings (s : State) (n : Nat) (v : Bool) : (s.setP n v).openings = s.openings := rfl
@[simp] theorem State.setP_strands (s : State) (n : Nat) (v : Bool) : (s.setP n v).strands = s.strands := rfl
@[simp] theorem State.setP_node (s : State) (n : Nat) (v : Bool) : (s.setP n v).node = s.node := rfl
@[simp] theorem State.setP_ctime (s : State) (n : Nat) (v : Bool) : (s.setP n v).ctime = s.ctime := rfl
@[simp] theorem State.setP_cxl (s : State) (n : Nat) (v : Bool) : (s.setP n v).cxl = s.cxl := rfl
@[simp] theorem State.setP_ofus (s : State) (n : Nat) (v : Bool) : (s.setP n v).ofus = s.ofus := rfl
@[simp] theorem State.setP_lqs (s : State) (n : Nat) (v : Bool) : (s.setP n v).lqs = s.lqs := rfl
@[simp] theorem State.setP_msgs (s : State) (n : Nat) (v : Bool) : (s.setP n v).msgs = s.msgs := rfl
@[simp] theorem State.setP_ptbr (s : State) (n : Nat) (v : Bool) : (s.setP n v).ptbr = s.ptbr := rfl
@[simp] theorem State.setP_hepoch (s : State) (n : Nat) (v : Bool) : (s.setP n v).hepoch = s.hepoch := rfl
@[simp] theorem State.setP_hbm (s : State) (n : Nat) (v : Bool) : (s.setP n v).hbm = s.hbm := rfl
@[simp] theorem State.setP_undertow (s : State) (n : Nat) (v : Bool) : (s.setP n v).undertow = s.undertow := rfl
@[simp] theorem State.setP_mgmt (s : State) (n : Nat) (v : Bool) : (s.setP n v).mgmt = s.mgmt := rfl
@[simp] theorem State.setP_wrack (s : State) (n : Nat) (v : Bool) : (s.setP n v).wrack = s.wrack := rfl
@[simp] theorem State.setP_focus (s : State) (n : Nat) (v : Bool) : (s.setP n v).focus = s.focus := rfl
@[simp] theorem State.setP_agenda (s : State) (n : Nat) (v : Bool) : (s.setP n v).agenda = s.agenda := rfl
@[simp] theorem State.setP_turns (s : State) (n : Nat) (v : Bool) : (s.setP n v).turns = s.turns := rfl
@[simp] theorem State.setP_fresh (s : State) (n : Nat) (v : Bool) : (s.setP n v).fresh = s.fresh := rfl

@[simp] theorem State.setByte_overwritten (s : State) (l : Nat) (b : Byte) : (s.setByte l b).overwritten = s.overwritten := rfl
@[simp] theorem State.setByte_poison (s : State) (l : Nat) (b : Byte) : (s.setByte l b).poison = s.poison := rfl
@[simp] theorem State.setByte_halves (s : State) (l : Nat) (b : Byte) : (s.setByte l b).halves = s.halves := rfl
@[simp] theorem State.setByte_moves (s : State) (l : Nat) (b : Byte) : (s.setByte l b).moves = s.moves := rfl
@[simp] theorem State.setByte_tlb (s : State) (l : Nat) (b : Byte) : (s.setByte l b).tlb = s.tlb := rfl
@[simp] theorem State.setByte_time (s : State) (l : Nat) (b : Byte) : (s.setByte l b).time = s.time := rfl
@[simp] theorem State.setByte_cores (s : State) (l : Nat) (b : Byte) : (s.setByte l b).cores = s.cores := rfl
@[simp] theorem State.setByte_groups (s : State) (l : Nat) (b : Byte) : (s.setByte l b).groups = s.groups := rfl
@[simp] theorem State.setByte_kqs (s : State) (l : Nat) (b : Byte) : (s.setByte l b).kqs = s.kqs := rfl
@[simp] theorem State.setByte_kernelIds (s : State) (l : Nat) (b : Byte) : (s.setByte l b).kernelIds = s.kernelIds := rfl
@[simp] theorem State.setByte_openings (s : State) (l : Nat) (b : Byte) : (s.setByte l b).openings = s.openings := rfl
@[simp] theorem State.setByte_strands (s : State) (l : Nat) (b : Byte) : (s.setByte l b).strands = s.strands := rfl
@[simp] theorem State.setByte_node (s : State) (l : Nat) (b : Byte) : (s.setByte l b).node = s.node := rfl
@[simp] theorem State.setByte_ctime (s : State) (l : Nat) (b : Byte) : (s.setByte l b).ctime = s.ctime := rfl
@[simp] theorem State.setByte_cxl (s : State) (l : Nat) (b : Byte) : (s.setByte l b).cxl = s.cxl := rfl
@[simp] theorem State.setByte_ofus (s : State) (l : Nat) (b : Byte) : (s.setByte l b).ofus = s.ofus := rfl
@[simp] theorem State.setByte_lqs (s : State) (l : Nat) (b : Byte) : (s.setByte l b).lqs = s.lqs := rfl
@[simp] theorem State.setByte_msgs (s : State) (l : Nat) (b : Byte) : (s.setByte l b).msgs = s.msgs := rfl
@[simp] theorem State.setByte_ptbr (s : State) (l : Nat) (b : Byte) : (s.setByte l b).ptbr = s.ptbr := rfl
@[simp] theorem State.setByte_hepoch (s : State) (l : Nat) (b : Byte) : (s.setByte l b).hepoch = s.hepoch := rfl
@[simp] theorem State.setByte_hbm (s : State) (l : Nat) (b : Byte) : (s.setByte l b).hbm = s.hbm := rfl
@[simp] theorem State.setByte_undertow (s : State) (l : Nat) (b : Byte) : (s.setByte l b).undertow = s.undertow := rfl
@[simp] theorem State.setByte_mgmt (s : State) (l : Nat) (b : Byte) : (s.setByte l b).mgmt = s.mgmt := rfl
@[simp] theorem State.setByte_wrack (s : State) (l : Nat) (b : Byte) : (s.setByte l b).wrack = s.wrack := rfl
@[simp] theorem State.setByte_focus (s : State) (l : Nat) (b : Byte) : (s.setByte l b).focus = s.focus := rfl
@[simp] theorem State.setByte_agenda (s : State) (l : Nat) (b : Byte) : (s.setByte l b).agenda = s.agenda := rfl
@[simp] theorem State.setByte_turns (s : State) (l : Nat) (b : Byte) : (s.setByte l b).turns = s.turns := rfl
@[simp] theorem State.setByte_fresh (s : State) (l : Nat) (b : Byte) : (s.setByte l b).fresh = s.fresh := rfl

@[simp] theorem State.zeroBytes_overwritten (s : State) (l n : Nat) : (s.zeroBytes l n).overwritten = s.overwritten := rfl
@[simp] theorem State.zeroBytes_poison (s : State) (l n : Nat) : (s.zeroBytes l n).poison = s.poison := rfl
@[simp] theorem State.zeroBytes_halves (s : State) (l n : Nat) : (s.zeroBytes l n).halves = s.halves := rfl
@[simp] theorem State.zeroBytes_moves (s : State) (l n : Nat) : (s.zeroBytes l n).moves = s.moves := rfl
@[simp] theorem State.zeroBytes_tlb (s : State) (l n : Nat) : (s.zeroBytes l n).tlb = s.tlb := rfl
@[simp] theorem State.zeroBytes_time (s : State) (l n : Nat) : (s.zeroBytes l n).time = s.time := rfl
@[simp] theorem State.zeroBytes_cores (s : State) (l n : Nat) : (s.zeroBytes l n).cores = s.cores := rfl
@[simp] theorem State.zeroBytes_groups (s : State) (l n : Nat) : (s.zeroBytes l n).groups = s.groups := rfl
@[simp] theorem State.zeroBytes_kqs (s : State) (l n : Nat) : (s.zeroBytes l n).kqs = s.kqs := rfl
@[simp] theorem State.zeroBytes_kernelIds (s : State) (l n : Nat) : (s.zeroBytes l n).kernelIds = s.kernelIds := rfl
@[simp] theorem State.zeroBytes_openings (s : State) (l n : Nat) : (s.zeroBytes l n).openings = s.openings := rfl
@[simp] theorem State.zeroBytes_strands (s : State) (l n : Nat) : (s.zeroBytes l n).strands = s.strands := rfl
@[simp] theorem State.zeroBytes_node (s : State) (l n : Nat) : (s.zeroBytes l n).node = s.node := rfl
@[simp] theorem State.zeroBytes_ctime (s : State) (l n : Nat) : (s.zeroBytes l n).ctime = s.ctime := rfl
@[simp] theorem State.zeroBytes_cxl (s : State) (l n : Nat) : (s.zeroBytes l n).cxl = s.cxl := rfl
@[simp] theorem State.zeroBytes_ofus (s : State) (l n : Nat) : (s.zeroBytes l n).ofus = s.ofus := rfl
@[simp] theorem State.zeroBytes_lqs (s : State) (l n : Nat) : (s.zeroBytes l n).lqs = s.lqs := rfl
@[simp] theorem State.zeroBytes_msgs (s : State) (l n : Nat) : (s.zeroBytes l n).msgs = s.msgs := rfl
@[simp] theorem State.zeroBytes_ptbr (s : State) (l n : Nat) : (s.zeroBytes l n).ptbr = s.ptbr := rfl
@[simp] theorem State.zeroBytes_hepoch (s : State) (l n : Nat) : (s.zeroBytes l n).hepoch = s.hepoch := rfl
@[simp] theorem State.zeroBytes_hbm (s : State) (l n : Nat) : (s.zeroBytes l n).hbm = s.hbm := rfl
@[simp] theorem State.zeroBytes_undertow (s : State) (l n : Nat) : (s.zeroBytes l n).undertow = s.undertow := rfl
@[simp] theorem State.zeroBytes_mgmt (s : State) (l n : Nat) : (s.zeroBytes l n).mgmt = s.mgmt := rfl
@[simp] theorem State.zeroBytes_wrack (s : State) (l n : Nat) : (s.zeroBytes l n).wrack = s.wrack := rfl
@[simp] theorem State.zeroBytes_focus (s : State) (l n : Nat) : (s.zeroBytes l n).focus = s.focus := rfl
@[simp] theorem State.zeroBytes_agenda (s : State) (l n : Nat) : (s.zeroBytes l n).agenda = s.agenda := rfl
@[simp] theorem State.zeroBytes_turns (s : State) (l n : Nat) : (s.zeroBytes l n).turns = s.turns := rfl
@[simp] theorem State.zeroBytes_fresh (s : State) (l n : Nat) : (s.zeroBytes l n).fresh = s.fresh := rfl

@[simp] theorem State.setPoison_mem (s : State) (l : Nat) (v : Bool) : (s.setPoison l v).mem = s.mem := rfl
@[simp] theorem State.setPoison_overwritten (s : State) (l : Nat) (v : Bool) : (s.setPoison l v).overwritten = s.overwritten := rfl
@[simp] theorem State.setPoison_halves (s : State) (l : Nat) (v : Bool) : (s.setPoison l v).halves = s.halves := rfl
@[simp] theorem State.setPoison_moves (s : State) (l : Nat) (v : Bool) : (s.setPoison l v).moves = s.moves := rfl
@[simp] theorem State.setPoison_tlb (s : State) (l : Nat) (v : Bool) : (s.setPoison l v).tlb = s.tlb := rfl
@[simp] theorem State.setPoison_time (s : State) (l : Nat) (v : Bool) : (s.setPoison l v).time = s.time := rfl
@[simp] theorem State.setPoison_cores (s : State) (l : Nat) (v : Bool) : (s.setPoison l v).cores = s.cores := rfl
@[simp] theorem State.setPoison_groups (s : State) (l : Nat) (v : Bool) : (s.setPoison l v).groups = s.groups := rfl
@[simp] theorem State.setPoison_kqs (s : State) (l : Nat) (v : Bool) : (s.setPoison l v).kqs = s.kqs := rfl
@[simp] theorem State.setPoison_kernelIds (s : State) (l : Nat) (v : Bool) : (s.setPoison l v).kernelIds = s.kernelIds := rfl
@[simp] theorem State.setPoison_openings (s : State) (l : Nat) (v : Bool) : (s.setPoison l v).openings = s.openings := rfl
@[simp] theorem State.setPoison_strands (s : State) (l : Nat) (v : Bool) : (s.setPoison l v).strands = s.strands := rfl
@[simp] theorem State.setPoison_node (s : State) (l : Nat) (v : Bool) : (s.setPoison l v).node = s.node := rfl
@[simp] theorem State.setPoison_ctime (s : State) (l : Nat) (v : Bool) : (s.setPoison l v).ctime = s.ctime := rfl
@[simp] theorem State.setPoison_cxl (s : State) (l : Nat) (v : Bool) : (s.setPoison l v).cxl = s.cxl := rfl
@[simp] theorem State.setPoison_ofus (s : State) (l : Nat) (v : Bool) : (s.setPoison l v).ofus = s.ofus := rfl
@[simp] theorem State.setPoison_lqs (s : State) (l : Nat) (v : Bool) : (s.setPoison l v).lqs = s.lqs := rfl
@[simp] theorem State.setPoison_msgs (s : State) (l : Nat) (v : Bool) : (s.setPoison l v).msgs = s.msgs := rfl
@[simp] theorem State.setPoison_ptbr (s : State) (l : Nat) (v : Bool) : (s.setPoison l v).ptbr = s.ptbr := rfl
@[simp] theorem State.setPoison_hepoch (s : State) (l : Nat) (v : Bool) : (s.setPoison l v).hepoch = s.hepoch := rfl
@[simp] theorem State.setPoison_hbm (s : State) (l : Nat) (v : Bool) : (s.setPoison l v).hbm = s.hbm := rfl
@[simp] theorem State.setPoison_undertow (s : State) (l : Nat) (v : Bool) : (s.setPoison l v).undertow = s.undertow := rfl
@[simp] theorem State.setPoison_mgmt (s : State) (l : Nat) (v : Bool) : (s.setPoison l v).mgmt = s.mgmt := rfl
@[simp] theorem State.setPoison_wrack (s : State) (l : Nat) (v : Bool) : (s.setPoison l v).wrack = s.wrack := rfl
@[simp] theorem State.setPoison_focus (s : State) (l : Nat) (v : Bool) : (s.setPoison l v).focus = s.focus := rfl
@[simp] theorem State.setPoison_agenda (s : State) (l : Nat) (v : Bool) : (s.setPoison l v).agenda = s.agenda := rfl
@[simp] theorem State.setPoison_turns (s : State) (l : Nat) (v : Bool) : (s.setPoison l v).turns = s.turns := rfl
@[simp] theorem State.setPoison_fresh (s : State) (l : Nat) (v : Bool) : (s.setPoison l v).fresh = s.fresh := rfl

@[simp] theorem State.cleanLines_mem (s : State) (l n : Nat) : (s.cleanLines l n).mem = s.mem := rfl
@[simp] theorem State.cleanLines_overwritten (s : State) (l n : Nat) : (s.cleanLines l n).overwritten = s.overwritten := rfl
@[simp] theorem State.cleanLines_halves (s : State) (l n : Nat) : (s.cleanLines l n).halves = s.halves := rfl
@[simp] theorem State.cleanLines_moves (s : State) (l n : Nat) : (s.cleanLines l n).moves = s.moves := rfl
@[simp] theorem State.cleanLines_tlb (s : State) (l n : Nat) : (s.cleanLines l n).tlb = s.tlb := rfl
@[simp] theorem State.cleanLines_time (s : State) (l n : Nat) : (s.cleanLines l n).time = s.time := rfl
@[simp] theorem State.cleanLines_cores (s : State) (l n : Nat) : (s.cleanLines l n).cores = s.cores := rfl
@[simp] theorem State.cleanLines_groups (s : State) (l n : Nat) : (s.cleanLines l n).groups = s.groups := rfl
@[simp] theorem State.cleanLines_kqs (s : State) (l n : Nat) : (s.cleanLines l n).kqs = s.kqs := rfl
@[simp] theorem State.cleanLines_kernelIds (s : State) (l n : Nat) : (s.cleanLines l n).kernelIds = s.kernelIds := rfl
@[simp] theorem State.cleanLines_openings (s : State) (l n : Nat) : (s.cleanLines l n).openings = s.openings := rfl
@[simp] theorem State.cleanLines_strands (s : State) (l n : Nat) : (s.cleanLines l n).strands = s.strands := rfl
@[simp] theorem State.cleanLines_node (s : State) (l n : Nat) : (s.cleanLines l n).node = s.node := rfl
@[simp] theorem State.cleanLines_ctime (s : State) (l n : Nat) : (s.cleanLines l n).ctime = s.ctime := rfl
@[simp] theorem State.cleanLines_cxl (s : State) (l n : Nat) : (s.cleanLines l n).cxl = s.cxl := rfl
@[simp] theorem State.cleanLines_ofus (s : State) (l n : Nat) : (s.cleanLines l n).ofus = s.ofus := rfl
@[simp] theorem State.cleanLines_lqs (s : State) (l n : Nat) : (s.cleanLines l n).lqs = s.lqs := rfl
@[simp] theorem State.cleanLines_msgs (s : State) (l n : Nat) : (s.cleanLines l n).msgs = s.msgs := rfl
@[simp] theorem State.cleanLines_ptbr (s : State) (l n : Nat) : (s.cleanLines l n).ptbr = s.ptbr := rfl
@[simp] theorem State.cleanLines_hepoch (s : State) (l n : Nat) : (s.cleanLines l n).hepoch = s.hepoch := rfl
@[simp] theorem State.cleanLines_hbm (s : State) (l n : Nat) : (s.cleanLines l n).hbm = s.hbm := rfl
@[simp] theorem State.cleanLines_undertow (s : State) (l n : Nat) : (s.cleanLines l n).undertow = s.undertow := rfl
@[simp] theorem State.cleanLines_mgmt (s : State) (l n : Nat) : (s.cleanLines l n).mgmt = s.mgmt := rfl
@[simp] theorem State.cleanLines_wrack (s : State) (l n : Nat) : (s.cleanLines l n).wrack = s.wrack := rfl
@[simp] theorem State.cleanLines_focus (s : State) (l n : Nat) : (s.cleanLines l n).focus = s.focus := rfl
@[simp] theorem State.cleanLines_agenda (s : State) (l n : Nat) : (s.cleanLines l n).agenda = s.agenda := rfl
@[simp] theorem State.cleanLines_turns (s : State) (l n : Nat) : (s.cleanLines l n).turns = s.turns := rfl
@[simp] theorem State.cleanLines_fresh (s : State) (l n : Nat) : (s.cleanLines l n).fresh = s.fresh := rfl

@[simp] theorem State.setOfu_mem (s : State) (u : Nat) (v : Ofu) : (s.setOfu u v).mem = s.mem := rfl
@[simp] theorem State.setOfu_overwritten (s : State) (u : Nat) (v : Ofu) : (s.setOfu u v).overwritten = s.overwritten := rfl
@[simp] theorem State.setOfu_poison (s : State) (u : Nat) (v : Ofu) : (s.setOfu u v).poison = s.poison := rfl
@[simp] theorem State.setOfu_halves (s : State) (u : Nat) (v : Ofu) : (s.setOfu u v).halves = s.halves := rfl
@[simp] theorem State.setOfu_moves (s : State) (u : Nat) (v : Ofu) : (s.setOfu u v).moves = s.moves := rfl
@[simp] theorem State.setOfu_tlb (s : State) (u : Nat) (v : Ofu) : (s.setOfu u v).tlb = s.tlb := rfl
@[simp] theorem State.setOfu_time (s : State) (u : Nat) (v : Ofu) : (s.setOfu u v).time = s.time := rfl
@[simp] theorem State.setOfu_cores (s : State) (u : Nat) (v : Ofu) : (s.setOfu u v).cores = s.cores := rfl
@[simp] theorem State.setOfu_groups (s : State) (u : Nat) (v : Ofu) : (s.setOfu u v).groups = s.groups := rfl
@[simp] theorem State.setOfu_kqs (s : State) (u : Nat) (v : Ofu) : (s.setOfu u v).kqs = s.kqs := rfl
@[simp] theorem State.setOfu_kernelIds (s : State) (u : Nat) (v : Ofu) : (s.setOfu u v).kernelIds = s.kernelIds := rfl
@[simp] theorem State.setOfu_openings (s : State) (u : Nat) (v : Ofu) : (s.setOfu u v).openings = s.openings := rfl
@[simp] theorem State.setOfu_strands (s : State) (u : Nat) (v : Ofu) : (s.setOfu u v).strands = s.strands := rfl
@[simp] theorem State.setOfu_node (s : State) (u : Nat) (v : Ofu) : (s.setOfu u v).node = s.node := rfl
@[simp] theorem State.setOfu_ctime (s : State) (u : Nat) (v : Ofu) : (s.setOfu u v).ctime = s.ctime := rfl
@[simp] theorem State.setOfu_cxl (s : State) (u : Nat) (v : Ofu) : (s.setOfu u v).cxl = s.cxl := rfl
@[simp] theorem State.setOfu_lqs (s : State) (u : Nat) (v : Ofu) : (s.setOfu u v).lqs = s.lqs := rfl
@[simp] theorem State.setOfu_msgs (s : State) (u : Nat) (v : Ofu) : (s.setOfu u v).msgs = s.msgs := rfl
@[simp] theorem State.setOfu_ptbr (s : State) (u : Nat) (v : Ofu) : (s.setOfu u v).ptbr = s.ptbr := rfl
@[simp] theorem State.setOfu_hepoch (s : State) (u : Nat) (v : Ofu) : (s.setOfu u v).hepoch = s.hepoch := rfl
@[simp] theorem State.setOfu_hbm (s : State) (u : Nat) (v : Ofu) : (s.setOfu u v).hbm = s.hbm := rfl
@[simp] theorem State.setOfu_undertow (s : State) (u : Nat) (v : Ofu) : (s.setOfu u v).undertow = s.undertow := rfl
@[simp] theorem State.setOfu_mgmt (s : State) (u : Nat) (v : Ofu) : (s.setOfu u v).mgmt = s.mgmt := rfl
@[simp] theorem State.setOfu_wrack (s : State) (u : Nat) (v : Ofu) : (s.setOfu u v).wrack = s.wrack := rfl
@[simp] theorem State.setOfu_focus (s : State) (u : Nat) (v : Ofu) : (s.setOfu u v).focus = s.focus := rfl
@[simp] theorem State.setOfu_agenda (s : State) (u : Nat) (v : Ofu) : (s.setOfu u v).agenda = s.agenda := rfl
@[simp] theorem State.setOfu_turns (s : State) (u : Nat) (v : Ofu) : (s.setOfu u v).turns = s.turns := rfl
@[simp] theorem State.setOfu_fresh (s : State) (u : Nat) (v : Ofu) : (s.setOfu u v).fresh = s.fresh := rfl

@[simp] theorem State.hirq_mem (s : State) (b : Nat) : (s.hirq b).mem = s.mem := rfl
@[simp] theorem State.hirq_overwritten (s : State) (b : Nat) : (s.hirq b).overwritten = s.overwritten := rfl
@[simp] theorem State.hirq_poison (s : State) (b : Nat) : (s.hirq b).poison = s.poison := rfl
@[simp] theorem State.hirq_halves (s : State) (b : Nat) : (s.hirq b).halves = s.halves := rfl
@[simp] theorem State.hirq_moves (s : State) (b : Nat) : (s.hirq b).moves = s.moves := rfl
@[simp] theorem State.hirq_tlb (s : State) (b : Nat) : (s.hirq b).tlb = s.tlb := rfl
@[simp] theorem State.hirq_time (s : State) (b : Nat) : (s.hirq b).time = s.time := rfl
@[simp] theorem State.hirq_cores (s : State) (b : Nat) : (s.hirq b).cores = s.cores := rfl
@[simp] theorem State.hirq_groups (s : State) (b : Nat) : (s.hirq b).groups = s.groups := rfl
@[simp] theorem State.hirq_kqs (s : State) (b : Nat) : (s.hirq b).kqs = s.kqs := rfl
@[simp] theorem State.hirq_kernelIds (s : State) (b : Nat) : (s.hirq b).kernelIds = s.kernelIds := rfl
@[simp] theorem State.hirq_openings (s : State) (b : Nat) : (s.hirq b).openings = s.openings := rfl
@[simp] theorem State.hirq_strands (s : State) (b : Nat) : (s.hirq b).strands = s.strands := rfl
@[simp] theorem State.hirq_node (s : State) (b : Nat) : (s.hirq b).node = s.node := rfl
@[simp] theorem State.hirq_ctime (s : State) (b : Nat) : (s.hirq b).ctime = s.ctime := rfl
@[simp] theorem State.hirq_cxl (s : State) (b : Nat) : (s.hirq b).cxl = s.cxl := rfl
@[simp] theorem State.hirq_ofus (s : State) (b : Nat) : (s.hirq b).ofus = s.ofus := rfl
@[simp] theorem State.hirq_lqs (s : State) (b : Nat) : (s.hirq b).lqs = s.lqs := rfl
@[simp] theorem State.hirq_msgs (s : State) (b : Nat) : (s.hirq b).msgs = s.msgs := rfl
@[simp] theorem State.hirq_ptbr (s : State) (b : Nat) : (s.hirq b).ptbr = s.ptbr := rfl
@[simp] theorem State.hirq_hepoch (s : State) (b : Nat) : (s.hirq b).hepoch = s.hepoch := rfl
@[simp] theorem State.hirq_hbm (s : State) (b : Nat) : (s.hirq b).hbm = s.hbm := rfl
@[simp] theorem State.hirq_undertow (s : State) (b : Nat) : (s.hirq b).undertow = s.undertow := rfl
@[simp] theorem State.hirq_wrack (s : State) (b : Nat) : (s.hirq b).wrack = s.wrack := rfl
@[simp] theorem State.hirq_focus (s : State) (b : Nat) : (s.hirq b).focus = s.focus := rfl
@[simp] theorem State.hirq_agenda (s : State) (b : Nat) : (s.hirq b).agenda = s.agenda := rfl
@[simp] theorem State.hirq_turns (s : State) (b : Nat) : (s.hirq b).turns = s.turns := rfl
@[simp] theorem State.hirq_fresh (s : State) (b : Nat) : (s.hirq b).fresh = s.fresh := rfl

@[simp] theorem State.signal_mem (s : State) (c m : Nat) : (s.signal c m).mem = s.mem := rfl
@[simp] theorem State.signal_overwritten (s : State) (c m : Nat) : (s.signal c m).overwritten = s.overwritten := rfl
@[simp] theorem State.signal_poison (s : State) (c m : Nat) : (s.signal c m).poison = s.poison := rfl
@[simp] theorem State.signal_halves (s : State) (c m : Nat) : (s.signal c m).halves = s.halves := rfl
@[simp] theorem State.signal_moves (s : State) (c m : Nat) : (s.signal c m).moves = s.moves := rfl
@[simp] theorem State.signal_tlb (s : State) (c m : Nat) : (s.signal c m).tlb = s.tlb := rfl
@[simp] theorem State.signal_time (s : State) (c m : Nat) : (s.signal c m).time = s.time := rfl
@[simp] theorem State.signal_groups (s : State) (c m : Nat) : (s.signal c m).groups = s.groups := rfl
@[simp] theorem State.signal_kqs (s : State) (c m : Nat) : (s.signal c m).kqs = s.kqs := rfl
@[simp] theorem State.signal_kernelIds (s : State) (c m : Nat) : (s.signal c m).kernelIds = s.kernelIds := rfl
@[simp] theorem State.signal_openings (s : State) (c m : Nat) : (s.signal c m).openings = s.openings := rfl
@[simp] theorem State.signal_strands (s : State) (c m : Nat) : (s.signal c m).strands = s.strands := rfl
@[simp] theorem State.signal_node (s : State) (c m : Nat) : (s.signal c m).node = s.node := rfl
@[simp] theorem State.signal_ctime (s : State) (c m : Nat) : (s.signal c m).ctime = s.ctime := rfl
@[simp] theorem State.signal_cxl (s : State) (c m : Nat) : (s.signal c m).cxl = s.cxl := rfl
@[simp] theorem State.signal_ofus (s : State) (c m : Nat) : (s.signal c m).ofus = s.ofus := rfl
@[simp] theorem State.signal_lqs (s : State) (c m : Nat) : (s.signal c m).lqs = s.lqs := rfl
@[simp] theorem State.signal_msgs (s : State) (c m : Nat) : (s.signal c m).msgs = s.msgs := rfl
@[simp] theorem State.signal_ptbr (s : State) (c m : Nat) : (s.signal c m).ptbr = s.ptbr := rfl
@[simp] theorem State.signal_hepoch (s : State) (c m : Nat) : (s.signal c m).hepoch = s.hepoch := rfl
@[simp] theorem State.signal_hbm (s : State) (c m : Nat) : (s.signal c m).hbm = s.hbm := rfl
@[simp] theorem State.signal_undertow (s : State) (c m : Nat) : (s.signal c m).undertow = s.undertow := rfl
@[simp] theorem State.signal_mgmt (s : State) (c m : Nat) : (s.signal c m).mgmt = s.mgmt := rfl
@[simp] theorem State.signal_wrack (s : State) (c m : Nat) : (s.signal c m).wrack = s.wrack := rfl
@[simp] theorem State.signal_focus (s : State) (c m : Nat) : (s.signal c m).focus = s.focus := rfl
@[simp] theorem State.signal_agenda (s : State) (c m : Nat) : (s.signal c m).agenda = s.agenda := rfl
@[simp] theorem State.signal_turns (s : State) (c m : Nat) : (s.signal c m).turns = s.turns := rfl
@[simp] theorem State.signal_fresh (s : State) (c m : Nat) : (s.signal c m).fresh = s.fresh := rfl

@[simp] theorem State.setGroup_mem (s : State) (g : Nat) (v : Group) : (s.setGroup g v).mem = s.mem := rfl
@[simp] theorem State.setGroup_overwritten (s : State) (g : Nat) (v : Group) : (s.setGroup g v).overwritten = s.overwritten := rfl
@[simp] theorem State.setGroup_poison (s : State) (g : Nat) (v : Group) : (s.setGroup g v).poison = s.poison := rfl
@[simp] theorem State.setGroup_halves (s : State) (g : Nat) (v : Group) : (s.setGroup g v).halves = s.halves := rfl
@[simp] theorem State.setGroup_moves (s : State) (g : Nat) (v : Group) : (s.setGroup g v).moves = s.moves := rfl
@[simp] theorem State.setGroup_tlb (s : State) (g : Nat) (v : Group) : (s.setGroup g v).tlb = s.tlb := rfl
@[simp] theorem State.setGroup_time (s : State) (g : Nat) (v : Group) : (s.setGroup g v).time = s.time := rfl
@[simp] theorem State.setGroup_cores (s : State) (g : Nat) (v : Group) : (s.setGroup g v).cores = s.cores := rfl
@[simp] theorem State.setGroup_kqs (s : State) (g : Nat) (v : Group) : (s.setGroup g v).kqs = s.kqs := rfl
@[simp] theorem State.setGroup_kernelIds (s : State) (g : Nat) (v : Group) : (s.setGroup g v).kernelIds = s.kernelIds := rfl
@[simp] theorem State.setGroup_openings (s : State) (g : Nat) (v : Group) : (s.setGroup g v).openings = s.openings := rfl
@[simp] theorem State.setGroup_strands (s : State) (g : Nat) (v : Group) : (s.setGroup g v).strands = s.strands := rfl
@[simp] theorem State.setGroup_node (s : State) (g : Nat) (v : Group) : (s.setGroup g v).node = s.node := rfl
@[simp] theorem State.setGroup_ctime (s : State) (g : Nat) (v : Group) : (s.setGroup g v).ctime = s.ctime := rfl
@[simp] theorem State.setGroup_cxl (s : State) (g : Nat) (v : Group) : (s.setGroup g v).cxl = s.cxl := rfl
@[simp] theorem State.setGroup_ofus (s : State) (g : Nat) (v : Group) : (s.setGroup g v).ofus = s.ofus := rfl
@[simp] theorem State.setGroup_lqs (s : State) (g : Nat) (v : Group) : (s.setGroup g v).lqs = s.lqs := rfl
@[simp] theorem State.setGroup_msgs (s : State) (g : Nat) (v : Group) : (s.setGroup g v).msgs = s.msgs := rfl
@[simp] theorem State.setGroup_ptbr (s : State) (g : Nat) (v : Group) : (s.setGroup g v).ptbr = s.ptbr := rfl
@[simp] theorem State.setGroup_hepoch (s : State) (g : Nat) (v : Group) : (s.setGroup g v).hepoch = s.hepoch := rfl
@[simp] theorem State.setGroup_hbm (s : State) (g : Nat) (v : Group) : (s.setGroup g v).hbm = s.hbm := rfl
@[simp] theorem State.setGroup_undertow (s : State) (g : Nat) (v : Group) : (s.setGroup g v).undertow = s.undertow := rfl
@[simp] theorem State.setGroup_mgmt (s : State) (g : Nat) (v : Group) : (s.setGroup g v).mgmt = s.mgmt := rfl
@[simp] theorem State.setGroup_wrack (s : State) (g : Nat) (v : Group) : (s.setGroup g v).wrack = s.wrack := rfl
@[simp] theorem State.setGroup_focus (s : State) (g : Nat) (v : Group) : (s.setGroup g v).focus = s.focus := rfl
@[simp] theorem State.setGroup_agenda (s : State) (g : Nat) (v : Group) : (s.setGroup g v).agenda = s.agenda := rfl
@[simp] theorem State.setGroup_turns (s : State) (g : Nat) (v : Group) : (s.setGroup g v).turns = s.turns := rfl
@[simp] theorem State.setGroup_fresh (s : State) (g : Nat) (v : Group) : (s.setGroup g v).fresh = s.fresh := rfl

@[simp] theorem State.modKernel_mem (s : State) (q i : Nat) (f : Kernel → Kernel) : (s.modKernel q i f).mem = s.mem := rfl
@[simp] theorem State.modKernel_overwritten (s : State) (q i : Nat) (f : Kernel → Kernel) : (s.modKernel q i f).overwritten = s.overwritten := rfl
@[simp] theorem State.modKernel_poison (s : State) (q i : Nat) (f : Kernel → Kernel) : (s.modKernel q i f).poison = s.poison := rfl
@[simp] theorem State.modKernel_halves (s : State) (q i : Nat) (f : Kernel → Kernel) : (s.modKernel q i f).halves = s.halves := rfl
@[simp] theorem State.modKernel_moves (s : State) (q i : Nat) (f : Kernel → Kernel) : (s.modKernel q i f).moves = s.moves := rfl
@[simp] theorem State.modKernel_tlb (s : State) (q i : Nat) (f : Kernel → Kernel) : (s.modKernel q i f).tlb = s.tlb := rfl
@[simp] theorem State.modKernel_time (s : State) (q i : Nat) (f : Kernel → Kernel) : (s.modKernel q i f).time = s.time := rfl
@[simp] theorem State.modKernel_cores (s : State) (q i : Nat) (f : Kernel → Kernel) : (s.modKernel q i f).cores = s.cores := rfl
@[simp] theorem State.modKernel_groups (s : State) (q i : Nat) (f : Kernel → Kernel) : (s.modKernel q i f).groups = s.groups := rfl
@[simp] theorem State.modKernel_kernelIds (s : State) (q i : Nat) (f : Kernel → Kernel) : (s.modKernel q i f).kernelIds = s.kernelIds := rfl
@[simp] theorem State.modKernel_openings (s : State) (q i : Nat) (f : Kernel → Kernel) : (s.modKernel q i f).openings = s.openings := rfl
@[simp] theorem State.modKernel_strands (s : State) (q i : Nat) (f : Kernel → Kernel) : (s.modKernel q i f).strands = s.strands := rfl
@[simp] theorem State.modKernel_node (s : State) (q i : Nat) (f : Kernel → Kernel) : (s.modKernel q i f).node = s.node := rfl
@[simp] theorem State.modKernel_ctime (s : State) (q i : Nat) (f : Kernel → Kernel) : (s.modKernel q i f).ctime = s.ctime := rfl
@[simp] theorem State.modKernel_cxl (s : State) (q i : Nat) (f : Kernel → Kernel) : (s.modKernel q i f).cxl = s.cxl := rfl
@[simp] theorem State.modKernel_ofus (s : State) (q i : Nat) (f : Kernel → Kernel) : (s.modKernel q i f).ofus = s.ofus := rfl
@[simp] theorem State.modKernel_lqs (s : State) (q i : Nat) (f : Kernel → Kernel) : (s.modKernel q i f).lqs = s.lqs := rfl
@[simp] theorem State.modKernel_msgs (s : State) (q i : Nat) (f : Kernel → Kernel) : (s.modKernel q i f).msgs = s.msgs := rfl
@[simp] theorem State.modKernel_ptbr (s : State) (q i : Nat) (f : Kernel → Kernel) : (s.modKernel q i f).ptbr = s.ptbr := rfl
@[simp] theorem State.modKernel_hepoch (s : State) (q i : Nat) (f : Kernel → Kernel) : (s.modKernel q i f).hepoch = s.hepoch := rfl
@[simp] theorem State.modKernel_hbm (s : State) (q i : Nat) (f : Kernel → Kernel) : (s.modKernel q i f).hbm = s.hbm := rfl
@[simp] theorem State.modKernel_undertow (s : State) (q i : Nat) (f : Kernel → Kernel) : (s.modKernel q i f).undertow = s.undertow := rfl
@[simp] theorem State.modKernel_mgmt (s : State) (q i : Nat) (f : Kernel → Kernel) : (s.modKernel q i f).mgmt = s.mgmt := rfl
@[simp] theorem State.modKernel_wrack (s : State) (q i : Nat) (f : Kernel → Kernel) : (s.modKernel q i f).wrack = s.wrack := rfl
@[simp] theorem State.modKernel_focus (s : State) (q i : Nat) (f : Kernel → Kernel) : (s.modKernel q i f).focus = s.focus := rfl
@[simp] theorem State.modKernel_agenda (s : State) (q i : Nat) (f : Kernel → Kernel) : (s.modKernel q i f).agenda = s.agenda := rfl
@[simp] theorem State.modKernel_turns (s : State) (q i : Nat) (f : Kernel → Kernel) : (s.modKernel q i f).turns = s.turns := rfl
@[simp] theorem State.modKernel_fresh (s : State) (q i : Nat) (f : Kernel → Kernel) : (s.modKernel q i f).fresh = s.fresh := rfl

/-! ### Fields of a context under its updates -/

@[simp] theorem Ctx.setX_p (c : Ctx) (n : Nat) (v : Word) : (c.setX n v).p = c.p := by unfold Ctx.setX; split <;> rfl
@[simp] theorem Ctx.setX_c (c : Ctx) (n : Nat) (v : Word) : (c.setX n v).c = c.c := by unfold Ctx.setX; split <;> rfl
@[simp] theorem Ctx.setX_pc (c : Ctx) (n : Nat) (v : Word) : (c.setX n v).pc = c.pc := by unfold Ctx.setX; split <;> rfl
@[simp] theorem Ctx.setX_st (c : Ctx) (n : Nat) (v : Word) : (c.setX n v).st = c.st := by unfold Ctx.setX; split <;> rfl
@[simp] theorem Ctx.setX_priv (c : Ctx) (n : Nat) (v : Word) : (c.setX n v).priv = c.priv := by unfold Ctx.setX; split <;> rfl
@[simp] theorem Ctx.setX_ppriv (c : Ctx) (n : Nat) (v : Word) : (c.setX n v).ppriv = c.ppriv := by unfold Ctx.setX; split <;> rfl
@[simp] theorem Ctx.setX_busy (c : Ctx) (n : Nat) (v : Word) : (c.setX n v).busy = c.busy := by unfold Ctx.setX; split <;> rfl
@[simp] theorem Ctx.setX_sporen (c : Ctx) (n : Nat) (v : Word) : (c.setX n v).sporen = c.sporen := by unfold Ctx.setX; split <;> rfl
@[simp] theorem Ctx.setX_tvec (c : Ctx) (n : Nat) (v : Word) : (c.setX n v).tvec = c.tvec := by unfold Ctx.setX; split <;> rfl
@[simp] theorem Ctx.setX_tstat (c : Ctx) (n : Nat) (v : Word) : (c.setX n v).tstat = c.tstat := by unfold Ctx.setX; split <;> rfl
@[simp] theorem Ctx.setX_tinfo (c : Ctx) (n : Nat) (v : Word) : (c.setX n v).tinfo = c.tinfo := by unfold Ctx.setX; split <;> rfl
@[simp] theorem Ctx.setX_ien (c : Ctx) (n : Nat) (v : Word) : (c.setX n v).ien = c.ien := by unfold Ctx.setX; split <;> rfl
@[simp] theorem Ctx.setX_ipend (c : Ctx) (n : Nat) (v : Word) : (c.setX n v).ipend = c.ipend := by unfold Ctx.setX; split <;> rfl
@[simp] theorem Ctx.setX_tcmp (c : Ctx) (n : Nat) (v : Word) : (c.setX n v).tcmp = c.tcmp := by unfold Ctx.setX; split <;> rfl
@[simp] theorem Ctx.setX_spor (c : Ctx) (n : Nat) (v : Word) : (c.setX n v).spor = c.spor := by unfold Ctx.setX; split <;> rfl
@[simp] theorem Ctx.setX_sbuf (c : Ctx) (n : Nat) (v : Word) : (c.setX n v).sbuf = c.sbuf := by unfold Ctx.setX; split <;> rfl
@[simp] theorem Ctx.setX_loads (c : Ctx) (n : Nat) (v : Word) : (c.setX n v).loads = c.loads := by unfold Ctx.setX; split <;> rfl
@[simp] theorem Ctx.setX_lateLoads (c : Ctx) (n : Nat) (v : Word) : (c.setX n v).lateLoads = c.lateLoads := by unfold Ctx.setX; split <;> rfl
@[simp] theorem Ctx.setX_bpend (c : Ctx) (n : Nat) (v : Word) : (c.setX n v).bpend = c.bpend := by unfold Ctx.setX; split <;> rfl
@[simp] theorem Ctx.setX_block (c : Ctx) (n : Nat) (v : Word) : (c.setX n v).block = c.block := by unfold Ctx.setX; split <;> rfl
@[simp] theorem Ctx.setX_waiter (c : Ctx) (n : Nat) (v : Word) : (c.setX n v).waiter = c.waiter := by unfold Ctx.setX; split <;> rfl
@[simp] theorem Ctx.setX_wpobj (c : Ctx) (n : Nat) (v : Word) : (c.setX n v).wpobj = c.wpobj := by unfold Ctx.setX; split <;> rfl
@[simp] theorem Ctx.setX_wpctl (c : Ctx) (n : Nat) (v : Word) : (c.setX n v).wpctl = c.wpctl := by unfold Ctx.setX; split <;> rfl
@[simp] theorem Ctx.setX_wpcyc (c : Ctx) (n : Nat) (v : Word) : (c.setX n v).wpcyc = c.wpcyc := by unfold Ctx.setX; split <;> rfl
@[simp] theorem Ctx.setX_bpaddr (c : Ctx) (n : Nat) (v : Word) : (c.setX n v).bpaddr = c.bpaddr := by unfold Ctx.setX; split <;> rfl
@[simp] theorem Ctx.setX_gsel (c : Ctx) (n : Nat) (v : Word) : (c.setX n v).gsel = c.gsel := by unfold Ctx.setX; split <;> rfl
@[simp] theorem Ctx.setX_lsel (c : Ctx) (n : Nat) (v : Word) : (c.setX n v).lsel = c.lsel := by unfold Ctx.setX; split <;> rfl
@[simp] theorem Ctx.setX_osel (c : Ctx) (n : Nat) (v : Word) : (c.setX n v).osel = c.osel := by unfold Ctx.setX; split <;> rfl
@[simp] theorem Ctx.setX_cmsel (c : Ctx) (n : Nat) (v : Word) : (c.setX n v).cmsel = c.cmsel := by unfold Ctx.setX; split <;> rfl
@[simp] theorem Ctx.setX_hsel (c : Ctx) (n : Nat) (v : Word) : (c.setX n v).hsel = c.hsel := by unfold Ctx.setX; split <;> rfl
@[simp] theorem Ctx.setX_psel (c : Ctx) (n : Nat) (v : Word) : (c.setX n v).psel = c.psel := by unfold Ctx.setX; split <;> rfl
@[simp] theorem Ctx.setX_log (c : Ctx) (n : Nat) (v : Word) : (c.setX n v).log = c.log := by unfold Ctx.setX; split <;> rfl
@[simp] theorem Ctx.setX_iter (c : Ctx) (n : Nat) (v : Word) : (c.setX n v).iter = c.iter := by unfold Ctx.setX; split <;> rfl
@[simp] theorem Ctx.setX_wpTrap (c : Ctx) (n : Nat) (v : Word) : (c.setX n v).wpTrap = c.wpTrap := by unfold Ctx.setX; split <;> rfl
@[simp] theorem Ctx.setX_savedSt (c : Ctx) (n : Nat) (v : Word) : (c.setX n v).savedSt = c.savedSt := by unfold Ctx.setX; split <;> rfl
@[simp] theorem Ctx.setX_dbg (c : Ctx) (n : Nat) (v : Word) : (c.setX n v).dbg = c.dbg := by unfold Ctx.setX; split <;> rfl
@[simp] theorem Ctx.setX_flip (c : Ctx) (n : Nat) (v : Word) : (c.setX n v).flip = c.flip := by unfold Ctx.setX; split <;> rfl
@[simp] theorem Ctx.setX_codeSince (c : Ctx) (n : Nat) (v : Word) : (c.setX n v).codeSince = c.codeSince := by unfold Ctx.setX; split <;> rfl
@[simp] theorem Ctx.setX_codeFenced (c : Ctx) (n : Nat) (v : Word) : (c.setX n v).codeFenced = c.codeFenced := by unfold Ctx.setX; split <;> rfl

@[simp] theorem Ctx.setP_x (c : Ctx) (n : Nat) (v : Bool) : (c.setP n v).x = c.x := by unfold Ctx.setP; split <;> rfl
@[simp] theorem Ctx.setP_c (c : Ctx) (n : Nat) (v : Bool) : (c.setP n v).c = c.c := by unfold Ctx.setP; split <;> rfl
@[simp] theorem Ctx.setP_pc (c : Ctx) (n : Nat) (v : Bool) : (c.setP n v).pc = c.pc := by unfold Ctx.setP; split <;> rfl
@[simp] theorem Ctx.setP_st (c : Ctx) (n : Nat) (v : Bool) : (c.setP n v).st = c.st := by unfold Ctx.setP; split <;> rfl
@[simp] theorem Ctx.setP_priv (c : Ctx) (n : Nat) (v : Bool) : (c.setP n v).priv = c.priv := by unfold Ctx.setP; split <;> rfl
@[simp] theorem Ctx.setP_ppriv (c : Ctx) (n : Nat) (v : Bool) : (c.setP n v).ppriv = c.ppriv := by unfold Ctx.setP; split <;> rfl
@[simp] theorem Ctx.setP_busy (c : Ctx) (n : Nat) (v : Bool) : (c.setP n v).busy = c.busy := by unfold Ctx.setP; split <;> rfl
@[simp] theorem Ctx.setP_sporen (c : Ctx) (n : Nat) (v : Bool) : (c.setP n v).sporen = c.sporen := by unfold Ctx.setP; split <;> rfl
@[simp] theorem Ctx.setP_tvec (c : Ctx) (n : Nat) (v : Bool) : (c.setP n v).tvec = c.tvec := by unfold Ctx.setP; split <;> rfl
@[simp] theorem Ctx.setP_tstat (c : Ctx) (n : Nat) (v : Bool) : (c.setP n v).tstat = c.tstat := by unfold Ctx.setP; split <;> rfl
@[simp] theorem Ctx.setP_tinfo (c : Ctx) (n : Nat) (v : Bool) : (c.setP n v).tinfo = c.tinfo := by unfold Ctx.setP; split <;> rfl
@[simp] theorem Ctx.setP_ien (c : Ctx) (n : Nat) (v : Bool) : (c.setP n v).ien = c.ien := by unfold Ctx.setP; split <;> rfl
@[simp] theorem Ctx.setP_ipend (c : Ctx) (n : Nat) (v : Bool) : (c.setP n v).ipend = c.ipend := by unfold Ctx.setP; split <;> rfl
@[simp] theorem Ctx.setP_tcmp (c : Ctx) (n : Nat) (v : Bool) : (c.setP n v).tcmp = c.tcmp := by unfold Ctx.setP; split <;> rfl
@[simp] theorem Ctx.setP_spor (c : Ctx) (n : Nat) (v : Bool) : (c.setP n v).spor = c.spor := by unfold Ctx.setP; split <;> rfl
@[simp] theorem Ctx.setP_sbuf (c : Ctx) (n : Nat) (v : Bool) : (c.setP n v).sbuf = c.sbuf := by unfold Ctx.setP; split <;> rfl
@[simp] theorem Ctx.setP_loads (c : Ctx) (n : Nat) (v : Bool) : (c.setP n v).loads = c.loads := by unfold Ctx.setP; split <;> rfl
@[simp] theorem Ctx.setP_lateLoads (c : Ctx) (n : Nat) (v : Bool) : (c.setP n v).lateLoads = c.lateLoads := by unfold Ctx.setP; split <;> rfl
@[simp] theorem Ctx.setP_bpend (c : Ctx) (n : Nat) (v : Bool) : (c.setP n v).bpend = c.bpend := by unfold Ctx.setP; split <;> rfl
@[simp] theorem Ctx.setP_block (c : Ctx) (n : Nat) (v : Bool) : (c.setP n v).block = c.block := by unfold Ctx.setP; split <;> rfl
@[simp] theorem Ctx.setP_waiter (c : Ctx) (n : Nat) (v : Bool) : (c.setP n v).waiter = c.waiter := by unfold Ctx.setP; split <;> rfl
@[simp] theorem Ctx.setP_wpobj (c : Ctx) (n : Nat) (v : Bool) : (c.setP n v).wpobj = c.wpobj := by unfold Ctx.setP; split <;> rfl
@[simp] theorem Ctx.setP_wpctl (c : Ctx) (n : Nat) (v : Bool) : (c.setP n v).wpctl = c.wpctl := by unfold Ctx.setP; split <;> rfl
@[simp] theorem Ctx.setP_wpcyc (c : Ctx) (n : Nat) (v : Bool) : (c.setP n v).wpcyc = c.wpcyc := by unfold Ctx.setP; split <;> rfl
@[simp] theorem Ctx.setP_bpaddr (c : Ctx) (n : Nat) (v : Bool) : (c.setP n v).bpaddr = c.bpaddr := by unfold Ctx.setP; split <;> rfl
@[simp] theorem Ctx.setP_gsel (c : Ctx) (n : Nat) (v : Bool) : (c.setP n v).gsel = c.gsel := by unfold Ctx.setP; split <;> rfl
@[simp] theorem Ctx.setP_lsel (c : Ctx) (n : Nat) (v : Bool) : (c.setP n v).lsel = c.lsel := by unfold Ctx.setP; split <;> rfl
@[simp] theorem Ctx.setP_osel (c : Ctx) (n : Nat) (v : Bool) : (c.setP n v).osel = c.osel := by unfold Ctx.setP; split <;> rfl
@[simp] theorem Ctx.setP_cmsel (c : Ctx) (n : Nat) (v : Bool) : (c.setP n v).cmsel = c.cmsel := by unfold Ctx.setP; split <;> rfl
@[simp] theorem Ctx.setP_hsel (c : Ctx) (n : Nat) (v : Bool) : (c.setP n v).hsel = c.hsel := by unfold Ctx.setP; split <;> rfl
@[simp] theorem Ctx.setP_psel (c : Ctx) (n : Nat) (v : Bool) : (c.setP n v).psel = c.psel := by unfold Ctx.setP; split <;> rfl
@[simp] theorem Ctx.setP_log (c : Ctx) (n : Nat) (v : Bool) : (c.setP n v).log = c.log := by unfold Ctx.setP; split <;> rfl
@[simp] theorem Ctx.setP_iter (c : Ctx) (n : Nat) (v : Bool) : (c.setP n v).iter = c.iter := by unfold Ctx.setP; split <;> rfl
@[simp] theorem Ctx.setP_wpTrap (c : Ctx) (n : Nat) (v : Bool) : (c.setP n v).wpTrap = c.wpTrap := by unfold Ctx.setP; split <;> rfl
@[simp] theorem Ctx.setP_savedSt (c : Ctx) (n : Nat) (v : Bool) : (c.setP n v).savedSt = c.savedSt := by unfold Ctx.setP; split <;> rfl
@[simp] theorem Ctx.setP_dbg (c : Ctx) (n : Nat) (v : Bool) : (c.setP n v).dbg = c.dbg := by unfold Ctx.setP; split <;> rfl
@[simp] theorem Ctx.setP_flip (c : Ctx) (n : Nat) (v : Bool) : (c.setP n v).flip = c.flip := by unfold Ctx.setP; split <;> rfl
@[simp] theorem Ctx.setP_codeSince (c : Ctx) (n : Nat) (v : Bool) : (c.setP n v).codeSince = c.codeSince := by unfold Ctx.setP; split <;> rfl
@[simp] theorem Ctx.setP_codeFenced (c : Ctx) (n : Nat) (v : Bool) : (c.setP n v).codeFenced = c.codeFenced := by unfold Ctx.setP; split <;> rfl

@[simp] theorem Ctx.setC_x (c : Ctx) (n : Nat) (v : Word) : (c.setC n v).x = c.x := rfl
@[simp] theorem Ctx.setC_p (c : Ctx) (n : Nat) (v : Word) : (c.setC n v).p = c.p := rfl
@[simp] theorem Ctx.setC_pc (c : Ctx) (n : Nat) (v : Word) : (c.setC n v).pc = c.pc := rfl
@[simp] theorem Ctx.setC_st (c : Ctx) (n : Nat) (v : Word) : (c.setC n v).st = c.st := rfl
@[simp] theorem Ctx.setC_priv (c : Ctx) (n : Nat) (v : Word) : (c.setC n v).priv = c.priv := rfl
@[simp] theorem Ctx.setC_ppriv (c : Ctx) (n : Nat) (v : Word) : (c.setC n v).ppriv = c.ppriv := rfl
@[simp] theorem Ctx.setC_busy (c : Ctx) (n : Nat) (v : Word) : (c.setC n v).busy = c.busy := rfl
@[simp] theorem Ctx.setC_sporen (c : Ctx) (n : Nat) (v : Word) : (c.setC n v).sporen = c.sporen := rfl
@[simp] theorem Ctx.setC_tvec (c : Ctx) (n : Nat) (v : Word) : (c.setC n v).tvec = c.tvec := rfl
@[simp] theorem Ctx.setC_tstat (c : Ctx) (n : Nat) (v : Word) : (c.setC n v).tstat = c.tstat := rfl
@[simp] theorem Ctx.setC_tinfo (c : Ctx) (n : Nat) (v : Word) : (c.setC n v).tinfo = c.tinfo := rfl
@[simp] theorem Ctx.setC_ien (c : Ctx) (n : Nat) (v : Word) : (c.setC n v).ien = c.ien := rfl
@[simp] theorem Ctx.setC_ipend (c : Ctx) (n : Nat) (v : Word) : (c.setC n v).ipend = c.ipend := rfl
@[simp] theorem Ctx.setC_tcmp (c : Ctx) (n : Nat) (v : Word) : (c.setC n v).tcmp = c.tcmp := rfl
@[simp] theorem Ctx.setC_spor (c : Ctx) (n : Nat) (v : Word) : (c.setC n v).spor = c.spor := rfl
@[simp] theorem Ctx.setC_sbuf (c : Ctx) (n : Nat) (v : Word) : (c.setC n v).sbuf = c.sbuf := rfl
@[simp] theorem Ctx.setC_loads (c : Ctx) (n : Nat) (v : Word) : (c.setC n v).loads = c.loads := rfl
@[simp] theorem Ctx.setC_lateLoads (c : Ctx) (n : Nat) (v : Word) : (c.setC n v).lateLoads = c.lateLoads := rfl
@[simp] theorem Ctx.setC_bpend (c : Ctx) (n : Nat) (v : Word) : (c.setC n v).bpend = c.bpend := rfl
@[simp] theorem Ctx.setC_block (c : Ctx) (n : Nat) (v : Word) : (c.setC n v).block = c.block := rfl
@[simp] theorem Ctx.setC_waiter (c : Ctx) (n : Nat) (v : Word) : (c.setC n v).waiter = c.waiter := rfl
@[simp] theorem Ctx.setC_wpobj (c : Ctx) (n : Nat) (v : Word) : (c.setC n v).wpobj = c.wpobj := rfl
@[simp] theorem Ctx.setC_wpctl (c : Ctx) (n : Nat) (v : Word) : (c.setC n v).wpctl = c.wpctl := rfl
@[simp] theorem Ctx.setC_wpcyc (c : Ctx) (n : Nat) (v : Word) : (c.setC n v).wpcyc = c.wpcyc := rfl
@[simp] theorem Ctx.setC_bpaddr (c : Ctx) (n : Nat) (v : Word) : (c.setC n v).bpaddr = c.bpaddr := rfl
@[simp] theorem Ctx.setC_gsel (c : Ctx) (n : Nat) (v : Word) : (c.setC n v).gsel = c.gsel := rfl
@[simp] theorem Ctx.setC_lsel (c : Ctx) (n : Nat) (v : Word) : (c.setC n v).lsel = c.lsel := rfl
@[simp] theorem Ctx.setC_osel (c : Ctx) (n : Nat) (v : Word) : (c.setC n v).osel = c.osel := rfl
@[simp] theorem Ctx.setC_cmsel (c : Ctx) (n : Nat) (v : Word) : (c.setC n v).cmsel = c.cmsel := rfl
@[simp] theorem Ctx.setC_hsel (c : Ctx) (n : Nat) (v : Word) : (c.setC n v).hsel = c.hsel := rfl
@[simp] theorem Ctx.setC_psel (c : Ctx) (n : Nat) (v : Word) : (c.setC n v).psel = c.psel := rfl
@[simp] theorem Ctx.setC_log (c : Ctx) (n : Nat) (v : Word) : (c.setC n v).log = c.log := rfl
@[simp] theorem Ctx.setC_iter (c : Ctx) (n : Nat) (v : Word) : (c.setC n v).iter = c.iter := rfl
@[simp] theorem Ctx.setC_wpTrap (c : Ctx) (n : Nat) (v : Word) : (c.setC n v).wpTrap = c.wpTrap := rfl
@[simp] theorem Ctx.setC_savedSt (c : Ctx) (n : Nat) (v : Word) : (c.setC n v).savedSt = c.savedSt := rfl
@[simp] theorem Ctx.setC_dbg (c : Ctx) (n : Nat) (v : Word) : (c.setC n v).dbg = c.dbg := rfl
@[simp] theorem Ctx.setC_flip (c : Ctx) (n : Nat) (v : Word) : (c.setC n v).flip = c.flip := rfl
@[simp] theorem Ctx.setC_codeSince (c : Ctx) (n : Nat) (v : Word) : (c.setC n v).codeSince = c.codeSince := rfl
@[simp] theorem Ctx.setC_codeFenced (c : Ctx) (n : Nat) (v : Word) : (c.setC n v).codeFenced = c.codeFenced := rfl

/-! ### Fields of a core under its updates -/

@[simp] theorem Core.setCtx_cycle (k : Core) (n : Nat) (v : Ctx) : (k.setCtx n v).cycle = k.cycle := rfl
@[simp] theorem Core.setCtx_evw (k : Core) (n : Nat) (v : Ctx) : (k.setCtx n v).evw = k.evw := rfl
@[simp] theorem Core.setCtx_mq (k : Core) (n : Nat) (v : Ctx) : (k.setCtx n v).mq = k.mq := rfl
@[simp] theorem Core.setCtx_vq (k : Core) (n : Nat) (v : Ctx) : (k.setCtx n v).vq = k.vq := rfl
@[simp] theorem Core.setCtx_cq (k : Core) (n : Nat) (v : Ctx) : (k.setCtx n v).cq = k.cq := rfl
@[simp] theorem Core.setCtx_results (k : Core) (n : Nat) (v : Ctx) : (k.setCtx n v).results = k.results := rfl
@[simp] theorem Core.setCtx_held (k : Core) (n : Nat) (v : Ctx) : (k.setCtx n v).held = k.held := rfl
@[simp] theorem Core.setCtx_rings (k : Core) (n : Nat) (v : Ctx) : (k.setCtx n v).rings = k.rings := rfl
@[simp] theorem Core.setCtx_tokens (k : Core) (n : Nat) (v : Ctx) : (k.setCtx n v).tokens = k.tokens := rfl
@[simp] theorem Core.setCtx_deferred (k : Core) (n : Nat) (v : Ctx) : (k.setCtx n v).deferred = k.deferred := rfl
@[simp] theorem Core.setCtx_gens (k : Core) (n : Nat) (v : Ctx) : (k.setCtx n v).gens = k.gens := rfl
@[simp] theorem Core.setCtx_bind (k : Core) (n : Nat) (v : Ctx) : (k.setCtx n v).bind = k.bind := rfl
@[simp] theorem Core.setCtx_bindAll (k : Core) (n : Nat) (v : Ctx) : (k.setCtx n v).bindAll = k.bindAll := rfl
@[simp] theorem Core.setCtx_faultLog (k : Core) (n : Nat) (v : Ctx) : (k.setCtx n v).faultLog = k.faultLog := rfl
@[simp] theorem Core.setCtx_vfst (k : Core) (n : Nat) (v : Ctx) : (k.setCtx n v).vfst = k.vfst := rfl
@[simp] theorem Core.setCtx_vfstHeld (k : Core) (n : Nat) (v : Ctx) : (k.setCtx n v).vfstHeld = k.vfstHeld := rfl
@[simp] theorem Core.setCtx_mfst (k : Core) (n : Nat) (v : Ctx) : (k.setCtx n v).mfst = k.mfst := rfl
@[simp] theorem Core.setCtx_mfstHeld (k : Core) (n : Nat) (v : Ctx) : (k.setCtx n v).mfstHeld = k.mfstHeld := rfl
@[simp] theorem Core.setCtx_tdir (k : Core) (n : Nat) (v : Ctx) : (k.setCtx n v).tdir = k.tdir := rfl
@[simp] theorem Core.setCtx_vs (k : Core) (n : Nat) (v : Ctx) : (k.setCtx n v).vs = k.vs := rfl
@[simp] theorem Core.setCtx_ms (k : Core) (n : Nat) (v : Ctx) : (k.setCtx n v).ms = k.ms := rfl
@[simp] theorem Core.setCtx_job (k : Core) (n : Nat) (v : Ctx) : (k.setCtx n v).job = k.job := rfl
@[simp] theorem Core.setCtx_acc (k : Core) (n : Nat) (v : Ctx) : (k.setCtx n v).acc = k.acc := rfl
@[simp] theorem Core.setCtx_accPoison (k : Core) (n : Nat) (v : Ctx) : (k.setCtx n v).accPoison = k.accPoison := rfl
@[simp] theorem Core.setCtx_zeroed (k : Core) (n : Nat) (v : Ctx) : (k.setCtx n v).zeroed = k.zeroed := rfl
@[simp] theorem Core.setCtx_fenced (k : Core) (n : Nat) (v : Ctx) : (k.setCtx n v).fenced = k.fenced := rfl
@[simp] theorem Core.setCtx_reruns (k : Core) (n : Nat) (v : Ctx) : (k.setCtx n v).reruns = k.reruns := rfl
@[simp] theorem Core.setCtx_corrected (k : Core) (n : Nat) (v : Ctx) : (k.setCtx n v).corrected = k.corrected := rfl
@[simp] theorem Core.setCtx_scrub (k : Core) (n : Nat) (v : Ctx) : (k.setCtx n v).scrub = k.scrub := rfl
@[simp] theorem Core.setCtx_maxRerun (k : Core) (n : Nat) (v : Ctx) : (k.setCtx n v).maxRerun = k.maxRerun := rfl
@[simp] theorem Core.setCtx_rerunEn (k : Core) (n : Nat) (v : Ctx) : (k.setCtx n v).rerunEn = k.rerunEn := rfl
@[simp] theorem Core.setCtx_refetch (k : Core) (n : Nat) (v : Ctx) : (k.setCtx n v).refetch = k.refetch := rfl
@[simp] theorem Core.setCtx_cm (k : Core) (n : Nat) (v : Ctx) : (k.setCtx n v).cm = k.cm := rfl
@[simp] theorem Core.setCtx_cmSnapVals (k : Core) (n : Nat) (v : Ctx) : (k.setCtx n v).cmSnapVals = k.cmSnapVals := rfl
@[simp] theorem Core.setCtx_cmSnap (k : Core) (n : Nat) (v : Ctx) : (k.setCtx n v).cmSnap = k.cmSnap := rfl
@[simp] theorem Core.setCtx_cmMerge (k : Core) (n : Nat) (v : Ctx) : (k.setCtx n v).cmMerge = k.cmMerge := rfl
@[simp] theorem Core.setCtx_bpcyc (k : Core) (n : Nat) (v : Ctx) : (k.setCtx n v).bpcyc = k.bpcyc := rfl
@[simp] theorem Core.setCtx_trctl (k : Core) (n : Nat) (v : Ctx) : (k.setCtx n v).trctl = k.trctl := rfl
@[simp] theorem Core.setCtx_trbase (k : Core) (n : Nat) (v : Ctx) : (k.setCtx n v).trbase = k.trbase := rfl
@[simp] theorem Core.setCtx_trlen (k : Core) (n : Nat) (v : Ctx) : (k.setCtx n v).trlen = k.trlen := rfl
@[simp] theorem Core.setCtx_trhead (k : Core) (n : Nat) (v : Ctx) : (k.setCtx n v).trhead = k.trhead := rfl
@[simp] theorem Core.setCtx_trdrops (k : Core) (n : Nat) (v : Ctx) : (k.setCtx n v).trdrops = k.trdrops := rfl
@[simp] theorem Core.setCtx_preempt (k : Core) (n : Nat) (v : Ctx) : (k.setCtx n v).preempt = k.preempt := rfl

@[simp] theorem Core.setRing_cycle (k : Core) (z : Nat) (r : Ring) : (k.setRing z r).cycle = k.cycle := rfl
@[simp] theorem Core.setRing_ctxs (k : Core) (z : Nat) (r : Ring) : (k.setRing z r).ctxs = k.ctxs := rfl
@[simp] theorem Core.setRing_evw (k : Core) (z : Nat) (r : Ring) : (k.setRing z r).evw = k.evw := rfl
@[simp] theorem Core.setRing_mq (k : Core) (z : Nat) (r : Ring) : (k.setRing z r).mq = k.mq := rfl
@[simp] theorem Core.setRing_vq (k : Core) (z : Nat) (r : Ring) : (k.setRing z r).vq = k.vq := rfl
@[simp] theorem Core.setRing_cq (k : Core) (z : Nat) (r : Ring) : (k.setRing z r).cq = k.cq := rfl
@[simp] theorem Core.setRing_results (k : Core) (z : Nat) (r : Ring) : (k.setRing z r).results = k.results := rfl
@[simp] theorem Core.setRing_held (k : Core) (z : Nat) (r : Ring) : (k.setRing z r).held = k.held := rfl
@[simp] theorem Core.setRing_tokens (k : Core) (z : Nat) (r : Ring) : (k.setRing z r).tokens = k.tokens := rfl
@[simp] theorem Core.setRing_deferred (k : Core) (z : Nat) (r : Ring) : (k.setRing z r).deferred = k.deferred := rfl
@[simp] theorem Core.setRing_gens (k : Core) (z : Nat) (r : Ring) : (k.setRing z r).gens = k.gens := rfl
@[simp] theorem Core.setRing_bind (k : Core) (z : Nat) (r : Ring) : (k.setRing z r).bind = k.bind := rfl
@[simp] theorem Core.setRing_bindAll (k : Core) (z : Nat) (r : Ring) : (k.setRing z r).bindAll = k.bindAll := rfl
@[simp] theorem Core.setRing_faultLog (k : Core) (z : Nat) (r : Ring) : (k.setRing z r).faultLog = k.faultLog := rfl
@[simp] theorem Core.setRing_vfst (k : Core) (z : Nat) (r : Ring) : (k.setRing z r).vfst = k.vfst := rfl
@[simp] theorem Core.setRing_vfstHeld (k : Core) (z : Nat) (r : Ring) : (k.setRing z r).vfstHeld = k.vfstHeld := rfl
@[simp] theorem Core.setRing_mfst (k : Core) (z : Nat) (r : Ring) : (k.setRing z r).mfst = k.mfst := rfl
@[simp] theorem Core.setRing_mfstHeld (k : Core) (z : Nat) (r : Ring) : (k.setRing z r).mfstHeld = k.mfstHeld := rfl
@[simp] theorem Core.setRing_tdir (k : Core) (z : Nat) (r : Ring) : (k.setRing z r).tdir = k.tdir := rfl
@[simp] theorem Core.setRing_vs (k : Core) (z : Nat) (r : Ring) : (k.setRing z r).vs = k.vs := rfl
@[simp] theorem Core.setRing_ms (k : Core) (z : Nat) (r : Ring) : (k.setRing z r).ms = k.ms := rfl
@[simp] theorem Core.setRing_job (k : Core) (z : Nat) (r : Ring) : (k.setRing z r).job = k.job := rfl
@[simp] theorem Core.setRing_acc (k : Core) (z : Nat) (r : Ring) : (k.setRing z r).acc = k.acc := rfl
@[simp] theorem Core.setRing_accPoison (k : Core) (z : Nat) (r : Ring) : (k.setRing z r).accPoison = k.accPoison := rfl
@[simp] theorem Core.setRing_zeroed (k : Core) (z : Nat) (r : Ring) : (k.setRing z r).zeroed = k.zeroed := rfl
@[simp] theorem Core.setRing_fenced (k : Core) (z : Nat) (r : Ring) : (k.setRing z r).fenced = k.fenced := rfl
@[simp] theorem Core.setRing_reruns (k : Core) (z : Nat) (r : Ring) : (k.setRing z r).reruns = k.reruns := rfl
@[simp] theorem Core.setRing_corrected (k : Core) (z : Nat) (r : Ring) : (k.setRing z r).corrected = k.corrected := rfl
@[simp] theorem Core.setRing_scrub (k : Core) (z : Nat) (r : Ring) : (k.setRing z r).scrub = k.scrub := rfl
@[simp] theorem Core.setRing_maxRerun (k : Core) (z : Nat) (r : Ring) : (k.setRing z r).maxRerun = k.maxRerun := rfl
@[simp] theorem Core.setRing_rerunEn (k : Core) (z : Nat) (r : Ring) : (k.setRing z r).rerunEn = k.rerunEn := rfl
@[simp] theorem Core.setRing_refetch (k : Core) (z : Nat) (r : Ring) : (k.setRing z r).refetch = k.refetch := rfl
@[simp] theorem Core.setRing_cm (k : Core) (z : Nat) (r : Ring) : (k.setRing z r).cm = k.cm := rfl
@[simp] theorem Core.setRing_cmSnapVals (k : Core) (z : Nat) (r : Ring) : (k.setRing z r).cmSnapVals = k.cmSnapVals := rfl
@[simp] theorem Core.setRing_cmSnap (k : Core) (z : Nat) (r : Ring) : (k.setRing z r).cmSnap = k.cmSnap := rfl
@[simp] theorem Core.setRing_cmMerge (k : Core) (z : Nat) (r : Ring) : (k.setRing z r).cmMerge = k.cmMerge := rfl
@[simp] theorem Core.setRing_bpcyc (k : Core) (z : Nat) (r : Ring) : (k.setRing z r).bpcyc = k.bpcyc := rfl
@[simp] theorem Core.setRing_trctl (k : Core) (z : Nat) (r : Ring) : (k.setRing z r).trctl = k.trctl := rfl
@[simp] theorem Core.setRing_trbase (k : Core) (z : Nat) (r : Ring) : (k.setRing z r).trbase = k.trbase := rfl
@[simp] theorem Core.setRing_trlen (k : Core) (z : Nat) (r : Ring) : (k.setRing z r).trlen = k.trlen := rfl
@[simp] theorem Core.setRing_trhead (k : Core) (z : Nat) (r : Ring) : (k.setRing z r).trhead = k.trhead := rfl
@[simp] theorem Core.setRing_trdrops (k : Core) (z : Nat) (r : Ring) : (k.setRing z r).trdrops = k.trdrops := rfl
@[simp] theorem Core.setRing_preempt (k : Core) (z : Nat) (r : Ring) : (k.setRing z r).preempt = k.preempt := rfl

@[simp] theorem Core.setToken_cycle (k : Core) (q n : Nat) : (k.setToken q n).cycle = k.cycle := rfl
@[simp] theorem Core.setToken_ctxs (k : Core) (q n : Nat) : (k.setToken q n).ctxs = k.ctxs := rfl
@[simp] theorem Core.setToken_evw (k : Core) (q n : Nat) : (k.setToken q n).evw = k.evw := rfl
@[simp] theorem Core.setToken_mq (k : Core) (q n : Nat) : (k.setToken q n).mq = k.mq := rfl
@[simp] theorem Core.setToken_vq (k : Core) (q n : Nat) : (k.setToken q n).vq = k.vq := rfl
@[simp] theorem Core.setToken_cq (k : Core) (q n : Nat) : (k.setToken q n).cq = k.cq := rfl
@[simp] theorem Core.setToken_results (k : Core) (q n : Nat) : (k.setToken q n).results = k.results := rfl
@[simp] theorem Core.setToken_held (k : Core) (q n : Nat) : (k.setToken q n).held = k.held := rfl
@[simp] theorem Core.setToken_rings (k : Core) (q n : Nat) : (k.setToken q n).rings = k.rings := rfl
@[simp] theorem Core.setToken_deferred (k : Core) (q n : Nat) : (k.setToken q n).deferred = k.deferred := rfl
@[simp] theorem Core.setToken_gens (k : Core) (q n : Nat) : (k.setToken q n).gens = k.gens := rfl
@[simp] theorem Core.setToken_bind (k : Core) (q n : Nat) : (k.setToken q n).bind = k.bind := rfl
@[simp] theorem Core.setToken_bindAll (k : Core) (q n : Nat) : (k.setToken q n).bindAll = k.bindAll := rfl
@[simp] theorem Core.setToken_faultLog (k : Core) (q n : Nat) : (k.setToken q n).faultLog = k.faultLog := rfl
@[simp] theorem Core.setToken_vfst (k : Core) (q n : Nat) : (k.setToken q n).vfst = k.vfst := rfl
@[simp] theorem Core.setToken_vfstHeld (k : Core) (q n : Nat) : (k.setToken q n).vfstHeld = k.vfstHeld := rfl
@[simp] theorem Core.setToken_mfst (k : Core) (q n : Nat) : (k.setToken q n).mfst = k.mfst := rfl
@[simp] theorem Core.setToken_mfstHeld (k : Core) (q n : Nat) : (k.setToken q n).mfstHeld = k.mfstHeld := rfl
@[simp] theorem Core.setToken_tdir (k : Core) (q n : Nat) : (k.setToken q n).tdir = k.tdir := rfl
@[simp] theorem Core.setToken_vs (k : Core) (q n : Nat) : (k.setToken q n).vs = k.vs := rfl
@[simp] theorem Core.setToken_ms (k : Core) (q n : Nat) : (k.setToken q n).ms = k.ms := rfl
@[simp] theorem Core.setToken_job (k : Core) (q n : Nat) : (k.setToken q n).job = k.job := rfl
@[simp] theorem Core.setToken_acc (k : Core) (q n : Nat) : (k.setToken q n).acc = k.acc := rfl
@[simp] theorem Core.setToken_accPoison (k : Core) (q n : Nat) : (k.setToken q n).accPoison = k.accPoison := rfl
@[simp] theorem Core.setToken_zeroed (k : Core) (q n : Nat) : (k.setToken q n).zeroed = k.zeroed := rfl
@[simp] theorem Core.setToken_fenced (k : Core) (q n : Nat) : (k.setToken q n).fenced = k.fenced := rfl
@[simp] theorem Core.setToken_reruns (k : Core) (q n : Nat) : (k.setToken q n).reruns = k.reruns := rfl
@[simp] theorem Core.setToken_corrected (k : Core) (q n : Nat) : (k.setToken q n).corrected = k.corrected := rfl
@[simp] theorem Core.setToken_scrub (k : Core) (q n : Nat) : (k.setToken q n).scrub = k.scrub := rfl
@[simp] theorem Core.setToken_maxRerun (k : Core) (q n : Nat) : (k.setToken q n).maxRerun = k.maxRerun := rfl
@[simp] theorem Core.setToken_rerunEn (k : Core) (q n : Nat) : (k.setToken q n).rerunEn = k.rerunEn := rfl
@[simp] theorem Core.setToken_refetch (k : Core) (q n : Nat) : (k.setToken q n).refetch = k.refetch := rfl
@[simp] theorem Core.setToken_cm (k : Core) (q n : Nat) : (k.setToken q n).cm = k.cm := rfl
@[simp] theorem Core.setToken_cmSnapVals (k : Core) (q n : Nat) : (k.setToken q n).cmSnapVals = k.cmSnapVals := rfl
@[simp] theorem Core.setToken_cmSnap (k : Core) (q n : Nat) : (k.setToken q n).cmSnap = k.cmSnap := rfl
@[simp] theorem Core.setToken_cmMerge (k : Core) (q n : Nat) : (k.setToken q n).cmMerge = k.cmMerge := rfl
@[simp] theorem Core.setToken_bpcyc (k : Core) (q n : Nat) : (k.setToken q n).bpcyc = k.bpcyc := rfl
@[simp] theorem Core.setToken_trctl (k : Core) (q n : Nat) : (k.setToken q n).trctl = k.trctl := rfl
@[simp] theorem Core.setToken_trbase (k : Core) (q n : Nat) : (k.setToken q n).trbase = k.trbase := rfl
@[simp] theorem Core.setToken_trlen (k : Core) (q n : Nat) : (k.setToken q n).trlen = k.trlen := rfl
@[simp] theorem Core.setToken_trhead (k : Core) (q n : Nat) : (k.setToken q n).trhead = k.trhead := rfl
@[simp] theorem Core.setToken_trdrops (k : Core) (q n : Nat) : (k.setToken q n).trdrops = k.trdrops := rfl
@[simp] theorem Core.setToken_preempt (k : Core) (q n : Nat) : (k.setToken q n).preempt = k.preempt := rfl

@[simp] theorem Core.setGen_cycle (k : Core) (i : Nat) (v : Word) : (k.setGen i v).cycle = k.cycle := rfl
@[simp] theorem Core.setGen_ctxs (k : Core) (i : Nat) (v : Word) : (k.setGen i v).ctxs = k.ctxs := rfl
@[simp] theorem Core.setGen_evw (k : Core) (i : Nat) (v : Word) : (k.setGen i v).evw = k.evw := rfl
@[simp] theorem Core.setGen_mq (k : Core) (i : Nat) (v : Word) : (k.setGen i v).mq = k.mq := rfl
@[simp] theorem Core.setGen_vq (k : Core) (i : Nat) (v : Word) : (k.setGen i v).vq = k.vq := rfl
@[simp] theorem Core.setGen_cq (k : Core) (i : Nat) (v : Word) : (k.setGen i v).cq = k.cq := rfl
@[simp] theorem Core.setGen_results (k : Core) (i : Nat) (v : Word) : (k.setGen i v).results = k.results := rfl
@[simp] theorem Core.setGen_held (k : Core) (i : Nat) (v : Word) : (k.setGen i v).held = k.held := rfl
@[simp] theorem Core.setGen_rings (k : Core) (i : Nat) (v : Word) : (k.setGen i v).rings = k.rings := rfl
@[simp] theorem Core.setGen_tokens (k : Core) (i : Nat) (v : Word) : (k.setGen i v).tokens = k.tokens := rfl
@[simp] theorem Core.setGen_deferred (k : Core) (i : Nat) (v : Word) : (k.setGen i v).deferred = k.deferred := rfl
@[simp] theorem Core.setGen_bind (k : Core) (i : Nat) (v : Word) : (k.setGen i v).bind = k.bind := rfl
@[simp] theorem Core.setGen_bindAll (k : Core) (i : Nat) (v : Word) : (k.setGen i v).bindAll = k.bindAll := rfl
@[simp] theorem Core.setGen_faultLog (k : Core) (i : Nat) (v : Word) : (k.setGen i v).faultLog = k.faultLog := rfl
@[simp] theorem Core.setGen_vfst (k : Core) (i : Nat) (v : Word) : (k.setGen i v).vfst = k.vfst := rfl
@[simp] theorem Core.setGen_vfstHeld (k : Core) (i : Nat) (v : Word) : (k.setGen i v).vfstHeld = k.vfstHeld := rfl
@[simp] theorem Core.setGen_mfst (k : Core) (i : Nat) (v : Word) : (k.setGen i v).mfst = k.mfst := rfl
@[simp] theorem Core.setGen_mfstHeld (k : Core) (i : Nat) (v : Word) : (k.setGen i v).mfstHeld = k.mfstHeld := rfl
@[simp] theorem Core.setGen_tdir (k : Core) (i : Nat) (v : Word) : (k.setGen i v).tdir = k.tdir := rfl
@[simp] theorem Core.setGen_vs (k : Core) (i : Nat) (v : Word) : (k.setGen i v).vs = k.vs := rfl
@[simp] theorem Core.setGen_ms (k : Core) (i : Nat) (v : Word) : (k.setGen i v).ms = k.ms := rfl
@[simp] theorem Core.setGen_job (k : Core) (i : Nat) (v : Word) : (k.setGen i v).job = k.job := rfl
@[simp] theorem Core.setGen_acc (k : Core) (i : Nat) (v : Word) : (k.setGen i v).acc = k.acc := rfl
@[simp] theorem Core.setGen_accPoison (k : Core) (i : Nat) (v : Word) : (k.setGen i v).accPoison = k.accPoison := rfl
@[simp] theorem Core.setGen_zeroed (k : Core) (i : Nat) (v : Word) : (k.setGen i v).zeroed = k.zeroed := rfl
@[simp] theorem Core.setGen_fenced (k : Core) (i : Nat) (v : Word) : (k.setGen i v).fenced = k.fenced := rfl
@[simp] theorem Core.setGen_reruns (k : Core) (i : Nat) (v : Word) : (k.setGen i v).reruns = k.reruns := rfl
@[simp] theorem Core.setGen_corrected (k : Core) (i : Nat) (v : Word) : (k.setGen i v).corrected = k.corrected := rfl
@[simp] theorem Core.setGen_scrub (k : Core) (i : Nat) (v : Word) : (k.setGen i v).scrub = k.scrub := rfl
@[simp] theorem Core.setGen_maxRerun (k : Core) (i : Nat) (v : Word) : (k.setGen i v).maxRerun = k.maxRerun := rfl
@[simp] theorem Core.setGen_rerunEn (k : Core) (i : Nat) (v : Word) : (k.setGen i v).rerunEn = k.rerunEn := rfl
@[simp] theorem Core.setGen_refetch (k : Core) (i : Nat) (v : Word) : (k.setGen i v).refetch = k.refetch := rfl
@[simp] theorem Core.setGen_cm (k : Core) (i : Nat) (v : Word) : (k.setGen i v).cm = k.cm := rfl
@[simp] theorem Core.setGen_cmSnapVals (k : Core) (i : Nat) (v : Word) : (k.setGen i v).cmSnapVals = k.cmSnapVals := rfl
@[simp] theorem Core.setGen_cmSnap (k : Core) (i : Nat) (v : Word) : (k.setGen i v).cmSnap = k.cmSnap := rfl
@[simp] theorem Core.setGen_cmMerge (k : Core) (i : Nat) (v : Word) : (k.setGen i v).cmMerge = k.cmMerge := rfl
@[simp] theorem Core.setGen_bpcyc (k : Core) (i : Nat) (v : Word) : (k.setGen i v).bpcyc = k.bpcyc := rfl
@[simp] theorem Core.setGen_trctl (k : Core) (i : Nat) (v : Word) : (k.setGen i v).trctl = k.trctl := rfl
@[simp] theorem Core.setGen_trbase (k : Core) (i : Nat) (v : Word) : (k.setGen i v).trbase = k.trbase := rfl
@[simp] theorem Core.setGen_trlen (k : Core) (i : Nat) (v : Word) : (k.setGen i v).trlen = k.trlen := rfl
@[simp] theorem Core.setGen_trhead (k : Core) (i : Nat) (v : Word) : (k.setGen i v).trhead = k.trhead := rfl
@[simp] theorem Core.setGen_trdrops (k : Core) (i : Nat) (v : Word) : (k.setGen i v).trdrops = k.trdrops := rfl
@[simp] theorem Core.setGen_preempt (k : Core) (i : Nat) (v : Word) : (k.setGen i v).preempt = k.preempt := rfl

/-! ### Reading what was written -/

@[simp] theorem State.core_setCore_same (s : State) (c : Nat) (k : Core) : (s.setCore c k).core c = k := Tbl.get_set_same ..

theorem State.core_setCore_other (s : State) (c d : Nat) (k : Core) (h : d ≠ c) : (s.setCore c k).core d = s.core d :=
  Tbl.get_set_other _ _ _ _ _ h

theorem State.core_setCore (s : State) (c d : Nat) (k : Core) : (s.setCore c k).core d = if d = c then k else s.core d := by
  split
  · next h => rw [h, State.core_setCore_same]
  · next h => exact State.core_setCore_other s c d k h

@[simp] theorem State.core_modCore_same (s : State) (c : Nat) (f : Core → Core) : (s.modCore c f).core c = f (s.core c) :=
  State.core_setCore_same ..

theorem State.core_modCore_other (s : State) (c d : Nat) (f : Core → Core) (h : d ≠ c) : (s.modCore c f).core d = s.core d :=
  State.core_setCore_other _ _ _ _ h

@[simp] theorem Core.ctx_setCtx_same (k : Core) (n : Nat) (c : Ctx) : (k.setCtx n c).ctx n = c := Tbl.get_set_same ..

theorem Core.ctx_setCtx_other (k : Core) (n m : Nat) (c : Ctx) (h : m ≠ n) : (k.setCtx n c).ctx m = k.ctx m :=
  Tbl.get_set_other _ _ _ _ _ h

@[simp] theorem State.ctx_setCtx_same (s : State) (c n : Nat) (v : Ctx) : (s.setCtx c n v).ctx c n = v := by
  simp [State.ctx, State.setCtx]

theorem State.ctx_setCtx_other (s : State) (c n d m : Nat) (v : Ctx) (h : ¬(d = c ∧ m = n)) :
    (s.setCtx c n v).ctx d m = s.ctx d m := by
  unfold State.ctx State.setCtx
  by_cases hd : d = c
  · subst hd
    rw [State.core_setCore_same, Core.ctx_setCtx_other _ _ _ _ fun hm => h ⟨rfl, hm⟩]
  · rw [State.core_setCore_other _ _ _ _ hd]

@[simp] theorem State.ctx_modCtx_same (s : State) (c n : Nat) (f : Ctx → Ctx) : (s.modCtx c n f).ctx c n = f (s.ctx c n) :=
  State.ctx_setCtx_same ..

theorem State.ctx_modCtx_other (s : State) (c n d m : Nat) (f : Ctx → Ctx) (h : ¬(d = c ∧ m = n)) :
    (s.modCtx c n f).ctx d m = s.ctx d m := State.ctx_setCtx_other _ _ _ _ _ _ h

@[simp] theorem State.cur_modCur (s : State) (f : Ctx → Ctx) : (s.modCur f).cur = f s.cur := State.ctx_modCtx_same ..

/-- Writing a table twice at a key is writing it once. -/
@[simp] theorem Tbl.set_set {α : Type} [DecidableEq α] (d : α) (t : Tbl α) (k : Nat) (v w : α) :
    Tbl.set d (Tbl.set d t k v) k w = Tbl.set d t k w := by
  have h : Tbl.erase (Tbl.set d t k v) k = Tbl.erase t k := by
    have hi : ∀ u : Tbl α, (∀ e ∈ u, e.1 ≠ k) → Tbl.erase u k = u := by
      intro u hu
      induction u with
      | nil => rfl
      | cons e u ih =>
        obtain ⟨k', x⟩ := e
        have h1 : k' ≠ k := hu (k', x) List.mem_cons_self
        simp [Tbl.erase, h1, ih fun e he => hu e (List.mem_cons_of_mem _ he)]
    have hx : ∀ u : Tbl α, (∀ e ∈ u, e.1 ≠ k) → Tbl.erase (Tbl.insert u k v) k = u := by
      intro u hu
      induction u with
      | nil => simp [Tbl.insert, Tbl.erase]
      | cons e u ih =>
        obtain ⟨k', x⟩ := e
        have h1 : k' ≠ k := hu (k', x) List.mem_cons_self
        have h2 := ih fun e he => hu e (List.mem_cons_of_mem _ he)
        unfold Tbl.insert
        split
        · simp [Tbl.erase, h1, hi u fun e he => hu e (List.mem_cons_of_mem _ he)]
        · simp [Tbl.erase, h1, h2]
    have he : ∀ e ∈ Tbl.erase t k, e.1 ≠ k := fun e he => (Tbl.mem_erase he).2
    unfold Tbl.set
    split
    · exact hi _ he
    · exact hx _ he
  unfold Tbl.set at h ⊢
  simp only [h]

@[simp] theorem State.setCore_setCore (s : State) (c : Nat) (k l : Core) : (s.setCore c k).setCore c l = s.setCore c l := by
  simp [State.setCore]

@[simp] theorem Core.setCtx_setCtx (k : Core) (n : Nat) (c d : Ctx) : (k.setCtx n c).setCtx n d = k.setCtx n d := by
  simp [Core.setCtx]

@[simp] theorem State.setCtx_setCtx (s : State) (c n : Nat) (v w : Ctx) : (s.setCtx c n v).setCtx c n w = s.setCtx c n w := by
  simp [State.setCtx]

/-- Two changes of the acting context are one. -/
theorem State.modCur_modCur (s : State) (f g : Ctx → Ctx) : (s.modCur f).modCur g = s.modCur fun c => g (f c) := by
  simp [State.modCur, State.modCtx]

theorem State.modCur_eq (s : State) (f : Ctx → Ctx) : s.modCur f = s.setCtx s.focus.core s.focus.ctx (f s.cur) := rfl

@[simp] theorem Ctx.getX_zero (c : Ctx) : c.getX 0 = 0 := rfl

@[simp] theorem Ctx.getP_zero (c : Ctx) : c.getP 0 = true := rfl

theorem Ctx.getX_setX (c : Ctx) (n m : Nat) (v : Word) : (c.setX n v).getX m = if m = n ∧ n ≠ 0 then v else c.getX m := by
  unfold Ctx.setX Ctx.getX
  by_cases hn : n = 0
  · simp [hn]
  · by_cases hm : m = n
    · subst hm; simp [hn]
    · simp [hn, hm, Tbl.get_set_other _ _ _ _ _ hm]

theorem Ctx.getP_setP (c : Ctx) (n m : Nat) (v : Bool) : (c.setP n v).getP m = if m = n ∧ n ≠ 0 then v else c.getP m := by
  unfold Ctx.setP Ctx.getP
  by_cases hn : n = 0
  · simp [hn]
  · by_cases hm : m = n
    · subst hm; simp [hn]
    · simp [hn, hm, Tbl.get_set_other _ _ _ _ _ hm]

theorem Ctx.getC_setC (c : Ctx) (n m : Nat) (v : Word) : (c.setC n v).getC m = if m = n then v else c.getC m := by
  unfold Ctx.setC Ctx.getC
  by_cases hm : m = n
  · subst hm; simp
  · simp [hm, Tbl.get_set_other _ _ _ _ _ hm]

@[simp] theorem Ctx.getP_setX (c : Ctx) (n m : Nat) (v : Word) : (c.setX n v).getP m = c.getP m := by simp [Ctx.getP]

@[simp] theorem Ctx.getX_setP (c : Ctx) (n m : Nat) (v : Bool) : (c.setP n v).getX m = c.getX m := by simp [Ctx.getX]

@[simp] theorem Ctx.getC_setX (c : Ctx) (n m : Nat) (v : Word) : (c.setX n v).getC m = c.getC m := by simp [Ctx.getC]

@[simp] theorem Ctx.getC_setP (c : Ctx) (n m : Nat) (v : Bool) : (c.setP n v).getC m = c.getC m := by simp [Ctx.getC]

@[simp] theorem Ctx.getX_setC (c : Ctx) (n m : Nat) (v : Word) : (c.setC n v).getX m = c.getX m := rfl

@[simp] theorem Ctx.getP_setC (c : Ctx) (n m : Nat) (v : Word) : (c.setC n v).getP m = c.getP m := rfl

theorem State.x_setX (s : State) (n m : Nat) (v : Word) : (s.setX n v).x m = if m = n ∧ n ≠ 0 then v else s.x m := by
  simp [State.x, State.setX, Ctx.getX_setX]

theorem State.p_setP (s : State) (n m : Nat) (v : Bool) : (s.setP n v).p m = if m = n ∧ n ≠ 0 then v else s.p m := by
  simp [State.p, State.setP, Ctx.getP_setP]

/-! ### Memory -/

theorem State.byte_eq (s t : State) (h : t.mem = s.mem) (l : Nat) : t.byte l = s.byte l := by unfold State.byte; rw [h]

@[simp] theorem State.byte_setByte_same (s : State) (l : Nat) (b : Byte) : (s.setByte l b).byte l = b := Tbl.get_set_same ..

theorem State.byte_setByte_other (s : State) (l m : Nat) (b : Byte) (h : m ≠ l) : (s.setByte l b).byte m = s.byte m :=
  Tbl.get_set_other _ _ _ _ _ h

/-- A write of n bytes leaves every other byte. -/
theorem State.byte_write_outside (s : State) (l n v m : Nat) (h : m < l ∨ l + n ≤ m) : (s.write l n v).byte m = s.byte m := by
  induction n generalizing s l v with
  | zero => rfl
  | succ n ih =>
    unfold State.write
    rw [ih _ _ _ (by omega), State.byte_setByte_other _ _ _ _ (by omega)]

/-- Byte i of a write is byte i of the value. -/
theorem State.byte_write_inside (s : State) (l n v i : Nat) (h : i < n) :
    (s.write l n v).byte (l + i) = BitVec.ofNat 8 (v / 256 ^ i) := by
  induction n generalizing s l v i with
  | zero => omega
  | succ n ih =>
    unfold State.write
    cases i with
    | zero =>
      rw [State.byte_write_outside _ _ _ _ _ (by omega)]
      simp
    | succ i =>
      have := ih (s.setByte l (BitVec.ofNat 8 v)) (l + 1) (v / 256) i (by omega)
      rw [show l + (i + 1) = l + 1 + i by omega, this, Nat.div_div_eq_div_mul, Nat.pow_succ, Nat.mul_comm]

/-- What n bytes read as depends on those bytes alone. -/
theorem State.read_congr (s t : State) (l n : Nat) (h : ∀ i, i < n → t.byte (l + i) = s.byte (l + i)) :
    t.read l n = s.read l n := by
  induction n generalizing l with
  | zero => rfl
  | succ n ih =>
    unfold State.read
    rw [show t.byte l = s.byte l from h 0 (by omega),
      ih (l + 1) fun i hi => by rw [show l + 1 + i = l + (i + 1) by omega]; exact h (i + 1) (by omega)]

/-- A read after a write of the same bytes gives the value's low bytes. -/
theorem State.read_write_same (s : State) (l n v : Nat) : (s.write l n v).read l n = v % 256 ^ n := by
  induction n generalizing s l v with
  | zero => simp [State.read, Nat.mod_one]
  | succ n ih =>
    unfold State.read State.write
    rw [State.byte_write_outside _ _ _ _ _ (by omega), State.byte_setByte_same, ih, BitVec.toNat_ofNat,
      show 256 ^ (n + 1) = 256 * 256 ^ n by rw [Nat.pow_succ, Nat.mul_comm], Nat.mod_mul]

/-- A read of other bytes than were written reads as before. -/
theorem State.read_write_other (s : State) (l n v m k : Nat) (h : m + k ≤ l ∨ l + n ≤ m) :
    (s.write l n v).read m k = s.read m k :=
  State.read_congr _ _ _ _ fun _ hi => State.byte_write_outside _ _ _ _ _ (by omega)

theorem State.byte_writeD_outside (s : State) (l : Nat) (v : Word) (m : Nat) (h : m < l ∨ l + 8 ≤ m) :
    (s.writeD l v).byte m = s.byte m := State.byte_write_outside _ _ _ _ _ h

theorem State.byte_writeDs_outside (s : State) (l : Nat) (vs : List Word) (m : Nat) (h : m < l ∨ l + 8 * vs.length ≤ m) :
    (s.writeDs l vs).byte m = s.byte m := by
  induction vs generalizing s l with
  | nil => rfl
  | cons v vs ih =>
    simp only [List.length_cons] at h
    unfold State.writeDs
    rw [ih _ _ (by omega), State.byte_writeD_outside _ _ _ _ (by omega)]

theorem State.byte_writeBytes_outside (s : State) (l : Nat) (vs : List Byte) (m : Nat) (h : m < l ∨ l + vs.length ≤ m) :
    (s.writeBytes l vs).byte m = s.byte m := by
  induction vs generalizing s l with
  | nil => rfl
  | cons v vs ih =>
    simp only [List.length_cons] at h
    unfold State.writeBytes
    rw [ih _ _ (by omega), State.byte_setByte_other _ _ _ _ (by omega)]

theorem State.byte_zeroBytes_outside (s : State) (l n m : Nat) (h : m < l ∨ l + n ≤ m) : (s.zeroBytes l n).byte m = s.byte m :=
  Tbl.get_clear_outside _ _ _ _ _ h

/-- Every memory operation keeps the canonical form. -/
theorem State.setByte_wf (s : State) (l : Nat) (b : Byte) (h : Memory.wf s.mem) : Memory.wf (s.setByte l b).mem := Tbl.set_wf _ _ _ _ h

theorem State.write_wf (s : State) (l n v : Nat) (h : Memory.wf s.mem) : Memory.wf (s.write l n v).mem := by
  induction n generalizing s l v with
  | zero => exact h
  | succ n ih => exact ih _ _ _ (State.setByte_wf s l _ h)

theorem State.writeD_wf (s : State) (l : Nat) (v : Word) (h : Memory.wf s.mem) : Memory.wf (s.writeD l v).mem := State.write_wf _ _ _ _ h

theorem State.writeDs_wf (s : State) (l : Nat) (vs : List Word) (h : Memory.wf s.mem) : Memory.wf (s.writeDs l vs).mem := by
  induction vs generalizing s l with
  | nil => exact h
  | cons v vs ih => exact ih _ _ (State.writeD_wf s l v h)

theorem State.writeBytes_wf (s : State) (l : Nat) (vs : List Byte) (h : Memory.wf s.mem) : Memory.wf (s.writeBytes l vs).mem := by
  induction vs generalizing s l with
  | nil => exact h
  | cons v vs ih => exact ih _ _ (State.setByte_wf s l v h)

theorem State.zeroBytes_wf (s : State) (l n : Nat) (h : Memory.wf s.mem) : Memory.wf (s.zeroBytes l n).mem := Tbl.clear_wf _ _ _ _ h

/-- Reset's memory is in canonical form. -/
theorem State.reset_memory_wf : Memory.wf State.reset.mem := rfl

/-- A write changes memory alone. -/
theorem State.write_rest (s : State) (l n v : Nat) : s.write l n v = { s with mem := (s.write l n v).mem } := by
  induction n generalizing s l v with
  | zero => rfl
  | succ n ih => unfold State.write; rw [ih]; rfl

theorem State.writeDs_rest (s : State) (l : Nat) (vs : List Word) : s.writeDs l vs = { s with mem := (s.writeDs l vs).mem } := by
  induction vs generalizing s l with
  | nil => rfl
  | cons v vs ih => unfold State.writeDs; rw [ih]; unfold State.writeD; rw [State.write_rest]

@[simp] theorem State.write_poison (s : State) (l n v : Nat) : (s.write l n v).poison = s.poison := by rw [State.write_rest]
@[simp] theorem State.write_halves (s : State) (l n v : Nat) : (s.write l n v).halves = s.halves := by rw [State.write_rest]
@[simp] theorem State.write_moves (s : State) (l n v : Nat) : (s.write l n v).moves = s.moves := by rw [State.write_rest]
@[simp] theorem State.write_time (s : State) (l n v : Nat) : (s.write l n v).time = s.time := by rw [State.write_rest]
@[simp] theorem State.write_cores (s : State) (l n v : Nat) : (s.write l n v).cores = s.cores := by rw [State.write_rest]
@[simp] theorem State.write_groups (s : State) (l n v : Nat) : (s.write l n v).groups = s.groups := by rw [State.write_rest]
@[simp] theorem State.write_kqs (s : State) (l n v : Nat) : (s.write l n v).kqs = s.kqs := by rw [State.write_rest]
@[simp] theorem State.write_kernelIds (s : State) (l n v : Nat) : (s.write l n v).kernelIds = s.kernelIds := by rw [State.write_rest]
@[simp] theorem State.write_strands (s : State) (l n v : Nat) : (s.write l n v).strands = s.strands := by rw [State.write_rest]
@[simp] theorem State.write_node (s : State) (l n v : Nat) : (s.write l n v).node = s.node := by rw [State.write_rest]
@[simp] theorem State.write_ctime (s : State) (l n v : Nat) : (s.write l n v).ctime = s.ctime := by rw [State.write_rest]
@[simp] theorem State.write_cxl (s : State) (l n v : Nat) : (s.write l n v).cxl = s.cxl := by rw [State.write_rest]
@[simp] theorem State.write_ofus (s : State) (l n v : Nat) : (s.write l n v).ofus = s.ofus := by rw [State.write_rest]
@[simp] theorem State.write_lqs (s : State) (l n v : Nat) : (s.write l n v).lqs = s.lqs := by rw [State.write_rest]
@[simp] theorem State.write_msgs (s : State) (l n v : Nat) : (s.write l n v).msgs = s.msgs := by rw [State.write_rest]
@[simp] theorem State.write_ptbr (s : State) (l n v : Nat) : (s.write l n v).ptbr = s.ptbr := by rw [State.write_rest]
@[simp] theorem State.write_hepoch (s : State) (l n v : Nat) : (s.write l n v).hepoch = s.hepoch := by rw [State.write_rest]
@[simp] theorem State.write_hbm (s : State) (l n v : Nat) : (s.write l n v).hbm = s.hbm := by rw [State.write_rest]
@[simp] theorem State.write_undertow (s : State) (l n v : Nat) : (s.write l n v).undertow = s.undertow := by rw [State.write_rest]
@[simp] theorem State.write_mgmt (s : State) (l n v : Nat) : (s.write l n v).mgmt = s.mgmt := by rw [State.write_rest]
@[simp] theorem State.write_wrack (s : State) (l n v : Nat) : (s.write l n v).wrack = s.wrack := by rw [State.write_rest]
@[simp] theorem State.write_focus (s : State) (l n v : Nat) : (s.write l n v).focus = s.focus := by rw [State.write_rest]
@[simp] theorem State.write_agenda (s : State) (l n v : Nat) : (s.write l n v).agenda = s.agenda := by rw [State.write_rest]
@[simp] theorem State.write_turns (s : State) (l n v : Nat) : (s.write l n v).turns = s.turns := by rw [State.write_rest]
@[simp] theorem State.write_fresh (s : State) (l n v : Nat) : (s.write l n v).fresh = s.fresh := by rw [State.write_rest]

@[simp] theorem State.writeD_poison (s : State) (l : Nat) (v : Word) : (s.writeD l v).poison = s.poison := State.write_poison ..
@[simp] theorem State.writeD_halves (s : State) (l : Nat) (v : Word) : (s.writeD l v).halves = s.halves := State.write_halves ..
@[simp] theorem State.writeD_moves (s : State) (l : Nat) (v : Word) : (s.writeD l v).moves = s.moves := State.write_moves ..
@[simp] theorem State.writeD_time (s : State) (l : Nat) (v : Word) : (s.writeD l v).time = s.time := State.write_time ..
@[simp] theorem State.writeD_cores (s : State) (l : Nat) (v : Word) : (s.writeD l v).cores = s.cores := State.write_cores ..
@[simp] theorem State.writeD_groups (s : State) (l : Nat) (v : Word) : (s.writeD l v).groups = s.groups := State.write_groups ..
@[simp] theorem State.writeD_kqs (s : State) (l : Nat) (v : Word) : (s.writeD l v).kqs = s.kqs := State.write_kqs ..
@[simp] theorem State.writeD_kernelIds (s : State) (l : Nat) (v : Word) : (s.writeD l v).kernelIds = s.kernelIds := State.write_kernelIds ..
@[simp] theorem State.writeD_strands (s : State) (l : Nat) (v : Word) : (s.writeD l v).strands = s.strands := State.write_strands ..
@[simp] theorem State.writeD_node (s : State) (l : Nat) (v : Word) : (s.writeD l v).node = s.node := State.write_node ..
@[simp] theorem State.writeD_ctime (s : State) (l : Nat) (v : Word) : (s.writeD l v).ctime = s.ctime := State.write_ctime ..
@[simp] theorem State.writeD_cxl (s : State) (l : Nat) (v : Word) : (s.writeD l v).cxl = s.cxl := State.write_cxl ..
@[simp] theorem State.writeD_ofus (s : State) (l : Nat) (v : Word) : (s.writeD l v).ofus = s.ofus := State.write_ofus ..
@[simp] theorem State.writeD_lqs (s : State) (l : Nat) (v : Word) : (s.writeD l v).lqs = s.lqs := State.write_lqs ..
@[simp] theorem State.writeD_msgs (s : State) (l : Nat) (v : Word) : (s.writeD l v).msgs = s.msgs := State.write_msgs ..
@[simp] theorem State.writeD_ptbr (s : State) (l : Nat) (v : Word) : (s.writeD l v).ptbr = s.ptbr := State.write_ptbr ..
@[simp] theorem State.writeD_hepoch (s : State) (l : Nat) (v : Word) : (s.writeD l v).hepoch = s.hepoch := State.write_hepoch ..
@[simp] theorem State.writeD_hbm (s : State) (l : Nat) (v : Word) : (s.writeD l v).hbm = s.hbm := State.write_hbm ..
@[simp] theorem State.writeD_undertow (s : State) (l : Nat) (v : Word) : (s.writeD l v).undertow = s.undertow := State.write_undertow ..
@[simp] theorem State.writeD_mgmt (s : State) (l : Nat) (v : Word) : (s.writeD l v).mgmt = s.mgmt := State.write_mgmt ..
@[simp] theorem State.writeD_wrack (s : State) (l : Nat) (v : Word) : (s.writeD l v).wrack = s.wrack := State.write_wrack ..
@[simp] theorem State.writeD_focus (s : State) (l : Nat) (v : Word) : (s.writeD l v).focus = s.focus := State.write_focus ..
@[simp] theorem State.writeD_agenda (s : State) (l : Nat) (v : Word) : (s.writeD l v).agenda = s.agenda := State.write_agenda ..
@[simp] theorem State.writeD_turns (s : State) (l : Nat) (v : Word) : (s.writeD l v).turns = s.turns := State.write_turns ..
@[simp] theorem State.writeD_fresh (s : State) (l : Nat) (v : Word) : (s.writeD l v).fresh = s.fresh := State.write_fresh ..

@[simp] theorem State.writeDs_poison (s : State) (l : Nat) (vs : List Word) : (s.writeDs l vs).poison = s.poison := by rw [State.writeDs_rest]
@[simp] theorem State.writeDs_halves (s : State) (l : Nat) (vs : List Word) : (s.writeDs l vs).halves = s.halves := by rw [State.writeDs_rest]
@[simp] theorem State.writeDs_moves (s : State) (l : Nat) (vs : List Word) : (s.writeDs l vs).moves = s.moves := by rw [State.writeDs_rest]
@[simp] theorem State.writeDs_time (s : State) (l : Nat) (vs : List Word) : (s.writeDs l vs).time = s.time := by rw [State.writeDs_rest]
@[simp] theorem State.writeDs_cores (s : State) (l : Nat) (vs : List Word) : (s.writeDs l vs).cores = s.cores := by rw [State.writeDs_rest]
@[simp] theorem State.writeDs_groups (s : State) (l : Nat) (vs : List Word) : (s.writeDs l vs).groups = s.groups := by rw [State.writeDs_rest]
@[simp] theorem State.writeDs_kqs (s : State) (l : Nat) (vs : List Word) : (s.writeDs l vs).kqs = s.kqs := by rw [State.writeDs_rest]
@[simp] theorem State.writeDs_kernelIds (s : State) (l : Nat) (vs : List Word) : (s.writeDs l vs).kernelIds = s.kernelIds := by rw [State.writeDs_rest]
@[simp] theorem State.writeDs_strands (s : State) (l : Nat) (vs : List Word) : (s.writeDs l vs).strands = s.strands := by rw [State.writeDs_rest]
@[simp] theorem State.writeDs_node (s : State) (l : Nat) (vs : List Word) : (s.writeDs l vs).node = s.node := by rw [State.writeDs_rest]
@[simp] theorem State.writeDs_ctime (s : State) (l : Nat) (vs : List Word) : (s.writeDs l vs).ctime = s.ctime := by rw [State.writeDs_rest]
@[simp] theorem State.writeDs_cxl (s : State) (l : Nat) (vs : List Word) : (s.writeDs l vs).cxl = s.cxl := by rw [State.writeDs_rest]
@[simp] theorem State.writeDs_ofus (s : State) (l : Nat) (vs : List Word) : (s.writeDs l vs).ofus = s.ofus := by rw [State.writeDs_rest]
@[simp] theorem State.writeDs_lqs (s : State) (l : Nat) (vs : List Word) : (s.writeDs l vs).lqs = s.lqs := by rw [State.writeDs_rest]
@[simp] theorem State.writeDs_msgs (s : State) (l : Nat) (vs : List Word) : (s.writeDs l vs).msgs = s.msgs := by rw [State.writeDs_rest]
@[simp] theorem State.writeDs_ptbr (s : State) (l : Nat) (vs : List Word) : (s.writeDs l vs).ptbr = s.ptbr := by rw [State.writeDs_rest]
@[simp] theorem State.writeDs_hepoch (s : State) (l : Nat) (vs : List Word) : (s.writeDs l vs).hepoch = s.hepoch := by rw [State.writeDs_rest]
@[simp] theorem State.writeDs_hbm (s : State) (l : Nat) (vs : List Word) : (s.writeDs l vs).hbm = s.hbm := by rw [State.writeDs_rest]
@[simp] theorem State.writeDs_undertow (s : State) (l : Nat) (vs : List Word) : (s.writeDs l vs).undertow = s.undertow := by rw [State.writeDs_rest]
@[simp] theorem State.writeDs_mgmt (s : State) (l : Nat) (vs : List Word) : (s.writeDs l vs).mgmt = s.mgmt := by rw [State.writeDs_rest]
@[simp] theorem State.writeDs_wrack (s : State) (l : Nat) (vs : List Word) : (s.writeDs l vs).wrack = s.wrack := by rw [State.writeDs_rest]
@[simp] theorem State.writeDs_focus (s : State) (l : Nat) (vs : List Word) : (s.writeDs l vs).focus = s.focus := by rw [State.writeDs_rest]
@[simp] theorem State.writeDs_agenda (s : State) (l : Nat) (vs : List Word) : (s.writeDs l vs).agenda = s.agenda := by rw [State.writeDs_rest]
@[simp] theorem State.writeDs_turns (s : State) (l : Nat) (vs : List Word) : (s.writeDs l vs).turns = s.turns := by rw [State.writeDs_rest]
@[simp] theorem State.writeDs_fresh (s : State) (l : Nat) (vs : List Word) : (s.writeDs l vs).fresh = s.fresh := by rw [State.writeDs_rest]


end Sys2Proof.Machine
end

