-- ==== Sys2Proof/Laws/Ops.lean ====
section
/-! SUPPORT. What the shared operations of the control contexts can do: how an instruction finishes, taking a trap and returning from one, and that each of them leaves memory as it was or in its canonical form. -/

namespace Sys2Proof.Machine

/-! ### How an instruction finishes -/

theorem finish_done (s t : State) : finish s (.done t) = .next (t.retire (s.cur.pc + 4)) := rfl

theorem finish_trap (s : State) (c : Nat) (i : Word) : finish s (.trap c i) = .next (s.trapHere c i) := rfl

theorem finish_wait (s t : State) : finish s (.wait t) = .next t.waitHere := rfl

/-- A taken transfer to an aligned target that is not the iteration's end. -/
theorem finish_jump (s t : State) (a : Word) (h : a.toNat % 4 = 0) (he : a ≠ iterationEnd) :
    finish s (.jump t a) = .next (t.retire a) := by simp [finish, h, he]

theorem finish_jump_misaligned (s t : State) (a : Word) (h : a.toNat % 4 ≠ 0) :
    finish s (.jump t a) = .next (s.trapHere 0x03 a) := by simp [finish, h]

theorem finish_jump_end (s t : State) :
    finish s (.jump t iterationEnd) = .next ((t.retire iterationEnd).endPart s.focus.core s.focus.ctx) := by
  have h : iterationEnd.toNat % 4 = 0 := by decide
  simp only [finish, h, ne_eq, not_true_eq_false, if_false, if_true]

/-- An instruction always answers a next state. -/
theorem finish_next (s : State) (r : CtxRes) : ∃ t, finish s r = .next t := by
  unfold finish
  repeat' split
  all_goals exact ⟨_, rfl⟩

theorem guarded_next (s : State) (g : Guard) (r : CtxRes) : ∃ t, guarded s g r = .next t := finish_next ..

theorem guarded_on (s : State) (g : Guard) (r : CtxRes) (h : s.holds g = true) : guarded s g r = finish s r := by simp [guarded, h]

theorem guarded_off (s : State) (g : Guard) (r : CtxRes) (h : s.holds g = false) :
    guarded s g r = .next (s.retire (s.cur.pc + 4)) := by simp [guarded, h, finish]

/-- What retiring leaves of the acting context. -/
theorem State.cur_retire (s : State) (pc : Word) :
    (s.retire pc).cur = { s.cur with pc := pc, st := if s.cur.st = .waiting then (if s.cur.busy then .handler else .running) else s.cur.st,
                                     log := { s.cur.log with iret := s.cur.log.iret + 1 } } := by
  simp [State.retire]

@[simp] theorem State.retire_mem (s : State) (pc : Word) : (s.retire pc).mem = s.mem := rfl

@[simp] theorem State.retire_focus (s : State) (pc : Word) : (s.retire pc).focus = s.focus := rfl

@[simp] theorem State.waitHere_mem (s : State) : s.waitHere.mem = s.mem := rfl

@[simp] theorem State.x_retire (s : State) (pc : Word) (n : Nat) : (s.retire pc).x n = s.x n := by
  simp [State.x, State.cur_retire, Ctx.getX]

@[simp] theorem State.p_retire (s : State) (pc : Word) (n : Nat) : (s.retire pc).p n = s.p n := by
  simp [State.p, State.cur_retire, Ctx.getP]

/-- Retiring changes the acting context alone. -/
theorem State.retire_eq (s : State) (pc : Word) : s.retire pc = s.setCtx s.focus.core s.focus.ctx (s.retire pc).cur := by
  rw [State.cur_retire]; rfl

/-- A register write and the retirement of its instruction, together: the acting context alone changes. -/
theorem State.retire_setX (s : State) (n : Nat) (v pc : Word) :
    (s.setX n v).retire pc = s.modCur fun c => { c.setX n v with pc := pc, st := if c.st = .waiting then (if c.busy then .handler else .running) else c.st,
                                                                 log := { c.log with iret := c.log.iret + 1 } } := by
  unfold State.retire State.setX
  rw [State.modCur_modCur]
  simp

theorem State.retire_setP (s : State) (n : Nat) (v : Bool) (pc : Word) :
    (s.setP n v).retire pc = s.modCur fun c => { c.setP n v with pc := pc, st := if c.st = .waiting then (if c.busy then .handler else .running) else c.st,
                                                                 log := { c.log with iret := c.log.iret + 1 } } := by
  unfold State.retire State.setP
  rw [State.modCur_modCur]
  simp

/-! ### Folds -/

/-- What every step of a fold keeps, the fold keeps. -/
theorem foldl_keeps {α β : Type} (P : α → Prop) (f : α → β → α) (l : List β) (h : ∀ a, ∀ b ∈ l, P a → P (f a b)) (a : α) (ha : P a) :
    P (l.foldl f a) := by
  induction l generalizing a with
  | nil => exact ha
  | cons b l ih => exact ih (fun a c hc => h a c (List.mem_cons_of_mem _ hc)) _ (h a b List.mem_cons_self ha)

/-- A fold whose steps leave memory leaves it. -/
theorem foldl_mem {β : Type} (f : State → β → State) (l : List β) (h : ∀ a b, (f a b).mem = a.mem) (s : State) : (l.foldl f s).mem = s.mem :=
  foldl_keeps (fun a => a.mem = s.mem) f l (fun a b _ ha => (h a b).trans ha) s rfl

/-! ### Operations that leave memory as it was -/

@[simp] theorem State.mapCtxs_mem (s : State) (f : Nat → Nat → Ctx → Ctx) : (s.mapCtxs f).mem = s.mem := by
  unfold State.mapCtxs; apply foldl_mem; intro a b; rfl

@[simp] theorem State.wrackAdd_mem (s : State) (e c k o : Nat) (d : Word) (y : Nat) : (s.wrackAdd e c k o d y).mem = s.mem := by
  unfold State.wrackAdd; split <;> rfl

@[simp] theorem State.logRec_mem (s : State) (c n k z l : Nat) (b : List Word) : (s.logRec c n k z l b).mem = s.mem := rfl

@[simp] theorem State.logInput_mem (s : State) (v : Word) : (s.logInput v).mem = s.mem := rfl

@[simp] theorem State.logFrom_mem (s : State) (r : InputSrc) (v : Word) : (s.logFrom r v).mem = s.mem := rfl

@[simp] theorem State.openWindowIn_mem (s : State) (c n o : Nat) (pc : Word) (j : Option (Nat × Nat)) : (s.openWindowIn c n o pc j).mem = s.mem := rfl

@[simp] theorem State.openWindow_mem (s : State) (c n o : Nat) (pc : Word) : (s.openWindow c n o pc).mem = s.mem := rfl

@[simp] theorem State.sealCtx_mem (s : State) (c n k : Nat) : (s.sealCtx c n k).mem = s.mem := by
  simp only [State.sealCtx]; split <;> rfl

@[simp] theorem State.markPushed_mem (s : State) (c n : Nat) : (s.markPushed c n).mem = s.mem := rfl

@[simp] theorem State.kernelFault_mem (s : State) (it : Option IterRef) (c : Nat) : (s.kernelFault it c).mem = s.mem := by
  cases it <;> rfl

@[simp] theorem State.openAll_mem (s : State) (g o : Nat) : (s.openAll g o).mem = s.mem := by
  unfold State.openAll; refine (foldl_mem _ _ ?_ _).trans rfl; intro a b; rfl

@[simp] theorem State.watch_mem (s : State) (l h t m b a : Nat) : (s.watch l h t m b a).mem = s.mem := State.mapCtxs_mem ..

@[simp] theorem State.serve_mem (s : State) (l : Nat) : (s.serve l).mem = s.mem := State.mapCtxs_mem ..

@[simp] theorem State.settleFlip_mem (s : State) (m : FlipMark) : (s.settleFlip m).mem = s.mem := by
  simp only [State.settleFlip]; split
  · rfl
  · split <;> simp

@[simp] theorem State.clearFlip_mem (s : State) (c n : Nat) : (s.clearFlip c n).mem = s.mem := by
  simp only [State.clearFlip]; split <;> simp

@[simp] theorem State.notice_mem (s : State) (l n : Nat) : (s.notice l n).mem = s.mem := by
  unfold State.notice; refine (foldl_mem _ _ ?_ _).trans (State.mapCtxs_mem ..); intro a b; split <;> rfl

@[simp] theorem State.escapes_mem (s : State) (c n l k : Nat) : (s.escapes c n l k).mem = s.mem :=
  foldl_mem _ _ (fun _ q => by split <;> first | rfl | (cases q <;> rfl)) _

/-! ### Operations that keep memory canonical -/

theorem State.storeBy_wf (s : State) (r : InputSrc) (l k v : Nat) (h : Memory.wf s.mem) : Memory.wf (s.storeBy r l k v).mem := by
  simp only [State.storeBy, State.notice_mem]
  exact State.write_wf _ l k v h

theorem State.storeAt_wf (s : State) (l k v : Nat) (h : Memory.wf s.mem) : Memory.wf (s.storeAt l k v).mem := State.storeBy_wf s .other l k v h

@[simp] theorem State.noteEvents_mem (s : State) (r : InputSrc) (l : Nat) : (s.noteEvents r l).mem = s.mem := rfl

theorem State.writeFor_wf (s : State) (c n i l k v : Nat) (h : Memory.wf s.mem) : Memory.wf (s.writeFor c n i l k v).mem := by
  simp only [State.writeFor, State.escapes_mem]
  exact State.storeBy_wf s _ l k v h

theorem State.signalObject_wf (s : State) (l m : Nat) (h : Memory.wf s.mem) : Memory.wf (s.signalObject l m).mem := by
  simp only [State.signalObject]; split
  · exact h
  · simpa using State.write_wf s (l + 16) 4 _ h

/-- Whatever an entry of a store buffer is, memory stays in its form when it leaves. -/
theorem State.perform_wf (s : State) (c n : Nat) (e : SbEntry) (h : Memory.wf s.mem) : Memory.wf (s.perform c n e).mem := by
  unfold State.perform
  split
  · exact State.writeFor_wf _ _ _ _ _ _ _ h
  · split
    · exact h
    · exact State.signalObject_wf _ _ _ h
  · exact h
  · exact State.writeFor_wf _ _ _ _ _ _ _ h

theorem State.drain_wf (s : State) (c n : Nat) (h : Memory.wf s.mem) : Memory.wf (s.drain c n).mem := by
  simp only [State.drain, State.modCtx_mem]
  exact foldl_keeps (fun a : State => Memory.wf a.mem) _ _ (fun a e _ => State.perform_wf a c n e) s h

theorem State.release_wf (s : State) (h : Memory.wf s.mem) : Memory.wf s.release.mem := State.drain_wf _ _ _ h

theorem State.flip_wf (s : State) (l : Nat) (o : SyncObj) (h : Memory.wf s.mem) : Memory.wf (s.flip l o).mem := by
  have h1 := State.write_wf s (l + 8) 8 ((o.phase + 1) % 2 ^ 32 * 2 ^ 32) h
  simp only [State.flip, State.settleFlip_mem]
  split <;> simpa using h1

theorem State.leaveGroup_wf (s : State) (g c n : Nat) (h : Memory.wf s.mem) : Memory.wf (s.leaveGroup g c n).mem := by
  simp only [State.leaveGroup]; split
  · exact h
  · refine foldl_keeps (fun a : State => Memory.wf a.mem) _ _ (fun a l _ ha => ?_) _ (by simpa using h)
    split
    · simpa using State.flip_wf a l _ ha
    · exact ha

theorem State.leaveAll_wf (s : State) (c n : Nat) (h : Memory.wf s.mem) : Memory.wf (s.leaveAll c n).mem :=
  foldl_keeps (fun a : State => Memory.wf a.mem) _ _ (fun a e _ => State.leaveGroup_wf a e.1 c n) s h

theorem State.endPart_wf (s : State) (c n : Nat) (h : Memory.wf s.mem) : Memory.wf (s.endPart c n).mem := by
  have h1 : Memory.wf (((s.drain c n).clearFlip c n).modCtx c n fun k => { k with st := .idle, iter := none }).mem := by
    simpa using State.drain_wf s c n h
  simp only [State.endPart]; split
  · exact h1
  · split
    · exact h1
    · rw [State.modKernel_mem]; exact foldl_keeps (fun a : State => Memory.wf a.mem) _ _ (fun a m _ => State.leaveAll_wf a c m) _ h1

@[simp] theorem State.dropWaiter_mem (s : State) (c n : Nat) : (s.dropWaiter c n).mem = s.mem := by
  simp only [State.dropWaiter]; split <;> simp

@[simp] theorem State.freezeCtx_mem (s : State) (c n k : Nat) : (s.freezeCtx c n k).mem = s.mem := by
  simp [State.freezeCtx]

theorem State.writeFrame_wf (s : State) (c n : Nat) (r t i : Word) (h : Memory.wf s.mem) : Memory.wf (s.writeFrame c n r t i).mem :=
  State.writeDs_wf _ _ _ (State.writeDs_wf _ _ _ (State.writeDs_wf _ _ _ h))

/-- Writing a frame changes memory alone. -/
theorem State.writeFrame_rest (s : State) (c n : Nat) (r t i : Word) :
    s.writeFrame c n r t i = { s with mem := (s.writeFrame c n r t i).mem } := by
  have h : ∀ (u : State) l vs, (∃ m, u = { s with mem := m }) → ∃ m, u.writeDs l vs = { s with mem := m } := by
    rintro u l vs ⟨m, rfl⟩; exact ⟨_, State.writeDs_rest ..⟩
  obtain ⟨m, hm⟩ : ∃ m, s.writeFrame c n r t i = { s with mem := m } := h _ _ _ (h _ _ _ (h _ _ _ ⟨s.mem, rfl⟩))
  rw [hm]

theorem State.takeTrap_wf (s : State) (c n k : Nat) (i : Word) (o : Nat) (r : Word) (h : Memory.wf s.mem) :
    Memory.wf (s.takeTrap c n k i o r).mem := by
  unfold State.takeTrap
  split
  · rw [State.freezeCtx_mem]; exact h
  · dsimp only
    rw [State.dropWaiter_mem, State.modCtx_mem]
    exact State.writeFrame_wf _ c n r _ i (State.drain_wf s c n h)

theorem State.trapHere_wf (s : State) (k : Nat) (i : Word) (h : Memory.wf s.mem) : Memory.wf (s.trapHere k i).mem :=
  State.takeTrap_wf _ _ _ _ _ _ _ h

/-- A double trap freezes the context (10 R250). -/
theorem State.takeTrap_busy (s : State) (c n k : Nat) (i : Word) (o : Nat) (r : Word) (h : (s.ctx c n).busy = true) :
    s.takeTrap c n k i o r = s.freezeCtx c n k := by simp [State.takeTrap, h]

/-- The context after a trap: at its handler, busy and privileged, the old level kept, TSTAT and TINFO written (10 R241). -/
theorem State.takeTrap_ctx (s : State) (c n k : Nat) (i : Word) (o : Nat) (r : Word) (h : (s.ctx c n).busy = false)
    (hw : (s.ctx c n).waiter = none) (hb : (s.ctx c n).sbuf = []) :
    (s.takeTrap c n k i o r).ctx c n =
      { s.ctx c n with tstat := BitVec.ofNat 64 (o * 2 ^ 16 + k), tinfo := i, busy := true, ppriv := (s.ctx c n).priv, priv := true,
                       pc := (s.ctx c n).tvec, st := .handler, block := none } := by
  simp only [State.takeTrap, h, Bool.false_eq_true, if_false]
  unfold State.dropWaiter
  rw [State.writeFrame_rest]
  have hd : (s.drain c n).ctx c n = s.ctx c n := by
    simp only [State.drain, hb, List.foldl_nil, State.ctx_modCtx_same]
    rw [← hb]
  have hctx : ∀ m : List Host.Cell, ({ s.drain c n with mem := m } : State).ctx c n = s.ctx c n := fun _ => hd
  simp only [State.ctx_modCtx_same, hctx, hw]

@[simp] theorem State.restoreRegs_mem (s : State) (c n : Nat) : (s.restoreRegs c n).mem = s.mem := by
  unfold State.restoreRegs
  dsimp only
  rw [State.modCore_mem, State.modCtx_mem]

theorem State.returnFromTrap_wf (s : State) (c n : Nat) (h : Memory.wf s.mem) : Memory.wf (s.returnFromTrap c n).mem := by
  unfold State.returnFromTrap
  dsimp only
  rw [State.modCtx_mem, State.restoreRegs_mem]
  exact State.drain_wf s c n h

/-- The return takes the program counter and the level from the frame; busy clears (10 R242). -/
theorem State.returnFromTrap_ctx (s : State) (c n : Nat) :
    ((s.returnFromTrap c n).ctx c n).pc = (s.drain c n).readD (frameLoc c n + 0x108) ∧ ((s.returnFromTrap c n).ctx c n).busy = false ∧
      ((s.returnFromTrap c n).ctx c n).st = .running ∧
      ((s.returnFromTrap c n).ctx c n).priv = bitOf ((s.drain c n).read (frameLoc c n + 0x120) 8) 0 := by
  have hr : ∀ l k, ((s.drain c n).restoreRegs c n).read l k = (s.drain c n).read l k := fun l k =>
    State.read_congr _ _ _ _ fun i _ => State.byte_eq _ _ (State.restoreRegs_mem ..) _
  unfold State.returnFromTrap
  dsimp only
  rw [State.ctx_modCtx_same]
  refine ⟨?_, rfl, rfl, ?_⟩
  · unfold State.readD; rw [hr]
  · rw [hr]

/-- Whatever an instruction's meaning left in canonical form, finishing it keeps so. -/
theorem finish_wf (s t : State) (r : CtxRes) (hs : Memory.wf s.mem)
    (hr : match r with | .done u | .jump u _ | .trapIn u _ _ | .wait u => Memory.wf u.mem | .trap _ _ => True)
    (h : finish s r = .next t) : Memory.wf t.mem := by
  unfold finish at h
  repeat' split at h
  all_goals (injection h with h; subst h)
  · simpa using hr
  · exact State.trapHere_wf _ _ _ hs
  · exact State.endPart_wf _ _ _ (by simpa using hr)
  · simpa using hr
  · exact State.trapHere_wf _ _ _ hs
  · exact State.trapHere_wf _ _ _ hr
  · simpa using hr

theorem guarded_wf (s t : State) (g : Guard) (r : CtxRes) (hs : Memory.wf s.mem)
    (hr : match r with | .done u | .jump u _ | .trapIn u _ _ | .wait u => Memory.wf u.mem | .trap _ _ => True)
    (h : guarded s g r = .next t) : Memory.wf t.mem := by
  unfold guarded at h
  split at h
  · exact finish_wf s t r hs hr h
  · exact finish_wf s t (.done s) hs hs h

end Sys2Proof.Machine
end

