-- ==== Sys2Proof/Laws/Access.lean ====
section
/-! SUPPORT. What an access comes to: where an address leads, what reads and stores of contexts and commands answer, and that each keeps memory in its canonical form. -/

namespace Sys2Proof.Machine

/-! ### Pages -/

@[simp] theorem State.takeFrame_mem (s : State) (fn : Nat) (t : State) (h : s.takeFrame = some (fn, t)) : t.mem = s.mem := by
  unfold State.takeFrame at h
  split at h
  · cases h
  · simp only [Option.some.injEq, Prod.mk.injEq] at h
    obtain ⟨_, rfl⟩ := h
    split <;> rfl

theorem Tbl.fold_set_wf {α : Type} [DecidableEq α] (d : α) (l : List (Nat × α)) (t : Tbl α) (h : Tbl.wf d t = true) :
    Tbl.wf d (l.foldl (fun m e => Tbl.set d m e.1 e.2) t) = true :=
  foldl_keeps (fun m => Tbl.wf d m = true) _ l (fun m e _ hm => Tbl.set_wf d m e.1 e.2 hm) t h

theorem State.copyRaw_wf (s : State) (a b n : Nat) (h : Memory.wf s.mem) : Memory.wf (s.copyRaw a b n).mem :=
  Tbl.fold_set_wf _ _ _ (Tbl.clear_wf _ _ _ _ h)

theorem State.zeroFrame_wf (s : State) (l n : Nat) (h : Memory.wf s.mem) : Memory.wf (s.zeroFrame l n).mem := State.zeroBytes_wf s l n h

@[simp] theorem State.setHalf_mem (s : State) (fn half : Nat) (on : Bool) : (s.setHalf fn half on).mem = s.mem := rfl

theorem State.writeEntry_wf (s : State) (l v : Nat) (h : Memory.wf s.mem) : Memory.wf (s.writeEntry l v).mem := State.write_wf s l 8 v h

@[simp] theorem State.fill_mem (s : State) (c : Cached) : (s.fill c).mem = s.mem := rfl

/-- The state that an access moves its page on to is canonical where the state before was. -/
theorem State.pageAccess_wf (s : State) (el e off cause : Nat) (w eng : Bool) (l : Nat) (t : State) (hs : Memory.wf s.mem)
    (h : s.pageAccess el e off cause w eng = .loc l t) : Memory.wf t.mem := by
  unfold State.pageAccess at h
  repeat' split at h
  all_goals first
    | (cases h; exact hs)
    | (cases h; exact State.writeEntry_wf _ _ _ hs)
    | cases h
  · rename_i nf s1 h1
    have h2 := State.takeFrame_mem s nf s1 h1
    exact State.writeEntry_wf _ _ _ (by rw [State.setHalf_mem]; exact State.copyRaw_wf _ _ _ _ (h2 ▸ hs))
  · rename_i nf s1 h1
    have h2 := State.takeFrame_mem s nf s1 h1
    exact State.writeEntry_wf _ _ _ (State.zeroFrame_wf _ _ _ (h2 ▸ hs))

theorem State.pagedAccess_wf (s : State) (va : Nat) (w p e : Bool) (l : Nat) (t : State) (hs : Memory.wf s.mem)
    (h : s.pagedAccess va w p e = .loc l t) : Memory.wf t.mem := by
  unfold State.pagedAccess at h
  repeat' split at h
  all_goals first
    | cases h
    | exact State.pageAccess_wf _ _ _ _ _ _ _ _ _ hs h

theorem State.addHeat_wf (s : State) (l n : Nat) (h : Memory.wf s.mem) : Memory.wf (s.addHeat l n).mem := by
  simp only [State.addHeat]; split
  · exact h
  · exact State.write_wf _ _ _ _ h

theorem State.tileAccess_wf (s : State) (c : Nat) (sh : Shape) (b : Nat) (w p : Bool) (l : Nat) (t : State) (hs : Memory.wf s.mem)
    (h : s.tileAccess c sh b w p = .loc l t) : Memory.wf t.mem := by
  unfold State.tileAccess at h
  simp only at h
  repeat' split at h
  all_goals first
    | cases h; done
    | (rename_i h1 _; cases h; exact State.pageAccess_wf _ _ _ _ _ _ _ _ _ hs h1)

@[simp] theorem State.raiseTsq_mem (s : State) (c e : Nat) (w : TileWaiter) : (s.raiseTsq c e w).mem = s.mem := by
  simp only [State.raiseTsq]; repeat' split
  all_goals rfl

/-! ### Where an address leads (09 R214 to R216) -/

/-- A flat address outside the system areas is its own location. -/
theorem State.reach_flat (s : State) (c a : Nat) (w p e : Bool) (h : a < 2 ^ 33) (hp : p = true ∨ a % 2 ^ 22 < 0x3E0000) :
    s.reach c a w p e = .loc a s := by
  have h1 : (inSystemArea a && !p) = false := by
    rcases hp with hp | hp
    · simp [hp]
    · have : ¬ 0x3E0000 ≤ a % 2 ^ 22 := by omega
      unfold inSystemArea; rw [decide_eq_false this]; simp
  have h2 : place c a = .sram a := by simp only [place, h, if_true]
  unfold State.reach
  rw [h1, h2]; rfl

/-- An alias address names the core's own slice. -/
theorem State.reach_alias (s : State) (c a : Nat) (w p e : Bool) (h1 : 2 ^ 33 ≤ a) (h2 : a < 2 ^ 33 + 2 ^ 22) (hp : p = true ∨ a % 2 ^ 22 < 0x3E0000) :
    s.reach c a w p e = .loc (sliceLoc c (a - 2 ^ 33)) s := by
  have h3 : (inSystemArea a && !p) = false := by
    rcases hp with hp | hp
    · simp [hp]
    · have : ¬ 0x3E0000 ≤ a % 2 ^ 22 := by omega
      unfold inSystemArea; rw [decide_eq_false this]; simp
  have h4 : place c a = .sram (sliceLoc c (a - 2 ^ 33)) := by
    have : ¬ a < 2 ^ 33 := by omega
    simp only [place, this, h2, if_true, if_false]
  unfold State.reach
  rw [h3, h4]; rfl

/-- A system area is closed to an unprivileged party (09 R216). -/
theorem State.reach_closed (s : State) (c a : Nat) (w e : Bool) (h : a < 2 ^ 33 + 2 ^ 22) (hs : 0x3E0000 ≤ a % 2 ^ 22) :
    s.reach c a w false e = .fault 0x02 := by
  have h1 : (inSystemArea a && !false) = true := by
    unfold inSystemArea; rw [decide_eq_true h, decide_eq_true hs]; rfl
  unfold State.reach
  rw [h1]; rfl

theorem inSystemArea_above (a : Nat) (h : 2 ^ 33 + 2 ^ 22 ≤ a) : inSystemArea a = false := by
  have : ¬ a < 2 ^ 33 + 2 ^ 22 := by omega
  unfold inSystemArea; rw [decide_eq_false this]; rfl

/-- The hole. -/
theorem State.reach_hole (s : State) (c a : Nat) (w p e : Bool) (h1 : 2 ^ 33 + 2 ^ 22 ≤ a) (h2 : a < 2 ^ 44) : s.reach c a w p e = .hole := by
  have h4 : place c a = .outOfRange := by
    have h5 : ¬ a < 2 ^ 33 := by omega
    have h6 : ¬ a < 2 ^ 33 + 2 ^ 22 := by omega
    simp only [place, h5, h6, h2, if_true, if_false]
  unfold State.reach
  rw [inSystemArea_above a h1, h4]; rfl

/-- Above the paged range no address is canonical. -/
theorem State.reach_notCanonical (s : State) (c a : Nat) (w p e : Bool) (h : 2 ^ 52 ≤ a) : s.reach c a w p e = .fault 0x04 := by
  have h4 : place c a = .notCanonical := by
    have h5 : ¬ a < 2 ^ 33 := by omega
    have h6 : ¬ a < 2 ^ 33 + 2 ^ 22 := by omega
    have h7 : ¬ a < 2 ^ 44 := by omega
    have h8 : ¬ a < 2 ^ 52 := by omega
    simp only [place, h5, h6, h7, h8, if_false]
  unfold State.reach
  rw [inSystemArea_above a (by omega), h4]; rfl

theorem State.reach_wf (s : State) (c a : Nat) (w p e : Bool) (l : Nat) (t : State) (hs : Memory.wf s.mem)
    (h : s.reach c a w p e = .loc l t) : Memory.wf t.mem := by
  unfold State.reach at h
  repeat' split at h
  all_goals first
    | cases h; done
    | (cases h; exact hs)
    | (rename_i h1; cases h; exact State.pagedAccess_wf _ _ _ _ _ _ _ hs h1)

/-! ### Accesses of contexts -/

/-- A read that passes its checks gives the bytes as the context sees them. -/
theorem State.ctxRead_ok (s : State) (a n l : Nat) (t : State) (h : a % n = 0)
    (hr : s.reach s.focus.core a false (s.privileged s.focus.core s.focus.ctx) false = .loc l t) (hp : s.anyPoison l n = false) :
    s.ctxRead a n = .ok (t.seen s.cur.sbuf l n) t := by
  unfold State.ctxRead
  rw [if_neg (by simp [h]), hr]
  simp [hp]

theorem State.ctxRead_misaligned (s : State) (a n : Nat) (h : a % n ≠ 0) : s.ctxRead a n = .trap s 0x03 a := by
  unfold State.ctxRead; rw [if_pos h]

theorem State.ctxRead_fault (s : State) (a n c : Nat) (h : a % n = 0)
    (hr : s.reach s.focus.core a false (s.privileged s.focus.core s.focus.ctx) false = .fault c) : s.ctxRead a n = .trap s c a := by
  unfold State.ctxRead
  rw [if_neg (by simp [h]), hr]

theorem State.ctxRead_poisoned (s : State) (a n l : Nat) (t : State) (h : a % n = 0)
    (hr : s.reach s.focus.core a false (s.privileged s.focus.core s.focus.ctx) false = .loc l t) (hp : s.anyPoison l n = true) :
    s.ctxRead a n = .trap s 0x06 a := by
  unfold State.ctxRead
  rw [if_neg (by simp [h]), hr]
  simp [hp]

theorem State.ctxStoreAt_misaligned (s : State) (a n : Nat) (h : a % n ≠ 0) : s.ctxStoreAt a n = .trap s 0x03 a := by
  unfold State.ctxStoreAt; rw [if_pos h]

/-- A store to a flat address outside the system areas goes to it. -/
theorem State.ctxStoreAt_flat (s : State) (a n : Nat) (h : a % n = 0) (ha : a < 2 ^ 33)
    (hp : s.privileged s.focus.core s.focus.ctx = true ∨ a % 2 ^ 22 < 0x3E0000) : s.ctxStoreAt a n = .sram a := by
  have h2 : place s.focus.core a = .sram a := by simp only [place, ha, if_true]
  unfold State.ctxStoreAt
  rw [if_neg (by simp [h]), State.reach_flat s _ a _ _ _ ha hp]
  simp only [h2]

@[simp] theorem State.recordSpor_mem (s : State) (c n a : Nat) : (s.recordSpor c n a).mem = s.mem := rfl

/-- What an access answers keeps memory canonical. -/
def Got.canonical : Got → Prop
  | .ok _ t => Memory.wf t.mem
  | .hole t => Memory.wf t.mem
  | .trap t _ _ => Memory.wf t.mem

/-- What a store answers keeps memory canonical. -/
def StoreAt.canonical : StoreAt → Prop
  | .sram _ => True
  | .frame _ t => Memory.wf t.mem
  | .hole t => Memory.wf t.mem
  | .trap t _ _ => Memory.wf t.mem

theorem State.outOfRange_wf (s : State) (a : Nat) (hs : Memory.wf s.mem) : (s.outOfRange a).canonical := by
  simp only [State.outOfRange]; split <;> exact hs

theorem State.ctxRead_wf (s : State) (a n : Nat) (hs : Memory.wf s.mem) : (s.ctxRead a n).canonical := by
  unfold State.ctxRead
  split
  · exact hs
  · cases h : s.reach s.focus.core a false (s.privileged s.focus.core s.focus.ctx) false with
    | fault c => exact hs
    | wait _ => exact hs
    | hole => exact State.outOfRange_wf s a hs
    | zero => exact hs
    | loc l t =>
      dsimp only
      split
      · exact hs
      · exact State.reach_wf _ _ _ _ _ _ _ _ hs h

theorem State.ctxStoreAt_wf (s : State) (a n : Nat) (hs : Memory.wf s.mem) : (s.ctxStoreAt a n).canonical := by
  unfold State.ctxStoreAt
  split
  · exact hs
  · cases h : s.reach s.focus.core a true (s.privileged s.focus.core s.focus.ctx) false with
    | fault c => exact hs
    | wait _ => exact hs
    | hole =>
      have := State.outOfRange_wf s a hs
      dsimp only
      cases h2 : s.outOfRange a <;> (rw [h2] at this; exact this)
    | zero => exact hs
    | loc l t =>
      dsimp only
      split
      · trivial
      · exact State.reach_wf _ _ _ _ _ _ _ _ hs h

/-- What an instruction's meaning answers keeps memory canonical. -/
def CtxRes.canonical : CtxRes → Prop
  | .done u => Memory.wf u.mem
  | .jump u _ => Memory.wf u.mem
  | .trapIn u _ _ => Memory.wf u.mem
  | .wait u => Memory.wf u.mem
  | .trap _ _ => True

theorem finish_canonical (s t : State) (r : CtxRes) (hs : Memory.wf s.mem) (hr : r.canonical) (h : finish s r = .next t) : Memory.wf t.mem := by
  refine finish_wf s t r hs ?_ h
  cases r <;> exact hr

theorem guarded_canonical (s t : State) (g : Guard) (r : CtxRes) (hs : Memory.wf s.mem) (hr : r.canonical) (h : guarded s g r = .next t) :
    Memory.wf t.mem := by
  refine guarded_wf s t g r hs ?_ h
  cases r <;> exact hr

/-- A write's `put` that keeps memory canonical keeps it wherever the write goes. -/
theorem StoreAt.result_wf (w : StoreAt) (s : State) (put : State → Nat → CtxRes) (hw : w.canonical) (hs : Memory.wf s.mem)
    (hp : ∀ t l, Memory.wf t.mem → (put t l).canonical) : (w.result s put).canonical := by
  cases w with
  | sram l => exact hp s l hs
  | frame l t => exact hp t l hw
  | hole t => exact hw
  | trap t c a => exact hw

@[simp] theorem State.buffer_mem (s : State) (k : SbKind) (l n : Nat) (v : Word) : (s.buffer k l n v).mem = s.mem := rfl

@[simp] theorem State.logStore_mem (s : State) (a l n : Nat) : (s.logStore a l n).mem = s.mem := rfl

theorem State.ctxStore_wf (s : State) (a n v : Nat) (hs : Memory.wf s.mem) : (s.ctxStore a n v).canonical := by
  refine StoreAt.result_wf _ _ _ (State.ctxStoreAt_wf s a n hs) hs fun t l ht => ?_
  split
  · exact hs
  · exact ht

theorem State.ctxWriteNow_wf (s : State) (a n v : Nat) (hs : Memory.wf s.mem) : (s.ctxWriteNow a n v).canonical :=
  StoreAt.result_wf _ _ _ (State.ctxStoreAt_wf s a n hs) hs fun _ _ ht => State.writeFor_wf _ _ _ _ _ _ _ (State.release_wf _ ht)

/-! ### Accesses of commands -/

def CmdReach.canonical : CmdReach → Prop
  | .loc _ t => Memory.wf t.mem
  | .hole t => Memory.wf t.mem
  | _ => True

def CmdGot.canonical : CmdGot → Prop
  | .ok _ t => Memory.wf t.mem
  | _ => True

theorem State.cmdReach_wf (s : State) (q : QueueId) (e : Entry) (ref : Nat) (tensor : Bool) (off : Int) (w : Bool) (hs : Memory.wf s.mem) :
    (s.cmdReach q e ref tensor off w).canonical := by
  unfold State.cmdReach
  dsimp only
  split
  · split
    · trivial
    · split <;> first | trivial | (rename_i h; exact State.tileAccess_wf _ _ _ _ _ _ _ _ hs h)
  · split
    · trivial
    · split <;> first
        | trivial
        | exact hs
        | (rename_i h; exact State.reach_wf _ _ _ _ _ _ _ _ hs h)
        | (split <;> trivial)

theorem State.cmdRead_wf (s : State) (q : QueueId) (e : Entry) (ref : Nat) (tensor : Bool) (off : Int) (n : Nat) (hs : Memory.wf s.mem) :
    (s.cmdRead q e ref tensor off n).canonical := by
  have h := State.cmdReach_wf s q e ref tensor off false hs
  unfold State.cmdRead
  cases h1 : s.cmdReach q e ref tensor off false <;> rw [h1] at h <;> dsimp only
  · split
    · trivial
    · exact h
  · exact hs
  · exact h
  · trivial
  · trivial

theorem State.cmdWrite_wf (s : State) (q : QueueId) (e : Entry) (ref : Nat) (tensor : Bool) (off : Int) (n v : Nat) (hs : Memory.wf s.mem) :
    (s.cmdWrite q e ref tensor off n v).canonical := by
  have h := State.cmdReach_wf s q e ref tensor off true hs
  unfold State.cmdWrite
  cases h1 : s.cmdReach q e ref tensor off true <;> rw [h1] at h <;> dsimp only
  · simpa [CmdGot.canonical] using State.storeBy_wf _ _ _ n v h
  · exact hs
  · exact h
  · trivial
  · trivial

@[simp] theorem State.askTile_mem (s : State) (q : QueueId) (e : Entry) (x : Nat) : (s.askTile q e x).mem = s.mem := State.raiseTsq_mem ..

theorem State.traceWrite_wf (s t : State) (c : Nat) (d : List Word) (hs : Memory.wf s.mem) (h : s.traceWrite c d = some t) : Memory.wf t.mem := by
  unfold State.traceWrite at h
  dsimp only at h
  split at h
  · cases h
  · split at h
    · rename_i h1; cases h; exact State.writeDs_wf _ _ _ (State.pagedAccess_wf _ _ _ _ _ _ _ hs h1)
    · cases h

theorem State.trace_wf (s : State) (c b k o y p q : Nat) (hs : Memory.wf s.mem) : Memory.wf (s.trace c b k o y p q).mem := by
  unfold State.trace
  dsimp only
  split
  · exact hs
  · split
    · rename_i t h
      rw [Option.bind_eq_some_iff] at h
      obtain ⟨u, hu, ht⟩ := h
      refine State.traceWrite_wf u t c _ ?_ ht
      split at hu
      · cases hu; exact hs
      · exact State.traceWrite_wf s u c _ hs hu
    · exact hs

end Sys2Proof.Machine
end

