-- ==== Sys2Proof/Laws/Stream.lean ====
section
/-! SUPPORT. What the issue of a vector word can do: the laws of the trace, of the loop snapshot and of the phase's escape, then one law of the issue, which the words' results cite. -/

namespace Sys2Proof.Machine

/-! ### Pages keep the cores -/

theorem State.writeEntry_cores (s : State) (l v : Nat) : (s.writeEntry l v).cores = s.cores ∧ (s.writeEntry l v).focus = s.focus := by
  simp [State.writeEntry]

theorem State.copyRaw_cores (s : State) (a b n : Nat) : (s.copyRaw a b n).cores = s.cores ∧ (s.copyRaw a b n).focus = s.focus := ⟨rfl, rfl⟩

theorem State.zeroFrame_cores (s : State) (l n : Nat) : (s.zeroFrame l n).cores = s.cores ∧ (s.zeroFrame l n).focus = s.focus := ⟨rfl, rfl⟩

theorem State.setHalf_cores (s : State) (fn half : Nat) (on : Bool) : (s.setHalf fn half on).cores = s.cores ∧ (s.setHalf fn half on).focus = s.focus := ⟨rfl, rfl⟩

theorem State.takeFrame_cores (s : State) (fn : Nat) (t : State) (h : s.takeFrame = some (fn, t)) : t.cores = s.cores ∧ t.focus = s.focus := by
  unfold State.takeFrame at h
  split at h
  · cases h
  · simp only [Option.some.injEq, Prod.mk.injEq] at h
    obtain ⟨_, rfl⟩ := h
    split <;> exact ⟨rfl, rfl⟩

theorem State.pageAccess_cores (s : State) (el e off cause : Nat) (w eng : Bool) (l : Nat) (t : State)
    (h : s.pageAccess el e off cause w eng = .loc l t) : t.cores = s.cores ∧ t.focus = s.focus := by
  simp only [State.pageAccess] at h
  repeat' split at h
  all_goals first
    | (cases h; done)
    | (rename_i h1
       have h2 := State.takeFrame_cores _ _ _ h1
       simp only [Access.loc.injEq] at h
       rw [← h.2]
       simp only [State.writeEntry_cores, State.setHalf_cores, State.copyRaw_cores, State.zeroFrame_cores]
       exact h2)
    | (cases h; exact State.writeEntry_cores ..)
    | (cases h; exact ⟨rfl, rfl⟩)

theorem State.pagedAccess_cores (s : State) (va : Nat) (w p e : Bool) (l : Nat) (t : State) (h : s.pagedAccess va w p e = .loc l t) :
    t.cores = s.cores ∧ t.focus = s.focus := by
  unfold State.pagedAccess at h
  repeat' split at h
  all_goals first
    | exact State.pageAccess_cores _ _ _ _ _ _ _ _ _ h
    | cases h

/-! ### The trace (23 R405, R406) -/

/-- Two cores that differ at most in the trace's head and drop count. -/
def Core.sameButTrace (k k' : Core) : Prop := ∃ h d, k' = { k with trhead := h, trdrops := d }

theorem Core.sameButTrace_refl (k : Core) : Core.sameButTrace k k := ⟨k.trhead, k.trdrops, rfl⟩

theorem Core.sameButTrace_trans {a b c : Core} (h : Core.sameButTrace a b) (h' : Core.sameButTrace b c) : Core.sameButTrace a c := by
  obtain ⟨x, y, rfl⟩ := h
  obtain ⟨u, v, rfl⟩ := h'
  exact ⟨u, v, rfl⟩

theorem State.core_of_cores {s t : State} (h : t.cores = s.cores) (c : Nat) : t.core c = s.core c := by unfold State.core; rw [h]

theorem State.modCore_sameButTrace (s : State) (core : Nat) (f : Core → Core) (hf : ∀ k, Core.sameButTrace k (f k)) (c : Nat) :
    Core.sameButTrace (s.core c) ((s.modCore core f).core c) := by
  by_cases h : c = core
  · subst h; rw [State.core_modCore_same]; exact hf _
  · rw [State.core_modCore_other _ _ _ _ h]; exact Core.sameButTrace_refl _

theorem State.traceWrite_core (s t : State) (core : Nat) (d : List Word) (h : s.traceWrite core d = some t) :
    t.focus = s.focus ∧ ∀ c, Core.sameButTrace (s.core c) (t.core c) := by
  unfold State.traceWrite at h
  dsimp only at h
  split at h
  · cases h
  · split at h
    · rename_i l u h1
      cases h
      obtain ⟨h2, h3⟩ := State.pagedAccess_cores _ _ _ _ _ _ _ h1
      refine ⟨by simpa using h3, fun c => ?_⟩
      have h4 : (u.writeDs l d).core c = s.core c := State.core_of_cores (by simpa using h2) c
      rw [← h4]
      exact State.modCore_sameButTrace _ _ _ (fun k => ⟨_, _, rfl⟩) c
    · cases h

/-- A trace record changes no core but in the trace's head and drop count, and not who acts. -/
theorem State.trace_core (s : State) (core bit kind source cycle p0 p1 : Nat) :
    (s.trace core bit kind source cycle p0 p1).focus = s.focus ∧
      ∀ c, Core.sameButTrace (s.core c) ((s.trace core bit kind source cycle p0 p1).core c) := by
  unfold State.trace
  dsimp only
  split
  · exact ⟨rfl, fun c => Core.sameButTrace_refl _⟩
  · split
    · rename_i t h
      rw [Option.bind_eq_some_iff] at h
      obtain ⟨u, hu, ht⟩ := h
      have h2 := State.traceWrite_core _ _ _ _ ht
      split at hu
      · cases hu; exact h2
      · have h1 := State.traceWrite_core _ _ _ _ hu
        exact ⟨h2.1.trans h1.1, fun c => Core.sameButTrace_trans (h1.2 c) (h2.2 c)⟩
    · exact ⟨rfl, fun c => State.modCore_sameButTrace _ _ _ (fun k => ⟨_, _, rfl⟩) c⟩

/-- A trace that is off records nothing. -/
theorem State.trace_off (s : State) (core bit kind source cycle p0 p1 : Nat) (h : (s.core core).trctl.getLsbD 0 = false) :
    s.trace core bit kind source cycle p0 p1 = s := by
  unfold State.trace
  dsimp only
  rw [if_pos]
  have h1 : bitOf (s.core core).trctl.toNat 0 = false := by
    rw [BitVec.getLsbD, Nat.testBit_zero] at h
    simpa [bitOf] using h
  simp [h1]

/-! ### The loop snapshot (23 R403) -/

/-- Two cores that differ at most in the trace and the conflict matrix's snapshot. -/
def Core.sameButSnap (k k' : Core) : Prop := ∃ h d a b e, k' = { k with trhead := h, trdrops := d, cmSnap := a, cmSnapVals := b, cmMerge := e }

theorem Core.sameButSnap_refl (k : Core) : Core.sameButSnap k k := ⟨_, _, _, _, _, rfl⟩

theorem Core.sameButSnap_trans {a b c : Core} (h : Core.sameButSnap a b) (h' : Core.sameButSnap b c) : Core.sameButSnap a c := by
  obtain ⟨_, _, _, _, _, rfl⟩ := h
  obtain ⟨_, _, _, _, _, rfl⟩ := h'
  exact ⟨_, _, _, _, _, rfl⟩

theorem Core.sameButTrace_snap {a b : Core} (h : Core.sameButTrace a b) : Core.sameButSnap a b := by
  obtain ⟨_, _, rfl⟩ := h
  exact ⟨_, _, _, _, _, rfl⟩

/-- Rewriting a trace record changes no core and not who acts. -/
theorem State.retrace_core (s : State) (core place w : Nat) :
    (s.retrace core place w).focus = s.focus ∧ ∀ c, (s.retrace core place w).core c = s.core c := by
  unfold State.retrace
  split
  · exact ⟨rfl, fun _ => rfl⟩
  · split
    · rename_i l t h
      obtain ⟨h2, h3⟩ := State.pagedAccess_cores _ _ _ _ _ _ _ h
      exact ⟨by simpa [State.writeD] using h3, State.core_of_cores (by simpa [State.writeD] using h2)⟩
    · exact ⟨rfl, fun _ => rfl⟩

/-- A trace that is off rewrites nothing. -/
theorem State.retrace_off (s : State) (core place w : Nat) (h : (s.core core).trctl.getLsbD 0 = false) : s.retrace core place w = s := by
  unfold State.retrace
  rw [if_pos]
  rw [BitVec.getLsbD, Nat.testBit_zero] at h
  simpa [bitOf] using h

theorem State.modCore_sameButSnap (s : State) (core : Nat) (f : Core → Core) (hf : Core.sameButSnap (s.core core) (f (s.core core))) (c : Nat) :
    Core.sameButSnap (s.core c) ((s.modCore core f).core c) := by
  by_cases h : c = core
  · subst h; rw [State.core_modCore_same]; exact hf
  · rw [State.core_modCore_other _ _ _ _ h]; exact Core.sameButSnap_refl _

/-- A loop's end changes no core but in the snapshot and the trace, and not who acts. -/
theorem State.loopSnap_core (s : State) (core cycle time ended : Nat) :
    (s.loopSnap core cycle time ended).focus = s.focus ∧ ∀ c, Core.sameButSnap (s.core c) ((s.loopSnap core cycle time ended).core c) := by
  have set (k : Core) (hk : Core.sameButSnap (s.core core) k) (c : Nat) : Core.sameButSnap (s.core c) ((s.setCore core k).core c) :=
    s.modCore_sameButSnap core (fun _ => k) hk c
  unfold State.loopSnap
  dsimp only
  split
  · exact ⟨rfl, fun c => Core.sameButSnap_refl _⟩
  · split
    · split
      · rename_i place _
        refine ⟨(State.retrace_core ..).1.trans rfl, fun c => ?_⟩
        rw [(State.retrace_core ..).2]
        exact set _ ⟨_, _, _, _, _, rfl⟩ c
      · exact ⟨rfl, set _ ⟨_, _, _, _, _, rfl⟩⟩
    · generalize hu : s.setCore core _ = u
      obtain ⟨h1, h2⟩ := State.trace_core u core 0 5 (if ended < 4 then 3 else 4) cycle
        (cycle % 2 ^ 56 * 256 + ended * 16 + ((s.core core).cmSnap.toNat + 1) % 16) 0
      refine ⟨(show _ = _ from h1).trans (by rw [← hu]; rfl), fun c => ?_⟩
      have h3 : Core.sameButSnap (s.core c) (u.core c) := by rw [← hu]; exact set _ ⟨_, _, _, _, _, rfl⟩ c
      exact Core.sameButSnap_trans (Core.sameButSnap_trans h3 (Core.sameButTrace_snap (h2 c)))
        (State.modCore_sameButSnap _ _ _ ⟨_, _, _, _, _, rfl⟩ c)

/-- With the trace off a loop's end changes no context and no byte of memory. -/
theorem State.loopSnap_off (s : State) (core cycle time ended : Nat) (h : (s.core core).trctl.getLsbD 0 = false) :
    (s.loopSnap core cycle time ended).mem = s.mem ∧ ∀ c n, (s.loopSnap core cycle time ended).ctx c n = s.ctx c n := by
  have same : ∀ c n, (s.loopSnap core cycle time ended).ctx c n = s.ctx c n := by
    intro c n
    obtain ⟨_, _, _, _, _, e⟩ := (State.loopSnap_core s core cycle time ended).2 c
    unfold State.ctx
    rw [e]
    rfl
  refine ⟨?_, same⟩
  unfold State.loopSnap
  dsimp only
  split
  · rfl
  · split
    · split
      · rw [State.retrace_off]
        · rfl
        · rw [State.core_setCore_same]; exact h
      · rfl
    · rw [State.trace_off]
      · rfl
      · rw [State.core_setCore_same]; exact h

/-! ### The phase's escape (23 R397) -/

/-- Changing the job's entry changes nothing of a core but its vector queue. -/
theorem State.modJobEntry_core (s : State) (core : Nat) (f : Entry → Entry) :
    (s.modJobEntry core f).focus = s.focus ∧ (s.modJobEntry core f).mem = s.mem ∧ ∀ c, ∃ q, (s.modJobEntry core f).core c = { s.core c with vq := q } := by
  unfold State.modJobEntry
  split
  · exact ⟨rfl, rfl, fun c => ⟨(s.core c).vq, rfl⟩⟩
  · refine ⟨rfl, rfl, fun c => ?_⟩
    unfold State.modQueue State.setQueue
    dsimp only
    by_cases h : c = core
    · subst h; rw [State.core_modCore_same]; exact ⟨_, rfl⟩
    · rw [State.core_modCore_other _ _ _ _ h]; exact ⟨(s.core c).vq, rfl⟩

theorem State.tokenEscape_core (s : State) (pop : Nat) :
    (s.tokenEscape pop).focus = s.focus ∧ (s.tokenEscape pop).mem = s.mem ∧ ∀ c, ∃ q, (s.tokenEscape pop).core c = { s.core c with vq := q } := by
  unfold State.tokenEscape
  split
  · exact State.modJobEntry_core ..
  · exact ⟨rfl, rfl, fun c => ⟨(s.core c).vq, rfl⟩⟩

/-! ### The issue of a word -/

/-- Tokens after a pop. -/
theorem Core.token_popped (k : Core) (pop np q : Nat) :
    (if pop = 0 then k else k.setToken pop (k.token pop - np)).token q = if q = pop ∧ pop ≠ 0 then k.token q - np else k.token q := by
  by_cases h : pop = 0
  · simp [h]
  · rw [if_neg h]
    unfold Core.token Core.setToken
    dsimp only
    by_cases hq : q = pop
    · subst hq; rw [Tbl.get_set_same]; simp [h]
    · rw [Tbl.get_set_other _ _ _ _ _ hq]; simp [hq]

/-- What a core is after a vector word: its own updates, and beyond them only its vector queue, the loop snapshot and the trace differ. -/
structure Core.VecGone (k k' : Core) (v : VStream) (now pop np : Nat) (lands : List Landing) (next : Option Nat) : Prop where
  vs : k'.vs = k.vs.goOn v now lands next
  token : ∀ q, k'.token q = if q = pop ∧ pop ≠ 0 then k.token q - np else k.token q
  acc : k'.acc = k.acc
  vfst : k'.vfst = k.vfst
  ctxs : k'.ctxs = k.ctxs
  job : k'.job = k.job
  ms : k'.ms = k.ms

/-- The issue of a vector word: the acting core as `VecGone` says, no context of any core changed, and with the trace off no byte of memory. -/
theorem State.vecGoOn_spec (s t : State) (pop push np nq : Nat) (land : List Landing) (next : Option Nat) (hf : t.focus = s.focus) :
    let u := s.vecGoOn t pop push np nq land next
    Core.VecGone t.here u.here s.vs (s.clockNow s.focus.core) pop np (heldToken s.vs.cycle push nq land) next ∧ u.focus = s.focus ∧ (∀ c n, u.ctx c n = t.ctx c n) ∧
      (t.here.trctl.getLsbD 0 = false → u.mem = t.mem) := by
  dsimp only
  unfold State.vecGoOn
  dsimp only
  obtain ⟨f1, m1, c1⟩ := State.tokenEscape_core t pop
  generalize s.clockNow s.focus.core = now
  generalize ht : t.tokenEscape pop = t1 at *
  generalize hl : heldToken s.vs.cycle push nq land = lands
  generalize hw : (t1.modHere fun k => k.vecGoOn s.vs now pop np lands next) = w
  have fw : w.focus = s.focus := by rw [← hw]; exact f1.trans hf
  have cw : ∀ c, ∃ q, w.core c = if c = s.focus.core then { (t.core c).vecGoOn s.vs now pop np lands next with vq := q } else { t.core c with vq := q } := by
    intro c
    obtain ⟨q, e⟩ := c1 c
    refine ⟨q, ?_⟩
    rw [← hw]
    unfold State.modHere
    rw [f1, hf]
    by_cases h : c = s.focus.core
    · rw [h] at e ⊢
      rw [State.core_modCore_same, if_pos rfl, e]
      unfold Core.vecGoOn
      split <;> rfl
    · rw [State.core_modCore_other _ _ _ _ h, if_neg h, e]
  generalize loopsEnded s.vs.l0 s.vs.l1 w.vs.l0 w.vs.l1 = ended
  generalize s.vs.cycle + w.vs.lead = time
  obtain ⟨f2, c2⟩ := State.loopSnap_core w s.focus.core s.vs.cycle time ended
  have fu : (w.loopSnap s.focus.core s.vs.cycle time ended).focus = s.focus := f2.trans fw
  have gone : Core.VecGone t.here (w.loopSnap s.focus.core s.vs.cycle time ended).here s.vs now pop np lands next := by
    unfold State.here
    rw [fu, hf]
    obtain ⟨a, b, x, y, z, e⟩ := c2 s.focus.core
    obtain ⟨q, e1⟩ := cw s.focus.core
    rw [if_pos rfl] at e1
    rw [e, e1]
    refine ⟨?_, fun q => ?_, ?_, ?_, ?_, ?_, ?_⟩
    · unfold Core.vecGoOn; dsimp only; split <;> rfl
    · exact Core.token_popped (t.core s.focus.core) pop np q
    all_goals (unfold Core.vecGoOn; dsimp only; split <;> rfl)
  refine ⟨gone, fu, ?_, fun h => ?_⟩
  · intro c n
    obtain ⟨a, b, x, y, z, e⟩ := c2 c
    obtain ⟨q, e1⟩ := cw c
    unfold State.ctx
    rw [e, e1]
    split
    · unfold Core.vecGoOn; dsimp only; split <;> rfl
    · rfl
  · rw [(State.loopSnap_off _ _ _ _ _ ?_).1]
    · rw [← hw]; exact m1
    · obtain ⟨q, e1⟩ := cw s.focus.core
      rw [if_pos rfl] at e1
      rw [e1]
      unfold State.here at h
      rw [hf] at h
      rw [← h]
      unfold Core.vecGoOn; dsimp only; split <;> rfl

/-- A vector word that issues: the loop-end check, its slot and its tokens pass, no stop waits, and its body answers t. -/
theorem vecIssue_ok (s t : State) (named : Option Nat) (slot pop push np nq : Nat) (classOk : VStream → Slot → Bool) (body : VStream → Slot → VOut)
    (land : List Landing) (next : Option Nat) (hs : s.vs.atStop = 0) (he : s.vs.endsWrong named = false)
    (hr : slotReserved (s.vs.entry slot) = false) (hc : classOk s.vs (Slot.of (s.vs.entry slot)) = true)
    (ht : pop = 0 ∨ np ≤ s.here.token pop) (hb : body s.vs (Slot.of (s.vs.entry slot)) = .ok t land next) :
    vecIssue s named slot pop push np nq classOk body = .next (s.vecGoOn t pop push np nq land next) := by
  have h4 : (decide (pop ≠ 0) && decide (s.here.token pop < np)) = false := by
    rcases ht with h | h
    · simp [h]
    · simp; omega
  simp only [vecIssue, he, hr, hc, h4, hb, State.followHere, hs, if_true, Bool.false_eq_true, if_false, Bool.not_true, Bool.or_false]

/-- A vector word whose slot is reserved or of the wrong class stops the stream with 0x07 (06 R130). -/
theorem vecIssue_wrongSlot (s : State) (named : Option Nat) (slot pop push np nq : Nat) (classOk : VStream → Slot → Bool) (body : VStream → Slot → VOut)
    (he : s.vs.endsWrong named = false) (h : slotReserved (s.vs.entry slot) = true ∨ classOk s.vs (Slot.of (s.vs.entry slot)) = false) :
    vecIssue s named slot pop push np nq classOk body = .next (s.stopHere 0x07) := by
  have h1 : (slotReserved (s.vs.entry slot) || !classOk s.vs (Slot.of (s.vs.entry slot))) = true := by
    rcases h with h | h <;> simp [h]
  simp only [vecIssue, he, h1, if_true, Bool.false_eq_true, if_false]

/-- A vector word whose body stops the stream. -/
theorem vecIssue_stop (s t : State) (named : Option Nat) (slot pop push np nq : Nat) (classOk : VStream → Slot → Bool) (body : VStream → Slot → VOut)
    (cause : Nat) (he : s.vs.endsWrong named = false) (hr : slotReserved (s.vs.entry slot) = false) (hc : classOk s.vs (Slot.of (s.vs.entry slot)) = true)
    (ht : pop = 0 ∨ np ≤ s.here.token pop) (hb : body s.vs (Slot.of (s.vs.entry slot)) = .stop t cause) :
    vecIssue s named slot pop push np nq classOk body = .next (t.stopHere cause) := by
  have h4 : (decide (pop ≠ 0) && decide (s.here.token pop < np)) = false := by
    rcases ht with h | h
    · simp [h]
    · simp; omega
  simp only [vecIssue, he, hr, hc, h4, hb, Bool.false_eq_true, if_false, Bool.not_true, Bool.or_false]

/-- Landings of which one carries the word's push token leave no token of their own. -/
theorem heldToken_carried (cycle push nq : Nat) (land : List Landing) (h : land.any (fun r => decide (r.push = push)) = true) :
    heldToken cycle push nq land = land := by
  unfold heldToken
  rw [if_neg]
  intro hn
  simp only [Bool.and_eq_true, decide_eq_true_eq, List.all_eq_true] at hn
  obtain ⟨r, hr, e⟩ := List.any_eq_true.mp h
  exact hn.1.1 ((of_decide_eq_true e).symm.trans (hn.1.2 r hr))

/-! ### The value of each lane -/

theorem overLanes_value (m : Word) (f : Nat → Nat × Nat) (l : Nat) (hl : l < 64) (hm : m.getLsbD l = true) :
    (overLanes m f).1.getD l 0 = BitVec.ofNat 32 (f l).1 := by
  simp only [overLanes, List.map_map, List.getD_eq_getElem?_getD, List.getElem?_map, List.getElem?_range hl, Option.map_some, Option.getD_some,
    Function.comp, hm, if_true]

theorem overLanes_flags (m : Word) (f : Nat → Nat × Nat) :
    (overLanes m f).2 = (List.range 64).foldl (fun n l => n ||| if m.getLsbD l then (f l).2 else 0) 0 := by
  simp only [overLanes, List.foldl_map]
  congr 1
  funext n l
  split <;> rfl

end Sys2Proof.Machine
end

