-- ==== Sys2Proof/Laws/Matrix.lean ====
section
/-! SUPPORT. What the issue of a matrix word can do: the law of the state behind it, and one law for each way in which the issue ends. -/

namespace Sys2Proof.Machine

/-- What a core is after a matrix word: its own updates, and beyond them only the loop snapshot and the trace differ. -/
structure Core.MatGone (k k' : Core) (m : MStream) (now pop push count : Nat) (st : MatStep) (next : Option Nat) : Prop where
  ms : k'.ms = k.ms.goOn m now push count st next
  token : ∀ q, k'.token q = if q = pop ∧ pop ≠ 0 then k.token q - 1 else k.token q
  acc : k'.acc = k.acc
  mfst : k'.mfst = k.mfst
  evw : k'.evw = k.evw
  ctxs : k'.ctxs = k.ctxs
  job : k'.job = k.job
  vs : k'.vs = k.vs

/-- The stream goes on in its core alone; of the core it changes the tokens and itself. -/
theorem Core.matGoOn_eq (k : Core) (m : MStream) (now pop push count : Nat) (st : MatStep) (next : Option Nat) :
    k.matGoOn m now pop push count st next =
      { k with tokens := (if pop = 0 then k else k.setToken pop (k.token pop - 1)).tokens, ms := k.ms.goOn m now push count st next } := by
  unfold Core.matGoOn Core.setToken; split <;> rfl

/-- The issue of a matrix word: the acting core as `MatGone` says, no context of any core changed, and with the trace off no byte of memory. -/
theorem State.matGoOn_spec (s t : State) (pop push count : Nat) (st : MatStep) (next : Option Nat) (hf : t.focus = s.focus) :
    let u := s.matGoOn t pop push count st next
    Core.MatGone t.here u.here s.ms (s.clockNow s.focus.core) pop push count st next ∧ u.focus = s.focus ∧ (∀ c n, u.ctx c n = t.ctx c n) ∧
      (t.here.trctl.getLsbD 0 = false → u.mem = t.mem) := by
  dsimp only
  unfold State.matGoOn
  dsimp only
  generalize s.clockNow s.focus.core = now
  generalize hw : (t.modHere fun k => k.matGoOn s.ms now pop push count st next) = w
  have fw : w.focus = s.focus := by rw [← hw]; exact hf
  have cw : ∀ c, w.core c = if c = s.focus.core then (t.core c).matGoOn s.ms now pop push count st next else t.core c := by
    intro c
    rw [← hw, ← hf]
    unfold State.modHere
    by_cases h : c = t.focus.core
    · rw [h, State.core_modCore_same, if_pos rfl]
    · rw [State.core_modCore_other _ _ _ _ h, if_neg h]
  generalize 4 * loopsEnded s.ms.l0 s.ms.l1 w.ms.l0 w.ms.l1 = ended
  generalize s.ms.cycle + w.ms.lead = time
  obtain ⟨f2, c2⟩ := State.loopSnap_core w s.focus.core s.ms.cycle time ended
  have fu : (w.loopSnap s.focus.core s.ms.cycle time ended).focus = s.focus := f2.trans fw
  refine ⟨?_, fu, fun c n => ?_, fun h => ?_⟩
  · unfold State.here
    rw [fu, hf]
    obtain ⟨a, b, x, y, z, e⟩ := c2 s.focus.core
    have e1 := cw s.focus.core
    rw [if_pos rfl, Core.matGoOn_eq] at e1
    rw [e, e1]
    exact { ms := rfl, token := Core.token_popped (t.core s.focus.core) pop 1, acc := rfl, mfst := rfl, evw := rfl, ctxs := rfl, job := rfl, vs := rfl }
  · obtain ⟨a, b, x, y, z, e⟩ := c2 c
    unfold State.ctx
    rw [e, cw c]
    split
    · rw [Core.matGoOn_eq]; rfl
    · rfl
  · rw [(State.loopSnap_off _ _ _ _ _ ?_).1]
    · rw [← hw]; rfl
    · rw [cw, if_pos rfl, Core.matGoOn_eq]
      unfold State.here at h
      rw [hf] at h
      exact h

/-- The token that a word pops is there. -/
theorem popReady {s : State} {pop : Nat} (h : pop = 0 ∨ 0 < s.here.token pop) : (decide (pop ≠ 0) && decide (s.here.token pop = 0)) = false := by
  rcases h with h | h
  · simp [h]
  · simp; omega

/-- A matrix word that issues. -/
theorem matIssue_ok (s t : State) (h : MHdr) (slots : MStream → Bool) (body : MStream → MOut) (count : Nat) (st : MatStep) (next : Option Nat)
    (hs : s.ms.atStop = 0) (hl : slots s.ms = true) (ht : h.pop = 0 ∨ 0 < s.here.token h.pop) (hg : s.ms.pred h.guard = true)
    (hb : body s.ms = .ok t count st next) : matIssue s h slots body = .next (s.matGoOn t h.pop h.push count st next) := by
  simp only [matIssue, hl, popReady ht, hg, hb, State.matFollow, hs, if_true, Bool.false_eq_true, if_false, Bool.not_true]

/-- A matrix word whose guard does not hold goes on and does nothing (08 R186). -/
theorem matIssue_guarded (s : State) (h : MHdr) (slots : MStream → Bool) (body : MStream → MOut) (hs : s.ms.atStop = 0) (hl : slots s.ms = true)
    (ht : h.pop = 0 ∨ 0 < s.here.token h.pop) (hg : s.ms.pred h.guard = false) :
    matIssue s h slots body = .next (s.matGoOn s h.pop h.push 1 emptyStep none) := by
  simp only [matIssue, hl, popReady ht, hg, State.matFollow, hs, if_true, Bool.false_eq_true, if_false, Bool.not_true, Bool.not_false]

/-- A matrix word whose slots do not fit stops the stream with 0x07 (03 R48). -/
theorem matIssue_wrongSlots (s : State) (h : MHdr) (slots : MStream → Bool) (body : MStream → MOut) (hl : slots s.ms = false) :
    matIssue s h slots body = .next (s.matStop s.focus.core 0x07 s.ms.cycle true) := by
  simp only [matIssue, hl, if_true, Bool.not_false]

/-- A matrix word whose body stops the stream. -/
theorem matIssue_stop (s t : State) (h : MHdr) (slots : MStream → Bool) (body : MStream → MOut) (cause : Nat) (hl : slots s.ms = true)
    (ht : h.pop = 0 ∨ 0 < s.here.token h.pop) (hg : s.ms.pred h.guard = true) (hb : body s.ms = .stop t cause) :
    matIssue s h slots body = .next (t.matStop s.focus.core cause s.ms.cycle true) := by
  simp only [matIssue, hl, popReady ht, hg, hb, Bool.false_eq_true, if_false, Bool.not_true]

end Sys2Proof.Machine
end

