-- ==== Sys2Proof/Laws/Reverse.lean ====
section
/-! SUPPORT. What bringing the undo logs up to date can do, which every step begins with: memory stays canonical. -/

namespace Sys2Proof.Machine

theorem State.logPlace_wf {s t : State} {l : UndoLog} {off a : Nat} (hs : Memory.wf s.mem) (h : s.logPlace l off = some (a, t)) : Memory.wf t.mem := by
  simp only [State.logPlace] at h
  repeat' split at h
  all_goals cases h
  exact State.pageAccess_wf _ _ _ _ _ _ _ _ _ hs ‹_›

theorem State.logWrite_wf {l : UndoLog} (vs : List Word) : ∀ {s t : State} {off : Nat}, Memory.wf s.mem → s.logWrite l off vs = some t → Memory.wf t.mem := by
  induction vs with
  | nil => intro s t off hs h; cases h; exact hs
  | cons v vs ih =>
    intro s t off hs h
    unfold State.logWrite at h
    split at h
    · exact ih (State.writeD_wf _ _ _ (State.logPlace_wf hs (by assumption))) h
    · cases h

/-- Words written as far as the region's pages take them. -/
theorem State.logWrite_getD_wf {s : State} (hs : Memory.wf s.mem) (l : UndoLog) (off : Nat) (vs : List Word) : Memory.wf ((s.logWrite l off vs).getD s).mem := by
  cases h : s.logWrite l off vs with
  | none => exact hs
  | some t => exact State.logWrite_wf vs hs h

theorem State.logWords_wf (l : UndoLog) (ps : List (Nat × Word)) : ∀ {s : State}, Memory.wf s.mem → Memory.wf (s.logWords l ps).mem := by
  induction ps with
  | nil => exact id
  | cons p ps ih => exact fun hs => ih (State.logWrite_getD_wf hs _ _ _)

theorem State.moveRec_wf {s : State} (core ctx : Nat) (hs : Memory.wf s.mem) : Memory.wf (s.moveRec core ctx).mem := by
  simp only [State.moveRec]
  repeat' split
  all_goals try exact hs
  rename_i t h
  exact State.logWrite_wf (t := t) _ hs h

theorem State.moveOver_wf (core ctx fuel : Nat) : ∀ {s : State}, Memory.wf s.mem → Memory.wf (s.moveOver core ctx fuel).mem := by
  induction fuel with
  | zero => exact id
  | succ n ih =>
    intro s hs
    unfold State.moveOver
    split
    · exact hs
    · exact ih (State.moveRec_wf _ _ hs)

theorem State.stageWords_wf (core ctx : Nat) (vs : List Word) : ∀ {s : State} {off : Nat}, Memory.wf s.mem → Memory.wf (s.stageWords core ctx off vs).mem := by
  induction vs with
  | nil => exact id
  | cons v vs ih => exact fun hs => ih (State.writeD_wf _ _ _ hs)

theorem State.stageRec_wf {s : State} (core ctx : Nat) (l : UndoLog) (off : Nat) (r : Rec) (hs : Memory.wf s.mem) : Memory.wf (s.stageRec core ctx l off r).1.mem := by
  simp only [State.stageRec]
  repeat' split
  all_goals first
    | exact hs
    | exact State.logWrite_getD_wf hs _ _ _
    | exact State.stageWords_wf _ _ _ hs

theorem State.stageRecs_wf (core ctx : Nat) (l : UndoLog) (rs : List Rec) : ∀ {s : State} {off : Nat}, Memory.wf s.mem → Memory.wf (s.stageRecs core ctx l off rs).1.mem := by
  induction rs with
  | nil => exact id
  | cons r rs ih => exact fun hs => ih (State.stageRec_wf _ _ _ _ _ hs)

theorem State.settleLog_wf {s : State} (core ctx : Nat) (hs : Memory.wf s.mem) : Memory.wf (s.settleLog core ctx).mem := by
  simp only [State.settleLog]
  split
  · exact hs
  · exact State.stageRecs_wf _ _ _ _ (State.moveOver_wf _ _ _ (State.logWords_wf _ _ hs))

/-- Every step begins in canonical memory. -/
theorem State.settleLogs_wf {s : State} (hs : Memory.wf s.mem) : Memory.wf s.settleLogs.mem := by
  have h : ∀ (ps : List (Nat × Nat)) (u : State), Memory.wf u.mem → Memory.wf (ps.foldl (fun s p => s.settleLog p.1 p.2) u).mem := by
    intro ps
    induction ps with
    | nil => exact fun _ h => h
    | cons p ps ih => exact fun u hu => ih _ (State.settleLog_wf _ _ hu)
  exact h _ _ hs

end Sys2Proof.Machine
end

