-- ==== Sys2Proof/Tests/Slice0.lean ====
section
/-! SUPPORT. Small tests: words written out from the encoding tables of the spec, terms that stand for no record, single steps whose results are the spec's or computed by hand from its rules, and
witnesses that the statements' hypotheses can be met. -/

namespace Sys2Proof.Tests

set_option Elab.async false

open Sys2Proof Sys2Proof.Machine Sys2Proof.Spec

/-! ### Decoding: words written out from 03 R51 to R72 with the fields below -/

def g9 : Guard := { p := 9, neg := true }
def g0 : Guard := { p := 0, neg := false }
def h6 : VHdr := { guard := { p := 6, neg := true }, slot := 5, pop := 6, push := 9 }
def h0 : VHdr := { guard := g0, slot := 0, pop := 0, push := 0 }
def k13 : MHdr := { guard := 13, pop := 7, push := 11 }
def k0 : MHdr := { guard := 0, pop := 0, push := 0 }
def t8 (z : Bool) : MTile :=
  { slotA := 5, slotB := 6, slotC := 3, absorb := z, m := 300, n := 200, k := 1000, tile := 6, acc := true, offset := 123456, genA := 5, offA := -12345,
    genB := 6, offB := -54321 }
def hd (kind : Nat) : CmdHdr :=
  { kind := kind, prio := 10, det := true, nonstrict := true, pinned := true, wait := 0x12345678, signal := 0x9ABCDEF0, pred0 := { queue := 1, seq := 0x2AAAA },
    pred1 := { queue := 3, seq := 0x15555 }, pred2 := { queue := 0, seq := 0 }, release := 0xFEDCBA9876543210, dep := 0x1234, demand := 0x5678, absOperand := 3,
    absValue := 1, absResult := 2,
    succ := [{ core := 1029, queue := 2, seq := 0x2AAAA }, { core := 7, queue := 0, seq := 5 }, { core := 2047, queue := 1, seq := 0x7FFFF }],
    rs0 := { start := 1, length := 2 }, rs1 := { start := 3, length := 4 }, rs2 := { start := 5, length := 6 }, rs3 := { start := 7, length := 8 },
    ws0 := { start := 9, length := 10 }, ws1 := { start := 65535, length := 1 }, slack := 64 }
def od (d8 : Nat) : CmdOps := { d7 := 0x1111111111111111, d8 := d8, d9 := 0x3333, d10 := 0x4444, d11 := 0x5555 }

theorem test_decode_control0 :
    decodeControl 0x0238FA60 = .ok (.add 3 17 30 g9) ∧
    decodeControl 0x0438FA60 = .ok (.sub 3 17 30 g9) ∧
    decodeControl 0x0638FA60 = .ok (.and 3 17 30 g9) ∧
    decodeControl 0x0838FA60 = .ok (.or 3 17 30 g9) ∧
    decodeControl 0x0A38FA60 = .ok (.xor 3 17 30 g9) ∧
    decodeControl 0x0C38FA60 = .ok (.sll 3 17 30 g9) ∧
    decodeControl 0x0E38FA60 = .ok (.srl 3 17 30 g9) ∧
    decodeControl 0x1038FA60 = .ok (.sra 3 17 30 g9) ∧
    decodeControl 0x1238FA60 = .ok (.mul 3 17 30 g9) ∧
    decodeControl 0x1438FA60 = .ok (.mulh 3 17 30 g9) ∧
    decodeControl 0x1638FA60 = .ok (.div 3 17 30 g9) ∧
    decodeControl 0x1838FA60 = .ok (.divu 3 17 30 g9) ∧
    decodeControl 0x1A38FA60 = .ok (.rem 3 17 30 g9) ∧
    decodeControl 0x1C38FA60 = .ok (.min 3 17 30 g9) ∧
    decodeControl 0x1E38FA60 = .ok (.max 3 17 30 g9) ∧
    decodeControl 0x2038FABC = .ok (.addi 3 17 0x7ABC) ∧
    decodeControl 0x2238FABC = .ok (.andi 3 17 0x7ABC) ∧
    decodeControl 0x2438FABC = .ok (.ori 3 17 0x7ABC) ∧
    decodeControl 0x2638FABC = .ok (.xori 3 17 0x7ABC) ∧
    decodeControl 0x2838802D = .ok (.slli 3 17 45) ∧
    decodeControl 0x2A38802D = .ok (.srli 3 17 45) ∧
    decodeControl 0x2C38802D = .ok (.srai 3 17 45) := by decide +kernel

theorem test_decode_control1 :
    decodeControl 0x2E307ABC = .ok (.lui 3 0x7ABC) ∧
    decodeControl 0x30B8FA60 = .ok (.ceq 11 17 30 g9) ∧
    decodeControl 0x32B8FA60 = .ok (.cne 11 17 30 g9) ∧
    decodeControl 0x34B8FA60 = .ok (.clt 11 17 30 g9) ∧
    decodeControl 0x36B8FA60 = .ok (.cltu 11 17 30 g9) ∧
    decodeControl 0x38B8FA60 = .ok (.cge 11 17 30 g9) ∧
    decodeControl 0x3AB8FA60 = .ok (.cgeu 11 17 30 g9) ∧
    decodeControl 0x3CB8FABC = .ok (.ceqi 11 17 0x7ABC) ∧
    decodeControl 0x3EB8FABC = .ok (.clti 11 17 0x7ABC) ∧
    decodeControl 0x40B33662 = .ok (.pand 11 6 13 true false g9) ∧
    decodeControl 0x42B33662 = .ok (.por 11 6 13 true false g9) ∧
    decodeControl 0x453FEDCB = .ok (.b g9 0xFEDCB) ∧
    decodeControl 0x47FEDCBA = .ok (.j 0x1FEDCBA) ∧
    decodeControl 0x49FEDCBA = .ok (.jal 0x1FEDCBA) ∧
    decodeControl 0x4A088260 = .ok (.jr 17 g9) ∧
    decodeControl 0x4C388260 = .ok (.jalr 3 17 g9) ∧
    decodeControl 0x4E38DABC = .ok (.ld 3 17 2 0x1ABC) ∧
    decodeControl 0x5038DABC = .ok (.st 3 17 2 0x1ABC) ∧
    decodeControl 0x5238DABC = .ok (.lda 3 17 2 0x1ABC) ∧
    decodeControl 0x5438DABC = .ok (.stl 3 17 2 0x1ABC) ∧
    decodeControl 0x5638DABC = .ok (.lds 3 17 2 0x1ABC) ∧
    decodeControl 0x5838DABC = .ok (.sts 3 17 2 0x1ABC) := by decide +kernel

theorem test_decode_control2 :
    decodeControl 0x5A38FA74 = .ok (.amoadd 3 17 30 true 4 g9) ∧
    decodeControl 0x5C38FA74 = .ok (.amoand 3 17 30 true 4 g9) ∧
    decodeControl 0x5E38FA74 = .ok (.amoor 3 17 30 true 4 g9) ∧
    decodeControl 0x6038FA74 = .ok (.amomax 3 17 30 true 4 g9) ∧
    decodeControl 0x6238FA74 = .ok (.amoswp 3 17 30 true 4 g9) ∧
    decodeControl 0x6438FA74 = .ok (.amocas 3 17 30 true 4 g9) ∧
    decodeControl 0x66000263 = .ok (.fence 3 g9) ∧
    decodeControl 0x68088263 = .ok (.acq 17 3 g9) ∧
    decodeControl 0x6A088263 = .ok (.rel 17 3 g9) ∧
    decodeControl 0x6C38FA60 = .ok (.bind 3 17 30 g9) ∧
    decodeControl 0x6FB1F800 = .ok (.cset 13 2 3 30) ∧
    decodeControl 0x71BB7ABC = .ok (.cseti 13 3 6 0x7ABC) ∧
    decodeControl 0x7280000B = .ok (.cclr 4 11) ∧
    decodeControl 0x74300262 = .ok (.push 3 2 g9) ∧
    decodeControl 0x7638FA60 = .ok (.rpush 3 17 30 g9) ∧
    decodeControl 0x78300263 = .ok (.fpop 3 3 g9) ∧
    decodeControl 0x7A330260 = .ok (.zpop 3 6 g9) ∧
    decodeControl 0x7C607A60 = .ok (.zpush 6 30 g9) ∧
    decodeControl 0x7E388261 = .ok (.gjoin 3 17 true g9) ∧
    decodeControl 0x80088260 = .ok (.gleave 17 g9) ∧
    decodeControl 0x82388260 = .ok (.barr 3 17 g9) ∧
    decodeControl 0x8408FA60 = .ok (.sig 17 30 g9) := by decide +kernel

theorem test_decode_control3 :
    decodeControl 0x8638FA60 = .ok (.waits 3 17 30 g9) ∧
    decodeControl 0x883000A5 = .ok (.tmark 3 0xA5) ∧
    decodeControl 0x8A300984 = .ok (.csrr 3 0x984) ∧
    decodeControl 0x8A300291 = .ok (.tkvx 3) ∧
    decodeControl 0x8A300292 = .ok (.tkmx 3) ∧
    decodeControl 0x8A30098D = .ok (.tsqPop 3) ∧
    decodeControl 0x8C088982 = .ok (.csrw 17 0x982) ∧
    decodeControl 0x8C088290 = .ok (.tkpush 17) ∧
    decodeControl 0x8C08880A = .ok (.tcmpWrite 17) ∧
    decodeControl 0x8C08898E = .ok (.tsdone 17) ∧
    decodeControl 0x8C088933 = .ok (.tinv 17) ∧
    decodeControl 0x8C088263 = .ok (.cmclr 17) ∧
    decodeControl 0x8C088977 = .ok (.wrctlWrite 17) ∧
    decodeControl 0x8C088981 = .ok (.hctlWrite 17) ∧
    decodeControl 0x8C088985 = .ok (.hrepWrite 17) ∧
    decodeControl 0x8C08898B = .ok (.hwdtWrite 17) ∧
    decodeControl 0x8E007ABC = .ok (.trap 0x7ABC) ∧
    decodeControl 0x90000000 = .ok (.rfe) := by decide +kernel

theorem test_decode_vector0 :
    decodeVector 0x016D690976291C940CAABCDE = .ok (.vaddF h6 (.grid .row 37 (-3) true 41) (.grid .column 50 5 false 12) (.imm 0x2ABCDE)) ∧
    decodeVector 0x026D6909762944C0001C940C = .ok (.vsubF h6 (.grid .row 37 (-3) true 41) (.scalar 19) (.grid .column 50 5 false 12)) ∧
    decodeVector 0x036D690976291C940CAABCDE = .ok (.vmulF h6 (.grid .row 37 (-3) true 41) (.grid .column 50 5 false 12) (.imm 0x2ABCDE)) ∧
    decodeVector 0x046D6909762944C0001C940C = .ok (.vfmaF h6 (.grid .row 37 (-3) true 41) (.scalar 19) (.grid .column 50 5 false 12)) ∧
    decodeVector 0x056D690976291C940CAABCDE = .ok (.vminF h6 (.grid .row 37 (-3) true 41) (.grid .column 50 5 false 12) (.imm 0x2ABCDE)) ∧
    decodeVector 0x066D6909762944C0001C940C = .ok (.vmaxF h6 (.grid .row 37 (-3) true 41) (.scalar 19) (.grid .column 50 5 false 12)) ∧
    decodeVector 0x076D690976291C940CAABCDE = .ok (.vdivF h6 (.grid .row 37 (-3) true 41) (.grid .column 50 5 false 12) (.imm 0x2ABCDE)) ∧
    decodeVector 0x0B6D690976291C940CAABCDE = .ok (.vaddI h6 (.grid .row 37 (-3) true 41) (.grid .column 50 5 false 12) (.imm 0x2ABCDE)) ∧
    decodeVector 0x0C6D6909762944C0001C940C = .ok (.vsubI h6 (.grid .row 37 (-3) true 41) (.scalar 19) (.grid .column 50 5 false 12)) ∧
    decodeVector 0x0D6D690976291C940CAABCDE = .ok (.vmulI h6 (.grid .row 37 (-3) true 41) (.grid .column 50 5 false 12) (.imm 0x2ABCDE)) ∧
    decodeVector 0x0E6D6909762944C0001C940C = .ok (.vmacI h6 (.grid .row 37 (-3) true 41) (.scalar 19) (.grid .column 50 5 false 12)) ∧
    decodeVector 0x0F6D690976291C940CAABCDE = .ok (.vand h6 (.grid .row 37 (-3) true 41) (.grid .column 50 5 false 12) (.imm 0x2ABCDE)) ∧
    decodeVector 0x106D6909762944C0001C940C = .ok (.vor h6 (.grid .row 37 (-3) true 41) (.scalar 19) (.grid .column 50 5 false 12)) ∧
    decodeVector 0x116D690976291C940CAABCDE = .ok (.vxor h6 (.grid .row 37 (-3) true 41) (.grid .column 50 5 false 12) (.imm 0x2ABCDE)) ∧
    decodeVector 0x126D6909762944C0001C940C = .ok (.vshl h6 (.grid .row 37 (-3) true 41) (.scalar 19) (.grid .column 50 5 false 12)) ∧
    decodeVector 0x136D690976291C940CAABCDE = .ok (.vshr h6 (.grid .row 37 (-3) true 41) (.grid .column 50 5 false 12) (.imm 0x2ABCDE)) ∧
    decodeVector 0x146D6909762944C0001C940C = .ok (.vsra h6 (.grid .row 37 (-3) true 41) (.scalar 19) (.grid .column 50 5 false 12)) ∧
    decodeVector 0x156D690976291C940CAABCDE = .ok (.vminI h6 (.grid .row 37 (-3) true 41) (.grid .column 50 5 false 12) (.imm 0x2ABCDE)) ∧
    decodeVector 0x166D6909762944C0001C940C = .ok (.vmaxI h6 (.grid .row 37 (-3) true 41) (.scalar 19) (.grid .column 50 5 false 12)) ∧
    decodeVector 0x196D690976291C940CAABCDE = .ok (.vsel h6 (.grid .row 37 (-3) true 41) (.grid .column 50 5 false 12) (.imm 0x2ABCDE)) := by decide +kernel

theorem test_decode_vector1 :
    decodeVector 0x256D690976291C940CAABCDE = .ok (.vclmp h6 (.grid .row 37 (-3) true 41) (.grid .column 50 5 false 12) (.imm 0x2ABCDE)) ∧
    decodeVector 0x086D690976291C940C000000 = .ok (.vsqrtF h6 (.grid .row 37 (-3) true 41) (.grid .column 50 5 false 12)) ∧
    decodeVector 0x096D690976291C940C000000 = .ok (.vabsF h6 (.grid .row 37 (-3) true 41) (.grid .column 50 5 false 12)) ∧
    decodeVector 0x0A6D690976291C940C000000 = .ok (.vnegF h6 (.grid .row 37 (-3) true 41) (.grid .column 50 5 false 12)) ∧
    decodeVector 0x246D690976291C940C000000 = .ok (.vmovg h6 (.grid .row 37 (-3) true 41) (.grid .column 50 5 false 12)) ∧
    decodeVector 0x176D690518001C940C44C000 = .ok (.vcmpF h6 5 6 (.grid .column 50 5 false 12) (.scalar 19)) ∧
    decodeVector 0x186D690518001C940C44C000 = .ok (.vcmpI h6 5 6 (.grid .column 50 5 false 12) (.scalar 19)) ∧
    decodeVector 0x1A6D690976291C940C800006 = .ok (.vcvt h6 (.grid .row 37 (-3) true 41) (.grid .column 50 5 false 12) 6) ∧
    decodeVector 0x1B6D690976291C940C800006 = .ok (.vpack h6 (.grid .row 37 (-3) true 41) (.grid .column 50 5 false 12) 6) ∧
    decodeVector 0x1C6D690976291C940C800006 = .ok (.vunpk h6 (.grid .row 37 (-3) true 41) (.grid .column 50 5 false 12) 6) ∧
    decodeVector 0x1D6D6909762944C0001C940C = .ok (.vcmul h6 (.grid .row 37 (-3) true 41) (.scalar 19) (.grid .column 50 5 false 12)) ∧
    decodeVector 0x1E6D6909762944C0001C940C = .ok (.vcfma h6 (.grid .row 37 (-3) true 41) (.scalar 19) (.grid .column 50 5 false 12)) ∧
    decodeVector 0x1F6D6909762944C0001C940C = .ok (.vtwid h6 (.grid .row 37 (-3) true 41) (.scalar 19) (.grid .column 50 5 false 12)) ∧
    decodeVector 0x206D694540001C940C000000 = .ok (.vreds h6 21 (.grid .column 50 5 false 12)) ∧
    decodeVector 0x216D694540001C940C800003 = .ok (.vredm h6 21 (.grid .column 50 5 false 12) 3) ∧
    decodeVector 0x226D690976291C940C44C000 = .ok (.vperm h6 (.grid .row 37 (-3) true 41) (.grid .column 50 5 false 12) (.scalar 19)) ∧
    decodeVector 0x236D690976291C940C80003F = .ok (.vbcst h6 (.grid .row 37 (-3) true 41) (.grid .column 50 5 false 12) (.imm 63)) ∧
    decodeVector 0x266D694540001C940C000000 = .ok (.vpopc h6 21 (.grid .column 50 5 false 12)) ∧
    decodeVector 0x276D690244021C940C097629 = .ok (.vtopk h6 (.grid .row 9 1 false 2) (.grid .column 50 5 false 12) (.grid .row 37 (-3) true 41)) ∧
    decodeVector 0x286D6905000002440244C000 = .ok (.vnms h6 5 (.grid .row 9 1 false 2) (.scalar 19)) := by decide +kernel

theorem test_decode_vector2 :
    decodeVector 0x296D690976291C940C44C000 = .ok (.vboxd h6 (.grid .row 37 (-3) true 41) (.grid .column 50 5 false 12) (.scalar 19)) ∧
    decodeVector 0x2A6D69097629024402097629 = .ok (.vdwc h6 (.grid .row 37 (-3) true 41) (.grid .row 9 1 false 2) (.grid .row 37 (-3) true 41)) ∧
    decodeVector 0x2B6D6909762944C0001C940C = .ok (.vlut h6 (.grid .row 37 (-3) true 41) (.scalar 19) (.grid .column 50 5 false 12)) ∧
    decodeVector 0x2C6D69097629F5A5F4000000 = .ok (.vld h6 (.grid .row 37 (-3) true 41) (.scratch 3 22 (-7) 500)) ∧
    decodeVector 0x2D6D69F5A5F41C940C000000 = .ok (.vst h6 (.scratch 3 22 (-7) 500) (.grid .column 50 5 false 12)) ∧
    decodeVector 0x2E6D69097629C5A5F41C940C = .ok (.vgath h6 (.grid .row 37 (-3) true 41) (.scratch 0 22 (-7) 500) (.grid .column 50 5 false 12)) ∧
    decodeVector 0x2F6D69C5A5F41C940C097629 = .ok (.vscat h6 (.scratch 0 22 (-7) 500) (.grid .column 50 5 false 12) (.grid .row 37 (-3) true 41)) ∧
    decodeVector 0x306D69097629DE240C000000 = .ok (.vacld h6 (.grid .row 37 (-3) true 41) { tile := 6, offset := 123456, stride := -4 }) ∧
    decodeVector 0x316D69DE240C000000000000 = .ok (.vacz h6 { tile := 6, offset := 123456, stride := -4 }) ∧
    decodeVector 0x326D6945400044C000408000 = .ok (.vsadd h6 21 19 2) ∧
    decodeVector 0x336D6945400044C000BFFFFF = .ok (.vsaddi h6 21 19 0x3FFFFF) ∧
    decodeVector 0x346D694540001C940C000000 = .ok (.vsmov h6 21 (.grid .column 50 5 false 12)) ∧
    decodeVector 0x35056903000544C00000FEDC = .ok (.vloop 5 6 9 1 true 5 (.scalar 19) 0xFEDC) ∧
    decodeVector 0x360569020000000000000000 = .ok (.vlbr 5 6 9 1) ∧
    decodeVector 0x376D6902000000000000FEDC = .ok (.vbr 5 6 9 { p := 6, neg := true } true 0xFEDC) ∧
    decodeVector 0x38056900000000000000FEDC = .ok (.vj 5 6 9 0xFEDC) ∧
    decodeVector 0x396D6900000080000D800007 = .ok (.vtok h6 13 7) ∧
    decodeVector 0x3A056900001B000000000000 = .ok (.vrdv 5 6 9 27) ∧
    decodeVector 0x3B056904000B000000000000 = .ok (.vfmtSelect 5 6 9 .l1 11) ∧
    decodeVector 0x3B056908000B44C000000000 = .ok (.vfmtLoad 5 6 9 11 19) := by decide +kernel

theorem test_decode_vector3 :
    decodeVector 0x3C6D690000001C940CAABCDE = .ok (.vkac h6 (.grid .column 50 5 false 12) 0x2ABCDE) ∧
    decodeVector 0x3D0569000000AABCDE000000 = .ok (.vwait 5 6 9 (.imm 0x2ABCDE)) ∧
    decodeVector 0x3E056900000044C000000000 = .ok (.vsig 5 6 9 (.scalar 19)) ∧
    decodeVector 0x3F0569000000000000000000 = .ok (.vstop 5 6 9) ∧
    decodeVector 0x406D69000000000000000000 = .ok (.vnop h6) := by decide +kernel

theorem test_decode_matrix0 :
    decodeMatrix 0x017BB9AD95E3FCFBE240AFFFFCFC700000CFFFF2BCF00000 = .ok (.mma k13 (t8 true)) ∧
    decodeMatrix 0x027BB9ED95E3FCFBE240AFFFFCFC700000CFFFF2BCF00000 = .ok (.mmaS k13 (t8 true)) ∧
    decodeMatrix 0x037BB9BD95E3FCFBE240BFFFFCFC700000CFFFF2BCF00000 = .ok (.mmaG k13 (t8 true)) ∧
    decodeMatrix 0x047BB9AD95E3FCFBE240AFFFFCFC700000CFFFF2BCF00000 = .ok (.mmaT k13 (t8 true)) ∧
    decodeMatrix 0x057BB98D95E3FCFBE240AFFFFCFC700000CFFFF2BCF00000 = .ok (.mwin k13 (t8 false)) ∧
    decodeMatrix 0x067BB98D95E3FCFBE240AFFFFCFC700000CFFFF2BCF00000 = .ok (.mconv k13 (t8 false)) ∧
    decodeMatrix 0x077B018D95E38019E2400000000000000000000000000000 = .ok (.mzero k13 3 300 200 6 123456) ∧
    decodeMatrix 0x087B000D958000000000AFFFFCFC70000000000000000000 = .ok (.mldi k13 5 (-12345) 300) ∧
    decodeMatrix 0x097B000D000000000000000000000000007ABCDE0000FEDC = .ok (.mloop k13 1 0x3ABCDE 0xFEDC) ∧
    decodeMatrix 0x0A7B000D0000000000000000000000000040000000000000 = .ok (.mlbr k13 1) ∧
    decodeMatrix 0x0B7B000D000000000000000000000000009800000000FEDC = .ok (.mbr k13 9 true 0xFEDC) ∧
    decodeMatrix 0x0C7B000D000000000000000000000000000000000000FEDC = .ok (.mj k13 0xFEDC) ∧
    decodeMatrix 0x0D7B000D0000000000000000000000000000000000000000 = .ok (.mtok k13) ∧
    decodeMatrix 0x0E7B000D0000000000000000000000000000000000000000 = .ok (.mrdv k13) ∧
    decodeMatrix 0x0F7B000D0000000000000000000000000000000000000000 = .ok (.mstop k13) ∧
    decodeMatrix 0x107B000D00000000000000000000000000AC000000000000 = .ok (.mfmt k13 .l1 11) ∧
    decodeMatrix 0x117BB98D95E3FCE00000AFFFFCFC700000DEADBEEF000000 = .ok (.mkat k13 5 6 3 300 200 1000 5 (-12345) 0xDEADBEEF) ∧
    decodeMatrix 0x127B000D00000000000000000000000000000000DEADBEEF = .ok (.msig k13 0xDEADBEEF) := by decide +kernel

theorem test_decode_command0 :
    decodeCommand 0x0000000000000040FFFF00010009000A000700080005000600030004000100020000000000005555000000000000444400000000000033330000000000002222111111111111111100000000FFEFFFFF00E0000580B2AAAA000003D256781234FEDCBA98765432100000032AAAAAAAAA9ABCDEF012345678000000000007A301 = .ok (.kCopy (hd 3) (od 0x2222)) ∧
    decodeCommand 0x0000000000000040FFFF00010009000A000700080005000600030004000100020000000000005555000000000000444400000000000033330000000000002222111111111111111100000000FFEFFFFF00E0000580B2AAAA000003D256781234FEDCBA98765432100000032AAAAAAAAA9ABCDEF012345678000000000007A302 = .ok (.kGather (hd 3) (od 0x2222)) ∧
    decodeCommand 0x0000000000000040FFFF00010009000A000700080005000600030004000100020000000000005555000000000000444400000000000033330000000000002222111111111111111100000000FFEFFFFF00E0000580B2AAAA000003D256781234FEDCBA98765432100000032AAAAAAAAA9ABCDEF012345678000000000007A303 = .ok (.kScatter (hd 3) (od 0x2222)) ∧
    decodeCommand 0x0000000000000040FFFF00010009000A000700080005000600030004000100020000000000005555000000000000444400000000000033330000000000002222111111111111111100000000FFEFFFFF00E0000580B2AAAA000003D256781234FEDCBA98765432100000032AAAAAAAAA9ABCDEF012345678000000000007A304 = .ok (.kFill (hd 3) (od 0x2222)) ∧
    decodeCommand 0x0000000000000040FFFF00010009000A000700080005000600030004000100020000000000005555000000000000444400000000000033330000000000002222111111111111111100000000FFEFFFFF00E0000580B2AAAA000003D256781234FEDCBA98765432100000032AAAAAAAAA9ABCDEF012345678000000000007A305 = .ok (.kFeed (hd 3) (od 0x2222)) ∧
    decodeCommand 0x0000000000000040FFFF00010009000A000700080005000600030004000100020000000000005555000000000000444400000000000033330000000000002222111111111111111100000000FFEFFFFF00E0000580B2AAAA000003D256781234FEDCBA98765432100000032AAAAAAAAA9ABCDEF012345678000000000007A206 = .ok (.kJob (hd 2) (od 0x2222)) ∧
    decodeCommand 0x0000000000000040FFFF00010009000A000700080005000600030004000100020000000000005555000000000000444400000000000033330000000000002222111111111111111100000000FFEFFFFF00E0000580B2AAAA000003D256781234FEDCBA98765432100000032AAAAAAAAA9ABCDEF012345678000000000007A107 = .ok (.kNest (hd 1) (od 0x2222)) ∧
    decodeCommand 0x0000000000000040FFFF00010009000A000700080005000600030004000100020000000000005555000000000000444400000000000033330000000000002222111111111111111100000000FFEFFFFF00E0000580B2AAAA000003D256781234FEDCBA98765432100000032AAAAAAAAA9ABCDEF012345678000000000007A408 = .ok (.kOft (hd 4) (od 0x2222)) ∧
    decodeCommand 0x0000000000000040FFFF00010009000A000700080005000600030004000100020000000000005555000000000000444400000000000033330000000000002222111111111111111100000000FFEFFFFF00E0000580B2AAAA000003D256781234FEDCBA98765432100000032AAAAAAAAA9ABCDEF012345678000000000007A409 = .ok (.kOmask (hd 4) (od 0x2222)) ∧
    decodeCommand 0x0000000000000040FFFF00010009000A000700080005000600030004000100020000000000005555000000000000444400000000000033330000000000002222111111111111111100000000FFEFFFFF00E0000580B2AAAA000003D256781234FEDCBA98765432100000032AAAAAAAAA9ABCDEF012345678000000000007A50B = .ok (.kAllred (hd 5) (od 0x2222)) ∧
    decodeCommand 0x0000000000000040FFFF00010009000A000700080005000600030004000100020000000000005555000000000000444400000000000033330000000000002222111111111111111100000000FFEFFFFF00E0000580B2AAAA000003D256781234FEDCBA98765432100000032AAAAAAAAA9ABCDEF012345678000000000007A50C = .ok (.kAllgath (hd 5) (od 0x2222)) ∧
    decodeCommand 0x0000000000000040FFFF00010009000A000700080005000600030004000100020000000000005555000000000000444400000000000033330000000000002222111111111111111100000000FFEFFFFF00E0000580B2AAAA000003D256781234FEDCBA98765432100000032AAAAAAAAA9ABCDEF012345678000000000007A50D = .ok (.kRedscat (hd 5) (od 0x2222)) := by decide +kernel

theorem test_decode_command1 :
    decodeCommand 0x0000000000000040FFFF00010009000A000700080005000600030004000100020000000000005555000000000000444400000000000033330000000000002222111111111111111100000000FFEFFFFF00E0000580B2AAAA000003D256781234FEDCBA98765432100000032AAAAAAAAA9ABCDEF012345678000000000007A50E = .ok (.kBcast (hd 5) (od 0x2222)) ∧
    decodeCommand 0x0000000000000040FFFF00010009000A000700080005000600030004000100020000000000005555000000000000444400000000000033330000000000002222111111111111111100000000FFEFFFFF00E0000580B2AAAA000003D256781234FEDCBA98765432100000032AAAAAAAAA9ABCDEF012345678000000000007A50F = .ok (.kAlltoall (hd 5) (od 0x2222)) ∧
    decodeCommand 0x0000000000000040FFFF00010009000A000700080005000600030004000100020000000000005555000000000000444400000000000033330000000000002222111111111111111100000000FFEFFFFF00E0000580B2AAAA000003D256781234FEDCBA98765432100000032AAAAAAAAA9ABCDEF012345678000000000007A510 = .ok (.kTopkm (hd 5) (od 0x2222)) ∧
    decodeCommand 0x0000000000000040FFFF00010009000A000700080005000600030004000100020000000000005555000000000000444400000000000033330000000000002222111111111111111100000000FFEFFFFF00E0000580B2AAAA000003D256781234FEDCBA98765432100000032AAAAAAAAA9ABCDEF012345678000000000007A311 = .ok (.kMigr (hd 3) (od 0x2222)) ∧
    decodeCommand 0x0000000000000040FFFF00010009000A000700080005000600030004000100020000000000005555000000000000444400000000000033330000000000002222111111111111111100000000FFEFFFFF00E0000580B2AAAA000003D256781234FEDCBA98765432100000032AAAAAAAAA9ABCDEF012345678000000000007A312 = .ok (.kDiscard (hd 3) (od 0x2222)) ∧
    decodeCommand 0x0000000000000040FFFF00010009000A000700080005000600030004000100020000000000005555000000000000444400000000000033330000000000002222111111111111111100000000FFEFFFFF00E0000580B2AAAA000003D256781234FEDCBA98765432100000032AAAAAAAAA9ABCDEF012345678000000000007A313 = .ok (.kKernel (hd 3) (od 0x2222)) ∧
    decodeCommand 0x0000000000000040FFFF00010009000A000700080005000600030004000100020000000000005555000000000000444400000000000033330000000000002222111111111111111100000000FFEFFFFF00E0000580B2AAAA000003D256781234FEDCBA98765432100000032AAAAAAAAA9ABCDEF012345678000000000007A214 = .ok (.kEvent (hd 2) (od 0x2222)) ∧
    decodeCommand 0x0000000000000040FFFF00010009000A000700080005000600030004000100020000000000005555000000000000444400000000000033330000000000002222111111111111111100000000FFEFFFFF00E0000580B2AAAA000003D256781234FEDCBA98765432100000032AAAAAAAAA9ABCDEF012345678000000000007A515 = .ok (.kNop (hd 5) (od 0x2222)) ∧
    decodeCommand 0x0000000000000040FFFF00010009000A000700080005000600030004000100020000000000005555000000000000444400000000000033330000000000002222111111111111111100000000FFEFFFFF00E0000580B2AAAA000003D256781234FEDCBA98765432100000032AAAAAAAAA9ABCDEF012345678000000000007A316 = .ok (.kPrefetch (hd 3) (od 0x2222)) ∧
    decodeCommand 0x0000000000000040FFFF00010009000A000700080005000600030004000100020000000000005555000000000000444400000000000033330000000000002220111111111111111100000000FFEFFFFF00E0000580B2AAAA000003D256781234FEDCBA98765432100000032AAAAAAAAA9ABCDEF012345678000000000007A40A = .ok (.kOcalRun (hd 4) (od 0x2220)) ∧
    decodeCommand 0x0000000000000040FFFF00010009000A000700080005000600030004000100020000000000005555000000000000444400000000000033330000000000002221111111111111111100000000FFEFFFFF00E0000580B2AAAA000003D256781234FEDCBA98765432100000032AAAAAAAAA9ABCDEF012345678000000000007A40A = .ok (.kOcalWrite (hd 4) (od 0x2221)) ∧
    decodeCommand 0x0000000000000040FFFF00010009000A000700080005000600030004000100020000000000005555000000000000444400000000000033330000000000002222111111111111111100000000FFEFFFFF00E0000580B2AAAA000003D256781234FEDCBA98765432100000032AAAAAAAAA9ABCDEF012345678000000000007A40A = .ok (.kOcalRead (hd 4) (od 0x2222)) := by decide +kernel

/-- The worked words of 03, 05, 06, 07, 08, 13, 19 and 20. -/
theorem test_decode_worked_control :
    decodeControl 0x2051FFFE = .ok (.addi 5 3 0x7FFE) ∧ decodeControl 0x02410CA0 = .ok (.add 4 2 3 { p := 2, neg := true }) ∧
    decodeControl 0x3C250000 = .ok (.ceqi 2 10 0) ∧ decodeControl 0x4A0F8000 = .ok (.jr 31 g0) ∧ decodeControl 0x78800001 = .ok (.fpop 8 1 g0) ∧
    decodeControl 0x90000000 = .ok .rfe := by decide +kernel

theorem test_decode_worked_vector :
    decodeVector 0x2C00000B0000C00100000000 = .ok (.vld h0 (.grid .row 44 0 false 0) (.scratch 0 0 0 256)) ∧
    decodeVector 0x0B020013000010C000410000 = .ok (.vaddI { h0 with slot := 2 } (.grid .column 12 0 false 0) (.grid .column 3 0 false 0) (.scalar 4)) ∧
    decodeVector 0x350000010002404000000004 = .ok (.vloop 0 0 0 0 true 2 (.scalar 1) 4) ∧
    decodeVector 0x360000000000000000000000 = .ok (.vlbr 0 0 0 0) ∧ decodeVector 0x3F0000000000000000000000 = .ok (.vstop 0 0 0) := by decide +kernel

theorem test_decode_worked_matrix :
    decodeMatrix 0x010024007FBFFFE000000000000000000020000000000000 =
      .ok (.mma k0 { slotA := 1, slotB := 1, slotC := 0, absorb := false, m := 256, n := 128, k := 1024, tile := 0, acc := false, offset := 0, genA := 0, offA := 0, genB := 1, offB := 0 }) ∧
    decodeMatrix 0x090000000000000000000000000000000000001000000003 = .ok (.mloop k0 0 16 3) := by decide +kernel

/-! ### What stands for no record (03 R47, R51 to R72) -/

theorem test_illformed_control :
    ([.add 32 0 0 g0, .add 0 32 0 g0, .add 0 0 32 g0, .add 0 0 0 { p := 16, neg := false }, .addi 0 0 0x8000, .slli 0 0 64, .ceq 16 0 0 g0, .pand 0 16 0 false false g0,
      .b g0 0x100000, .j 0x2000000, .ld 0 0 4 0, .ld 0 0 0 0x2000, .amoadd 0 0 0 false 5 g0, .fence 5 g0, .cset 16 0 0 0, .cset 0 4 0 0, .cset 0 1 2 0,
      .cclr 5 4, .push 0 3 g0, .fpop 0 4 g0, .zpop 0 8 g0, .zpush 8 0 g0, .tmark 0 256, .csrr 0 4096, .csrr 0 0x291, .csrw 0 0x290, .trap 0x8000] : List Instr).all
      (fun i => !wellFormed i) = true := by decide +kernel

theorem test_illformed_vector :
    let d : VOp := .grid .row 0 0 false 0
    ([.vaddF { h0 with slot := 8 } d d d, .vaddF { h0 with pop := 2 } d d d, .vaddF { h0 with push := 1 } d d d, .vaddF h0 (.grid .column 0 0 true 0) d d,
      .vaddF h0 (.grid .row 64 0 false 0) d d, .vaddF h0 (.grid .row 0 8 false 0) d d, .vaddF h0 (.grid .row 0 (-9) false 0) d d, .vaddF h0 (.grid .row 0 0 false 64) d d,
      .vaddF h0 (.scalar 0) d d, .vaddF h0 d (.scratch 0 0 0 0) d, .vaddF h0 d d (.imm 0x400000), .vaddF h0 d (.scalar 32) d, .vcmpF h0 8 0 d d, .vcmpF h0 0 7 d d,
      .vcvt h0 d d 8, .vcvt h0 d (.imm 0) 0, .vredm h0 0 d 4, .vperm h0 d (.scalar 0) d, .vbcst h0 d d d, .vtopk h0 (.grid .row 0 0 true 0) d d, .vnms h0 0 d d,
      .vdwc h0 d (.grid .column 0 0 false 0) d, .vld h0 d d, .vld h0 d (.scratch 0 0 0 512), .vst h0 (.scratch 0 0 0 0) (.imm 0), .vgath h0 d (.scratch 1 0 0 0) d,
      .vacz h0 { tile := 8, offset := 0, stride := 0 }, .vacz h0 { tile := 0, offset := 131072, stride := 0 }, .vsadd h0 32 0 0, .vloop 0 0 0 0 false 1 (.imm 1) 1,
      .vloop 0 0 0 0 false 0 (.imm 1) 0, .vloop 0 0 0 0 false 0 (.imm 0x200000) 1, .vloop 0 0 0 2 false 0 (.imm 1) 1, .vbr 0 0 0 g0 false 0x10000,
      .vtok h0 1 0, .vtok { h0 with pop := 6 } 0 0, .vtok h0 16 0, .vrdv 0 0 0 32, .vfmtSelect 0 0 0 .none 16, .vfmtLoad 0 0 0 16 0, .vkac h0 (.scalar 0) 0] : List Instr).all
      (fun i => !wellFormed i) = true := by decide +kernel

theorem test_illformed_matrix_command :
    ([.mma { k0 with guard := 16 } (t8 false), .mma { k0 with pop := 6 } (t8 false), .mma k0 { t8 false with m := 0 }, .mma k0 { t8 false with m := 513 },
      .mma k0 { t8 false with n := 257 }, .mma k0 { t8 false with k := 1025 }, .mma k0 { t8 false with offset := 131072 }, .mma k0 { t8 false with offA := 2 ^ 31 },
      .mma k0 { t8 false with slotA := 8 }, .mma k0 { t8 false with genB := 8 }, .mwin k0 (t8 true), .mzero k0 8 1 1 0 0, .mldi k0 0 0 513, .mloop k0 2 0 1,
      .mloop k0 0 0 0, .mlbr k0 2, .mbr k0 16 false 0, .mj k0 0x10000, .mfmt k0 .none 16, .mkat k0 0 0 0 1 1 1 0 0 (2 ^ 32), .msig k0 (2 ^ 32),
      .kCopy (hd 2) (od 0), .kCopy { hd 3 with prio := 16 } (od 0), .kCopy { hd 3 with nonstrict := false } (od 0), .kCopy { hd 3 with slack := 65 } (od 0),
      .kCopy { hd 3 with pred0 := { queue := 0, seq := 1 } } (od 0), .kCopy { hd 3 with ws1 := { start := 65535, length := 2 } } (od 0),
      .kCopy { hd 3 with succ := (hd 3).succ ++ (hd 3).succ } (od 0), .kCopy { hd 3 with absValue := 3 } (od 0), .kCopy { hd 3 with absResult := 3 } (od 0),
      .kCopy (hd 3) { od 0 with d7 := 2 ^ 64 }, .kEvent { hd 3 with kind := 6 } (od 0), .kOcalRun (hd 4) (od 1), .kOcalWrite (hd 4) (od 0), .kOcalRead (hd 4) (od 3)] : List Instr).all
      (fun i => !wellFormed i) = true := by decide +kernel

theorem test_illformed_steps :
    ([.loadReturn 2049 0, .loadReturn 0 3, .timerInterrupt 0 0 (2 ^ 64), .armArrival (.oq 16), .armArrival (.lq 8), .armArrival (.mq 2049), .resultElementAppend 0 4,
      .deferredTokenPush 0 13, .lockstepRoundStart 4096, .objectOperation 4 0 0 0 0, .kernelStart 16, .kqaddrWrite 16 0, .pageWalk 0 0 (2 ^ 52), .freezeRelease 3 0 0,
      .lctlEnable 18, .flitReceive 0 [256], .cxlPortTrained 4 16, .hostMemAccess false 0 65 0, .ocfgEnable 16, .hpatReadTest 12 0 0, .hpatReadTest 0 32 0,
      .doorbell (2 ^ 32), .hostWindowAccess false 65536 4 0, .supplySag 8, .thermalStep true 12 0, .thermalStep false 8 0, .rewind (some 4096) 0 0 0,
      .illegalInstruction (2 ^ 32), .illegalVectorWord (2 ^ 96), .illegalMatrixWord (2 ^ 192), .traceSample 2049 0] : List Instr).all
      (fun i => !wellFormed i) = true := by decide +kernel

theorem test_refused_words :
    decodeControl 0 = .error .unassignedOpcode ∧ decodeControl 0x92000000 = .error .unassignedOpcode ∧ decodeControl 0x02000001 = .error .reservedField ∧
    decodeControl 0x5A000008 = .error .reservedField ∧ decodeControl 0x90000001 = .error .reservedField ∧
    decodeVector 0 = .error .unassignedOpcode ∧ decodeVector (0x41 * 2 ^ 88) = .error .unassignedOpcode ∧ decodeVector (0x3F * 2 ^ 88 + 1) = .error .reservedField ∧
    decodeMatrix (0x13 * 2 ^ 184) = .error .unassignedOpcode ∧ decodeMatrix (0x0D * 2 ^ 184 + 1) = .error .reservedField ∧
    decodeCommand 0 = .error .unassignedOpcode ∧ decodeCommand 0x317 = .error .unassignedOpcode := by decide +kernel

/-! ### Small states -/

/-- Context A of core 0 runs at 0x100 with its handler at 0x2000. -/
def run0 : State := State.reset.modCtx 0 0 fun c => { c with st := .running, pc := 0x100, tvec := 0x2000 }

/-- x[1] and x[2] hold two operands. -/
def two (a b : Word) : State := (run0.setX 1 a).setX 2 b

/-- x[n] after an instruction. -/
def xAfter (i : Instr) (s : State) (n : Nat) : Option Word := match exec i s with | .next t => some (t.x n) | _ => none

/-- p[n] after an instruction. -/
def pAfter (i : Instr) (s : State) (n : Nat) : Option Bool := match exec i s with | .next t => some (t.p n) | _ => none

/-- The program counter after an instruction. -/
def pcAfter (i : Instr) (s : State) : Option Word := match exec i s with | .next t => some t.cur.pc | _ => none

/-- The acting context's trap registers after an instruction: busy, TSTAT, TINFO, the program counter. -/
def trapAfter (i : Instr) (s : State) : Option (Bool × Word × Word × Word) :=
  match exec i s with | .next t => some (t.cur.busy, t.cur.tstat, t.cur.tinfo, t.cur.pc) | _ => none

/-! ### Integer instructions (05 R90 to R94), by hand from their rules -/

theorem test_sums : xAfter (.add 3 1 2 g0) (two 0xFFFFFFFFFFFFFFFF 2) 3 = some 1 ∧ xAfter (.sub 3 1 2 g0) (two 1 2) 3 = some 0xFFFFFFFFFFFFFFFF ∧
    xAfter (.add 1 1 1 g0) (two 5 0) 1 = some 10 ∧ xAfter (.add 0 1 2 g0) (two 5 7) 0 = some 0 ∧ xAfter (.add 3 1 2 { p := 0, neg := true }) (two 5 7) 3 = some 0 := by decide +kernel

theorem test_bits : xAfter (.and 3 1 2 g0) (two 12 10) 3 = some 8 ∧ xAfter (.or 3 1 2 g0) (two 12 10) 3 = some 14 ∧ xAfter (.xor 3 1 2 g0) (two 12 10) 3 = some 6 ∧
    xAfter (.sll 3 1 2 g0) (two 1 65) 3 = some 2 ∧ xAfter (.srl 3 1 2 g0) (two 0x8000000000000000 63) 3 = some 1 ∧
    xAfter (.sra 3 1 2 g0) (two 0x8000000000000000 63) 3 = some 0xFFFFFFFFFFFFFFFF := by decide +kernel

theorem test_products : xAfter (.mul 3 1 2 g0) (two 0xFFFFFFFFFFFFFFFF 0xFFFFFFFFFFFFFFFF) 3 = some 1 ∧
    xAfter (.mulh 3 1 2 g0) (two 0xFFFFFFFFFFFFFFFF 2) 3 = some 0xFFFFFFFFFFFFFFFF ∧ xAfter (.div 3 1 2 g0) (two (-7) 2) 3 = some (-3) ∧
    xAfter (.div 3 1 2 g0) (two 7 0) 3 = some 0xFFFFFFFFFFFFFFFF ∧ xAfter (.divu 3 1 2 g0) (two (-1) 2) 3 = some 0x7FFFFFFFFFFFFFFF ∧
    xAfter (.rem 3 1 2 g0) (two (-7) 2) 3 = some (-1) ∧ xAfter (.min 3 1 2 g0) (two (-1) 1) 3 = some (-1) ∧ xAfter (.max 3 1 2 g0) (two (-1) 1) 3 = some 1 := by decide +kernel

theorem test_immediates : xAfter (.addi 3 1 0x7FFF) (two 5 0) 3 = some 4 ∧ xAfter (.andi 3 1 0x7FFF) (two (-1) 0) 3 = some 0x7FFF ∧
    xAfter (.ori 3 1 0x4000) (two 1 0) 3 = some 0x4001 ∧ xAfter (.xori 3 1 0x7FFF) (two 0x7000 0) 3 = some 0xFFF ∧ xAfter (.slli 3 1 63) (two 3 0) 3 = some 0x8000000000000000 ∧
    xAfter (.srli 3 1 4) (two (-1) 0) 3 = some 0x0FFFFFFFFFFFFFFF ∧ xAfter (.srai 3 1 4) (two (-16) 0) 3 = some (-1) ∧
    xAfter (.lui 3 0x4000) run0 3 = some 0xFFFFFFFFE0000000 := by decide +kernel

theorem test_compares : pAfter (.ceq 5 1 2 g0) (two 4 4) 5 = some true ∧ pAfter (.cne 5 1 2 g0) (two 4 4) 5 = some false ∧ pAfter (.clt 5 1 2 g0) (two (-1) 0) 5 = some true ∧
    pAfter (.cltu 5 1 2 g0) (two (-1) 0) 5 = some false ∧ pAfter (.cge 5 1 2 g0) (two 0 0) 5 = some true ∧ pAfter (.cgeu 5 1 2 g0) (two (-1) 0) 5 = some true ∧
    pAfter (.ceqi 5 1 0x7FFF) (two (-1) 0) 5 = some true ∧ pAfter (.clti 5 1 0x7FFF) (two (-1) 0) 5 = some false ∧
    pAfter (.pand 5 0 6 false true g0) run0 5 = some true ∧ pAfter (.por 5 6 7 false false g0) run0 5 = some false ∧ pAfter (.ceq 0 1 2 g0) (two 4 5) 0 = some true := by decide +kernel

theorem test_transfers : pcAfter (.b g0 0xFFFFF) run0 = some 0xFC ∧ pcAfter (.b { p := 5, neg := false } 8) run0 = some 0x104 ∧ pcAfter (.j 0x1FFFFFF) run0 = some 0xFC ∧
    xAfter (.jal 2) run0 31 = some 0x104 ∧ pcAfter (.jr 1 g0) (two 0x800 0) = some 0x800 ∧ xAfter (.jalr 1 1 g0) (two 0x800 0) 1 = some 0x104 ∧
    trapAfter (.jr 1 g0) (two 0x802 0) = some (true, 3, 0x802, 0x2000) := by decide +kernel

theorem test_command_registers :
    (match exec (.cseti 3 2 1 0x7FFF) run0 with | .next t => some (t.cur.getC 3) | _ => none) = some 0xFFFF0000 ∧
    (match exec (.cset 3 3 7 1) (two 0x1A5 0) with | .next t => some (t.cur.getC 3) | _ => none) = some 0xA500000000000000 := by decide +kernel

theorem test_traps : trapAfter (.trap 9) run0 = some (true, 0x0F, 9, 0x2000) ∧ trapAfter (.illegalInstruction 0) run0 = some (true, 1, 0, 0x2000) ∧
    trapAfter (.ld 3 1 2 0) (two 2 0) = some (true, 3, 2, 0x2000) ∧ trapAfter (.st 3 1 3 0) (two 0x3E0000 0) = some (true, 2, 0, 0x2000) := by decide +kernel

theorem test_store_and_load :
    (match exec (.st 2 1 0 0x1FFF) (two 0x101 0x1FF) with | .next t => some t.cur.sbuf | _ => none) = some [{ kind := .store, loc := 0x100, size := 1, value := 0xFF, iret := 0 }] ∧
    xAfter (.ld 3 1 0 0) ((two 0x100 0).setByte 0x100 0x80) 3 = some (-128) ∧ xAfter (.ld 3 1 1 0) ((two 0x100 0).setByte 0x101 0x80) 3 = some 0xFFFFFFFFFFFF8000 := by decide +kernel

theorem test_atomics :
    xAfter (.amoadd 3 1 2 false 0 g0) ((two 0x100 1).write 0x100 4 0xFFFFFFFF) 3 = some (-1) ∧
    (match exec (.amoadd 3 1 2 false 0 g0) ((two 0x100 1).write 0x100 8 0xFFFFFFFF) with | .next t => some (t.read 0x100 8) | _ => none) = some 0 ∧
    (match exec (.amomax 3 1 2 false 0 g0) ((two 0x100 1).write 0x100 4 0xFFFFFFFF) with | .next t => some (t.read 0x100 4) | _ => none) = some 1 ∧
    (match exec (.amocas 3 1 2 true 0 g0) ((two 0x100 9).write 0x100 8 7) with | .next t => some (t.read 0x100 8) | _ => none) = some 7 := by decide +kernel

/-! ### Witnesses: states and operands that meet the hypotheses of the statements, a clause at a time

A witness for a clause that speaks of an answer (a location, an entry, a pushed command) says that the answer is of that form. -/

/-- The page at 2^44 with an entry, its tables in frames 0 to 2 (17 R324, R325). -/
def paged (e : Nat) : State :=
  (((two (2 ^ 44) 7).write (2 ^ 52 + 2048) 8 (2 ^ 63 + 1)).write (2 ^ 52 + 65536) 8 (2 ^ 63 + 2)).write (2 ^ 52 + 131072) 8 e

/-- A writable entry of frame 5 in a state (17 R324). -/
def entryOf (st : Nat) : Nat := st * 2 ^ 53 + 2 ^ 47 + 5

def leadsTo : Reach → Nat → Bool
  | .loc l _, m => l == m
  | _, _ => false

def leadsToZero : Reach → Bool
  | .zero => true
  | _ => false

def buffersAt : StoreAt → Nat → Bool
  | .sram l, m => l == m
  | _, _ => false

def storesAt : StoreAt → Nat → Bool
  | .frame l _, m => l == m
  | _, _ => false

def storesNowhere : StoreAt → Bool
  | .hole _ => true
  | _ => false

/-- Where a read by the acting context leads. -/
def goes (s : State) (a : Nat) : Reach := s.reach s.focus.core a false (s.privileged s.focus.core s.focus.ctx) false

theorem witness_arithmetic : (∃ d g v, r90 (.add 31 31 31 g0) run0 = some (d, g, v)) ∧ (∃ d v, r91 (.lui 0 0x7FFF) run0 = some (d, v)) ∧
    (∃ d g v, r92 (.por 15 15 15 true true g9) run0 = some (d, g, v)) ∧ (∃ c w p v, r106 (.cseti 15 3 7 0x7FFF) run0 = some (c, w, p, v)) :=
  ⟨⟨_, _, _, rfl⟩, ⟨_, _, rfl⟩, ⟨_, _, _, rfl⟩, ⟨_, _, _, _, rfl⟩⟩

/-- Not taken; taken to an address that is no multiple of 4; taken to the last aligned address before the iteration's end; taken to the iteration's end. -/
theorem witness_transfers : r94 (.b { p := 0, neg := true } 0) run0 = some (false, 0x100, none) ∧ r94 (.jr 1 g0) (two 0xFFFFFFFFFFFFFFFF 0) = some (true, 0xFFFFFFFFFFFFFFFF, none) ∧
    r94 (.jalr 31 1 g0) (two 0xFFFFFFFFFFFFFFF8 0) = some (true, 0xFFFFFFFFFFFFFFF8, some 31) ∧
    r94 (.jr 1 g0) (two 0xFFFFFFFFFFFFFFFC 0) = some (true, 0xFFFFFFFFFFFFFFFC, none) := by decide +kernel

theorem readable_flat (s : State) (a n : Nat) (h : a % n = 0) (h2 : a < 2 ^ 33) (h3 : a % 2 ^ 22 < 0x3E0000) (h4 : s.anyPoison a n = false) : Readable s a n a :=
  ⟨h, State.reach_flat _ _ _ _ _ _ h2 (.inr h3), h4⟩

theorem witness_readable : Readable (two 0x100 0) 0x100 8 0x100 ∧ Readable (two (2 ^ 33 - 0x20008) 0) (2 ^ 33 - 0x20008) 8 (2 ^ 33 - 0x20008) :=
  ⟨readable_flat _ _ _ (by decide) (by decide) (by decide) rfl, readable_flat _ _ _ (by decide) (by decide) (by decide) rfl⟩

theorem witness_loads : loadOf (.ld 3 1 3 0) (two 0x100 0) = some (3, 0x100, 8) ∧ run0.cur.log.replay = none ∧ run0.cur.lateLoads = false ∧
    leadsToZero (goes (paged (entryOf 1)) (2 ^ 44)) = true ∧ (2 ^ 44 - 1) % 2 ≠ 0 ∧ (match goes run0 (2 ^ 52) with | .fault c => c == 0x04 | _ => false) = true ∧
    (match goes run0 0x3E0000 with | .fault c => c == 0x02 | _ => false) = true ∧ ((two 0x100 0).setPoison 0x100 true).anyPoison 0x138 8 = true ∧
    (match goes run0 (2 ^ 33 + 2 ^ 22) with | .hole => true | _ => false) = true ∧ (match goes run0 (2 ^ 44 - 8) with | .hole => true | _ => false) = true ∧
    run0.cur.sporen = false ∧ (run0.modCur fun c => { c with sporen := true }).cur.sporen = true := by decide +kernel

theorem witness_stores : storeOf (.st 2 1 3 0) (two 0x100 7) = some (2, 0x100, 8) ∧ buffersAt ((two 0x3DFFF8 7).ctxStoreAt 0x3DFFF8 8) 0x3DFFF8 = true ∧
    run0.cur.log.blocks 1 = false ∧ run0.cur.sbuf.length < 16 ∧ ((two 0x100 7).modCur fun c => { c with log := { c.log with en := true, stall := true } }).cur.log.blocks 1 = true ∧
    16 ≤ (run0.modCur fun c => { c with sbuf := List.replicate 16 { kind := .store, loc := 0, size := 1, value := 0, iret := 0 } }).cur.sbuf.length ∧
    storesAt ((paged (entryOf 2)).ctxStoreAt (2 ^ 44 + 0xFFF8) 8) (2 ^ 52 + 5 * 65536 + 0xFFF8) = true ∧
    storesNowhere (run0.ctxStoreAt (2 ^ 44 - 8) 8) = true ∧ (2 ^ 33 + 4) % 8 ≠ 0 ∧
    (match run0.reach 0 (2 ^ 52) true false false with | .fault c => c == 0x04 | _ => false) = true ∧
    (match run0.reach 0 0x3FFFF8 true false false with | .fault c => c == 0x02 | _ => false) = true := by decide +kernel

theorem witness_drain : (((run0.modCur fun c => { c with sbuf := [{ kind := .store, loc := 8, size := 8, value := 7, iret := 0 }] }).ctx 0 0).sbuf) = { kind := .store, loc := 8, size := 8, value := 7, iret := 0 } :: [] ∧
    ((run0.modCur fun c => { c with sbuf := [{ kind := .store, loc := 8, size := 8, value := 7, iret := 0 }] }).ctx 0 0).loads = [] := by decide +kernel

/-- A drained release, a drained ring entry and a drained SIG to the core's word, by hand from 05 R88, R104, R111, R117. -/
theorem test_drains :
    (let s := (run0.modCur fun c => { c with sbuf := [{ kind := .release, loc := 0x40, size := 8, value := 0, iret := 0 }] }).write 0x40 8 6;
      (s.ctx 0 0).loads = [] ∧ (match exec (.storeBufferDrain 0 0) s with | .next t => some (t.read 0x40 8, t.cur.sbuf.length) | _ => none) = some (7, 0)) ∧
    (let s := run0.modCur fun c => { c with sbuf := [{ kind := .ring, loc := 0, size := 2, value := 4, iret := 0 }] };
      (s.ctx 0 0).loads = [] ∧ (match exec (.storeBufferDrain 0 0) s with | .next t => some (t.here.ring 2).visible | _ => none) = some 5) ∧
    (let s := run0.modCur fun c => { c with sbuf := [{ kind := .signal, loc := 0, size := 0, value := 6, iret := 0 }] };
      (s.ctx 0 0).loads = [] ∧ (match exec (.storeBufferDrain 0 0) s with | .next t => some t.here.evw | _ => none) = some 6) := by decide +kernel

theorem witness_atomics : (r99 (.amocas 3 1 2 true 4 g0) (two 0x100 7)).isSome = true ∧ (two 0x100 7).holds g0 = true ∧ run0.holds { p := 0, neg := true } = false ∧
    (match r99 (.amocas 3 1 2 true 4 g0) (two 0x100 7) with | some (_, _, _, _, f) => (f 1, f 0) | none => (none, none)) = (none, some 7) ∧
    (match storeTarget (two 0x100 7) 0x100 8 with | some (l, _) => l | none => 0) = 0x100 ∧ 0x104 % 8 ≠ 0 ∧
    (two 0x100 7).readOnly 0x100 = false ∧ (paged (2 * 2 ^ 53 + 5)).readOnly (2 ^ 44) = true ∧ run0.readOnly (2 ^ 44 - 8) = false := by decide +kernel

theorem witness_releases : run0.holds g0 = true ∧ run0.cur.log.replay = none ∧ run0.cur.log.blocks 1 = false ∧ run0.holds g9 = true ∧
    run0.holds { p := 9, neg := false } = false ∧ run0.here.bind.length < 32 ∧ (storeTarget (two 0x100 0) 0x100 8).isSome = true ∧ run0.cur.sbuf.length < 16 ∧
    32 ≤ (run0.modHere fun k => { k with bind := List.replicate 32 (0, 0, 0) }).here.bind.length := by decide +kernel

/-- A K.NOP of kind 3 in the command registers. -/
def nopImage : List Word := 0x315 :: List.replicate 15 0
def pushes : State := run0.modCur fun c => c.setC 0 0x315

def pushOk : PushRes → Bool
  | .ok _ _ => true
  | _ => false

def pushCauseOf : PushRes → Nat
  | .refused c _ => c
  | _ => 0

theorem witness_pushes : pushOk (pushes.release.pushImage (.cq 0) (ownImage pushes) 0 0) = true ∧ pushCauseOf (pushes.release.pushImage (.mq 0) (ownImage pushes) 0 0) = 0x01 ∧
    rpushQueue 0x4000 = some (.cq 0) ∧ (two 0x80 0x4000).cur.block = none ∧ ((two 0x80 0x4000).x 1).toNat % 128 = 0 ∧ ((two 0x81 0).x 1).toNat % 128 ≠ 0 ∧
    2 ^ 16 ≤ ((two 0x80 0x10000).x 2).toNat ∧
    (match (((two 0x80 0x4000).write 0x80 8 0x315)).readBlock 0x80 16 with
      | (u, .inl img) => pushOk (u.release.pushImage (.cq 0) img 0 0)
      | _ => false) = true ∧
    pushOk (pushes.pushImage (.cq 0) nopImage 0 0) = true ∧ (pushes.queue (.cq 0)).find (pushes.queue (.cq 0)).next = none := by decide +kernel


/-- PUSH of the K.NOP, and RPUSH of a block at 0x80 that holds it, are taken. -/
theorem witness_accepted : Accepted pushes.release (pushed pushes 2) (ownImage pushes) := ⟨by decide +kernel, rfl, by decide +kernel, by decide +kernel⟩

def block80 : State := (two 0x80 0x4000).write 0x80 8 0x315

theorem witness_accepted_block : (∀ i, i < 16 → Readable block80 (0x80 + 8 * i) 8 (0x80 + 8 * i)) ∧
    Accepted block80.release (.cq 0) ((List.range 16).map fun i => BitVec.ofNat 64 (seenAt block80 (0x80 + 8 * i) 8)) :=
  ⟨fun i h => readable_flat _ _ _ (by omega) (by omega) (by omega) rfl, ⟨by decide +kernel, rfl, by decide +kernel, by decide +kernel⟩⟩

theorem witness_illegal_compare : 0x31000000 < 2 ^ 32 ∧ 0x18 ≤ 0x31000000 / 2 ^ 25 ∧ 0x3F000000 / 2 ^ 25 ≤ 0x1F ∧ Nat.testBit 0x31000000 24 = true ∧ Nat.testBit 0x3F000000 24 = true := by decide +kernel

/-- A successor's pending table holds 32 arms, so that its producer finds no room (13 R262, R265). -/
def crowded : State :=
  (run0.modCur fun c => ((c.setC 0 0x315).setC 4 (2 ^ 40)).setC 5 (2 ^ 20 + 9)).modQueue (.cq 0) fun v => { v with pending := List.replicate 32 { arm := true, seq := 9, fromQ := .vq 0, fromSeq := 1 } }

theorem witness_reserved_targets : [0x10000, 0x800, 0xA000, 0x6010, 0x8008].all (fun v => decide (2 ^ 16 ≤ v ∨ bitsOf v 12 11 ≠ 0 ∨ 5 ≤ bitsOf v 15 13 ∨
      (bitsOf v 15 13 = 3 ∧ 16 ≤ bitsOf v 10 0) ∨ (bitsOf v 15 13 = 4 ∧ 8 ≤ bitsOf v 10 0))) = true ∧ ((two 0x80 0x8008).x 2).toNat = 0x8008 ∧ ((two 0x80 0).x 1).toNat % 128 = 0 := by decide +kernel
/-- A result queue with an element, a ring of context A full and empty, a held result and a held token. -/
def queues : State :=
  (run0.modCore 0 fun k => { ((k.setRing 0 { k.ring 0 with entries := [9], pushes := 1, visible := 1 }).setRing 1 { k.ring 1 with cons := 0, depth := 1, entries := [9], pushes := 1, visible := 1 })
    with results := [(3, [5])], held := [{ source := 2, elem := 4 }], deferred := [(8, 1)] })

theorem witness_queues : queues.here.resultsOf 3 = 5 :: [] ∧ queues.here.resultsOf 0 = [] ∧ (queues.here.ring 1).depth ≠ 0 ∧ (queues.here.ring 1).cons = queues.focus.ctx ∧
    (queues.here.ring 1).entries = 9 :: [] ∧ (queues.here.ring 1).pops < (queues.here.ring 1).visible ∧ (queues.here.ring 3).depth = 0 ∧
    (queues.here.ring 0).cons ≠ queues.focus.ctx ∧ (queues.here.ring 0).prod = queues.focus.ctx ∧ (queues.here.ring 0).pushes - (queues.here.ring 0).pops < (queues.here.ring 0).depth ∧
    queues.cur.loads = [] ∧ (queues.here.ring 1).prod ≠ queues.focus.ctx ∧ (queues.core 0).held = [{ source := 2, elem := 4 }] ∧ ((queues.core 0).resultsOf 2).length < 16 ∧
    Tbl.get 0 (queues.core 0).deferred 8 = 0 + 1 ∧ (queues.core 0).token 8 < 15 := by decide +kernel

theorem witness_full_ring : let s := run0.modCore 0 fun k => k.setRing 0 { k.ring 0 with depth := 1, entries := [9], pushes := 1, visible := 1 }
    (s.here.ring 0).prod = s.focus.ctx ∧ (s.here.ring 0).depth ≠ 0 ∧ (s.here.ring 0).depth ≤ (s.here.ring 0).pushes - (s.here.ring 0).pops ∧ s.cur.sbuf.length < 16 ∧
    (s.here.ring 0).pops ≤ (s.here.ring 0).pushes := by decide +kernel

theorem witness_empty_ring : let s := run0.modCore 0 fun k => k.setRing 0 { k.ring 0 with cons := 0 }
    (s.here.ring 0).cons = s.focus.ctx ∧ (s.here.ring 0).depth ≠ 0 ∧ (s.here.ring 0).entries = [] := by decide +kernel

/-- Context A waits at a ZPOP of an empty ring with a limit. -/
theorem witness_ring_timeout : let s := ((run0.modCtx 0 0 fun c => { c with st := .waiting }).modCore 0 fun k => k.setRing 0 { k.ring 0 with timeout := 1, cons := 0 }).write 0x100 4 0x7A300000
    (s.ctx 0 0).st = .waiting ∧ (s.ctx 0 0).loads = [] ∧ s.ringWaits 0 0 = true := by decide +kernel

/-- Group 4095 with context A of core 0 as its member 0; group 1 an open one of another core. -/
def grouped : State :=
  { two 4095 0 with groups := [(1, { Group.reset with kind := .opened, members := [(0, 1, 0)] }), (4095, { Group.reset with kind := .opened, members := [(0, 0, 0)] })] }

theorem witness_groups : grouped.holds g0 = true ∧ ((grouped.x 1).toNat < 2 ^ 12) ∧ (grouped.group 4095).indexOf 0 0 = some 0 ∧ 2 ^ 12 ≤ ((two 4096 0).x 1).toNat ∧
    (grouped.group 1).indexOf 0 0 = none ∧ (grouped.group 1).kind ≠ .lockstep ∧ grouped.joinRefused 0 0 1 true = true ∧ grouped.joinRefused 0 0 1 false = false ∧
    (grouped.group 0).indexOf 0 0 = none ∧ grouped.jobPushed 0 0 4095 = false := by decide +kernel

/-- A barrier of device scope at 0x200 that expects `n` arrivals (16 R311), named in x1. -/
def barrier (n : Nat) : State := (two 0x200 1).write 0x200 8 (2 * 2 ^ 56 + 3 * 2 ^ 48 + n)

def okAt (r : Except Nat Nat) (l : Nat) : Bool := match r with | .ok m => l == m | .error _ => false

theorem witness_barriers : okAt ((barrier 1).checkObject 0 0 0x200 false true false) 0x200 = true ∧ (barrier 1).cur.waiter = none ∧ (barrier 1).cur.bpend.names 0x200 = false ∧
    (barrier 1).x 1 ≠ 0 ∧ (barrier 1).cur.sbuf = [] ∧ (barrier 1).target ((barrier 1).syncObj 0x200) ≤ 1 ∧ 1 < (barrier 2).target ((barrier 2).syncObj 0x200) ∧
    okAt ((barrier 2).checkObject 0 0 0x200 false false false) 0x200 = true ∧ ((barrier 2).syncObj 0x200).arrivals + 1 < (barrier 2).target ((barrier 2).syncObj 0x200) ∧
    ((barrier 2).modCur fun c => { c with st := .waiting }).cur.st = .waiting ∧
    ((barrier 2).modCur fun c => { c with waiter := some (.flipped 0x200 7) }).cur.waiter = some (.flipped 0x200 7) ∧
    (let s := ((barrier 2).modCur fun c => { c with st := .waiting }).write 0x100 4 (encode (.barr 3 1 g0));
      okAt (s.checkObject 0 0 0x200 (s.privileged 0 0) true false) 0x200 = true ∧ s.standsAt true 0 0 0x200 0 0x200 = true ∧ (s.syncObj 0x200).arrivals + 1 < s.target (s.syncObj 0x200)) ∧
    (let s := (((barrier 2).modCur fun c => { c with st := .waiting }).setX 2 4).write 0x100 4 (encode (.waits 3 1 2 g0));
      okAt (s.checkObject 0 0 0x200 (s.privileged 0 0) false false) 0x200 = true ∧ s.standsAt false 0 0 0x200 4 0x200 = true) := by decide +kernel

theorem witness_events : 2 ^ 32 ≤ ((two 0 0x100000000).x 2).toNat ∧ ((two 0 0xFFFFFFFF).x 2).toNat < 2 ^ 32 ∧ (two 0 0xFFFFFFFF).x 1 = 0 ∧ (two 0x200 1).x 1 ≠ 0 ∧
    (two 0 0).release.here.evw.toNat &&& 0 = 0 ∧ (two 0 1).release.here.evw.toNat &&& 1 ≠ 1 ∧ (barrier 2).cur.sbuf.length < 16 ∧
    okAt ((barrier 2).release.checkObject 0 0 0x200 false false false) 0x200 = true ∧ ((barrier 2).release.syncObj 0x200).events &&& 0 = 0 ∧
    ((barrier 2).release.syncObj 0x200).events &&& 1 ≠ 1 := by decide +kernel

theorem witness_tmark : (run0.here.ms.st ≠ .running) ∧ run0.cur.log.blocks (markWords 255) = false := by decide +kernel

theorem test_tmark : xAfter (.tmark 3 0) run0 3 = some 1 := by decide +kernel

/-! ### CSRs and traps -/

/-- Context X of core 0, privileged, with a token in vx and in mx. -/
def inX : State :=
  { ((two 1 0).modCtx 0 1 fun c => (c.setX 1 1)) with focus := { core := 0, ctx := 1, queue := .cq 0, seq := 0 } }.modCore 0 fun k => (k.setToken 9 1).setToken 11 1

/-- Context A of the harbour core. -/
def harbour : State := { State.reset with focus := { core := 2048, ctx := 0, queue := .cq 2048, seq := 0 } }

def privileged : State := run0.modCur fun c => { c with priv := true }

theorem witness_csrs : (csrValue 0x975 privileged).isSome = true ∧ privileged.privileged 0 0 = true ∧ (csrStored 0x972 false 0xFFFFFFFFFFFFFFFF).isSome = true ∧
    csrAssigned false 0x7FF = false ∧ csrAssigned false 0x801 = true ∧ run0.privileged 0 0 = false ∧ privileged.cur.log.replay = none ∧ privileged.translatedOut = false := by decide +kernel

theorem test_csrs : xAfter (.csrr 3 0x801) privileged 3 = some 0x2000 ∧ trapAfter (.csrr 3 0x801) run0 = some (true, 2, 0, 0x2000) ∧ trapAfter (.csrw 3 0x7FF) run0 = some (true, 1, 0, 0x2000) ∧
    xAfter (.tkvx 3) inX 3 = some 0 ∧ xAfter (.tkmx 3) inX 3 = some 0 ∧ (match exec (.tkpush 1) inX with | .next t => some (t.here.token 8) | _ => none) = some 1 := by decide +kernel

theorem witness_csr_effects : inX.focus.ctx = 1 ∧ (inX.x 1).toNat % 4 = 1 ∧ inX.here.token 8 < 15 ∧ 15 ≤ (inX.modHere fun k => k.setToken 8 15).here.token 8 ∧ inX.here.token 9 = 0 + 1 ∧
    inX.here.token 11 = 0 + 1 ∧ (inX.modHere fun k => (k.setToken 9 0).setToken 11 0).here.token 9 = 0 ∧ run0.focus.ctx ≠ 1 ∧ harbour.focus.core = harbourId ∧ harbour.mgmt.tsq = [] ∧
    harbour.mgmt.tsWaiters = [] ∧ hselKey harbour.cur.hsel.toNat = some 0 ∧ (harbour.pseudo 0).test = 0 ∧
    ({ harbour with mgmt := { harbour.mgmt with tsq := [(7, 8)] } } : State).mgmt.tsq = (7, 8) :: [] := by decide +kernel

theorem witness_traps : run0.cur.busy = false ∧ run0.cur.waiter = none ∧ (run0.modCur fun c => { c with busy := true }).cur.busy = true := by decide +kernel

/-- A frame of core 0's context A whose return address is `ret` and whose level bit is set (10 R243). -/
def framed (ret : Word) : State := (privileged.writeD (frameLoc 0 0 + 0x108) ret).writeD (frameLoc 0 0 + 0x120) 1

theorem witness_rfe : (framed 0xFFFFFFFFFFFFFFF8).privileged 0 0 = true ∧ (framed 0).rfeResumes 0 0 = [] ∧
    ((framed 0xFFFFFFFFFFFFFFF8).release.readD (frameLoc 0 0 + 0x108)).toNat % 4 = 0 ∧ (framed 0xFFFFFFFFFFFFFFF8).release.readD (frameLoc 0 0 + 0x108) ≠ 0xFFFFFFFFFFFFFFFC ∧
    ((framed 2).release.readD (frameLoc 0 0 + 0x108)).toNat % 4 ≠ 0 ∧ run0.privileged 0 0 = false := by decide +kernel

theorem test_rfe : pcAfter .rfe (framed 0x404) = some 0x404 ∧ trapAfter .rfe (framed 6) = some (true, 3, 6, 0x2000) := by decide +kernel

/-- A load of context A in flight to x5. -/
def loading : State :=
  (run0.modCur fun c => { c with loads := [{ rd := 5, loc := 0x40, size := 4, addr := 0x40, mark := { x := [], p := [], c := [], pc := 0xF0, sbuf := 0, iret := 0, counters := [] } }] }).write 0x40 4 0x80000000

theorem test_load_return : (match exec (.loadReturn 0 0) loading with | .next t => some (t.x 5, t.cur.loads.length) | _ => none) = some (0xFFFFFFFF80000000, 0) ∧
    trapAfter (.loadReturn 0 0) (loading.setPoison 0x40 true) = some (true, 6, 0x40, 0x2000) := by decide +kernel

def pendingIrq : State := run0.modCur fun c => { c with ien := 1, ipend := 1 }

theorem witness_interrupts : (pendingIrq.ctx 0 0).atBoundary = true ∧ pendingIrq.takeable 0 0 ≠ 0 ∧ pendingIrq.owedStop 0 0 = none ∧ (pendingIrq.ctx 0 0).log.replay = none ∧ (pendingIrq.ctx 0 0).waiter = none ∧
    (loading.ctx 0 0).loads.length = 1 ∧ (loading.ctx 0 0).sbuf = [] ∧ (loading.ctx 0 0).busy = false ∧ loading.anyPoison 0x40 4 = false ∧ (loading.setPoison 0x40 true).anyPoison 0x40 4 = true ∧
    (loading.modCur fun c => { c with loads := c.loads.map fun l => { l with loc := 2 ^ 52 } }).translatedOut = true ∧
    ((run0.modCur fun c => { c with st := .waiting }).ctx 0 0).st = .waiting := by decide +kernel

/-- A job of context X, whose vector stream runs. -/
def job1 : Job := { seq := 0, core := 0, ctx := 1, iter := none, priv := false, det := false, slack := 0, reads := [], writes := [], group := none, shapes := [], debug := false, code := [] }
def jobState (f : Core → Core) : State :=
  { (run0.modCtx 0 1 fun c => { c with st := .running, tvec := 0x3000 }).modCore 0 fun k => f { k with job := some job1, vs := { VStream.reset with st := .running }, ms := { MStream.reset with st := .ended } }
    with focus := { core := 0, ctx := 1, queue := .vq 0, seq := 0 } }

theorem witness_stream_traps : let s := jobState fun k => { k with vs := { k.vs with st := .stopped, atStop := 2, cycle := 77 } }
    (s.core 0).job = some job1 ∧ s.owedAt 0 = some (2, 1, 77) ∧ (s.ctx 0 1).atBoundary = true ∧ (s.ctx 0 1).waiter = none := by decide +kernel

theorem witness_irq_stop : let s := (jobState id).modCtx 0 1 fun c => { c with ien := 9, ipend := 1 }
    s.irqStop 0 = true ∧ (s.core 0).vs.st = .running ∧ (s.core 0).vs.atStop = 0 := by decide +kernel


/-- A store ahead of a BARR, an arrival without an object and at one that is misaligned (16 R312, R313). -/
theorem witness_barriers_behind_stores :
    (let s := (barrier 1).modCur fun c => { c with sbuf := [{ kind := .store, loc := 0x300, size := 8, value := 7, iret := 0 }] };
      okAt (s.release.checkObject 0 0 0x200 false true false) 0x200 = true ∧ s.release.cur.bpend.names 0x200 = false ∧ s.release.target (s.release.syncObj 0x200) ≤ 1 ∧
      (s.release.read 0x300 8) = 7) ∧ (two 0 1).x 1 = 0 ∧
    (match (two 0x201 1).release.checkObject 0 0 0x201 false true false with | .error c => c | .ok _ => 0) = 0x03 ∧
    (match (two 0x201 1).release.checkObject 0 0 0x201 false false false with | .error c => c | .ok _ => 0) = 0x03 := by decide +kernel

def outLoad : OutLoad := { rd := 5, loc := 2 ^ 52, size := 4, addr := 0x40, mark := { x := [], p := [], c := [], pc := 0, sbuf := 0, iret := 0, counters := [] } }

/-- A load outstanding from the pseudo-channel that holds a location keeps a channel in mission mode; none is outstanding in another state (24 R420). -/
theorem witness_channels : (harbour.modCur fun c => { c with loads := [outLoad] }).channelOut (pseudoOf (2 ^ 52)) = true ∧ harbour.channelOut 0 = false ∧
    ({ harbour with hbm := [(0, { Hbm.reset with mode := 2 })] } : State).pseudo 0 = { Hbm.reset with mode := 2 } :=
  ⟨List.any_eq_true.2 ⟨(2048, 0), by decide +kernel, List.any_eq_true.2 ⟨outLoad, by decide +kernel, by
    rw [show inDram outLoad.loc = true by decide +kernel]; simp [outLoad]⟩⟩, rfl, rfl⟩

/-- A stopped stream of context A's own job that its RFE resumes (10 R242). -/
theorem witness_rfe_resumes : let s := (((framed 0x404).modCur fun c => { c with tstat := 0x2000D }).modCore 0 fun k => { k with
      job := some { seq := 0, core := 0, ctx := 0, iter := none, priv := false, det := false, slack := 0, reads := [], writes := [], group := none, shapes := [], debug := false, code := [] }
      vs := { VStream.reset with st := .stopped, cause := 0x0D }, ms := { MStream.reset with st := .ended } }).modQueue (.vq 0) fun v => { v with entries := [
        { seq := 0, image := 0x206 :: List.replicate 15 0, st := .running, prio := 0, passes := 0, dep := 0, demand := 0, producers := [], core := 0, ctx := 0, iter := none, priv := false,
          snapshot := [], shapes := [], hasToken := false, work := .pending, progress := 1, begun := false, reruns := 0, met := [], refetches := none, escaped := false, members := [],
          peers := false, chunks := [], acked := 0, ranks := none, since := 0 }] }
    s.privileged s.focus.core s.focus.ctx = true ∧ s.rfeResumes s.focus.core s.focus.ctx = [0] ∧ (s.core 0).preempt.state = 0 ∧ s.release.readD (frameLoc 0 0 + 0x108) = 0x404 := by decide +kernel

/-- A stop of a job's stream, whose pushing context is there to take its trap (10 R244). -/
theorem witness_stops : let s := jobState id
    (s.core 0).job = some job1 ∧ (s.ctx job1.core job1.ctx).st ≠ .frozen ∧ s.pusherThere job1 = true ∧ job1.group = none ∧ (s.core 0).trctl.getLsbD 0 = false ∧ (s.core 0).ms.st ≠ .stopped ∧
    (s.core 0).vs.st ≠ .stopped ∧ (s.core 0).ms.mldi.length ≤ 1 ∧ ((s.vecStop 0 7 true).core 0).matBoth = false ∧ ((s.matStop 0 7 3 true).core 0).vecBoth = false := by decide +kernel
/-! ### Streams (06 to 08) -/

theorem vecReady {s : State} {named : Option Nat} {slot pop np : Nat}
    (h : decide (s.vs.atStop = 0 ∧ s.vs.endsWrong named = false ∧ slotReserved (s.vs.entry slot) = false ∧ (pop = 0 ∨ np ≤ s.here.token pop)) = true) :
    VecReady s named slot pop np := by
  have h := of_decide_eq_true h
  exact ⟨h.1, h.2.1, h.2.2.1, h.2.2.2⟩

/-- A running vector stream whose slot 7 has a format entry, with a token in xv and s1 = 0x100. -/
def vec (e : Elem) (f : VStream → VStream) : State :=
  jobState fun k => { k.setToken 8 1 with vs := f { VStream.reset with st := .running, fmt := Tbl.set 0 [] 7 e, s := [(1, 0x100)] } }

def h7 : VHdr := { guard := g0, slot := 7, pop := 8, push := 9 }
def row0 : VOp := .grid .row 63 7 true 63
def one : VOp := .imm 0xFE000

theorem witness_vec_ready : VecReady (vec 0 id) none 7 8 1 := vecReady (by decide +kernel)

theorem witness_lane_words : (match laneWord (.vaddF h7 row0 one one) (vec 0 id).vs (Slot.of ((vec 0 id).vs.entry 7)) with | some (_, _, l, ok, _) => (l, ok) | none => (0, false)) = (4, true) ∧
    (match laneWord (.vaddI h7 row0 one one) (vec 3 id).vs (Slot.of ((vec 3 id).vs.entry 7)) with | some (_, _, l, ok, _) => (l, ok) | none => (0, false)) = (1, true) ∧
    (match laneWord (.vcmul h7 row0 one one) (vec 9 id).vs (Slot.of ((vec 9 id).vs.entry 7)) with | some (_, _, l, ok, _) => (l, ok) | none => (0, false)) = (5, true) ∧
    (match laneWord (.vaddF h7 row0 one one) (vec 3 id).vs (Slot.of ((vec 3 id).vs.entry 7)) with | some (_, _, _, ok, _) => ok | none => true) = false ∧
    slotReserved ((vec 12 id).vs.entry 7) = true ∧ slotReserved ((vec 11 id).vs.entry 7) = false ∧ ((vec 0 id).core 1).job = none ∧ (vec 0 id).vs.endsWrong none = false := by decide +kernel

/-- The value that lane 5 of the newest landing holds after a word, when it lands, and how many are in flight. -/
def landed (i : Instr) (s : State) : Option (Elem × Nat × Nat) :=
  match exec i s with
  | .next t => match t.vs.land.getLast? with | some r => some (r.values.getD 5 0, r.due, t.vs.land.length) | none => none
  | _ => none

/-- 1 + 1 = 2 and 1 · 1 + 1 = 2 in FP32; 3 − 5 = −2 in INT32 (06 R133, R135). -/
theorem test_lane_values : landed (.vaddF h7 row0 one one) (vec 0 id) = some (0x40000000, 4, 1) ∧ landed (.vsubI h7 row0 (.imm 3) (.imm 5)) (vec 3 id) = some (0xFFFFFFFE, 1, 1) ∧
    landed (.vshl h7 row0 (.imm 3) (.imm 33)) (vec 3 id) = some (6, 1, 1) ∧ landed (.vdivF h7 row0 one one) (vec 0 id) = some (0x3F800000, 12, 1) := by decide +kernel

theorem witness_divider : (vec 0 id).vs.lastDiv = none ∧ isFloat (Slot.of ((vec 0 id).vs.entry 7)).fmt = true ∧
    (vec 0 fun v => { v with cycle := 23, lastDiv := some 12 }).vs.lastDiv = some 12 ∧ 23 < 12 + 12 := by decide +kernel

theorem witness_compares : isFloat (Slot.of ((vec 2 id).vs.entry 7)).fmt = true ∧ isInteger (Slot.of ((vec 11 id).vs.entry 7)).fmt = true := by decide +kernel

theorem witness_conversions : let s := vec 1 id
    slotReserved (s.vs.entry 0) = false ∧ convertible (Slot.of (s.vs.entry 0)) (Slot.of (s.vs.entry 7)) false false = true ∧ (Slot.of (s.vs.entry 0)).badtrap = false ∧
    convertible (Slot.of ((vec 9 id).vs.entry 0)) (Slot.of ((vec 9 id).vs.entry 7)) false false = false ∧ convertible (Slot.of (s.vs.entry 0)) (Slot.of (s.vs.entry 7)) false true = true ∧
    convertible (Slot.of (s.vs.entry 7)) (Slot.of (s.vs.entry 0)) true false = true ∧
    convertible (Slot.of ((vec 9 id).vs.entry 0)) (Slot.of ((vec 9 id).vs.entry 7)) false true = false ∧
    convertible (Slot.of ((vec 9 id).vs.entry 0)) (Slot.of ((vec 9 id).vs.entry 7)) true false = false := by decide +kernel

/-- A T3 source slot with badtrap set, a lane with no code and an image with a reserved byte (02 R34, 06 R144). -/
theorem witness_bad_digits : let s := vec 0 fun v => { v with fmt := Tbl.set 0 v.fmt 0 0x10008 }
    convertible (Slot.of (s.vs.entry 0)) (Slot.of (s.vs.entry 7)) false false = true ∧ (Slot.of (s.vs.entry 0)).badtrap = true ∧
    badDigit (Slot.of (s.vs.entry 0)) (s.vs.lane (.imm 3) 63) = true ∧ (s.vs.mask g0).getLsbD 63 = true ∧
    convertible (Slot.of (s.vs.entry 0)) (Slot.of (s.vs.entry 7)) true false = true ∧
    imageCode 8 (unpackImage s.vs (Slot.of (s.vs.entry 0)) (.imm 0xFF)) 0 = none := by decide +kernel

theorem witness_reductions : (vec 0 id).vs.mask { p := 0, neg := true } = 0 ∧ (vec 0 id).vs.lineOf 62 0 false ≠ 63 ∧ (vec 0 id).vs.lineOf 63 0 false = 63 := by decide +kernel

theorem witness_scalars : Sys2Proof.Spec.scalarOp (.vsaddi h7 31 1 0x3FFFFF) (vec 0 id).vs = some (h7, 31, 0xFF) := by decide +kernel

theorem lanesFine {s : State} {j : Job} {m : Word} {addr : Nat → Nat} {store : Bool} (hc : j.checked = false)
    (h : (lanesOf m).all (fun l => decide (addr l % 4 = 0) && !inSystemArea (addr l) && decide (addr l < 2 ^ 33 + 2 ^ 22)) = true) : LanesFine s j m addr store := by
  have h := fun l hl => List.all_eq_true.1 h l hl
  simp only [Bool.and_eq_true, decide_eq_true_eq, Bool.not_eq_true'] at h
  exact ⟨fun l hl => (h l hl).1.1, .inr fun l hl => (h l hl).1.2, .inr fun l hl => (h l hl).2, fun hk => absurd hk (by simp [hc])⟩

def src1 : VOp := .scratch 0 1 0 0

theorem witness_vector_memory : LanesFine (vec 0 id) job1 ((vec 0 id).vs.mask g0) ((vec 0 id).vs.addr src1) false ∧ (vecLoadOf (.vld h7 row0 src1) (vec 0 id).vs).isSome = true ∧
    (vecStoreOf (.vst h7 src1 row0) (vec 0 id).vs).isSome = true ∧ (vec 0 id).here.job = some job1 ∧ (vec 0 id).here.trctl.getLsbD 0 = false :=
  ⟨lanesFine (by decide +kernel) (by decide +kernel), by decide +kernel⟩

theorem witness_vector_memory_stops : (lanesOf ((vec 0 id).vs.mask g0)).any (fun l => decide ((vec 0 fun v => { v with s := [(1, 0x102)] }).vs.addr src1 l % 4 ≠ 0)) = true ∧
    (lanesOf ((vec 0 id).vs.mask g0)).any (fun l => inSystemArea ((vec 0 fun v => { v with s := [(1, 0x3E0000 - 252)] }).vs.addr src1 l)) = true ∧ job1.priv = false ∧
    (∀ n, ((vec 0 id).ctx 0 1).log.blocks n = false) := ⟨by decide +kernel, by decide +kernel, rfl, fun _ => rfl⟩

/-- A lane beyond the slices for a context that traps on it, and a line that a checked job does not declare (05 R97, 07 R158). -/
theorem witness_vector_memory_more_stops :
    (let s := (vec 0 fun v => { v with s := [(1, 2 ^ 33 + 2 ^ 22)] }).modCtx 0 1 fun c => { c with sporen := true };
      (lanesOf (s.vs.mask g0)).all (fun l => decide (s.vs.addr src1 l % 4 = 0) && !inSystemArea (s.vs.addr src1 l)) = true ∧ (s.ctx job1.core job1.ctx).sporen = true ∧
      (((lanesOf (s.vs.mask g0)).map (s.vs.addr src1)).filter (fun a => decide (2 ^ 33 + 2 ^ 22 ≤ a)) |>.head?) = some (2 ^ 33 + 2 ^ 22)) ∧
    (let s := vec 0 id
     let j := { job1 with det := true, reads := [{ start := 100, length := 1 }] };
      j.checked = true ∧ (s.ctx j.core j.ctx).sporen = false ∧ j.declares (0x100 % 2 ^ 22 / 64) false = false ∧ localLoc 0 0x100 = true ∧ s.vs.addr src1 0 = 0x100 ∧
      (match place 0 0x100 with | .sram l => l | _ => 0) = 0x100 ∧ 0 ∈ lanesOf (s.vs.mask g0)) := by decide +kernel

theorem witness_accumulator : (lanesOf ((vec 0 id).vs.mask g0)).all (fun l => decide (0 ≤ (vec 0 id).vs.accElem { tile := 7, offset := 131008, stride := 0 } l ∧
      (vec 0 id).vs.accElem { tile := 7, offset := 131008, stride := 0 } l < 131072)) = true ∧
    (lanesOf ((vec 0 id).vs.mask g0)).all (fun l => decide ((vec 0 id).vs.accElem { tile := 7, offset := 131009, stride := 0 } l < 131072)) = false ∧ (vec 0 id).here.accPoison = [] := by decide +kernel

/-- L0 runs to word 9 with rotation; the stream stands at its end word. -/
def loops : State := vec 0 fun v => { v with pc := 9, l0 := { start := 2, stop := 9, remaining := 3, drain := 1, rot := true, index := 0 } }

theorem witness_loops : (vec 0 id).vs.l0.running = false ∧ (vec 0 id).vs.l1.running = false ∧ loops.vs.l0.running = true ∧ loops.vs.endsWrong (some 0) = false ∧ loops.vs.l0.stop = loops.vs.pc ∧
    loops.vs.l1.running = false ∧ loops.vs.pc + 1 > loops.vs.l0.stop ∧ 1 < loops.vs.l0.remaining ∧
    (vec 0 fun v => { v with pc := 9, l0 := { start := 2, stop := 9, remaining := 1, drain := 0, rot := true, index := 0 } }).vs.l0.remaining = 1 := by decide +kernel

/-- L1 ends at the VLBR of L0 too, with turns left and in its last one (07 R164). -/
theorem witness_inner_loops : let f (n : Nat) := vec 0 fun v => { loops.vs with fmt := v.fmt, l1 := { start := 5, stop := 9, remaining := n, drain := 0, rot := false, index := 0 } }
    VecReady (f 2) (some 0) 7 8 1 ∧ (f 2).vs.l1.running = true ∧ (f 2).vs.l1.stop = (f 2).vs.pc ∧ 1 < (f 2).vs.l1.remaining ∧
    VecReady (f 1) (some 0) 7 8 1 ∧ (f 1).vs.l1.running = true ∧ (f 1).vs.l1.remaining = 1 :=
  ⟨vecReady (by decide +kernel), by decide +kernel, by decide +kernel, by decide +kernel, vecReady (by decide +kernel), by decide +kernel, by decide +kernel⟩

theorem witness_vector_flow : (vec 0 id).vs.mask g0 = BitVec.allOnes 64 ∧ (vec 0 id).vs.mask { p := 5, neg := false } = 0 ∧ (vec 0 id).here.evw.toNat &&& (vec 0 id).vs.count (.imm 0) = (vec 0 id).vs.count (.imm 0) ∧
    (vec 0 id).here.evw.toNat &&& (vec 0 id).vs.count (.imm 1) ≠ (vec 0 id).vs.count (.imm 1) ∧ (vec 0 id).vs.count (.scalar 1) ≠ 0 ∧ ((vec 0 id).vs.getS 1).toNat % 32 = 0 ∧
    (List.range 8).all (fun i => !(vec 0 id).lanePoison 0 (((vec 0 id).vs.getS 1).toNat + 4 * i)) = true := by decide +kernel

theorem witness_format_load : LanesFine (vec 0 id) job1 0xFF (fun i => (((vec 0 id).vs.getS 1).toNat + 4 * i) % 2 ^ 64) false := lanesFine (by decide +kernel) (by decide +kernel)

theorem witness_meetings : (vec 0 id).here.ms.rdv < 1 ∧ (vec 0 id).here.matrixMeets = false ∧ ((vec 0 id).modHere fun k => { k with ms := { k.ms with rdv := 1 } }).here.ms.rdv = 1 ∧
    ((vec 0 id).modHere fun k => { k with ms := { k.ms with rdv := 1, atRdv := true } }).here.ms.atRdv = true ∧
    ((vec 0 id).modHere fun k => { k with ms := { k.ms with st := .running } }).here.matrixMeets = true ∧
    (let f := (lanesOf ((vec 0 id).vs.mask g0)).foldl (fun f l => f ^^^ (vec 0 id).vs.lane (.grid .row 0 0 false 0) l) 0
     (f % 2 ^ 22) ^^^ (f / 2 ^ 22)) = 0 := by decide +kernel

def resultRow : Landing :=
  { due := 4, kind := .result, dest := .grid .row 63 63, lanes := BitVec.allOnes 64, active := BitVec.allOnes 64, word := 0, values := List.replicate 64 7, addrs := [], push := 9, flags := 1, poison := false, arrived := true, fence := false, second := [] }

theorem witness_landings : let s := vec 0 fun v => { v with cycle := 4, land := [resultRow] }
    (s.core 0).vs.land = [resultRow] ∧ (s.core 0).vs.st = .running ∧ resultRow.due ≤ (s.core 0).vs.cycle ∧ resultRow.flags % 32 &&& (((s.core 0).vfst.toNat ||| resultRow.flags) / 2 ^ 10) = 0 ∧
    (s.core 0).token resultRow.push < 15 ∧ s.vecHeld 0 = false ∧ (s.core 0).matrixBehind = false ∧ resultRow.second = [] := by decide +kernel

theorem witness_stream_ends : ((vec 0 fun v => { v with stopIssued := true }).core 0).vs.land = [] ∧
    (let s := jobState fun k => { k with ms := { MStream.reset with st := .running, stopIssued := true } }
     (s.core 0).ms.st = .running ∧ (s.core 0).ms.step = none ∧ (s.core 0).ms.mldi = []) := by decide +kernel

/-- A running matrix stream, generators whose elements are all padded, tensor 64 of a format, a token in cm. -/
def mat (format : Word) (f : MStream → MStream) : State :=
  (jobState fun k => { k.setToken 3 1 with vs := { VStream.reset with st := .ended }, ms := f { MStream.reset with st := .running, snapshot := [0x80000040] } }).modCore 0 fun k =>
    { k with job := some { job1 with shapes := [(64, [format])] } }

def hcm : MHdr := { guard := 8, pop := 3, push := 4 }
def tile1 : MTile := { slotA := 0, slotB := 0, slotC := 0, absorb := false, m := 1, n := 1, k := 1, tile := 7, acc := true, offset := 131071, genA := 0, offA := -1, genB := 0, offB := -1 }

theorem witness_matrix_ready : MatReady (mat 0 id) hcm := ⟨by decide +kernel, by decide +kernel, by decide +kernel⟩

theorem witness_tiles : (mat 0 id).ms.atStop = 0 ∧ slotsOk ((mat 0 id).ms.entry 0) ((mat 0 id).ms.entry 0) ((mat 0 id).ms.entry 0) = true ∧ 0 < (mat 0 id).here.token 3 ∧
    (match (mat 0 id).tileStepOut ((mat 0 id).matEnv (mat 0 id).ms) (stepIn .mma tile1 (mat 0 id).ms) with | .step c _ _ _ _ => c | _ => 0) = 1 ∧
    (mat 0 id).ms.pred 9 = false ∧ slotsOk ((mat 0 fun m => { m with fmt := [(0, 3)] }).ms.entry 0) 0 0 = false ∧
    (match (mat 0 id).tileStepOut ((mat 0 id).matEnv (mat 0 id).ms) (stepIn .mma { tile1 with n := 2 } (mat 0 id).ms) with | .halt (.stop c) => c | _ => 0) = 0x01 := by decide +kernel

/-- An absorbing MMA over operands that lie in the padding, and an MMA whose operand lies in a poisoned line of frame 2 of tier 3 (08 R194, R197, 17 R335). -/
def badMma : State :=
  ((mat 0 id).modCore 0 fun k => { k with job := some { job1 with shapes := [(64, [0, 1 + 2 ^ 21 + 2 ^ 42, 1, 1, 0x10000, 1, 0, 0])] } }).write 0x10000 8 (2 * 2 ^ 53 + 2 ^ 47 + 3 * 2 ^ 28 + 2)
    |>.setPoison 0x20000 true

theorem witness_absorbs : let s := mat 0 id
    absorbs s (s.matEnv s.ms) (stepIn .mma { tile1 with absorb := true } s.ms) (genPos s.ms.snapshot 0 (s.matEnv s.ms).idx) (genPos s.ms.snapshot 0 (s.matEnv s.ms).idx) = true ∧
    absorbs s (s.matEnv s.ms) (stepIn .mma tile1 s.ms) (genPos s.ms.snapshot 0 (s.matEnv s.ms).idx) (genPos s.ms.snapshot 0 (s.matEnv s.ms).idx) = false ∧
    (match badMma.tileStepOut (badMma.matEnv badMma.ms) (stepIn .mma { tile1 with offA := 0, offB := 0 } badMma.ms) with | .poison c l => (c, l) | _ => (0, [])) = (1, [0x20000, 0x20000, 0x20000, 0x20000]) := by decide +kernel

theorem readables_padded {s : State} {v : MatEnv} {h : Shape} {us : List Elt} (hu : us.all (fun u => decide (u = .padded)) = true) : Readables s v h us :=
  fun u hm => .inl (of_decide_eq_true (List.all_eq_true.1 hu u hm))

/-- An MMA of two operands that lie in the padding executes normally. -/
theorem witness_tile_fine : let s := mat 0 id
    let v := s.matEnv s.ms
    let p := genPos v.snap 0 v.idx
    TileFine s v (stepIn .mma tile1 s.ms) .ieee 32 16 p p p where
  pair := by decide +kernel
  room := by decide +kernel
  depth := fun h => nomatch h
  latch := fun h => nomatch h
  window := by decide +kernel
  origins := ⟨by decide +kernel, by decide +kernel, fun h => nomatch h⟩
  tensors := ⟨by decide +kernel, by decide +kernel, fun h => nomatch h⟩
  formats := ⟨by decide +kernel, by decide +kernel, fun h => nomatch h⟩
  readA := readables_padded (by decide +kernel)
  readB := readables_padded (by decide +kernel)
  readM := readables_padded (by decide +kernel)
  metadata := by decide +kernel

def emptyElems : Elems := { codes := [], flags := 0, poison := false, bad := [] }

theorem witness_other_tiles : zeroSlotOk ((mat 0 id).ms.entry 0) = true ∧ effOffset (mat 0 id).ms.snapshot 131071 [0, 0] + 1 ≤ 131072 ∧ 131072 < effOffset (mat 0 id).ms.snapshot 131071 [0, 0] + 2 ∧
    (genOf (mat 0 id).ms.snapshot 0).tensor ≠ 0 ∧ (((mat 3 id).matEnv (mat 3 id).ms).shape 64).format = 3 ∧ (((mat 3 id).matEnv (mat 3 id).ms).origin 0 512 false).isSome = true ∧
    (let v := (mat 3 id).matEnv (mat 3 id).ms
     match (mat 3 id).readIndices v (v.shape 64) (padCode (Slot.of 3) 0) [.padded] { values := [], addrs := [], poison := false, bad := [], remote := false } with | .ok a => a.values.length | .error _ => 0) = 1 ∧
    (let v := (mat 0 id).matEnv (mat 0 id).ms
     match (mat 0 id).readElems v (v.shape 64) (Slot.of 0) 0 [.padded] emptyElems with | .ok a => a.poison | .error _ => true) = false ∧
    (pairClass 0 0).isSome = true := by decide +kernel

/-- The index of an MLDI and the operand of an MKAT that lie in the padding. -/
theorem witness_padded_words : (let s := mat 3 id
    let v := s.matEnv s.ms
    (v.origin 0 1 false).isSome = true ∧ (v.shape (genOf s.ms.snapshot 0).tensor).format = 3 ∧ (genOf s.ms.snapshot 0).tensor ≠ 0 ∧
    Readables s v (v.shape (genOf s.ms.snapshot 0).tensor) ((List.range 1).map fun (j : Nat) =>
      locate (v.shape (genOf s.ms.snapshot 0).tensor) (genOf s.ms.snapshot 0).padon (((genPos v.snap 0 v.idx).add (Coord.e0 (-1))).add (Coord.smul j (genOf s.ms.snapshot 0).vc)))) ∧
    (let s := mat 0 id
    let v := s.matEnv s.ms
    pairClass 0 0 = some (.ieee, 32, 16) ∧ (v.origin 0 1 false).isSome = true ∧ (v.shape (genOf s.ms.snapshot 0).tensor).format = 0 ∧
    Readables s v (v.shape (genOf s.ms.snapshot 0).tensor) ((coordsA .mma (genOf s.ms.snapshot 0) ((genPos v.snap 0 v.idx).add (Coord.e0 (-1))) [] tile1).map
      (locate (v.shape (genOf s.ms.snapshot 0).tensor) (genOf s.ms.snapshot 0).padon))) :=
  ⟨⟨by decide +kernel, by decide +kernel, by decide +kernel, readables_padded (by decide +kernel)⟩, ⟨rfl, by decide +kernel, by decide +kernel, readables_padded (by decide +kernel)⟩⟩

/-- L0 of the matrix stream runs to word 9. -/
def mloops (n : Nat) : State := mat 0 fun m => { m with pc := 9, l0 := { start := 2, stop := 9, remaining := n, drain := 0, rot := false, index := 0 } }

theorem witness_matrix_flow : (mat 0 id).ms.l0.running = false ∧ (mloops 2).ms.l0.running = true ∧ 1 < (mloops 2).ms.l0.remaining ∧ (mloops 1).ms.l0.remaining = 1 ∧
    xor ((mat 0 id).ms.pred 9) true = true ∧ xor ((mat 0 id).ms.pred 9) false = false ∧ (mat 0 id).vs.rdv < 1 ∧ (mat 0 id).here.vectorMeets = false ∧
    ((mat 0 id).modHere fun k => { k with vs := { k.vs with st := .running } }).here.vectorMeets = true ∧
    ((mat 0 id).modHere fun k => { k with vs := { k.vs with rdv := 1 } }).vs.rdv = 1 ∧ (mat 0 id).vs.atRdv = false ∧
    ((mat 0 id).modHere fun k => { k with vs := { k.vs with rdv := 1, atRdv := true } }).vs.atRdv = true ∧
    (let s := mat 0 fun m => { (mloops 2).ms with snapshot := m.snapshot, l1 := { start := 5, stop := 9, remaining := 2, drain := 0, rot := false, index := 0 } };
     s.ms.l0.running = true ∧ s.ms.l1.running = true ∧ s.ms.l1.stop = s.ms.pc ∧ 1 < s.ms.l1.remaining) ∧
    (let s := mat 0 fun m => { (mloops 2).ms with snapshot := m.snapshot, l1 := { start := 5, stop := 9, remaining := 1, drain := 0, rot := false, index := 0 } };
     s.ms.l1.running = true ∧ s.ms.l1.remaining = 1) := by decide +kernel

def flying (w : StepWrites) : MatStep := { due := 3, tile := 7, writes := w, slotC := 0, flags := 0, stop := none, fence := false, push := 4, event := 1, word := 0, bad := [] }

theorem witness_matrix_ends : let s := mat 0 fun m => { m with step := some (flying (.zeros [131071])), mldi := [{ due := 0, values := [5], addrs := [], poison := false, arrived := true }] }
    (s.core 0).ms.st = .running ∧ (s.core 0).readsPoison 7 (.zeros [131071]) = false ∧ s.irqStop 0 = false ∧ (s.core 0).token 4 < 15 ∧ (s.core 0).mldiReady = true ∧
    (s.core 0).mfst.toNat / 2 ^ 10 &&& 0x1F = 0 ∧ (s.core 0).ms.atStop = 0 ∧ (s.core 0).vectorFirst = false ∧ s.matHeld 0 = false ∧ (s.core 0).zeroed = none := by decide +kernel

/-- 1 · 1 by an MMA of two padded FP32 operands of pad 1.0, at its last cycle (02 R42, 08 R196). -/
theorem test_mma :
    (match exec (.mma hcm { tile1 with acc := false }) (mat 0 fun m => { m with snapshot := [0x3F80000080000040] }) with
      | .next t => match exec (.matrixStepLastCycle 0) t with | .next u => Tbl.get 0 u.here.acc (131072 * 7 + 131071) | _ => 0
      | _ => 0) = 0x3F800000 := by decide +kernel

theorem test_msig : (match exec (.matrixStepLastCycle 0) (mat 0 fun m => { m with step := some (flying .nothing) }) with | .next u => some (u.here.evw, u.here.token 4, u.ms.cycle) | _ => none) = some (1, 1, 4) := by decide +kernel


/-! ### Commands at work -/

/-- A command image from its doublewords that are not zero. -/
def image (ds : List (Nat × Nat)) : List Word := ds.foldl (fun img p => setAt img p.1 (BitVec.ofNat 64 p.2)) (List.replicate 16 0)

/-- Command 0 of a queue of core 0, which context A pushed with privilege and which runs. -/
def entry (ds : List (Nat × Nat)) : Entry :=
  { seq := 0, image := image ds, st := .running, prio := 0, passes := 0, dep := 0, demand := 0, producers := [], core := 0, ctx := 0, iter := none, priv := true,
    snapshot := [], shapes := [], hasToken := true, work := .pending, progress := 0, begun := false, reruns := 0, met := [], refetches := none, escaped := false, members := [], peers := false, chunks := [], acked := 0, ranks := none, since := 0 }

/-- A state in which the queue's one command acts. -/
def acting (s : State) (q : QueueId) (e : Entry) : State :=
  { s.modQueue q fun v => { v with entries := [e], next := 1 } with focus := { core := 0, ctx := 0, queue := q, seq := e.seq } }

/-- A K.COPY of n bytes from a to b in one row (13 R279). -/
def copyOf (a b n : Nat) : Entry := entry [(0, 0x301), (7, a), (8, b), (9, n)]

/-- A K.FILL of n bytes at a with a doubleword. -/
def fillOf (a v n : Nat) : Entry := entry [(0, 0x304), (7, a), (8, v), (9, n)]

def copies (e : Entry) : State := acting run0 (.cq 0) e

def goesOn : CopyEnd → Bool
  | .going _ => true
  | _ => false

theorem witness_copy_acts : Acts (copies (copyOf 0x100 0x200 64)) (.cq 0) (copyOf 0x100 0x200 64) ∧ Acts (copies (fillOf 0x200 7 24)) (.cq 0) (fillOf 0x200 7 24) :=
  ⟨⟨rfl, by decide +kernel, rfl, rfl⟩, ⟨rfl, by decide +kernel, rfl, rfl⟩⟩

theorem witness_copies : (copyOf 0x102 0x200 64).copyAligned = false ∧ (copyOf 0x100 0x200 64).copyAligned = true ∧ (copyOf 0x100 0x200 64).opcode = 1 ∧
    (copies (copyOf 0x100 0x13C 64)).copyOverlaps (.cq 0) (copyOf 0x100 0x13C 64) = true ∧ (copies (copyOf 0x100 0x140 64)).copyOverlaps (.cq 0) (copyOf 0x100 0x140 64) = false ∧
    ((copies (copyOf 0x100 0x140 64)).ctx 0 0).log.blocks (9 * ((copies (copyOf 0x100 0x140 64)).copyLines (.cq 0) (copyOf 0x100 0x140 64)).length) = false ∧
    goesOn (copyRows (.cq 0) (copyOf 0x100 0x140 64) (List.range (copyOf 0x100 0x140 64).rows) { s := copies (copyOf 0x100 0x140 64), units := [] }) = true ∧
    (copyOf 0x100 0x140 64).rows = 1 ∧ (copyOf 0x100 0x140 64).source.2 = false ∧ (copyOf 0x100 0x140 64).destination.2 = false ∧ (run0.ctx 0 0).log.en = false ∧
    (fillOf 0x200 7 24).copyAligned = true ∧ (fillOf 0x200 7 24).opcode = 4 ∧ (fillOf 0x200 7 24).rows = 1 ∧ (fillOf 0x200 7 24).destination.2 = false := by decide +kernel

theorem clearSram {s : State} {e : Entry} {a n : Nat} (h1 : a + n ≤ 2 ^ 33) (h2 : e.priv = true) (h3 : ∀ k, s.poisoned k = false) : ClearSram s e a n := ⟨⟨h1, .inl h2⟩, fun _ _ => h3 _⟩

/-- Row 0 of a copy, as its one row. -/
theorem only_row {e : Entry} (h : e.rows = 1) {P : Nat → Prop} (h0 : P 0) : ∀ j, j < e.rows → P j := by
  intro j hj
  obtain rfl : j = 0 := by omega
  exact h0

/-- A copy and a fill that execute normally. -/
theorem witness_copy_fine : CopyFine (copies (copyOf 0x100 0x140 64)) (.cq 0) (copyOf 0x100 0x140 64) ∧ CopyFine (copies (fillOf 0x200 7 24)) (.cq 0) (fillOf 0x200 7 24) := by
  refine ⟨⟨by decide +kernel, by decide +kernel, by decide +kernel, rfl, fun h => absurd h (by decide +kernel), fun _ => only_row (by decide +kernel) ⟨by decide +kernel, ?_⟩,
      only_row (by decide +kernel) ⟨by decide +kernel, ?_⟩, fun h => absurd h (by decide +kernel)⟩,
    ⟨by decide +kernel, fun h => absurd h (by decide +kernel), by decide +kernel, rfl, fun h => absurd h (by decide +kernel), fun h => absurd (by decide +kernel) h,
      only_row (by decide +kernel) ⟨by decide +kernel, ?_⟩, fun h => absurd h (by decide +kernel)⟩⟩
  · exact clearSram (by decide +kernel) rfl fun _ => rfl
  · exact ⟨by decide +kernel, .inl rfl⟩
  · exact ⟨by decide +kernel, .inl rfl⟩

/-- A full log holds a copy; the rows of a one-row copy lie apart. -/
theorem witness_copy_room : let e := copyOf 0x100 0x140 64
    ((copies e).modCtx 0 0 fun c => { c with log := { c.log with en := true, stall := true } }).copyRoom (.cq 0) e = 0 ∧
    Apart (rowTo (copies e) e 0).toNat e.rowBytes (rowFrom (copies e) e 0).toNat e.rowBytes := ⟨by decide +kernel, .inr (by decide +kernel)⟩

theorem witness_copy_places : PlainSram (copyOf 0x100 0x140 64) 0x100 64 ∧ PlainSram (copyOf 0x100 (2 ^ 33 - 64) 64) (2 ^ 33 - 64) 64 ∧ (0x100 + 64 ≤ 0x140 ∨ 0x140 + 64 ≤ 0x100) ∧
    ∀ k, k < 64 → (copies (copyOf 0x100 0x140 64)).poisoned (0x100 + k) = false :=
  ⟨⟨by decide, .inl rfl⟩, ⟨by decide, .inl rfl⟩, by decide, fun _ _ => rfl⟩

/-- What a command's turn leaves of memory and of its work. -/
def workAfter (i : Instr) (s : State) (a : Nat) : Option (Nat × Option Work) :=
  match exec i s with
  | .next t => some (t.read a 4, ((t.queue s.focus.queue).find s.focus.seq).map (·.work))
  | _ => none

theorem test_copy : (workAfter (.kCopy (hd 3) (od 0)) ((copies (copyOf 0x100 0x140 4)).write 0x100 4 0xDEADBEEF) 0x140).map (·.1) = some 0xDEADBEEF ∧
    workAfter (.kCopy (hd 3) (od 0)) (copies (copyOf 0x100 0x102 8)) 0x140 = some (0, some (.failed 3 false)) ∧
    workAfter (.kCopy (hd 3) (od 0)) (copies (copyOf 0x100 0x104 8)) 0x140 = some (0, some (.failed 8 false)) ∧
    (workAfter (.kFill (hd 3) (od 0)) (copies (fillOf 0x200 0x1122334455667788 8)) 0x204).map (·.1) = some 0x11223344 := by decide +kernel

/-- A gather of two rows of 4 bytes with the indices at 0x300 and a pitch of 4, and the scatter of them (13 R279). -/
def gatherOf (op : Nat) : Entry := entry [(0, 0x300 + op), (7, 0x100), (8, 0x200), (9, 4 + 2 ^ 32), (10, 0x300), (11, 4 * 2 ^ 16)]

theorem test_gather_and_scatter :
    (workAfter (.kGather (hd 3) (od 0)) (((copies (gatherOf 2)).write 0x108 4 77).write 0x304 4 2) 0x204).map (·.1) = some 77 ∧
    (workAfter (.kScatter (hd 3) (od 0)) (((copies (gatherOf 3)).write 0x104 4 77).write 0x304 4 2) 0x208).map (·.1) = some 77 := by decide +kernel

/-! #### Small commands -/

/-- A K.FEED of n doublewords at a (13 R279); z0's producer end is owned by the feeding commands. -/
def feedOf (a n : Nat) : Entry := entry [(0, 0x305), (7, a), (9, n), (10, 8), (11, 12)]
def feeding (e : Entry) : State := (copies e).modCore 0 fun k => k.setRing 0 { k.ring 0 with prod := 3 }

theorem witness_small_commands : Acts (feeding (feedOf 0x100 2)) (.cq 0) (feedOf 0x100 2) := ⟨rfl, by decide +kernel, rfl, rfl⟩

theorem witness_feeds : (((copies (feedOf 0x100 2)).core 0).ring 0).prod ≠ 3 ∧ (((feeding (feedOf 0x100 2)).core 0).ring 0).prod = 3 ∧ (((feeding (feedOf 0x100 2)).core 0).ring 0).depth ≠ 0 ∧
    (feedOf 0x104 2).d 7 % 8 ≠ 0 ∧ (feedOf 0x100 2).d 7 % 8 = 0 ∧ bitsOf ((feedOf 0x100 2).d 10) 31 0 % 8 = 0 ∧
    (match feedFrom (.cq 0) (feedOf 0x100 2) 8 0 [0, 1] (feeding (feedOf 0x100 2)) 0 with | .inl (_, n, w) => decide (n = 2) && w.isSome | .inr _ => false) = true := by decide +kernel

theorem witness_feed_values : let e := feedOf 0x100 2
    e.source.2 = false ∧ (∀ j, e.progress ≤ j → j < e.rowBytes → 0 ≤ (e.d 7 : Int) + (j : Nat) * sextNat 32 (bitsOf (e.d 10) 31 0) ∧
      ClearSram (feeding e) e ((e.d 7 : Int) + (j : Nat) * sextNat 32 (bitsOf (e.d 10) 31 0)).toNat 8) ∧
    (let r := ((feeding e).core 0).ring 0
     r.pops ≤ r.pushes ∧ r.entries.length = r.pushes - r.pops ∧ r.entries.length + (e.rowBytes - e.progress) ≤ r.depth) := by
  have hr : (feedOf 0x100 2).rowBytes = 2 := by decide +kernel
  have h0 : (0 : Int) ≤ 256 ∧ 256 + 16 ≤ 2 ^ 33 := by decide
  refine ⟨by decide +kernel, fun j _ hj => ?_, by decide +kernel⟩
  rw [hr] at hj
  have h7 : (feedOf 0x100 2).d 7 = 256 := by decide +kernel
  have h8 : sextNat 32 (bitsOf ((feedOf 0x100 2).d 10) 31 0) = 8 := by decide +kernel
  rw [h7, h8]
  exact ⟨by omega, clearSram (by omega) rfl fun _ => rfl⟩

theorem witness_events_of_commands : (match (copies (entry [(0, 0x314)])).eventObject (.cq 0) (entry [(0, 0x314)]) with | .ok none => true | _ => false) = true ∧
    (match (copies (entry [(0, 0x314), (7, 0x201)])).eventObject (.cq 0) (entry [(0, 0x314), (7, 0x201)]) with | .error c => c == 3 | _ => false) = true := by decide +kernel

theorem test_feed : (match exec (.kFeed (hd 3) (od 0)) ((feeding (feedOf 0x100 2)).write 0x108 8 9) with | .next t => some (t.here.ring 0).entries | _ => none) = some [0, 9] := by decide +kernel

theorem test_prefetch : (match exec (.kPrefetch (hd 3) (od 0)) (acting (paged (entryOf 2)) (.cq 0) (entry [(0, 0x316), (7, 2 ^ 44), (9, 64)])) with
    | .next t => some (bitsOf (t.read (2 ^ 52 + 131072) 8) 63 56) | _ => none) = some 17 := by decide +kernel

/-! #### Jobs, nests and kernels -/

/-- A K.JOB with a vector stream at 0x1000 and no matrix stream; its snapshot is three generators. -/
def jobOf : Entry := { entry [(0, 0x206), (7, 0x1000)] with snapshot := [7, 8, 9] }


theorem witness_jobs : Acts (acting run0 (.vq 0) jobOf) (.vq 0) jobOf ∧ jobOf.progress = 0 ∧ jobOf.d 7 ≠ 0 ∧ jobOf.d 8 = 0 := ⟨⟨rfl, by decide +kernel, rfl, rfl⟩, rfl, by decide +kernel, by decide +kernel⟩

theorem test_job : (match exec (.kJob (hd 1) (od 0)) (acting run0 (.vq 0) jobOf) with
    | .next t => some (t.here.vs.st, t.here.vs.base, t.here.ms.st, t.here.job.isSome) | _ => none) = some (.running, 0x1000, .absent, true) := by decide +kernel


/-- A K.NEST of one element of an MZERO, its six counts in its snapshot. -/
def nestCommand (counts : Nat) : Entry :=
  let w := encode (.mzero k0 0 1 1 0 9)
  { entry [(0, 0x107), (7, w % 2 ^ 64), (8, w / 2 ^ 64 % 2 ^ 64), (9, w / 2 ^ 128), (11, 7 * 2 ^ 32)] with
    snapshot := (List.range 90).map fun i => if i = 88 then BitVec.ofNat 64 (counts + 2 ^ 16 + 2 ^ 32 + 2 ^ 48) else if i = 89 then 0x10001 else 0 }

def nesting (counts : Nat) : State := (acting run0 (.mq 0) (nestCommand counts)).modCore 0 fun k => { k with acc := Tbl.set 0 k.acc 9 5 }

theorem witness_nests : Acts (nesting 1) (.mq 0) (nestCommand 1) ∧ 0 ∈ nestCounts (nestCommand 0).snapshot ∧ 0 ∉ nestCounts (nestCommand 1).snapshot ∧
    (match (nesting 1).nestSteps 0 (nestCommand 1) (nestTuples (nestCounts (nestCommand 1).snapshot)) { k := (nesting 1).core 0, keys := [] } with | .going r => r.keys == [9] | _ => false) = true :=
  ⟨⟨rfl, by decide +kernel, rfl, rfl⟩, by decide +kernel, by decide +kernel, by decide +kernel⟩

/-- A K.NEST of one MMA whose operands lie in the padding. -/
def nestOfMma : Entry :=
  let w := encode (.mma k0 tile1)
  { entry [(0, 0x107), (7, w % 2 ^ 64), (8, w / 2 ^ 64 % 2 ^ 64), (9, w / 2 ^ 128), (11, 7 * 2 ^ 32)] with
    shapes := [(64, [0])], snapshot := (List.range 90).map fun i => if i = 0 then 0x80000040 else if i = 88 then 0x0001000100010001 else if i = 89 then 0x10001 else 0 }

theorem witness_nest_of_mma : let s := acting run0 (.mq 0) nestOfMma
    Acts s (.mq 0) nestOfMma ∧ 0 ∉ nestCounts nestOfMma.snapshot ∧ (decodeMatrix nestOfMma.nestWord).toOption = some (.mma k0 tile1) ∧ slotsOk 0 0 0 = true ∧
      (s.core 0).mfst.toNat / 2 ^ 10 % 32 = 0 ∧ (s.core 0).accPoison = [] ∧
    ∀ idx ∈ nestTuples (nestCounts nestOfMma.snapshot), TileFine s (s.nestEnv 0 nestOfMma idx) (nestIn nestOfMma .mma tile1 idx) .ieee 32 16
      (genPos nestOfMma.snapshot 0 idx) (genPos nestOfMma.snapshot 0 idx) (genPos nestOfMma.snapshot 0 idx) := by
  refine ⟨⟨rfl, by decide +kernel, rfl, rfl⟩, by decide +kernel, by decide +kernel, by decide +kernel, by decide +kernel, rfl, fun idx h => ?_⟩
  rw [show nestTuples (nestCounts nestOfMma.snapshot) = [[0, 0, 0, 0, 0, 0]] by decide +kernel] at h
  obtain rfl : idx = [0, 0, 0, 0, 0, 0] := by simpa using h
  exact
    { pair := by decide +kernel
      room := by decide +kernel
      depth := fun h => nomatch h
      latch := fun h => nomatch h
      window := by decide +kernel
      origins := ⟨by decide +kernel, by decide +kernel, fun h => nomatch h⟩
      tensors := ⟨by decide +kernel, by decide +kernel, fun h => nomatch h⟩
      formats := ⟨by decide +kernel, by decide +kernel, fun h => nomatch h⟩
      readA := readables_padded (by decide +kernel)
      readB := readables_padded (by decide +kernel)
      readM := readables_padded (by decide +kernel)
      metadata := by decide +kernel }

theorem test_nest : (match exec (.kNest (hd 1) (od 0)) (nesting 1) with | .next t => Tbl.get 0 t.here.acc 9 | _ => 1) = 0 := by decide +kernel

/-- A record of one iteration on core 0 whose contexts start at 0x400, 0x500 and 0x600, with the iteration number in x5 (14 R286). -/
def record (core : Nat) : List Word :=
  image [(0, 1), (1, 0x400), (2, 0x500), (3, 0x600), (4, 0x0001000100010001), (5, 0x10001), (7, 2 ^ (core / 256)), (8, 5 * 2 ^ 30), (9, 0)] ++ List.replicate 16 0

def writeAll (s : State) (a : Nat) (ws : List Word) : State := (ws.zipIdx).foldl (fun s w => s.writeD (a + 8 * w.2) w.1) s

/-- A K.KERNEL of the record at 0x1000. -/
def kernelOf (a : Nat) (wait : Bool) : Entry := entry [(0, 0x313), (7, a), (8, if wait then 0x105 else 5)]
def placing (a : Nat) (wait : Bool) : State := writeAll (acting run0 (.cq 0) (kernelOf a wait)) 0x1000 (record 0)

theorem witness_kernel_commands : Acts (placing 0x1000 true) (.cq 0) (kernelOf 0x1000 true) ∧ (kernelOf 0x1000 true).progress = 0 ∧ (kernelOf 0x1080 true).d 7 % 256 ≠ 0 ∧
    (kernelOf 0x1000 true).d 7 % 256 = 0 ∧ (match (placing 0x1000 true).cmdDoublewords (.cq 0) (kernelOf 0x1000 true) 0x1000 32 with | (_, .inl r) => decide (r = record 0) | _ => false) = true ∧
    recCause 0x1000 (record 0) false = none ∧ ((placing 0x1000 true).kq 5).length < 16 ∧ bitOf ((kernelOf 0x1000 true).d 8) 8 = true ∧ bitOf ((kernelOf 0x1000 false).d 8) 8 = false :=
  ⟨⟨rfl, by decide +kernel, rfl, rfl⟩, rfl, by decide +kernel⟩

/-- The record lies in plain SRAM; or in the gap of the map, where the pushing context wants the trap (14 R293). -/
theorem witness_record_places : ClearSram (placing 0x1000 true) (kernelOf 0x1000 true) ((kernelOf 0x1000 true).d 7) 256 ∧
    recCause 0x1000 ((List.range 32).map fun j => (placing 0x1000 true).readD (0x1000 + 8 * j)) false = none ∧
    (let s := (acting run0 (.cq 0) (kernelOf (2 ^ 44 - 256) false)).modCtx 0 0 fun c => { c with sporen := true };
     s.recordOutside (.cq 0) (kernelOf (2 ^ 44 - 256) false) = true) :=
  ⟨clearSram (by decide +kernel) rfl fun _ => rfl, by decide +kernel, by decide +kernel⟩

theorem test_kernel_command : (match exec (.kKernel (hd 3) (od 0)) (placing 0x1000 false) with | .next t => (t.kq 5).map (fun k : Kernel => (k.st, k.record == record 0)) | _ => []) = [(.armed, true)] := by decide +kernel

/-- A kernel of a record in queue 0. -/
def kernel (st : KernelSt) (handed : Nat) (r : List Word) (placer : Option (QueueId × Nat)) : Kernel :=
  { id := 0, record := r, placer := placer, owner := none, priv := true, ran := false, st := st, cause := 0, handed := handed, ended := handed, nextOf := [], live := [] }
def withKernel (k : Kernel) : State := { State.reset with kqs := [(0, [k])], kernelIds := 1, mgmt := { Mgmt.reset with stage := 5 } }

theorem witness_kernels : (withKernel (kernel .armed 0 (record 0) none)).kq 0 = kernel .armed 0 (record 0) none :: [] ∧ recD (record 0) 6 ≤ State.reset.time ∧ recBind (record 0) = false ∧
    recLock (record 0) = false ∧ recDet (record 0) = false ∧ 0 < recTotal (record 0) ∧
    ((recCores (record 0)).filter fun c => ((withKernel (kernel .running 0 (record 0) none)).core c).free && !(kernel .running 0 (record 0) none).live.any fun p => p.1 == c).head? = some 0 ∧
    (withKernel (kernel .running 0 (record 0) none)).takenBefore 0 [(0, 0)] = false ∧ recD (record 0) 1 ≠ 0 ∧ (recPre (record 0)).getD 6 0 = 5 := by decide +kernel

theorem witness_kernel_ends : (kernel .running 1 (record 0) none).live = [] ∧ (withKernel (kernel .running 1 (record 0) none)).kernelCommands 0 0 = false ∧ recTotal (record 0) ≤ 1 ∧
    recIrq (record 0) = false ∧ recD (record 0) 11 = 0 ∧ recD (setAt (record 0) 11 0x800) 11 % 8 = 0 ∧ recD (setAt (record 0) 11 0x800) 11 ≠ 0 ∧ recD (setAt (record 0) 11 0x800) 11 < 2 ^ 33 ∧
    (kernel .running 1 (record 0) (some (.cq 0, 3))).placer = some (.cq 0, 3) ∧ (kernel .faulted 1 (record 0) none).st = .faulted := by decide +kernel

theorem test_iteration : (match exec (.iterationHandoff 0) (withKernel (kernel .running 0 (record 0) none)) with
    | .next t => some ((t.ctx 0 1).pc, (t.ctx 0 1).getX 31, (t.ctx 0 1).st, (t.kq 0).map (fun k : Kernel => k.handed)) | _ => none) =
      some (0x500, 0xFFFFFFFFFFFFFFFC, .running, [1]) := by decide +kernel

theorem test_completion : (match exec (.kernelRetire 0) (withKernel (kernel .running 1 (setAt (record 0) 11 0x800) none)) with
    | .next t => some (t.read 0x800 8, (t.kq 0).length) | _ => none) = some (2 ^ 32 + 3, 0) := by decide +kernel

/-! #### The optical unit -/

/-- Unit 0 in a state, with a command that acts. -/
def optic (st : OfuSt) (e : Entry) : State :=
  acting (run0.setOfu 0 { run0.ofu 0 with st := st }) (.oq 0) e

/-- A K.OFT of one frame from an address to 0x20000, with the formats of its two slots. -/
def oftOf (inFmt outFmt src : Nat) : Entry := entry [(0, 0x408), (7, src), (8, 0x20000), (10, inFmt + outFmt * 2 ^ 32)]

theorem witness_frames : Acts (optic .ready (oftOf 10 9 0)) (.oq 0) (oftOf 10 9 0) ∧ ((optic .ready (oftOf 10 9 0)).ofu 0).frameBuf = none ∧ ((optic .dark (oftOf 10 9 0)).ofu 0).st = .dark ∧
    ((optic .stale (oftOf 10 9 0)).ofu 0).st = .stale ∧ ((optic .stale (oftOf 10 9 0)).ofu 0).auto = false ∧
    (((optic .stale (oftOf 10 9 0)).setOfu 0 { (optic .stale (oftOf 10 9 0)).ofu 0 with auto := true }).ofu 0).auto = true ∧
    bitsOf ((oftOf 10 9 0).d 10) 3 0 = 10 ∧ bitsOf ((oftOf 10 9 0).d 10) 35 32 = 9 ∧ bitsOf ((oftOf 10 8 0).d 10) 35 32 ≠ 9 ∧ (oftOf 10 9 0).d 7 % 4 = 0 ∧ (oftOf 10 9 2).d 7 % 4 ≠ 0 ∧
    (oftOf 10 9 0).d 8 % 4 = 0 :=
  ⟨⟨rfl, by decide +kernel, rfl, rfl⟩, by decide +kernel⟩

/-- The same K.OFT of two frames, with frame 0 in the optics and frame 1 read or faulted behind it. -/
def oftOfTwo : Entry := { oftOf 10 9 0 with image := setAt (oftOf 10 9 0).image 9 (1 * 2 ^ 16 + 2 ^ 32 + 2 ^ 48) }

theorem witness_read_ahead : let s := optic .ready oftOfTwo
    let lit (s : State) := s.setOfu 0 { s.ofu 0 with frameBuf := some (0, [7, 7]) }
    Acts s (.oq 0) oftOfTwo ∧ (lit s).nextUnread (.oq 0) oftOfTwo 0 = true ∧ (lit (optic .ready (oftOf 10 9 0))).nextUnread (.oq 0) (oftOf 10 9 0) 0 = false ∧
      ClearSram s oftOfTwo (oftOfTwo.d 7) (2 * oftOfTwo.oftMode.side * oftOfTwo.oftMode.side) ∧ PlainSram oftOfTwo (oftOfTwo.d 8) 262144 ∧
    (s.setOfu 0 { s.ofu 0 with frameNext := some (0, .inl [5]) }).ofu 0 = { s.ofu 0 with frameNext := some (0, .inl [5]) } ∧
    ((s.setOfu 0 { s.ofu 0 with frameNext := some (0, .inr (6, false)) }).ofu 0).frameNext = some (0, .inr (6, false)) :=
  ⟨⟨rfl, by decide +kernel, rfl, rfl⟩, by decide +kernel, by decide +kernel, clearSram (by decide +kernel) rfl fun _ => rfl, ⟨by decide +kernel, .inl rfl⟩, by decide +kernel, by decide +kernel⟩

/-- A frame of two elements whose light has ended. -/
theorem witness_frame_done : let s := (optic .ready (oftOf 10 9 0)).setOfu 0 { (optic .ready (oftOf 10 9 0)).ofu 0 with frameBuf := some (0, [0x3F800000, 7]) }
    (s.ofu 0).frameBuf = some (0, [0x3F800000, 7]) ∧ ((s.ofu 0).queue.entries.find? fun e => decide (e.st = .running)) = some (oftOf 10 9 0) ∧
    (s.ofu 0).queue.find (oftOf 10 9 0).seq = some (oftOf 10 9 0) ∧ bitOf ((oftOf 10 9 0).d 9) 15 = false ∧ bitsOf ((oftOf 10 9 0).d 9) 31 16 = 0 ∧
    (writeUnitsAt (.oq 0) (oftOf 10 9 0) 0x20000 false [(0, 0x3F800000), (4, 7)] s).2 = none := by decide +kernel

theorem test_frame_done : (match exec (.ofuFrameDone 0) ((optic .ready (oftOf 10 9 0)).setOfu 0 { (optic .ready (oftOf 10 9 0)).ofu 0 with frameBuf := some (0, [0x3F800000, 7]) }) with
    | .next t => some (t.read 0x20000 8, (t.ofu 0).frameBuf.isNone) | _ => none) = some (0x000000073F800000, true) := by decide +kernel

/-- A K.OMASK of bank 3 from 0 and a calibration command at an address. -/
def maskOf (src : Nat) : Entry := entry [(0, 0x409), (7, src), (8, 3)]
def calOf (a : Nat) : Entry := entry [(0, 0x40A), (7, a)]

theorem readUnits_flat (q : QueueId) (e : Entry) (s : State) (h : ∀ o : Int, s.cmdRead q e e.source.1 e.source.2 o 4 = .ok 0 s) :
    ∀ os, readUnits q e e.source.1 e.source.2 os s = (s, .inl (List.replicate os.length 0))
  | [] => rfl
  | o :: os => by simp [readUnits, h, readUnits_flat q e s h os, List.replicate_succ]

theorem witness_masks : Acts (optic .ready (maskOf 0)) (.oq 0) (maskOf 0) ∧ ((optic .ready (maskOf 0)).ofu 0).maskBuf = none ∧ (maskOf 0).source.2 = false ∧ (maskOf 0).d 7 % 4 = 0 ∧
    ((optic .dark (maskOf 0)).ofu 0).st = .dark ∧ Acts (optic .dark (calOf 64)) (.oq 0) (calOf 64) ∧ (calOf 32).d 7 % 64 ≠ 0 ∧ (calOf 64).d 7 % 64 = 0 ∧ (run0.ctx 0 0).log.en = false ∧
    calReserved (List.replicate 64 0) = false ∧ calReserved (List.replicate 64 255) = true :=
  ⟨⟨rfl, by decide +kernel, rfl, rfl⟩, by decide +kernel, by decide +kernel, by decide +kernel, by decide +kernel, ⟨rfl, by decide +kernel, rfl, rfl⟩, by decide +kernel⟩

theorem witness_mask_places : ClearSram (optic .ready (maskOf 0)) (maskOf 0) ((maskOf 0).d 7) 131072 ∧ ClearSram (optic .ready (calOf 64)) (calOf 64) ((calOf 64).d 7) calBytes ∧
    ((optic .ready (calOf 64)).modCtx 0 0 fun c => { c with log := { c.log with en := true, stall := true } } : State).cur.log.blocks (9 * (calBytes / 64)) = true ∧
    (((optic .ready (calOf 64)).setOfu 0 { (optic .ready (calOf 64)).ofu 0 with calNext := some [] }).ofu 0).calNext = some [] ∧ (calOf 64).opcode = 0x0A :=
  ⟨clearSram (by decide +kernel) rfl fun _ => rfl, clearSram (by decide +kernel) rfl fun _ => rfl, by decide +kernel, by decide +kernel, by decide +kernel⟩

theorem witness_mask_set : let s := (optic .ready (maskOf 0)).setOfu 0 { (optic .ready (maskOf 0)).ofu 0 with maskBuf := some (3, [5, 0xFFF]) }
    (s.ofu 0).maskBuf = some (3, [5, 0xFFF]) ∧ ((s.ofu 0).queue.entries.find? fun e => decide (e.st = .running)) = some (maskOf 0) ∧ (s.ofu 0).queue.find (maskOf 0).seq = some (maskOf 0) ∧
    [5, 0xFFF].length ≤ 65536 := by decide +kernel

theorem test_mask_set : (match exec (.ofuMaskSetDone 0) ((optic .ready (maskOf 0)).setOfu 0 { (optic .ready (maskOf 0)).ofu 0 with maskBuf := some (3, [5, 0xFFF]) }) with
    | .next t => some ((t.ofu 0).bin 3 1, (t.ofu 0).bin 4 1) | _ => none) = some (0xFFF, 0x3F) := by decide +kernel

theorem witness_units : ((optic .calibrating (calOf 64)).ofu 0).st = .calibrating ∧ (optic .calibrating (maskOf 0)).runningOcal 0 = none ∧ ((optic .warming (calOf 64)).ofu 0).st = .warming ∧
    (run0.ofu 0).busy = false ∧ ((optic .ready (calOf 64)).ofu 0).busy = true ∧
    (let e := { calOf 64 with st := .faulted }
     ((optic .ready e).queue (.oq 0)).find 0 = some e ∧ e.st = .faulted) := by decide +kernel

theorem test_calibration : (match exec (.ofuCalibrationDone 0 true) (optic .calibrating (maskOf 0)) with
    | .next t => some ((t.ofu 0).st, (t.ofu 0).epoch, (t.ofu 0).valid) | _ => none) = some (.ready, 1, 50000000) := by decide +kernel

/-! #### Collectives and pages -/

/-- A K.ALLRED of one member of this module: two FP32 elements from a to b with a rank table (19 R348). -/
def allredOf (a b table : Nat) : Entry := { entry [(0, 0x50B), (7, a), (8, b), (9, 2), (10, table)] with members := [(0, 0)] }
def sharing (e : Entry) : State := acting run0 (.lq 0) e

def ranksAre (r : State × (Ranks ⊕ (Nat × Bool ⊕ Nat))) (m : Nat) : Bool := match r.2 with | .inl v => v.modules == m | .inr _ => false

/-- A rank table of this module and of node 1, one member each (19 R349). -/
def twoModules (e : Entry) : State := (((sharing e).write 0x600 8 2).write 0x608 8 (2 ^ 16)).write 0x610 8 (2 ^ 16 + 1)

theorem witness_collective_acts : Acts (sharing (allredOf 0x100 0x200 0)) (.lq 0) (allredOf 0x100 0x200 0) ∧ Acts (twoModules (allredOf 0x100 0x200 0x600)) (.lq 0) (allredOf 0x100 0x200 0x600) :=
  ⟨⟨rfl, by decide +kernel, rfl, rfl⟩, ⟨rfl, by decide +kernel, rfl, rfl⟩⟩

theorem witness_collectives : (allredOf 0x100 0x200 4).d 10 ≠ 0 ∧ (allredOf 0x100 0x200 4).d 10 % 8 ≠ 0 ∧
    ranksAre ((sharing (allredOf 0x100 0x200 0)).collRanks (.lq 0) (allredOf 0x100 0x200 0)) 1 = true ∧
    (allredOf 0x102 0x200 0).collCause { modules := 1, total := 1, first := 0 } = some 3 ∧ (allredOf 0x100 0x200 0).collCause { modules := 1, total := 1, first := 0 } = none ∧
    (allredOf 0x100 0x200 0).chunkCount { modules := 1, total := 1, first := 0 } = 1 ∧
    (let r := { modules := 1, total := 1, first := 0 }
     let t1 := (sharing (allredOf 0x100 0x200 0)).keepRanks (.lq 0) (allredOf 0x100 0x200 0) r
     ((t1.queue (.lq 0)).find 0).map fun b => ((t1.foldChunk (.lq 0) b r 0).2 : Option ((Nat × Bool) ⊕ Nat))) = some none := by
  decide +kernel

/-- An all-reduce of this module alone that executes normally. -/
theorem witness_coll_fine : let e := allredOf 0x100 0x200 0
    CollFine (sharing e) e ∧ e.collFormat = 0 ∧ e.opcode = 0x0B ∧ Apart (blockAt (e.d 7) 8 0) 8 (blockAt (e.d 8) 8 0) 8 := by
  have h : (allredOf 0x100 0x200 0).members.length = 1 := rfl
  refine ⟨⟨⟨rfl, rfl, by decide +kernel, by decide +kernel⟩, by decide +kernel, fun h => absurd h (by decide +kernel), fun j hj => ?_, fun j hj => ?_⟩, by decide +kernel, by decide +kernel,
    .inl (by decide +kernel)⟩
  all_goals
    rw [h] at hj
    obtain rfl : j = 0 := by omega
  · exact clearSram (by decide +kernel) rfl fun _ => rfl
  · exact ⟨by decide +kernel, .inl rfl⟩

def peering (c : List (Nat × Nat × List Nat)) : Entry := { allredOf 0x100 0x200 0x600 with peers := true, chunks := c, ranks := some (2, 2, 0) }
def ranks2 : Ranks := { modules := 2, total := 2, first := 0 }

theorem witness_modules : ranksAre ((twoModules (allredOf 0x100 0x200 0x600)).collRanks (.lq 0) (allredOf 0x100 0x200 0x600)) 2 = true ∧ (allredOf 0x100 0x200 0x600).peers = false ∧
    (peering []).nextChunk ranks2 = none ∧ (peering [(1, 0, [5, 6])]).nextChunk ranks2 = some 0 ∧
    ((twoModules (peering [(1, 0, [5, 6])])).foldChunk (.lq 0) (peering [(1, 0, [5, 6])]) ranks2 0).2 = none := by decide +kernel

/-- The same command before the other module's runs. -/
def alone : Entry := { peering [] with peers := false }

theorem witness_meetings_of_modules : (twoModules alone).runningColl (.lq 0) 0 = some (alone, ranks2) ∧ alone.keptRanks = some ranks2 ∧ alone.peers = false ∧
    (peering []).lacks ranks2 = true ∧ (peering [(1, 0, [5, 6])]).lacks ranks2 = false ∧ ((run0.setStrand 17 { Strand.reset with st := .suspect }).strand 17).st = .suspect ∧
    (twoModules (peering [])).runningColl (.lq 0) 0 = some (peering [], ranks2) ∧ (allredOf 0x100 0x200 0x600).collCause ranks2 = none ∧ (peering []).chunkCount ranks2 = 1 ∧
    (peering []).localRank ranks2 1 = false ∧ ((peering []).needs ranks2 0 1).length = 2 ∧ (peering []).contribution 1 0 = none ∧ (peering [(1, 0, [5, 6])]).contribution 1 0 ≠ none ∧
    ((peering [(chunkWritten, 0, [])]).chunks.any fun x => x.1 == chunkWritten && x.2.1 == 0) = true ∧
    (run0.setStrand 17 { Strand.reset with st := .up }).strand 17 = { Strand.reset with st := .up } := by decide +kernel

/-- 1.0 + 2.0 over two modules (19 R353): what the chunk's write leaves. -/
theorem test_allreduce : let e := peering [(1, 0, [0x40000000, 0])]
    (((twoModules e).write 0x100 4 0x3F800000).foldChunk (.lq 0) e ranks2 0).1.read 0x200 4 = 0x40400000 := by decide +kernel

/-- A K.MIGR or K.DISCARD of one entry, which stands at a place in memory, to frame 9. -/
def pageCommand (op a progress : Nat) : Entry := { entry [(0, 0x300 + op), (7, a), (8, 9)] with progress := progress, chunks := if progress = 0 then [] else [(0, 0, [0, 0])] }
def pageActs (e : Entry) (v : Nat) : State := (acting run0 (.cq 0) e).write 0x800 8 v

def reachesOf (r : CmdReach) (l : Nat) : Bool := match r with | .loc m _ => l == m | _ => false

theorem witness_pages : Acts (pageActs (pageCommand 0x11 0x800 0) (entryOf 2)) (.cq 0) (pageCommand 0x11 0x800 0) ∧ (pageCommand 0x11 0x804 0).pagesAligned = false ∧
    (pageCommand 0x11 0x800 0).pagesAligned = true ∧ (pageCommand 0x11 0x800 0).d 11 = 0 ∧ (pageCommand 0x11 0x800 2).pages ≤ 2 / 2 ∧ 0 / 2 < (pageCommand 0x11 0x800 0).pages ∧
    reachesOf ((pageActs (pageCommand 0x11 0x800 0) (entryOf 2)).cmdReach (.cq 0) (pageCommand 0x11 0x800 0) 0x800 false 0 true) 0x800 = true ∧
    peState (entryOf 2) = 2 ∧ peState (entryOf 0) = 0 ∧ peState (entryOf 3) = 3 ∧ peState (entryOf 5) = 5 ∧ peState (entryOf 7) = 7 ∧ peMalformed (entryOf 2) true true = false ∧
    bitsOf ((pageCommand 0x11 0x800 0).d 8) 33 32 ≠ 1 ∧ bitOf (entryOf 3) 48 = false ∧ Tbl.get 2 (pageActs (pageCommand 0x11 0x800 1) (entryOf 3)).moves 0x800 = 2 ∧
    (pageCommand 0x11 0x800 1).d 10 = 0 ∧ Memory.wf (pageActs (pageCommand 0x11 0x800 1) (entryOf 3)).mem = true ∧ ((pageCommand 0x11 0x800 1).target 0 false).1 = 9 ∧
    0x800 + 8 ≤ frameBase 9 :=
  ⟨⟨rfl, by decide +kernel, rfl, rfl⟩, by decide +kernel⟩

theorem witness_page_reads : let e := pageCommand 0x11 0x800
    let reads (s : State) (q : QueueId) (e : Entry) (o v : Nat) := match s.cmdRead q e (e.d 7) false o 8 with | .ok w _ => w == v | _ => false
    frameExists ((e 0).target 0 false).1 = true ∧ reads (pageActs (e 0) (entryOf 2)) (.cq 0) (e 0) 0 (entryOf 2) = true ∧
    reads (pageActs (e 1) (entryOf 3)).settlePages (.cq 0) (e 1) 0 (entryOf 3) = true ∧ reachesOf ((pageActs (e 1) (entryOf 3)).cmdReach (.cq 0) (e 1) 0x800 false 0 true) 0x800 = true ∧
    reachesOf ((pageActs (e 0) (entryOf 2)).takeFresh.2.cmdReach (.cq 0) (e 0) 0x800 false 0 true) 0x800 = true := by decide +kernel

theorem test_pages : (workAfter (.kMigr (hd 3) (od 0)) (pageActs (pageCommand 0x11 0x800 0) (entryOf 2)) 0x804).map (·.1) = some (entryOf 3 / 2 ^ 32) ∧
    (workAfter (.kDiscard (hd 3) (od 0)) (pageActs (pageCommand 0x12 0x800 0) (entryOf 2)) 0x800).map (·.1) = some 0 := by decide +kernel

theorem witness_walks : (match (paged (entryOf 2)).walk (2 ^ 44) with | some w => decide (peMalformed w.entry false w.large = false) && decide (w.entryLoc = 2 ^ 52 + 131072) | none => false) = true ∧
    peState ((paged (entryOf 2)).read (2 ^ 52 + 131072) 8) = 2 := by decide +kernel

/-- 17 R326: until TINV a context reads through the old entry of a page that was remapped, here from frame 5 to frame 6. -/
theorem test_stale_translation : (match exec (.pageWalk 0 0 (2 ^ 44)) (paged (entryOf 2)) with
    | .next t =>
      let u := t.write (2 ^ 52 + 131072) 8 (entryOf 2 + 1)
      leadsTo (goes u (2 ^ 44)) (2 ^ 52 + 5 * 65536) && leadsTo (goes { u with tlb := [] } (2 ^ 44)) (2 ^ 52 + 6 * 65536)
    | _ => false) = true := by decide +kernel

theorem witness_errors : (paged (entryOf 2)).pageHolds (2 ^ 52 + 131072) (entryOf 2) (2 ^ 52 + 5 * 65536 + 64) = true ∧ (paged (entryOf 2)).pageHolds (2 ^ 52 + 131072) (entryOf 2) 64 = false ∧
    (run0.core 0).scrub ≠ 0 ∧ ({ run0 with hepoch := 1000 } : State).hepoch ≠ 0 := by decide +kernel

theorem test_error : (match exec (.uncorrectableError (2 ^ 52 + 5 * 65536 + 64) (2 ^ 52 + 131072)) (paged (entryOf 2)) with
    | .next t => some (peState (t.read (2 ^ 52 + 131072) 8), t.mgmt.hirqPending) | _ => none) = some (6, 32) ∧ bitsOf (coolEntry (entryOf 2 + 255 * 2 ^ 56)) 63 56 = 127 := by decide +kernel

/-- 17 R338, 23 R399: a corrected error outside DRAM counts for no row and poisons nothing; one in core 3's slice counts in its CNTST, up to 2^24 - 1. -/
theorem test_corrected (l : Nat) (h : inDram l = false) (s : State) : exec (.uncorrectableError l (2 ^ 64)) s = .next (s.sramCorrected l) := by
  simp [exec, execUncorrectableError, h]

theorem test_corrected_count : ((run0.sramCorrected (3 * 2 ^ 22 + 64)).core 3).corrected = 1 ∧ ((run0.sramCorrected (3 * 2 ^ 22 + 64)).core 2).corrected = 0 := by
  decide +kernel

theorem witness_corrected : inDram 0 = false ∧ ¬ (2 ^ 52 + 131072 : Nat) ≥ 2 ^ 64 ∧ (2 : Nat) ^ 64 ≤ 2 ^ 64 ∧ State.reset.mgmt.rrThreshold = 16 := by decide +kernel

/-! #### Messages between queues, starts and ends -/

/-- A command that waits. -/
def waits (ds : List (Nat × Nat)) : Entry := { entry ds with st := .waiting, demand := 1, dep := 2 }

def queued (e : Entry) (m : List Msg) : State := { run0.modQueue (.cq 0) fun v => { v with entries := [e], next := 1 } with msgs := m }
def msg (k : MsgKind) (seq : Nat) : Msg := { kind := k, target := .cq 0, seq := seq, fromQ := .vq 0, fromSeq := 4 }

theorem witness_messages : LastMessage (queued (waits [(0, 0x315)]) [msg .arm 0]) (msg .arm 0) (waits [(0, 0x315)]) ∧
    LastMessage (queued (waits [(0, 0x315)]) [msg .decrement 0]) (msg .decrement 0) (waits [(0, 0x315)]) ∧
    LastMessage (queued (waits [(0, 0x315)]) [msg .ebb 0]) (msg .ebb 0) (waits [(0, 0x315)]) ∧ bitOf ((waits [(0, 0x315)]).d 0) 17 = false ∧ bitOf ((waits [(0, 0x315)]).d 0) 18 = false ∧
    wasPushed ((queued (waits [(0, 0x315)]) []).queue (.cq 0)).next 1 = false ∧ ((queued (waits [(0, 0x315)]) []).queue (.cq 0)).find 1 = none ∧
    wasPushed ((({ run0 with msgs := [msg .arm 0] } : State).modQueue (.cq 0) fun v => { v with next := 1 }).queue (.cq 0)).next 0 = true :=
  ⟨⟨rfl, by decide +kernel, by decide +kernel, by decide⟩, ⟨rfl, by decide +kernel, by decide +kernel, by decide⟩, ⟨rfl, by decide +kernel, by decide +kernel, by decide⟩, by decide +kernel⟩

/-- A command that has been pushed and is not yet waiting, whose last demand an ebb withdraws (13 R271). -/
theorem witness_pushed : let e := { waits [(0, 0x315)] with st := .pushed }
    LastMessage (queued e [msg .ebb 0]) (msg .ebb 0) e ∧ e.demand = 1 ∧ ((queued e []).queue (.cq 0)).pending.length < 32 := ⟨⟨rfl, by decide +kernel, by decide +kernel, by decide⟩, rfl, by decide +kernel⟩

theorem test_decrement : (match exec (.successorDecrement (.cq 0)) (queued (waits [(0, 0x315)]) [msg .decrement 0]) with
    | .next t => some (((t.queue (.cq 0)).find 0).map (·.dep), t.msgs.length) | _ => none) = some (some 1, 0) := by decide +kernel

/-- A command with a write set, and two commands of a queue. -/
def ready (st : CmdSt) (seq ws : Nat) : Entry := { entry [(0, 0x315), (14, ws)] with st := st, seq := seq, hasToken := false }
def two_ready (a b : Entry) : State := run0.modQueue (.cq 0) fun v => { v with entries := [a, b], next := 2 }

theorem witness_starts : let s := two_ready (ready .ready 0 (2 ^ 18 + 2)) (ready .running 1 0)
    let t := two_ready (ready .ready 0 (2 ^ 18 + 2)) (ready .running 1 (2 ^ 18 + 2))
    (s.advance (.cq 0)).firstReady (.cq 0) = some (ready .ready 0 (2 ^ 18 + 2)) ∧ (s.advance (.cq 0)).phaseOverlap (.cq 0) (ready .ready 0 (2 ^ 18 + 2)) = false ∧
    (t.advance (.cq 0)).firstReady (.cq 0) = some (ready .ready 0 (2 ^ 18 + 2)) ∧ (t.advance (.cq 0)).phaseOverlap (.cq 0) (ready .ready 0 (2 ^ 18 + 2)) = true ∧
    ((s.advance (.cq 0)).queue (.cq 0)).find 0 = some (ready .ready 0 (2 ^ 18 + 2)) ∧ (ready .ready 0 (2 ^ 18 + 2)).image.length = 16 := by decide +kernel

/-- A K.OFT whose unit is dark, and one whose unit serves it (20 R363). -/
theorem witness_unlit : let e := { oftOf 10 9 0 with st := .ready, hasToken := false }
    let s (st : OfuSt) := run0.setOfu 0 { run0.ofu 0 with st := st, queue := { (run0.ofu 0).queue with entries := [e], next := 1 } }
    ((s .dark).advance (.oq 0)).firstReady (.oq 0) = some e ∧ ((s .dark).advance (.oq 0)).unlit (.oq 0) e = true ∧ ((s .dark).advance (.oq 0)).phaseOverlap (.oq 0) e = false ∧
    ((s .ready).advance (.oq 0)).firstReady (.oq 0) = some e ∧ ((s .ready).advance (.oq 0)).unlit (.oq 0) e = false := by decide +kernel

/-- A command whose work is done, which reports and pushes a token. -/
def done_ : Entry := { entry [(0, 0x315), (1, 2 ^ 63)] with work := .done false false false [] }

theorem witness_ends : ((queued done_ []).queue (.cq 0)).find 0 = some done_ ∧ done_.opcode ≠ 0x14 ∧ (queued done_ []).retireRoom (.cq 0) done_ = true ∧
    ((queued done_ []).modCore 0 fun k => { k with results := [(2, List.replicate 16 0)] }).retireRoom (.cq 0) done_ = false ∧ (queued done_ []).consumers (.cq 0) 0 = [] ∧
    ((queued done_ []).core 0).trctl.getLsbD 0 = false ∧ done_.reports = true ∧ ({ done_ with work := .failed 3 false } : Entry).work = .failed 3 false ∧
    ({ done_ with work := .failed 6 true } : Entry).eligible ((queued done_ []).core 0) = false ∧ bitOf (({ done_ with st := .faulted } : Entry).d 0) 17 = false := by decide +kernel

theorem test_retire : (match exec (.commandRetire (.cq 0) 0) (queued done_ []) with
    | .next t => some (((t.queue (.cq 0)).find 0).isNone, (t.here.resultsOf 2).map fun w => w.toNat / 2 ^ 18 % 8) | _ => none) = some (true, [4]) := by decide +kernel

theorem test_fault : (match exec (.commandFault (.cq 0) 0) (queued { done_ with work := .failed 3 false } []) with
    | .next t => some ((t.queue (.cq 0)).fault, ((t.queue (.cq 0)).find 0).map fun e => bitsOf (e.d 15) 31 24) | _ => none) = some (true, some 3) := by decide +kernel

/-! #### Kernels of the host, links, resets, heat -/

/-- A booted module with the record at 0x1000. -/
def booted : State := writeAll { State.reset with mgmt := { Mgmt.reset with stage := 5 } } 0x1000 (record 0)

theorem witness_host : booted.windowOpen = true ∧ booted.mgmt.tripped = false ∧ (booted.kq 15).length < 16 ∧ booted.anyPoison 0x1000 256 = false ∧ booted.readDs 0x1000 32 = record 0 ∧
    recCause 0x1000 (record 0) false = none ∧ 16 ≤ (({ booted with kqs := [(15, List.replicate 16 (kernel .armed 0 (record 0) none))] } : State).kq 15).length ∧
    hostReaches (2 ^ 52 + 7) = true ∧ booted.mgmt.hostFrozen = false ∧ 4 ≤ booted.mgmt.stage ∧ 0xFFFF % 2 ^ 16 ≠ 0 := by decide +kernel

theorem witness_timers : ((run0.modCtx 0 0 fun c => { c with tcmp := 9 }).ctx 0 0).tcmp ≠ 0 ∧ run0.time < ((run0.modCtx 0 0 fun c => { c with tcmp := 9 }).ctx 0 0).tcmp.toNat := by decide +kernel

theorem test_timer : (match exec (.timerInterrupt 0 0 4) (run0.modCtx 0 0 fun c => { c with tcmp := 9 }) with
    | .next t => some (t.time, t.cur.tcmp, t.cur.ipend) | _ => none) = some (9, 0, 1) := by decide +kernel

theorem test_host : (match exec (.kqaddrWrite 3 0x1000) booted with | .next t => (t.kq 3).map (fun k : Kernel => (k.st, k.priv)) | _ => []) = [(.armed, true)] ∧
    (match exec (.hostWindowAccess true 0x404 4 7) booted with | .next t => t.read 0x3F9404 4 + t.read 0x3F9004 4 | _ => 0) = 7 ∧
    (match exec (.hostMemAccess true (2 ^ 52 + 7) 1 0x55) (run0.modCore 0 id) with | .next t => t.byte (2 ^ 52 + 7) | _ => 1) = 0 := by decide +kernel

/-- A port in a state. -/
def port (st : PortSt) (n : Nat) : State := run0.setStrand 17 { Strand.reset with st := st, attempts := n, window := [(1, 0, 8)] }

theorem witness_ports : ((port .excluded 0).strand 17).st = .excluded ∧ ((port .degraded 0).strand 17).st = .degraded ∧ ((port .suspect 0).strand 17).st = .suspect ∧
    ((port .training 2).strand 17).attempts = 2 ∧ ((port .training 0).strand 17).attempts ≠ 2 ∧ ((port .up 0).strand 17).rxSeq = 0 ∧ (∃ f ∈ ((port .up 0).strand 17).window, 8 ≤ f.2.2) ∧
    (∀ f ∈ (run0.strand 17).window, f.2.2 < 8) ∧ ((port .up 0).strand 17).window.length ≤ 128 ∧ ((port .up 0).strand 17).carries 0 = true ∧ ((port .suspect 0).strand 17).carries 0 = false := by decide +kernel

/-- Where the expander on port 1 has memory (19 R343; its capacity is the machine's, log 66), its first frame is port 1's. -/
theorem witness_far (h : 0 < Config.farFrames 1) : farPort (2 ^ 52 + 2 ^ 28 * 65536) = some 1 := by
  have h2 : farBase 1 = 0 := rfl
  have h3 : farBase 2 = Config.farFrames 1 := by simp [farBase, List.range, List.range.loop]
  have h4 : farBase 4 = Config.farFrames 1 + Config.farFrames 2 + Config.farFrames 3 := by simp [farBase, List.range, List.range.loop]
  have h5 : farTotal ≠ 0 := by simp only [farTotal, h4]; omega
  simp [farPort, h2, h3, h, h5]

theorem witness_far_stores : let s := run0.modCur fun c => { c with sbuf := [{ kind := .store, loc := 2 ^ 52 + 2 ^ 28 * 65536, size := 8, value := 7, iret := 0 }] }
    (s.ctx 0 0).sbuf.any (fun b => decide (b.kind = .store ∧ b.loc = 2 ^ 52 + 2 ^ 28 * 65536)) = true ∧ farPort (2 ^ 52) = none ∧
    hostMemory (2 ^ 52 + 2 * 2 ^ 28 * 65536) = true ∧ (∀ p ∈ booted.allEntries, booted.pageHolds p (booted.read p 8) (2 ^ 52 + 7) = false) := by decide +kernel

/-- A data flit of sequence 0 for node 0 with its check (19 R344). -/
def flitHead : List Nat := 16 :: List.replicate 247 0
def flit0 : List Nat := flitHead ++ (List.range 8).map fun i => Config.flitCheck flitHead % 2 ^ 64 / 256 ^ i % 256

theorem flitHead_length : flitHead.length = 248 := by decide +kernel

theorem eight_terms (f g : Nat → Nat) : (List.range 8).foldl (fun v j => v + ((List.range 8).map f).getD j 0 % 256 * g j) 0 =
    f 0 % 256 * g 0 + f 1 % 256 * g 1 + f 2 % 256 * g 2 + f 3 % 256 * g 3 + f 4 % 256 * g 4 + f 5 % 256 * g 5 + f 6 % 256 * g 6 + f 7 % 256 * g 7 := by
  simp [List.range, List.range.loop]

theorem digits_sum (n : Nat) (h : n < 2 ^ 64) : (List.range 8).foldl (fun v j => v + ((List.range 8).map fun i => n / 256 ^ i % 256).getD j 0 % 256 * 256 ^ j) 0 = n := by
  rw [eight_terms (fun i => n / 256 ^ i % 256) (fun j => 256 ^ j)]
  omega

theorem flit_byte (xs ys : List Nat) (j : Nat) (h : xs.length = 248) : flitByte (xs ++ ys) (248 + j) = ys.getD j 0 % 256 := by
  rw [flitByte, List.getD_append_right _ _ _ _ (by omega), h, Nat.add_sub_cancel_left]

theorem flit_field (xs : List Nat) (n : Nat) (h : n < 2 ^ 64) (hl : xs.length = 248) : flitField (xs ++ (List.range 8).map fun i => n / 256 ^ i % 256) 248 8 = n := by
  simp only [flitField, flit_byte _ _ _ hl]
  exact digits_sum n h

theorem witness_flits : flitSound flit0 = true ∧ flitByte flit0 0 / 16 = 1 ∧ flitField flit0 1 2 = 0 ∧ flitField flit0 6 2 = run0.node ∧ flitSound [] = false := by
  have hl : flitHead.length = 248 := flitHead_length
  have h1 : flit0.take 248 = flitHead := List.take_left' hl
  have h2 : flitField flit0 248 8 = Config.flitCheck flitHead % 2 ^ 64 := flit_field _ _ (Nat.mod_lt _ (by decide)) hl
  have h3 : flit0.length = 256 := by simp only [flit0, List.length_append, hl, List.length_map, List.length_range]
  have h4 : flitByte flit0 0 = 16 := rfl
  refine ⟨?_, rfl, rfl, rfl, rfl⟩
  simp [flitSound, h1, h2, h3, h4]

theorem test_training : (match exec (.strandTrainingDone 17 6 9) (port .training 0) with | .next t => some ((t.strand 17).st, (t.strand 17).lanes, (t.strand 17).peer) | _ => none) =
    some (.degraded, 4, 9) := by decide +kernel

theorem witness_boot : State.reset.mgmt.stage < 5 ∧ State.reset.mgmt.halted = false ∧ State.reset.mgmt.tripped = false ∧ booted.windowOpen = true ∧ booted.mgmt.hwdt ≠ 0 ∧
    booted.mgmt.stage ≠ 0 ∧ booted.wrack.hold = false := by decide +kernel

theorem test_boot : (match exec (.bootStageDone true 0) State.reset with | .next t => some t.mgmt.stage | _ => none) = some 1 ∧
    (match exec (.bootStageDone false 0) State.reset with | .next t => some (t.mgmt.stage, t.mgmt.halted, t.wrack.head) | _ => none) = some (0, true, 1) := by decide +kernel

theorem witness_heat : State.reset.mgmt.refreshDouble.contains 11 = false ∧ State.reset.mgmt.tripped = false ∧ (State.reset.pseudo 0).test = 0 ∧ (State.reset.pseudo 0).mode ≠ 1 ∧
    (({ State.reset with hbm := [(pseudoKey 11 31 1, { Hbm.reset with mode := 1 })] } : State).pseudo (pseudoKey 11 31 1)).mode = 1 ∧
    (({ State.reset with hbm := [(pseudoKey 11 31 1, { Hbm.reset with mode := 1, test := 2 })] } : State).pseudo (pseudoKey 11 31 1)).test ≠ 0 := by decide +kernel

theorem test_sags : (match exec (.supplySag 7) { State.reset with undertow := [(7, { k := 8, kmax := 8, events := 8 })] } with | .next t => some (t.tow 7).k | _ => none) = some 8 ∧
    (match exec (.undertowRecover 7) { State.reset with undertow := [(7, { k := 8, kmax := 8, events := 8 })] } with | .next t => some ((t.tow 7).k, (t.tow 7).kmax) | _ => none) = some (7, 8) := by
  decide +kernel

/-! #### Arrivals, debugging, pre-emption -/

def loadRow : Landing := { resultRow with kind := .load, arrived := false }
def gather : MldiFly := { due := 9, values := [0], addrs := [0], poison := false, arrived := false }

theorem witness_arrivals : (let s := vec 0 fun v => { v with land := [resultRow, loadRow] };
      (s.core 0).vs.land = [resultRow] ++ loadRow :: [] ∧ (∀ x ∈ [resultRow], x.kind ≠ .load ∨ x.arrived = true) ∧ loadRow.kind = .load ∧ loadRow.arrived = false) ∧
    (let s := mat 0 fun m => { m with mldi := [gather] };
      (∀ x ∈ (s.core 0).vs.land, x.kind ≠ .load ∨ x.arrived = true) ∧ (s.core 0).ms.mldi = [] ++ gather :: [] ∧ gather.arrived = false) := by decide +kernel

theorem witness_breaks : (let s := jobState fun k => { k with bpcyc := 4, vs := { k.vs with cycle := 4 } };
      (s.core 0).vs.st = .running ∧ (s.core 0).bpcyc ≠ 0 ∧ (s.core 0).bpcyc.toNat = (s.core 0).vs.cycle) ∧
    (let s := (mat 0 fun m => { m with cycle := 4 }).modCore 0 fun k => { k with bpcyc := 4 };
      (s.core 0).vs.st ≠ .running ∧ (s.core 0).ms.st = .running ∧ (s.core 0).ms.step = none ∧ (s.core 0).ms.atStop = 0 ∧ (s.core 0).bpcyc ≠ 0 ∧ (s.core 0).bpcyc.toNat = (s.core 0).ms.cycle) ∧
    (let s := jobState fun k => { k with job := some { job1 with debug := true }, ms := { k.ms with st := .running } };
      (s.core 0).job = some { job1 with debug := true } ∧ (s.core 0).vs.st = .running ∧ (s.core 0).ms.st = .running ∧ (s.core 0).vs.atStop = 0) := by decide +kernel

/-- Core 0 traces samples of every context into one page at 2^44 (23 R405). -/
def tracing : State := (paged (entryOf 2 + 2 ^ 46)).modCore 0 fun k => { k with trctl := 2 ^ 16 + 3, trbase := 2 ^ 44, trlen := 1 }

theorem witness_samples : (run0.core 0).trctl.getLsbD 0 = false ∧ (tracing.core 0).trctl.getLsbD 0 = true ∧ (tracing.core 0).trctl.getLsbD 1 = true ∧
    bitsOf (tracing.core 0).trctl.toNat 31 16 ≠ 0 ∧ (tracing.core 0).trdrops = 0 ∧ (tracing.core 0).trlen.toNat * 65536 ≠ 0 ∧
    (match tracing.pagedAccess (2 ^ 44) true true true with | .loc l _ => l | _ => 0) = 2 ^ 52 + 5 * 65536 := by decide +kernel

theorem test_sample : (match exec (.traceSample 0 0) tracing with | .next t => some (t.read (2 ^ 52 + 5 * 65536 + 16) 8, t.here.trhead) | _ => none) = some (0x100, 32) := by decide +kernel

def preempting (st : Nat) : State := run0.modCore 0 fun k => { k with preempt := { state := st, refused := false, psnap := 0x10000, streams := false } }

theorem witness_preemption : (run0.core 0).preempt.state = 0 ∧ (run0.core 0).preempt.psnap = 0 ∧ ((preempting 0).core 0).preempt.psnap ≠ 0 ∧ ((preempting 2).core 0).preempt.state = 2 ∧
    ((preempting 1).core 0).preempt.state = 1 ∧ ((preempting 1).core 0).drained = true ∧ (∀ n, n < 3 → ((preempting 1).ctx 0 n).waiter = none ∧ ((preempting 1).ctx 0 n).sbuf = []) ∧
    ((preempting 3).core 0).preempt.state = 3 ∧ ((preempting 3).core 0).job = none ∧ ((preempting 3).core 0).ms.st ≠ .stopped ∧
    (((preempting 3).modCtx 0 0 fun c => { c with st := .saved, savedSt := .waiting }).ctx 0 0).st = .saved := by decide +kernel

theorem test_preemption : (match exec (.pctlPreempt 0) run0 with | .next t => some (t.here.preempt.refused, t.here.preempt.state) | _ => none) = some (true, 0) ∧
    (match exec (.preemptSaved 0) (preempting 1) with | .next t => some (t.cur.st, t.cur.savedSt, t.readD (frameLoc 0 0 + 0x108)) | _ => none) = some (.saved, .running, 0x100) := by decide +kernel

/-- A K.NEST that met poison, eligible to run again: it reads line 4 and writes line 8. -/
def phase : Entry := { entry [(0, 0x10107), (12, 4 * 2 ^ 16 + 1), (14, 8 * 2 ^ 16 + 1)] with work := .failed 6 false, met := [0x100] }

/-- The phase's line is poisoned; a retired copy that wrote it stands in the refetch table, or does not. -/
def rerunning (copy : Bool) : State :=
  ((run0.modQueue (.mq 0) fun v => { v with entries := [phase], next := 1 }).modCore 0 fun k =>
    { k with rerunEn := true, refetch := if copy then [(3, image [(0, 0x301), (7, 0x400), (8, 0x100), (9, 64), (14, 4 * 2 ^ 16 + 1)])] else [] }).setPoison 0x100 true

/-- How a list of refetches ends: 0 done, 1 waiting, 2 faulted. -/
def refetchKind : Refetched → Nat
  | .ok _ => 0
  | .wait _ _ => 1
  | .fault _ _ => 2

theorem witness_reruns : let found (copy : Bool) := ((rerunning copy).poisonedReads (.mq 0) phase).map (((rerunning copy).core 0).refetchOf 0)
    ((rerunning true).queue (.mq 0)).find 0 = some phase ∧ phase.rerunWaits ((rerunning true).core 0) = true ∧ (rerunning true).serviceOwed (.mq 0) 0 = false ∧ homeCore (.mq 0) phase = 0 ∧
    phase.image.length = 16 ∧ phase.refetches = none ∧ none ∈ found false ∧ none ∉ found true ∧ found true ≠ [] ∧
    refetchKind (refetchAll 0 (.mq 0) phase (((found true).filterMap id).eraseDups.map fun r => (r.1, r.2, 0)) (rerunning true)) = 0 := by
  decide +kernel

/-- The refetched copy reads a page that no table maps, or its context's full log stalls it (23 R398, 22 R389). -/
theorem witness_refetches : let copyFrom (a : Nat) := [(3, image [(0, 0x301), (7, a), (8, 0x100), (9, 64), (14, 4 * 2 ^ 16 + 1)], 0)]
    refetchKind (refetchAll 0 (.mq 0) phase (copyFrom (2 ^ 44)) (rerunning true)) = 2 ∧
    refetchKind (refetchAll 0 (.mq 0) phase (copyFrom 0x400) ((rerunning true).modCtx 0 0 fun c => { c with log := { c.log with en := true, stall := true } })) = 1 := by decide +kernel

theorem test_rerun : (match exec (.phaseRerun (.mq 0) 0) (rerunning true) with
    | .next t => some (((t.queue (.mq 0)).find 0).map fun e => (e.work, e.reruns), t.poisoned 0x100) | _ => none) = some (some (.pending, 1), false) := by decide +kernel

theorem witness_releases_of_freezes : ((run0.modCtx 0 2 fun c => { c with st := .frozen }).ctx 0 2).st = .frozen ∧ ((run0.modCtx 0 2 fun c => { c with st := .frozen }).ctx 0 2).iter = none := by decide +kernel

/-- A lockstep group of core 0 alone with its job ready. -/
def lockstep (jobs : List Entry) : State :=
  { run0.modQueue (.vq 0) fun v => { v with entries := jobs, next := 1 } with groups := [(5, { Group.reset with kind := .lockstep, members := [(0, 0, 1)] })] }
def roundJob : Entry := { jobOf with st := .ready, ctx := 1 }

theorem witness_rounds : ((lockstep [roundJob]).group 5).kind = .lockstep ∧
    ((lockstep [roundJob]).advance (.vq 0)).roundEntry 5 0 = some roundJob ∧ ((lockstep []).advance (.vq 0)).roundEntry 5 0 = none ∧
    (((lockstep [roundJob]).advance (.vq 0)).queue (.vq 0)).find 0 = some roundJob ∧ ((lockstep [roundJob]).advance (.vq 0)).phaseOverlap (.vq 0) roundJob = false := by decide +kernel

/-! #### Reverse motion -/

def window (n : Nat) (st : WinSt) : Window :=
  { num := n, st := st, pushed := false, opener := 0, x := [(5, 77)], p := [], c := [], pc := 0x80, counters := [], iret := 3, nextM := 0, nextV := 0, nextC := 0, joint := none }
def oldStore : Rec := { kind := 1, size := 3, loc := 0x40, window := 1, body := [0x1122], at_ := none, put := none, pc := 0x84, src := .other }

/-- Context A with a log of one open window and a record of a store. -/
def logged (recs : List Rec) : State :=
  (paged (entryOf 2 + 2 ^ 46)).modCtx 0 0 fun c => { c with log := { c.log with en := true, counter := 2, windows := [window 1 .opened], recs := recs, iret := 9, base := 2 ^ 44, len := 1 } }

theorem witness_moves : let l := ((logged [oldStore]).ctx 0 0).log
    l.recs = [oldStore] ∧ oldStore.at_ = none ∧ l.dead = [] ∧ oldStore.bytes ≤ l.room ∧ (UndoLog.room { l with len := 0 }) < oldStore.bytes ∧ ((logged [oldStore]).logWrite l l.head.toNat (oldStore.header l.windows ++ oldStore.body)).isSome = true ∧
    (let t := (logged [oldStore]).write (2 ^ 52 + 131072) 8 (entryOf 5)
     (t.logWrite l l.head.toNat (oldStore.header l.windows ++ oldStore.body)).isNone) = true := by decide +kernel

theorem witness_rewinds : (logged [oldStore]).rewindRefused none [(0, 0)] 2 = true ∧ (logged [oldStore]).rewindRefused none [(0, 0)] 1 = false ∧
    ((logged [oldStore]).ctx 0 0).log.target 1 = some (window 1 .opened) ∧ ((logged [oldStore]).ctx 0 0).waiter = none ∧ ((logged [oldStore]).ctx 0 0).sbuf = [] ∧
    ((logged []).ctx 0 0).log.after 1 = [] ∧ ((logged [oldStore]).ctx 0 0).log.after 1 = [oldStore] ∧ oldStore.loc + 2 ^ oldStore.size ≤ 2 ^ 33 ∧ ((logged []).ctx 0 0).log.iret < 10 ∧
    ((logged []).ctx 0 0).log.stepTarget (9 - 4) = some 1 := by decide +kernel

theorem test_rewind : (match exec (.rewind none 0 0 1) (logged [oldStore]) with | .next t => some (t.read 0x40 8, t.x 5, t.cur.pc, t.cur.dbg) | _ => none) = some (0x1122, 77, 0x80, true) := by decide +kernel

/-! ### The step -/

/-- Context A at 0x100 with a word there, and its turn. -/
def fetching (w : Nat) : State := { run0.write 0x100 4 w with agenda := [.ctx 0 0] }
def atSlot (s : State) : State :=
  { { s with agenda := [] }.modCore 0 fun k => { k with cycle := k.nextSlot 0 } with focus := { core := 0, ctx := 0, queue := .cq 0, seq := 0 } }

theorem witness_step_context : CtxIssues (atSlot (fetching 0x2051FFFE)) 0 0 ∧ leadsTo ((atSlot (fetching 0x2051FFFE)).reach 0 0x100 false false false) 0x100 = true ∧
    (atSlot (fetching 0x2051FFFE)).anyPoison 0x100 4 = false ∧ (atSlot (fetching 0x2051FFFE)).read 0x100 4 = 0x2051FFFE :=
  ⟨{ named := by decide +kernel, here := ⟨rfl, rfl⟩, clock := by decide +kernel, st := by decide +kernel, debug := by decide +kernel, replay := by decide +kernel,
     irqs := by decide +kernel, stop := by decide +kernel, watch := by decide +kernel, irq := by decide +kernel, bp := by decide +kernel, loads := by decide +kernel, inside := by decide +kernel, channel := by decide +kernel,
     aligned := by decide +kernel }, by decide +kernel, by decide +kernel, by decide +kernel⟩

/-- Context X's job with a VSTOP at 0, or an MSTOP with the vector stream over. -/
def streamTurn (matrix : Bool) : State :=
  State.reset.withFetchWord (if matrix then 192 else 96) (encode (if matrix then .mstop k0 else .vstop 0 0 0))

/-- Its job, which holds the code as it stood when the streams started. -/
def turnJob (matrix : Bool) : Job := { job1 with code := (streamTurn matrix).mem }

theorem witness_step_vector : VecIssues (({ streamTurn false with agenda := [] } : State).focusJob 0 (turnJob false)) 0 ∧ ((streamTurn false).core 0).job = some (turnJob false) ∧
    (({ streamTurn false with agenda := [] } : State).focusJob 0 (turnJob false)).codeWord 0 0 3 = encode (.vstop 0 0 0) :=
  ⟨{ named := by decide +kernel, st := by decide +kernel, clock := by decide +kernel, free := by decide +kernel, landed := by decide +kernel, due := by decide +kernel,
     stop := by decide +kernel, bp := by decide +kernel, first := by decide +kernel }, by decide +kernel, by decide +kernel⟩

theorem witness_step_matrix : MatIssues (({ streamTurn true with agenda := [] } : State).focusJob 0 (turnJob true)) 0 ∧ ((streamTurn true).core 0).job = some (turnJob true) ∧
    (({ streamTurn true with agenda := [] } : State).focusJob 0 (turnJob true)).codeWord 0 0 6 = encode (.mstop k0) :=
  ⟨{ named := by decide +kernel, st := by decide +kernel, clock := by decide +kernel, free := by decide +kernel, bp := by decide +kernel, gather := by decide +kernel, step := by decide +kernel,
     stop := by decide +kernel, first := by decide +kernel }, by decide +kernel, by decide +kernel⟩

theorem witness_step_command : (match decodeCommand (imageWord (entry [(0, 0x315)]).image) with | .ok (.kNop _ _) => true | _ => false) = true ∧
    ((acting run0 (.cq 0) (entry [(0, 0x315)])).queue (.cq 0)).find 0 = some (entry [(0, 0x315)]) ∧ (acting run0 (.cq 0) (entry [(0, 0x315)])).clocked 0 = true ∧
    isStep (.ringTimeout 0 0) = true ∧
    wellFormed (.ringTimeout 0 0) = true ∧ QueueId.wf (.cq 0) = true ∧ run0.overwritten.length ≤ run0.cur.codeSince ∧ run0.clocked (queueClock (.cq 0)) = true ∧ (acting run0 (.cq 0) (entry [(0, 0x315)])).serviceOwed (.cq 0) 0 = false ∧
    run0.stepClocked (.ringTimeout 0 0) = true ∧ ((atSlot (fetching 0x2051FFFE)).accesses (.addi 5 3 0x7FFE)).any (fun a => (atSlot (fetching 0x2051FFFE)).accessHeld a.1 a.2) = false := by decide +kernel

/-- ADDI x5, x3, −2 at the program counter (03 R47): x5 and the program counter after the step. -/
theorem test_step : (match step (fetching 0x2051FFFE) with | .next t => some (t.x 5, t.cur.pc, t.here.cycle) | _ => none) = some (0xFFFFFFFFFFFFFFFE, 0x104, 4) := by decide +kernel

/-- The next instruction after reset with a word placed, for each record. -/
theorem test_placed : (match step (State.reset.withFetchWord 32 0x2051FFFE) with | .next t => some (t.x 5) | _ => none) = some 0xFFFFFFFFFFFFFFFE ∧
    (match step (State.reset.withFetchWord 96 (encode (.vstop 0 0 0))) with | .next t => some (t.core 0).vs.stopIssued | _ => none) = some true ∧
    (match step (State.reset.withFetchWord 1024 0x315) with | .next t => some ((t.queue (.cq 0)).find 0 |>.map (·.work)) | _ => none) = some (some (.done false false false [])) := by
  decide +kernel

theorem witness_encodings : wellFormed (.amocas 31 31 31 true 4 g9) = true ∧ isControl (.amocas 31 31 31 true 4 g9) = true ∧ wellFormed (.vsmov h6 31 (.imm 0x3FFFFF)) = true ∧
    isVector (.vsmov h6 31 (.imm 0x3FFFFF)) = true ∧ wellFormed (.mma k13 (t8 true)) = true ∧ isMatrix (.mma k13 (t8 true)) = true ∧ wellFormed (.kNop (hd 3) (od 0)) = true ∧
    isCommand (.kNop (hd 3) (od 0)) = true ∧ decodeVector 0x3F0000000000000000000000 = .ok (.vstop 0 0 0) ∧ decodeMatrix (encode (.mstop k0)) = .ok (.mstop k0) := by decide +kernel

theorem witness_canonical : Memory.wf (fetching 0x2051FFFE).mem = true ∧ (match step (fetching 0x2051FFFE) with | .next t => Memory.wf t.mem | _ => false) = true := by decide +kernel

/-! #### Witnesses of further clauses -/

/-- A push, and an RPUSH that has its block, with no room (13 R262, R265). -/
theorem witness_crowded : Crowded crowded.release (pushed crowded 2) (ownImage crowded) ∧ crowded.holds g0 = true ∧
    (let s := (crowded.setX 2 0x4000).modCur fun c => { c with block := some (ownImage crowded) };
     Crowded s.release (.cq 0) (ownImage crowded) ∧ (s.x 1).toNat % 128 = 0 ∧ rpushQueue (s.x 2).toNat = some (.cq 0) ∧ s.cur.block = some (ownImage crowded)) :=
  ⟨⟨by decide +kernel, rfl, by decide +kernel⟩, by decide +kernel, ⟨⟨by decide +kernel, rfl, by decide +kernel⟩, by decide +kernel, by decide +kernel, rfl⟩⟩

/-- A record in a page that only privileged accesses may read (14 R293, 17 R325). -/
theorem witness_private_record : let e := { kernelOf (2 ^ 44) false with priv := false }
    let s := acting (paged (entryOf 2 + 2 ^ 46)) (.cq 0) e
    Acts s (.cq 0) e ∧ s.recordOutside (.cq 0) e = false ∧ s.privPage (2 ^ 44) = true ∧ run0.privPage 0x1000 = false ∧
    (match s.cmdDoublewords (.cq 0) e (2 ^ 44) 32 with | (_, .inr (.inl _)) => true | _ => false) = true := ⟨⟨rfl, by decide +kernel, rfl, rfl⟩, by decide +kernel⟩

/-- A read form held by a full log, and a write form whose block waits for its retirement (20 R374, 22 R389). -/
theorem witness_calibration_forms : let l := (((optic .ready (calOf 64)).modCtx 0 0 fun c => { c with log := { c.log with en := true, stall := true } }).ctx 0 0).log
    l.blocks (9 * (calBytes / 64 - (calOf 64).progress)) = true ∧ l.room - l.used < 88 ∧ bitsOf ((entry [(0, 0x40A), (7, 64), (8, 1)]).d 8) 1 0 = 1 := by decide +kernel

/-- Malformed entries, live ones and one that migrates, and a copy that no channel holds up (17 R324, R337). -/
theorem witness_page_stops : peState (entryOf 2 + 2 ^ 40) = 2 ∧ peMalformed (entryOf 2 + 2 ^ 40) true true = true ∧ peState (entryOf 3 + 2 ^ 40) = 3 ∧ peMalformed (entryOf 3) true true = false ∧
    bitOf (entryOf 3) 48 = false ∧ (pageActs (pageCommand 0x11 0x800 1) (entryOf 3)).migrHeld (pageCommand 0x11 0x800 1) 0 0x800 (entryOf 3) = false := by decide +kernel

theorem witness_error_kinds : accGroup (2 ^ 62) = some (0, 0) ∧ accGroup 64 = none ∧ accGroup (2 ^ 52) = none ∧
    ((State.reset.mgmt.flash.filter fun r => decide (bitsOf r.toNat 63 60 = 1 ∧ bitsOf r.toNat 59 46 = (Config.rowOf (2 ^ 52)).toNat / 2 ^ 18)).length) < 4 := ⟨by decide +kernel, by decide +kernel, by decide +kernel, by simp [State.reset, Mgmt.reset]⟩

/-- The scrubber finds a line that a page of the state holds, or one that none holds (17 R335). -/
theorem witness_scrubs : let s := paged (2 * 2 ^ 53 + 2 ^ 47 + 3 * 2 ^ 28)
    (∃ p ∈ s.allEntries, s.pageHolds p (s.read p 8) (sliceLoc 0 0) = true ∧ peState (s.read p 8) = 2) ∧ (s.core 0).scrub ≠ 0 := ⟨⟨2 ^ 52 + 131072, by decide +kernel⟩, by decide +kernel⟩

/-- Messages for a command that has left, or that an absorb rule has fired (13 R262, R272). -/
theorem witness_stale : let s (k : MsgKind) (f : List Nat) : State := ({ run0 with msgs := [msg k 0] } : State).modQueue (.cq 0) fun v => { v with next := 1, fired := f }
    ((s .decrement []).queue (.cq 0)).find 0 = none ∧ wasPushed ((s .ebb []).queue (.cq 0)).next 0 = true ∧ ((s .decrement []).queue (.cq 0)).fired.contains 0 = false ∧
    ((s .decrement [0]).queue (.cq 0)).fired.contains 0 = true := by decide +kernel

/-- A far store in a buffer, and one that has left it (19 R343). -/
theorem witness_far_writes : let l := 2 ^ 52 + 2 ^ 28 * 65536
    let gone : Overwrite := { loc := l, size := 8, old := 5, src := .other }
    ((run0.modCur fun c => { c with sbuf := [{ kind := .store, loc := l, size := 8, value := 7, iret := 0 }] }).ctx 0 0).sbuf.any (fun b => b.storesAt l) = true ∧
    ({ run0 with overwritten := [{ gone with loc := 0 }, gone] } : State).overwritten = [{ gone with loc := 0 }] ++ gone :: [] ∧ ([{ gone with loc := 0 }].any fun x => x.at_ l) = false ∧ gone.at_ l = true ∧
    (run0.overwritten.any fun w => w.at_ l) = false := ⟨by decide +kernel, rfl, by decide +kernel, by decide +kernel, by decide +kernel⟩

/-- An acknowledgement that returns credits on a port with nothing waiting (19 R344). -/
theorem witness_credits : (((run0.setStrand 17 { Strand.reset with st := .up }).strand 17).waiting = []) ∧ flitByte (2 * 16 :: List.replicate 255 0) 0 / 16 ≠ 1 := by decide +kernel

theorem witness_host_channels : booted.channelHeld (2 ^ 52 + 7) = false ∧ booted.mgmt.hostHeld = [] ∧
    ({ booted with mgmt := { booted.mgmt with hostHeld := [(2 ^ 52, 8, 7)] } } : State).mgmt.hostHeld ≠ [] := by decide +kernel

/-- A cycle breakpoint of the matrix stream with the vector stream at another cycle, whose turn does not come first (23 R404). -/
theorem witness_matrix_break : let s := (mat 0 fun m => { m with cycle := 4 }).modCore 0 fun k => { k with bpcyc := 4 }
    (s.core 0).vectorFirst = false ∧ (s.core 0).bpcyc.toNat ≠ (s.core 0).vs.cycle := by decide +kernel

/-- A staged record, and one in the region whose header the window's state has left behind (22 R387). -/
theorem witness_settling : (let l := ((logged [oldStore]).ctx 0 0).log
      l.recs = [oldStore] ∧ l.dead = [] ∧ oldStore.at_ = none ∧ oldStore.put = none ∧ oldStore.bytes ≤ 4096) ∧
    (let r := { oldStore with at_ := some 0, put := some (0, 0) }
     let l := ((logged [r]).ctx 0 0).log
     l.recs = [r] ∧ r.put.map (·.2) ≠ some ((r.header l.windows).headD 0) ∧ ((logged [r]).logWrite l 0 [(r.header l.windows).headD 0]).isSome = true) ∧
    (let r := { oldStore with put := some (0, (oldStore.header [window 1 .opened]).headD 0) }
     r.put.map (·.2) = some ((r.header ((logged [r]).ctx 0 0).log.windows).headD 0) ∧ r.bytes ≤ 4096) := by decide +kernel

end Sys2Proof.Tests
end

/-! # The fields of a word: writing them side by side, reading them back (03 R46) -/

namespace Sys2Proof.Encoding

open Sys2Proof Sys2Proof.Spec

/-- The value of fields written side by side, the highest first: each field is its width in bits and its value. -/
def pack : List (Nat × Nat) → Nat
  | [] => 0
  | (_, v) :: l => v * 2 ^ (l.map Prod.fst).sum + pack l

/-- The lowest bits of a word, read as fields of the given widths, the highest first. -/
def cut (w : Nat) : List Nat → List (Nat × Nat)
  | [] => []
  | n :: ns => (n, fld w ns.sum n) :: cut w ns

/-- Every field's value has no more bits than the field. -/
def Fits (l : List (Nat × Nat)) : Prop := ∀ f ∈ l, f.2 < 2 ^ f.1

theorem fld_lt (w lo n : Nat) : fld w lo n < 2 ^ n := Nat.mod_lt _ (Nat.two_pow_pos n)

@[simp] theorem fld_lt_of_pow_le {w lo n m : Nat} (h : 2 ^ n ≤ m) : fld w lo n < m := (fld_lt w lo n).trans_le h

theorem fld_of_lt {w n : Nat} (h : w < 2 ^ n) : fld w 0 n = w := by
  rw [fld, pow_zero, Nat.div_one, Nat.mod_eq_of_lt h]

theorem fld_add (w lo m n : Nat) : fld w lo (m + n) = fld w (lo + m) n * 2 ^ m + fld w lo m := by
  simp only [fld, pow_add, ← Nat.div_div_eq_div_mul, Nat.mod_mul]
  ring

/-- A field of a field is a field of the word. -/
theorem fld_fld {w lo n k m : Nat} (h : k + m ≤ n) : fld (fld w lo n) k m = fld w (lo + k) m := by
  obtain ⟨r, rfl⟩ := Nat.exists_eq_add_of_le h
  rw [Nat.add_assoc, fld_add w lo k, Nat.add_comm, fld, Nat.add_mul_div_right _ _ (Nat.two_pow_pos k), Nat.div_eq_of_lt (fld_lt w lo k), Nat.zero_add,
    fld_add, Nat.mul_comm, Nat.mul_add_mod, Nat.mod_eq_of_lt (fld_lt w (lo + k) m)]

/-- A field below bit `k` does not see what stands from bit `k` upward. -/
theorem fld_mul_add_low {lo n k : Nat} (h : lo + n ≤ k) (a w : Nat) : fld (a * 2 ^ k + w) lo n = fld w lo n := by
  obtain ⟨m, rfl⟩ := Nat.exists_eq_add_of_le h
  have hk : a * 2 ^ (lo + n + m) = 2 ^ lo * (2 ^ n * (2 ^ m * a)) := by ring
  rw [fld, fld, hk, Nat.mul_add_div (Nat.two_pow_pos lo), Nat.mul_add_mod]

theorem fld_mul_add_high {k n a w : Nat} (ha : a < 2 ^ n) (hw : w < 2 ^ k) : fld (a * 2 ^ k + w) k n = a := by
  rw [fld, Nat.mul_comm, Nat.mul_add_div (Nat.two_pow_pos k), Nat.div_eq_of_lt hw, Nat.add_zero, Nat.mod_eq_of_lt ha]

theorem pack_append (l m : List (Nat × Nat)) : pack (l ++ m) = pack l * 2 ^ (m.map Prod.fst).sum + pack m := by
  induction l with
  | nil => simp [pack]
  | cons f l ih =>
    simp only [List.cons_append, pack, ih, List.map_append, List.sum_append, pow_add]
    ring

theorem cut_mul_add {ns : List Nat} {k : Nat} (h : ns.sum ≤ k) (a w : Nat) : cut (a * 2 ^ k + w) ns = cut w ns := by
  induction ns with
  | nil => rfl
  | cons n ns ih =>
    rw [List.sum_cons] at h
    rw [cut, cut, ih (by omega), fld_mul_add_low (by omega)]

theorem pack_lt {l : List (Nat × Nat)} (h : Fits l) : pack l < 2 ^ (l.map Prod.fst).sum := by
  induction l with
  | nil => exact Nat.one_pos
  | cons f l ih =>
    obtain ⟨hf, hl⟩ := List.forall_mem_cons.mp h
    calc pack (f :: l) < (f.2 + 1) * 2 ^ (l.map Prod.fst).sum := by rw [pack, Nat.succ_mul]; exact Nat.add_lt_add_left (ih hl) _
      _ ≤ 2 ^ f.1 * 2 ^ (l.map Prod.fst).sum := Nat.mul_le_mul_right _ hf
      _ = 2 ^ ((f :: l).map Prod.fst).sum := by rw [List.map_cons, List.sum_cons, pow_add]

/-- Reading fields back gives what was written. -/
theorem cut_pack {l : List (Nat × Nat)} (h : Fits l) : cut (pack l) (l.map Prod.fst) = l := by
  induction l with
  | nil => rfl
  | cons f l ih =>
    obtain ⟨hf, hl⟩ := List.forall_mem_cons.mp h
    rw [List.map_cons, cut, pack, cut_mul_add le_rfl, ih hl, fld_mul_add_high hf (pack_lt hl)]

/-- Writing the fields that were read gives the bits back. -/
theorem pack_cut (w : Nat) (ns : List Nat) : pack (cut w ns) = fld w 0 ns.sum := by
  have hfst (ns : List Nat) : (cut w ns).map Prod.fst = ns := by
    induction ns with
    | nil => rfl
    | cons n ns ih => rw [cut, List.map_cons, ih]
  induction ns with
  | nil => simp [cut, pack, fld, Nat.mod_one]
  | cons n ns ih => rw [cut, pack, hfst, ih, List.sum_cons, Nat.add_comm n, fld_add, Nat.zero_add]

/-! ### Bits and guards -/

theorem flag_eq_fld (w lo : Nat) : flag w lo = (fld w lo 1 == 1) := by simp [flag, fld, beq_eq_decide]

theorem flag_eq_true {w lo : Nat} : flag w lo = true ↔ fld w lo 1 = 1 := by rw [flag_eq_fld, beq_iff_eq]

theorem flag_eq_false {w lo : Nat} : flag w lo = false ↔ fld w lo 1 = 0 := by
  rw [← Bool.not_eq_true, flag_eq_true]
  have := fld_lt w lo 1
  omega

@[simp] theorem fld_one_le (w lo : Nat) : fld w lo 1 ≤ 1 := Nat.le_of_lt_succ (fld_lt w lo 1)

@[simp] theorem bitNat_false : bitNat false = 0 := rfl

@[simp] theorem bitNat_true : bitNat true = 1 := rfl

@[simp] theorem bitNat_beq_one (b : Bool) : (bitNat b == 1) = b := by cases b <;> rfl

@[simp] theorem bitNat_le_one (b : Bool) : bitNat b ≤ 1 := by cases b <;> decide

@[simp] theorem bitNat_flag (w lo : Nat) : bitNat (flag w lo) = fld w lo 1 := by
  have h := fld_lt w lo 1
  rw [flag_eq_fld]
  interval_cases fld w lo 1 <;> rfl

theorem need_eq_ok {ok : Bool} {i j : Instr} : need ok i = .ok j ↔ ok = true ∧ i = j := by
  cases ok <;> simp [need]

/-! ### Records told by their fields -/

/-- An instruction whose record has the fields `l` fits the record and is read back, where reading those fields gives the instruction. -/
theorem decode_encode_of_fields {dec : Nat → Except DecodeError Instr} {i : Instr} {l : List (Nat × Nat)} {n : Nat}
    (hn : (l.map Prod.fst).sum = n) (he : encode i = pack l) (hl : Fits l) (hd : ∀ w, cut w (l.map Prod.fst) = l → dec w = .ok i) :
    encode i < 2 ^ n ∧ dec (encode i) = .ok i := by
  rw [he, ← hn]
  exact ⟨pack_lt hl, hd _ (cut_pack hl)⟩

/-- What ties the instructions of a record of `n` bits to their fields: `fields` is what the encoder writes, reserved fields among them, and the decoder
answers an instruction exactly if the instruction is well formed and the word has its fields. -/
structure Record (n : Nat) (dec : Nat → Except DecodeError Instr) (is : Instr → Bool) (fields : Instr → List (Nat × Nat)) : Prop where
  width : ∀ i, is i = true → ((fields i).map Prod.fst).sum = n
  encodes : ∀ i, is i = true → encode i = pack (fields i)
  fits : ∀ i, wellFormed i = true → Fits (fields i)
  reads : ∀ i w, is i = true → wellFormed i = true → cut w ((fields i).map Prod.fst) = fields i → dec w = .ok i
  only : ∀ i w, dec w = .ok i → is i = true ∧ wellFormed i = true ∧ cut w ((fields i).map Prod.fst) = fields i

theorem Record.decode_encode {n : Nat} {dec : Nat → Except DecodeError Instr} {is : Instr → Bool} {fields : Instr → List (Nat × Nat)}
    (r : Record n dec is fields) {i : Instr} (hw : wellFormed i = true) (hi : is i = true) : encode i < 2 ^ n ∧ dec (encode i) = .ok i :=
  decode_encode_of_fields (r.width i hi) (r.encodes i hi) (r.fits i hw) fun w => r.reads i w hi hw

theorem Record.encode_decode {n : Nat} {dec : Nat → Except DecodeError Instr} {is : Instr → Bool} {fields : Instr → List (Nat × Nat)}
    (r : Record n dec is fields) {w : Nat} {i : Instr} (hw : w < 2 ^ n) (h : dec w = .ok i) : is i = true ∧ wellFormed i = true ∧ encode i = w := by
  obtain ⟨hi, hf, hc⟩ := r.only i w h
  exact ⟨hi, hf, by rw [r.encodes i hi, ← hc, pack_cut, r.width i hi, fld_of_lt hw]⟩

end Sys2Proof.Encoding

/-! # Words of the control core (03 R51 to R56) -/

namespace Sys2Proof.Encoding

open Sys2Proof Sys2Proof.Spec

/-- The fields of an R-form word. -/
@[simp] def rFields (op rd ra rb : Nat) (g : Guard) (fn : Nat) : List (Nat × Nat) :=
  [(7, op), (5, rd), (5, ra), (5, rb), (4, g.p), (1, bitNat g.neg), (5, fn)]

/-- The fields of a compare: an R-form word whose destination is a predicate. -/
@[simp] def cmpFields (op pd ra rb : Nat) (g : Guard) : List (Nat × Nat) :=
  [(7, op), (1, 0), (4, pd), (5, ra), (5, rb), (4, g.p), (1, bitNat g.neg), (5, 0)]

/-- The fields of a word on predicates, each source with its negation. -/
@[simp] def predFields (op pd pa pb : Nat) (na nb : Bool) (g : Guard) : List (Nat × Nat) :=
  [(7, op), (1, 0), (4, pd), (1, 0), (4, pa), (1, 0), (4, pb), (4, g.p), (1, bitNat g.neg), (3, 0), (1, bitNat na), (1, bitNat nb)]

/-- The fields of an I-form word. -/
@[simp] def iFields (op rd ra imm : Nat) : List (Nat × Nat) := [(7, op), (5, rd), (5, ra), (15, imm)]
/-- The fields of a shift by an immediate, whose upper bits are reserved. -/
@[simp] def shiftFields (op rd ra sh : Nat) : List (Nat × Nat) := [(7, op), (5, rd), (5, ra), (9, 0), (6, sh)]
/-- The fields of an M-form word. -/
@[simp] def mFields (op rd base size off : Nat) : List (Nat × Nat) := [(7, op), (5, rd), (5, base), (2, size), (13, off)]
/-- The fields of an atomic. -/
@[simp] def amoFields (op rd ra rb : Nat) (dbl : Bool) (scope : Nat) (g : Guard) : List (Nat × Nat) :=
  [(7, op), (5, rd), (5, ra), (5, rb), (4, g.p), (1, bitNat g.neg), (1, bitNat dbl), (1, 0), (3, scope)]
/-- The fields of FENCE, ACQ and REL: a scope stands in the function field. -/
@[simp] def scopeFields (op ra scope : Nat) (g : Guard) : List (Nat × Nat) :=
  [(7, op), (5, 0), (5, ra), (5, 0), (4, g.p), (1, bitNat g.neg), (2, 0), (3, scope)]
/-- The fields of PUSH and FPOP: a queue or a source stands in the function field. -/
@[simp] def selFields (op rd sel : Nat) (g : Guard) : List (Nat × Nat) :=
  [(7, op), (5, rd), (5, 0), (5, 0), (4, g.p), (1, bitNat g.neg), (3, 0), (2, sel)]
/-- The fields of CSRR and CSRW, and of the instructions that stand for one register of theirs. -/
@[simp] def csrFields (op rd ra csr : Nat) : List (Nat × Nat) := [(7, op), (5, rd), (5, ra), (3, 0), (12, csr)]

/-- The fields of a control-core word, highest first, its reserved ones among them (03 R51 to R56). -/
def controlFields : Instr → List (Nat × Nat)
  | .add rd ra rb g => rFields 0x01 rd ra rb g 0
  | .sub rd ra rb g => rFields 0x02 rd ra rb g 0
  | .and rd ra rb g => rFields 0x03 rd ra rb g 0
  | .or rd ra rb g => rFields 0x04 rd ra rb g 0
  | .xor rd ra rb g => rFields 0x05 rd ra rb g 0
  | .sll rd ra rb g => rFields 0x06 rd ra rb g 0
  | .srl rd ra rb g => rFields 0x07 rd ra rb g 0
  | .sra rd ra rb g => rFields 0x08 rd ra rb g 0
  | .mul rd ra rb g => rFields 0x09 rd ra rb g 0
  | .mulh rd ra rb g => rFields 0x0A rd ra rb g 0
  | .div rd ra rb g => rFields 0x0B rd ra rb g 0
  | .divu rd ra rb g => rFields 0x0C rd ra rb g 0
  | .rem rd ra rb g => rFields 0x0D rd ra rb g 0
  | .min rd ra rb g => rFields 0x0E rd ra rb g 0
  | .max rd ra rb g => rFields 0x0F rd ra rb g 0
  | .addi rd ra imm => iFields 0x10 rd ra imm
  | .andi rd ra imm => iFields 0x11 rd ra imm
  | .ori rd ra imm => iFields 0x12 rd ra imm
  | .xori rd ra imm => iFields 0x13 rd ra imm
  | .slli rd ra sh => shiftFields 0x14 rd ra sh
  | .srli rd ra sh => shiftFields 0x15 rd ra sh
  | .srai rd ra sh => shiftFields 0x16 rd ra sh
  | .lui rd imm => iFields 0x17 rd 0 imm
  | .ceq pd ra rb g => cmpFields 0x18 pd ra rb g
  | .cne pd ra rb g => cmpFields 0x19 pd ra rb g
  | .clt pd ra rb g => cmpFields 0x1A pd ra rb g
  | .cltu pd ra rb g => cmpFields 0x1B pd ra rb g
  | .cge pd ra rb g => cmpFields 0x1C pd ra rb g
  | .cgeu pd ra rb g => cmpFields 0x1D pd ra rb g
  | .ceqi pd ra imm => [(7, 0x1E), (1, 0), (4, pd), (5, ra), (15, imm)]
  | .clti pd ra imm => [(7, 0x1F), (1, 0), (4, pd), (5, ra), (15, imm)]
  | .pand pd pa pb na nb g => predFields 0x20 pd pa pb na nb g
  | .por pd pa pb na nb g => predFields 0x21 pd pa pb na nb g
  | .b g off => [(7, 0x22), (4, g.p), (1, bitNat g.neg), (20, off)]
  | .j off => [(7, 0x23), (25, off)]
  | .jal off => [(7, 0x24), (25, off)]
  | .jr ra g => rFields 0x25 0 ra 0 g 0
  | .jalr rd ra g => rFields 0x26 rd ra 0 g 0
  | .ld rd base size off => mFields 0x27 rd base size off
  | .st rd base size off => mFields 0x28 rd base size off
  | .lda rd base size off => mFields 0x29 rd base size off
  | .stl rd base size off => mFields 0x2A rd base size off
  | .lds rd base size off => mFields 0x2B rd base size off
  | .sts rd base size off => mFields 0x2C rd base size off
  | .amoadd rd ra rb dbl scope g => amoFields 0x2D rd ra rb dbl scope g
  | .amoand rd ra rb dbl scope g => amoFields 0x2E rd ra rb dbl scope g
  | .amoor rd ra rb dbl scope g => amoFields 0x2F rd ra rb dbl scope g
  | .amomax rd ra rb dbl scope g => amoFields 0x30 rd ra rb dbl scope g
  | .amoswp rd ra rb dbl scope g => amoFields 0x31 rd ra rb dbl scope g
  | .amocas rd ra rb dbl scope g => amoFields 0x32 rd ra rb dbl scope g
  | .fence scope g => scopeFields 0x33 0 scope g
  | .acq ra scope g => scopeFields 0x34 ra scope g
  | .rel ra scope g => scopeFields 0x35 ra scope g
  | .bind rd ra rb g => rFields 0x36 rd ra rb g 0
  | .cset c width pos ra => [(7, 0x37), (4, c), (2, width), (4, pos), (5, ra), (10, 0)]
  | .cseti c width pos imm => [(7, 0x38), (4, c), (2, width), (4, pos), (15, imm)]
  | .cclr first last => [(7, 0x39), (4, first), (6, 0), (11, 0), (4, last)]
  | .push rd queue g => selFields 0x3A rd queue g
  | .rpush rd ra rb g => rFields 0x3B rd ra rb g 0
  | .fpop rd source g => selFields 0x3C rd source g
  | .zpop rd z g => [(7, 0x3D), (5, rd), (2, 0), (3, z), (5, 0), (4, g.p), (1, bitNat g.neg), (5, 0)]
  | .zpush z rb g => [(7, 0x3E), (2, 0), (3, z), (5, 0), (5, rb), (4, g.p), (1, bitNat g.neg), (5, 0)]
  | .gjoin rd ra lockstep g => [(7, 0x3F), (5, rd), (5, ra), (5, 0), (4, g.p), (1, bitNat g.neg), (4, 0), (1, bitNat lockstep)]
  | .gleave ra g => rFields 0x40 0 ra 0 g 0
  | .barr rd ra g => rFields 0x41 rd ra 0 g 0
  | .sig ra rb g => rFields 0x42 0 ra rb g 0
  | .waits rd ra rb g => rFields 0x43 rd ra rb g 0
  | .tmark rd mask => [(7, 0x44), (5, rd), (5, 0), (7, 0), (8, mask)]
  | .csrr rd csr => csrFields 0x45 rd 0 csr
  | .tkvx rd => csrFields 0x45 rd 0 0x291
  | .tkmx rd => csrFields 0x45 rd 0 0x292
  | .tsqPop rd => csrFields 0x45 rd 0 0x98D
  | .csrw ra csr => csrFields 0x46 0 ra csr
  | .tkpush ra => csrFields 0x46 0 ra 0x290
  | .tcmpWrite ra => csrFields 0x46 0 ra 0x80A
  | .tsdone ra => csrFields 0x46 0 ra 0x98E
  | .tinv ra => csrFields 0x46 0 ra 0x933
  | .cmclr ra => csrFields 0x46 0 ra 0x263
  | .wrctlWrite ra => csrFields 0x46 0 ra 0x977
  | .hctlWrite ra => csrFields 0x46 0 ra 0x981
  | .hrepWrite ra => csrFields 0x46 0 ra 0x985
  | .hwdtWrite ra => csrFields 0x46 0 ra 0x98B
  | .trap imm => iFields 0x47 0 0 imm
  | .rfe => [(7, 0x48), (25, 0)]
  | _ => []

theorem isControl_iff {i : Instr} : isControl i = true ↔ controlFields i ≠ [] := by
  have h : isControl i = !(controlFields i).isEmpty := by cases i <;> rfl
  simp [h]

theorem controlFields_width {i : Instr} : controlFields i ≠ [] → ((controlFields i).map Prod.fst).sum = 32 := by
  fun_cases controlFields i
  all_goals simp

theorem encode_eq_pack_controlFields {i : Instr} : controlFields i ≠ [] → encode i = pack (controlFields i) := by
  fun_cases controlFields i
  case case85 => simp
  all_goals
    intro _
    simp only [encode, encR, encI, encM, pack, rFields, cmpFields, predFields, iFields, shiftFields, mFields, amoFields, scopeFields, selFields,
      csrFields, List.map_cons, List.map_nil, List.sum_cons, List.sum_nil]
    ring

theorem two_pow_le_of_lt_four {n : Nat} (h : n < 4) : 2 ^ n ≤ 8 := Nat.pow_le_pow_right (by decide) (Nat.le_of_lt_succ h)

/- In the proofs below the number of a case is the opcode of its instruction, up to CSRR (0x45 = 69), whose opcode the words 70 to 72 share; CSRW and the
words that share its opcode follow. -/

theorem fits_controlFields {i : Instr} : wellFormed i = true → Fits (controlFields i) := by
  fun_cases controlFields i
  case case84 | case85 => simp [Fits]
  -- CSET and CSETI: the width bounds the position
  case case55 | case56 =>
    intro hw
    simp [wellFormed, reg, imm15, fieldOk] at hw
    have hp := two_pow_le_of_lt_four hw.1.1.2
    simp [Fits]
    omega
  all_goals
    intro hw
    simp [wellFormed, rForm, cmpForm, mForm, reg, Guard.wf, imm15, scopeOk] at hw
    simp [Fits]
    omega

theorem decodeControl_of_fields {i : Instr} {w : Nat} : controlFields i ≠ [] → wellFormed i = true →
    cut w ((controlFields i).map Prod.fst) = controlFields i → decodeControl w = .ok i := by
  fun_cases controlFields i
  case case85 => simp
  all_goals
    intro _ hw hc
    simp [cut] at hc
    simp [wellFormed, readRows, writeRows] at hw
    rw [decodeControl, hc.1]
  -- words without a reserved field
  case case16 | case17 | case18 | case19 | case34 | case35 | case36 | case39 | case40 | case41 | case42 | case43 | case44 =>
    exact congrArg Except.ok (by simp [hc, flag_eq_fld])
  -- PUSH names one of three queues
  case case58 =>
    exact need_eq_ok.mpr ⟨by simp [hc]; omega, by simp [hc, guardR, flag_eq_fld]⟩
  -- CSRR and CSRW: a register with a row of its own is left to that row
  case case69 | case73 =>
    refine need_eq_ok.mpr ⟨by simp [hc], ?_⟩
    simp only [hc]
    split <;> simp_all
  all_goals
    exact need_eq_ok.mpr ⟨by simp [hc, hw], by simp [hc, guardR, flag_eq_fld]⟩

theorem fields_of_decodeControl {i : Instr} {w : Nat} (h : decodeControl w = .ok i) :
    controlFields i ≠ [] ∧ wellFormed i = true ∧ cut w ((controlFields i).map Prod.fst) = controlFields i := by
  unfold decodeControl at h
  split at h
  -- words without a reserved field
  case h_16 hop | h_17 hop | h_18 hop | h_19 hop | h_34 hop | h_35 hop | h_36 hop | h_39 hop | h_40 hop | h_41 hop | h_42 hop | h_43 hop | h_44 hop =>
    obtain rfl := Except.ok.inj h
    exact ⟨by simp [controlFields], by simp [wellFormed, reg, imm15, mForm, Guard.wf], by simp [controlFields, cut, hop]⟩
  -- PUSH names one of three queues
  case h_58 hop =>
    obtain ⟨hr, rfl⟩ := need_eq_ok.mp h
    simp at hr
    have hq := fld_lt w 0 2
    refine ⟨by simp [controlFields], ?_, by simp [controlFields, cut, guardR, hop, hr]⟩
    simp [wellFormed, reg, Guard.wf, guardR]
    omega
  -- CSRR and CSRW, and the instructions that stand for a register of theirs
  case h_69 hop | h_70 hop =>
    obtain ⟨hr, rfl⟩ := need_eq_ok.mp h
    simp at hr
    split <;> simp_all [controlFields, wellFormed, reg, readRows, writeRows, cut]
  case h_73 => cases h
  all_goals
    rename_i hop
    obtain ⟨hr, rfl⟩ := need_eq_ok.mp h
    simp [fieldOk] at hr
    refine ⟨by simp [controlFields], ?_, by simp [controlFields, cut, guardR, hop, hr]⟩
    simp [wellFormed, rForm, cmpForm, reg, Guard.wf, guardR, imm15, fieldOk, hr]

theorem controlRecord : Record 32 decodeControl isControl controlFields where
  width _ hi := controlFields_width (isControl_iff.mp hi)
  encodes _ hi := encode_eq_pack_controlFields (isControl_iff.mp hi)
  fits _ := fits_controlFields
  reads _ _ hi := decodeControl_of_fields (isControl_iff.mp hi)
  only _ _ h := (fields_of_decodeControl h).imp_left isControl_iff.mpr

end Sys2Proof.Encoding

/-! # Operands of a vector word (03 R59 to R62, 07 R159, R162) -/

namespace Sys2Proof.Encoding

open Sys2Proof Sys2Proof.Spec

/-! ### Signed fields -/

theorem unsigned_lt (n : Nat) (v : Int) : unsigned n v < 2 ^ n := by
  have h : (0 : Int) < 2 ^ n := by positivity
  zify
  rw [unsigned, Int.toNat_of_nonneg (Int.emod_nonneg v h.ne')]
  exact Int.emod_lt_of_pos v h

theorem unsigned_signed {n v : Nat} (h : v < 2 ^ n) : unsigned n (signed n v) = v := by
  have h' : (v : Int) < 2 ^ n := by exact_mod_cast h
  unfold signed unsigned
  split
  · rw [Int.emod_eq_of_lt (by omega) h', Int.toNat_natCast]
  · rw [Int.sub_emod_right, Int.emod_eq_of_lt (by omega) h', Int.toNat_natCast]

/-- The integers that an n-bit field of two's complement holds. -/
def InRange (n : Nat) (v : Int) : Prop := -(2 ^ (n - 1) : Nat) ≤ v ∧ v < (2 ^ (n - 1) : Nat)

theorem two_pow_eq_double {n : Nat} (hn : 0 < n) : (2 : Int) ^ n = 2 * (2 ^ (n - 1) : Nat) := by
  obtain ⟨m, rfl⟩ := Nat.exists_eq_add_of_lt hn
  push_cast
  simp only [Nat.zero_add]
  ring

theorem signed_unsigned {n : Nat} {v : Int} (hn : 0 < n) (h : InRange n v) : signed n (unsigned n v) = v := by
  unfold InRange at h
  rw [signed, unsigned, two_pow_eq_double hn]
  generalize 2 ^ (n - 1) = k at *
  have hv : v % (2 * k) = if 0 ≤ v then v else v + 2 * k := by
    split
    · exact Int.emod_eq_of_lt ‹_› (by omega)
    · rw [← Int.add_emod_right, Int.emod_eq_of_lt (by omega) (by omega)]
  rw [hv]
  split <;> omega

theorem inRange_signed {n v : Nat} (hn : 0 < n) (h : v < 2 ^ n) : InRange n (signed n v) := by
  have h' : (v : Int) < 2 ^ n := by exact_mod_cast h
  rw [InRange, signed, two_pow_eq_double hn] at *
  generalize 2 ^ (n - 1) = k at *
  split <;> omega

/-! ### Operand fields of a vector word (03 R59) -/

/-- The fields of an operand. -/
def opFields : VOp → List (Nat × Nat)
  | .grid d i s r o => [(2, 0), (2, dirCode d), (6, i), (4, unsigned 4 s), (1, bitNat r), (3, 0), (6, o)]
  | .scalar n => [(2, 1), (3, 0), (5, n), (14, 0)]
  | .imm v => [(2, 2), (22, v)]
  | .scratch t b s o => [(2, 3), (2, t), (1, 0), (5, b), (4, unsigned 4 s), (1, 0), (9, o)]

theorem opFields_width (o : VOp) : ((opFields o).map Prod.fst).sum = 24 := by cases o <;> rfl

theorem encodeVOp_eq_pack (o : VOp) : encodeVOp o = pack (opFields o) := by
  cases o <;>
  · simp only [encodeVOp, opFields, pack, List.map_cons, List.map_nil, List.sum_cons, List.sum_nil]
    ring

theorem dirCode_lt (d : Dir) : dirCode d < 4 := by cases d <;> decide

theorem dirOf_dirCode (d : Dir) : dirOf (dirCode d) = d := by cases d <;> rfl

theorem dirCode_dirOf {n : Nat} (h : n < 4) : dirCode (dirOf n) = n := by interval_cases n <;> rfl

theorem stride4_iff (s : Int) : stride4 s = true ↔ InRange 4 s := by
  simp [stride4, InRange]
  omega

@[simp] theorem unsigned_signed_fld (n w lo : Nat) : unsigned n (signed n (fld w lo n)) = fld w lo n := unsigned_signed (fld_lt w lo n)

@[simp] theorem stride4_signed_fld (w lo : Nat) : stride4 (signed 4 (fld w lo 4)) = true :=
  (stride4_iff _).mpr (inRange_signed (by decide) (fld_lt w lo 4))

@[simp] theorem dirCode_dirOf_fld (w lo : Nat) : dirCode (dirOf (fld w lo 2)) = fld w lo 2 := dirCode_dirOf (fld_lt w lo 2)

theorem fits_opFields {o : VOp} (h : o.wf = true) : Fits (opFields o) := by
  cases o with
  | grid d i s r off =>
    simp [VOp.wf] at h
    have hs := unsigned_lt 4 s
    have hd := dirCode_lt d
    simp [opFields, Fits]
    omega
  | scalar n =>
    simp [VOp.wf, reg] at h
    simp [opFields, Fits, h]
  | imm v =>
    simp [VOp.wf] at h
    simp [opFields, Fits, h]
  | scratch t b s off =>
    simp [VOp.wf, reg] at h
    have hs := unsigned_lt 4 s
    simp [opFields, Fits]
    omega

/-- Reading an operand's fields gives the operand. -/
theorem decodeVOp_of_cut {f : Nat} {o : VOp} (h : o.wf = true) (hc : cut f ((opFields o).map Prod.fst) = opFields o) : decodeVOp f = some o := by
  cases o with
  | grid d i s r off =>
    simp [opFields, cut] at hc
    simp [VOp.wf, stride4_iff] at h
    have hr : r = false ∨ dirCode d = 0 := h.2.imp_right fun hd => by rw [hd]; rfl
    simp [decodeVOp, hc, flag_eq_fld, hr, dirOf_dirCode, signed_unsigned, h]
  | scalar n =>
    simp [opFields, cut] at hc
    simp [decodeVOp, hc]
  | imm v =>
    simp [opFields, cut] at hc
    simp [decodeVOp, hc]
  | scratch t b s off =>
    simp [opFields, cut] at hc
    simp [VOp.wf, stride4_iff] at h
    simp [decodeVOp, hc, signed_unsigned, h]

theorem cut_of_decodeVOp {f : Nat} {o : VOp} (h : decodeVOp f = some o) : o.wf = true ∧ cut f ((opFields o).map Prod.fst) = opFields o := by
  unfold decodeVOp at h
  split at h
  case h_1 hk =>
    rw [Option.ite_none_right_eq_some] at h
    obtain ⟨hz, h⟩ := h
    obtain rfl := Option.some.inj h
    have hr : flag f 9 = false ∨ dirOf (fld f 20 2) = .row := hz.2.imp_right fun hd => by rw [hd]; rfl
    simp [VOp.wf, opFields, cut, hk, hz, hr]
  case h_2 hk =>
    rw [Option.ite_none_right_eq_some] at h
    obtain ⟨hz, h⟩ := h
    obtain rfl := Option.some.inj h
    simp [VOp.wf, opFields, cut, reg, hk, hz]
  case h_3 hk =>
    obtain rfl := Option.some.inj h
    simp [VOp.wf, opFields, cut, hk]
  case h_4 hk =>
    rw [Option.ite_none_right_eq_some] at h
    obtain ⟨hz, h⟩ := h
    obtain rfl := Option.some.inj h
    have h3 : fld f 22 2 = 3 := by
      have := fld_lt f 22 2
      interval_cases fld f 22 2 <;> simp_all
    simp [VOp.wf, opFields, cut, h3, hz, reg]

theorem encodeVOp_lt {o : VOp} (h : o.wf = true) : encodeVOp o < 16777216 := by
  show encodeVOp o < 2 ^ 24
  rw [encodeVOp_eq_pack, ← opFields_width o]
  exact pack_lt (fits_opFields h)

theorem decodeVOp_encodeVOp {o : VOp} (h : o.wf = true) : decodeVOp (encodeVOp o) = some o := by
  rw [encodeVOp_eq_pack]
  exact decodeVOp_of_cut h (cut_pack (fits_opFields h))

theorem encodeVOp_of_decodeVOp {f : Nat} {o : VOp} (hf : f < 2 ^ 24) (h : decodeVOp f = some o) : o.wf = true ∧ encodeVOp o = f := by
  obtain ⟨hw, hc⟩ := cut_of_decodeVOp h
  exact ⟨hw, by rw [encodeVOp_eq_pack, ← hc, pack_cut, opFields_width, fld_of_lt hf]⟩

/-- An operand field of a word reads as an operand exactly if it is that operand's encoding. -/
theorem decodeVOp_fld {w lo : Nat} {o : VOp} : decodeVOp (fld w lo 24) = some o ↔ o.wf = true ∧ fld w lo 24 = encodeVOp o :=
  ⟨fun h => (encodeVOp_of_decodeVOp (fld_lt w lo 24) h).imp_right Eq.symm, fun h => by rw [h.2, decodeVOp_encodeVOp h.1]⟩

/-! ### The accumulator field (07 R159) and counts (07 R162) -/

theorem encodeAcc_lt {f : AccField} (h : f.wf = true) : encodeAcc f < 16777216 := by
  have := unsigned_lt 4 f.stride
  simp [AccField.wf] at h
  rw [encodeAcc]
  omega

theorem encodeAcc_eq_pack (f : AccField) : encodeAcc f = pack [(3, f.tile), (17, f.offset), (4, unsigned 4 f.stride)] := by
  simp [encodeAcc, pack]
  ring

theorem fits_acc {f : AccField} (h : f.wf = true) : Fits [(3, f.tile), (17, f.offset), (4, unsigned 4 f.stride)] := by
  have := unsigned_lt 4 f.stride
  simp [AccField.wf] at h
  simp [Fits]
  omega

theorem decodeAcc_encodeAcc {f : AccField} (h : f.wf = true) : decodeAcc (encodeAcc f) = f := by
  have hc := cut_pack (fits_acc h)
  rw [← encodeAcc_eq_pack] at hc
  simp [cut] at hc
  simp [AccField.wf, stride4_iff] at h
  simp [decodeAcc, hc, signed_unsigned, h]

theorem wf_decodeAcc (f : Nat) : (decodeAcc f).wf = true := by simp [AccField.wf, decodeAcc]

theorem encodeAcc_decodeAcc {f : Nat} (hf : f < 2 ^ 24) : encodeAcc (decodeAcc f) = f := by
  have hc := pack_cut f [3, 17, 4]
  rw [encodeAcc_eq_pack]
  simpa [cut, decodeAcc, fld_of_lt hf] using hc

/-- A count or mask field of a word reads as a count exactly if it is that count's encoding (07 R162). -/
theorem decodeCount_fld {bits w lo : Nat} {c : VCount} (hb : bits ≤ 22) :
    decodeCount bits (fld w lo 24) = some c ↔ c.wf bits = true ∧ fld w lo 24 = encodeCount c := by
  have hpow : 2 ^ bits ≤ 2 ^ 22 := Nat.pow_le_pow_right (by decide) hb
  constructor
  · intro h
    unfold decodeCount at h
    split at h
    case h_1 n ho =>
      obtain ⟨hw, he⟩ := decodeVOp_fld.mp ho
      obtain rfl := Option.some.inj h
      exact ⟨hw, he⟩
    case h_2 v ho =>
      obtain ⟨hv, h⟩ := Option.ite_none_right_eq_some.mp h
      obtain rfl := Option.some.inj h
      exact ⟨decide_eq_true hv, (decodeVOp_fld.mp ho).2⟩
    case h_3 => cases h
  · rintro ⟨hw, he⟩
    cases c with
    | scalar n => rw [decodeCount, (decodeVOp_fld (o := .scalar n)).mpr ⟨hw, he⟩]
    | imm v =>
      have hv : v < 2 ^ bits := of_decide_eq_true hw
      rw [decodeCount, (decodeVOp_fld (o := .imm v)).mpr ⟨decide_eq_true (hv.trans_le hpow), he⟩]
      exact if_pos hv

theorem encodeCount_lt {c : VCount} {bits : Nat} (hb : bits ≤ 22) (h : c.wf bits = true) : encodeCount c < 16777216 := by
  have hpow : 2 ^ bits ≤ 2 ^ 22 := Nat.pow_le_pow_right (by decide) hb
  cases c with
  | scalar n => exact encodeVOp_lt (o := .scalar n) h
  | imm v => exact encodeVOp_lt (o := .imm v) (decide_eq_true ((of_decide_eq_true h).trans_le hpow))

/-! ### What the shapes of vector words read (03 R62) -/

/-- Bits `lo` to `lo + 23` of a word hold an operand of a kind that the word takes there. -/
structure OperandAt (w lo : Nat) (ok : VOp → Bool) (o : VOp) : Prop where
  wf : o.wf = true
  kind : ok o = true
  bits : fld w lo 24 = encodeVOp o

theorem withOp_eq_ok {w lo : Nat} {ok : VOp → Bool} {k : VOp → Except DecodeError Instr} {i : Instr} :
    withOp (fld w lo 24) ok k = .ok i ↔ ∃ o, OperandAt w lo ok o ∧ k o = .ok i := by
  unfold withOp
  constructor
  · intro h
    split at h
    · split at h
      · rename_i o ho hk
        obtain ⟨hw, he⟩ := decodeVOp_fld.mp ho
        exact ⟨o, ⟨hw, hk, he⟩, h⟩
      · cases h
    · cases h
  · rintro ⟨o, ⟨hw, hk, he⟩, h⟩
    rw [decodeVOp_fld.mpr ⟨hw, he⟩]
    exact (if_pos hk).trans h

theorem word3_eq_ok {w : Nat} {okD okA okB : VOp → Bool} {k : VOp → VOp → VOp → Instr} {i : Instr} :
    word3 w okD okA okB k = .ok i ↔ ∃ d a b, OperandAt w 48 okD d ∧ OperandAt w 24 okA a ∧ OperandAt w 0 okB b ∧ k d a b = i := by
  simp [word3, withOp_eq_ok, ← exists_and_left]

theorem word2_eq_ok {w : Nat} {okD okA : VOp → Bool} {k : VOp → VOp → Instr} {i : Instr} :
    word2 w okD okA k = .ok i ↔ ∃ d a, OperandAt w 48 okD d ∧ OperandAt w 24 okA a ∧ fld w 0 24 = 0 ∧ k d a = i := by
  simp [word2, withOp_eq_ok, need_eq_ok, ← exists_and_left]

theorem isScalar_iff {o : VOp} : o.isScalar = true ↔ ∃ n, o = .scalar n := by cases o <;> simp [VOp.isScalar]

theorem wordS_eq_ok {w : Nat} {okA : VOp → Bool} {k : Nat → VOp → Instr} {i : Instr} :
    wordS w okA k = .ok i ↔ ∃ n a, (reg n = true ∧ fld w 48 24 = encodeVOp (.scalar n)) ∧ OperandAt w 24 okA a ∧ fld w 0 24 = 0 ∧ k n a = i := by
  simp only [wordS, withOp_eq_ok]
  constructor
  · rintro ⟨d, hd, a, ha, h⟩
    obtain ⟨n, rfl⟩ := isScalar_iff.mp hd.kind
    obtain ⟨hb, rfl⟩ := need_eq_ok.mp h
    exact ⟨n, a, ⟨hd.wf, hd.bits⟩, ha, beq_iff_eq.mp hb, rfl⟩
  · rintro ⟨n, a, ⟨hn, hd⟩, ha, hb, rfl⟩
    exact ⟨.scalar n, ⟨hn, rfl, hd⟩, a, ha, need_eq_ok.mpr ⟨beq_iff_eq.mpr hb, rfl⟩⟩

theorem wordC_eq_ok {w : Nat} {okA : VOp → Bool} {k : VOp → VOp → Nat → Instr} {i : Instr} :
    wordC w okA k = .ok i ↔ ∃ d a, OperandAt w 48 VOp.isGrid d ∧ OperandAt w 24 okA a ∧ fld w 3 21 = 2 ^ 20 ∧ k d a (fld w 0 3) = i := by
  simp [wordC, withOp_eq_ok, need_eq_ok, ← exists_and_left]

theorem wordP_eq_ok {w rel : Nat} {okA okB : VOp → Bool} {k : Nat → Nat → VOp → VOp → Instr} {i : Instr} :
    wordP w rel okA okB k = .ok i ↔ ∃ a b, OperandAt w 24 okA a ∧ OperandAt w 0 okB b ∧ (fld w 68 4 = 0 ∧ fld w 61 3 = 0 ∧ fld w 48 10 = 0) ∧
      (fld w 64 4 < 8 ∧ fld w 58 3 < rel) ∧ k (fld w 64 4) (fld w 58 3) a b = i := by
  simp [wordP, withOp_eq_ok, need_eq_ok, ← exists_and_left, and_assoc]

theorem wordSS_eq_ok {w : Nat} {k : VOp → VOp → VOp → Except DecodeError Instr} {i : Instr} :
    wordSS w k = .ok i ↔ ∃ d a b, OperandAt w 48 (fun _ => true) d ∧ OperandAt w 24 (fun _ => true) a ∧ OperandAt w 0 (fun _ => true) b ∧ k d a b = .ok i := by
  simp [wordSS, withOp_eq_ok, ← exists_and_left]

theorem withCount_eq_ok {bits w lo : Nat} {ok : Bool} {k : VCount → Instr} {i : Instr} (hb : bits ≤ 22) :
    withCount bits (fld w lo 24) ok k = .ok i ↔ ∃ c, c.wf bits = true ∧ fld w lo 24 = encodeCount c ∧ ok = true ∧ k c = i := by
  unfold withCount
  constructor
  · intro h
    split at h
    · rename_i c hc
      obtain ⟨hw, he⟩ := (decodeCount_fld hb).mp hc
      exact ⟨c, hw, he, need_eq_ok.mp h⟩
    · cases h
  · rintro ⟨c, hw, he, h⟩
    rw [(decodeCount_fld hb).mpr ⟨hw, he⟩]
    exact need_eq_ok.mpr h

end Sys2Proof.Encoding

/-! # Words of the vector stream (03 R57 to R63) -/

namespace Sys2Proof.Encoding

open Sys2Proof Sys2Proof.Spec

/-- A vector word's fields from its opcode, its header and its low 72 bits (03 R57). -/
@[simp] def vFields (op : Nat) (h : VHdr) (body : List (Nat × Nat)) : List (Nat × Nat) :=
  (8, op) :: (4, h.guard.p) :: (1, bitNat h.guard.neg) :: (3, h.slot) :: (4, h.pop) :: (4, h.push) :: body

/-- A word of three operands. -/
@[simp] def v3Fields (op : Nat) (h : VHdr) (d a b : VOp) : List (Nat × Nat) :=
  vFields op h [(24, encodeVOp d), (24, encodeVOp a), (24, encodeVOp b)]

/-- A word of two operands, whose B is reserved. -/
@[simp] def v2Fields (op : Nat) (h : VHdr) (d a : VOp) : List (Nat × Nat) := vFields op h [(24, encodeVOp d), (24, encodeVOp a), (24, 0)]

/-- A conversion, whose B is an immediate that names the source slot (06 R140). -/
@[simp] def cvtFields (op : Nat) (h : VHdr) (d a : VOp) (src : Nat) : List (Nat × Nat) :=
  vFields op h [(24, encodeVOp d), (24, encodeVOp a), (21, 2 ^ 20), (3, src)]

/-- A compare, whose D holds the predicate and the relation (06 R137). -/
@[simp] def vcmpFields (op : Nat) (h : VHdr) (pd rel : Nat) (a b : VOp) : List (Nat × Nat) :=
  vFields op h [(4, 0), (4, pd), (3, 0), (3, rel), (10, 0), (24, encodeVOp a), (24, encodeVOp b)]

/-- A control word of the vector stream, whose guard is zero (07 R162). -/
@[simp] def flowFields (op slot pop push : Nat) (body : List (Nat × Nat)) : List (Nat × Nat) :=
  (8, op) :: (5, 0) :: (3, slot) :: (4, pop) :: (4, push) :: body

/-- The fields of a vector word, highest first, its reserved ones among them (03 R57 to R63, 07 R162). -/
def vectorFields : Instr → List (Nat × Nat)
  | .vaddF h d a b => v3Fields 0x01 h d a b
  | .vsubF h d a b => v3Fields 0x02 h d a b
  | .vmulF h d a b => v3Fields 0x03 h d a b
  | .vfmaF h d a b => v3Fields 0x04 h d a b
  | .vminF h d a b => v3Fields 0x05 h d a b
  | .vmaxF h d a b => v3Fields 0x06 h d a b
  | .vdivF h d a b => v3Fields 0x07 h d a b
  | .vsqrtF h d a => v2Fields 0x08 h d a
  | .vabsF h d a => v2Fields 0x09 h d a
  | .vnegF h d a => v2Fields 0x0A h d a
  | .vaddI h d a b => v3Fields 0x0B h d a b
  | .vsubI h d a b => v3Fields 0x0C h d a b
  | .vmulI h d a b => v3Fields 0x0D h d a b
  | .vmacI h d a b => v3Fields 0x0E h d a b
  | .vand h d a b => v3Fields 0x0F h d a b
  | .vor h d a b => v3Fields 0x10 h d a b
  | .vxor h d a b => v3Fields 0x11 h d a b
  | .vshl h d a b => v3Fields 0x12 h d a b
  | .vshr h d a b => v3Fields 0x13 h d a b
  | .vsra h d a b => v3Fields 0x14 h d a b
  | .vminI h d a b => v3Fields 0x15 h d a b
  | .vmaxI h d a b => v3Fields 0x16 h d a b
  | .vcmpF h pd rel a b => vcmpFields 0x17 h pd rel a b
  | .vcmpI h pd rel a b => vcmpFields 0x18 h pd rel a b
  | .vsel h d a b => v3Fields 0x19 h d a b
  | .vcvt h d a src => cvtFields 0x1A h d a src
  | .vpack h d a src => cvtFields 0x1B h d a src
  | .vunpk h d a src => cvtFields 0x1C h d a src
  | .vcmul h d a b => v3Fields 0x1D h d a b
  | .vcfma h d a b => v3Fields 0x1E h d a b
  | .vtwid h d a b => v3Fields 0x1F h d a b
  | .vreds h sd a => v2Fields 0x20 h (.scalar sd) a
  | .vredm h sd a mode => vFields 0x21 h [(24, encodeVOp (.scalar sd)), (24, encodeVOp a), (22, 2 ^ 21), (2, mode)]
  | .vperm h d a b => v3Fields 0x22 h d a b
  | .vbcst h d a b => v3Fields 0x23 h d a b
  | .vmovg h d a => v2Fields 0x24 h d a
  | .vclmp h d a b => v3Fields 0x25 h d a b
  | .vpopc h sd a => v2Fields 0x26 h (.scalar sd) a
  | .vtopk h d a b => v3Fields 0x27 h d a b
  | .vnms h pd a b => vcmpFields 0x28 h pd 0 a b
  | .vboxd h d a b => v3Fields 0x29 h d a b
  | .vdwc h d a b => v3Fields 0x2A h d a b
  | .vlut h d a b => v3Fields 0x2B h d a b
  | .vld h d a => v2Fields 0x2C h d a
  | .vst h d a => v2Fields 0x2D h d a
  | .vgath h d a b => v3Fields 0x2E h d a b
  | .vscat h d a b => v3Fields 0x2F h d a b
  | .vacld h d f => vFields 0x30 h [(24, encodeVOp d), (24, encodeAcc f), (24, 0)]
  | .vacz h f => vFields 0x31 h [(24, encodeAcc f), (24, 0), (24, 0)]
  | .vsadd h sd sa sb => v3Fields 0x32 h (.scalar sd) (.scalar sa) (.scalar sb)
  | .vsaddi h sd sa v => v3Fields 0x33 h (.scalar sd) (.scalar sa) (.imm v)
  | .vsmov h sd a => v2Fields 0x34 h (.scalar sd) a
  | .vloop s p q l rot drain c off =>
    flowFields 0x35 s p q [(6, 0), (1, l), (1, bitNat rot), (13, 0), (3, drain), (24, encodeCount c), (8, 0), (16, off)]
  | .vlbr s p q l => flowFields 0x36 s p q [(6, 0), (1, l), (17, 0), (24, 0), (24, 0)]
  | .vbr s p q g all off =>
    vFields 0x37 { guard := g, slot := s, pop := p, push := q } [(6, 0), (1, bitNat all), (17, 0), (24, 0), (8, 0), (16, off)]
  | .vj s p q off => flowFields 0x38 s p q [(24, 0), (24, 0), (8, 0), (16, off)]
  | .vtok h np nq => vFields 0x39 h [(24, 0), (20, 2 ^ 19), (4, np), (20, 2 ^ 19), (4, nq)]
  | .vrdv s p q sd => flowFields 0x3A s p q [(19, 0), (5, sd), (24, 0), (24, 0)]
  | .vfmtSelect s p q l base => flowFields 0x3B s p q [(4, 0), (1, 0), (2, loopCode l), (13, 0), (4, base), (24, 0), (24, 0)]
  | .vfmtLoad s p q row sn => flowFields 0x3B s p q [(4, 0), (1, 1), (15, 0), (4, row), (24, encodeVOp (.scalar sn)), (24, 0)]
  | .vkac h a const => vFields 0x3C h [(24, 0), (24, encodeVOp a), (2, 2), (22, const)]
  | .vwait s p q c => flowFields 0x3D s p q [(24, 0), (24, encodeCount c), (24, 0)]
  | .vsig s p q c => flowFields 0x3E s p q [(24, 0), (24, encodeCount c), (24, 0)]
  | .vstop s p q => flowFields 0x3F s p q [(24, 0), (24, 0), (24, 0)]
  | .vnop h => vFields 0x40 h [(24, 0), (24, 0), (24, 0)]
  | _ => []

theorem isVector_iff {i : Instr} : isVector i = true ↔ vectorFields i ≠ [] := by
  have h : isVector i = !(vectorFields i).isEmpty := by cases i <;> rfl
  simp [h]

theorem vectorFields_width {i : Instr} : vectorFields i ≠ [] → ((vectorFields i).map Prod.fst).sum = 96 := by
  fun_cases vectorFields i
  all_goals simp

theorem encode_eq_pack_vectorFields {i : Instr} : vectorFields i ≠ [] → encode i = pack (vectorFields i) := by
  fun_cases vectorFields i
  case case66 => simp
  all_goals
    intro _
    simp only [encode, encV3, encV2, encV, encPd, encodeVOp, flowVHdr, bitNat_false, pack, v3Fields, v2Fields, vFields, cvtFields, vcmpFields, flowFields,
      List.map_cons, List.map_nil, List.sum_cons, List.sum_nil]
    ring

theorem loopCode_lt (l : LoopSel) : loopCode l < 3 := by cases l <;> decide

theorem vecTokens_lt {pop push : Nat} (h : vecTokens pop push = true) : pop < 16 ∧ push < 16 := by
  simp [vecTokens] at h
  omega

theorem VHdr.wf_iff {h : VHdr} :
    h.wf = true ↔ h.guard.p < 16 ∧ h.slot < 8 ∧ (h.pop < 16 ∧ h.push < 16) ∧ vecTokens h.pop h.push = true := by
  rw [and_iff_right_of_imp vecTokens_lt, VHdr.wf, Guard.wf, Bool.and_eq_true, Bool.and_eq_true, decide_eq_true_eq, decide_eq_true_eq, and_assoc]

theorem flowHdr_iff {slot pop push : Nat} :
    flowHdr slot pop push = true ↔ slot < 8 ∧ (pop < 16 ∧ push < 16) ∧ vecTokens pop push = true := by
  rw [and_iff_right_of_imp vecTokens_lt, flowHdr, Bool.and_eq_true, decide_eq_true_eq]

theorem gridOp_iff {o : VOp} : gridOp o = true ↔ o.wf = true ∧ o.isGrid = true := by rw [gridOp, Bool.and_eq_true]

theorem source_iff {o : VOp} : source o = true ↔ o.wf = true ∧ okSrc o = true := by rw [source, okSrc, Bool.and_eq_true]

theorem gridOrScalar_iff {o : VOp} : gridOrScalar o = true ↔ o.wf = true ∧ okGS o = true := by rw [gridOrScalar, okGS, Bool.and_eq_true]

theorem scalarOrImm_iff {o : VOp} : scalarOrImm o = true ↔ o.wf = true ∧ okSI o = true := by rw [scalarOrImm, okSI, Bool.and_eq_true]

@[simp] theorem VOp.wf_scalar (n : Nat) : (VOp.scalar n).wf = reg n := rfl

@[simp] theorem VOp.wf_imm (v : Nat) : (VOp.imm v).wf = decide (v < 2 ^ 22) := rfl

theorem fits_vectorFields {i : Instr} : wellFormed i = true → Fits (vectorFields i) := by
  fun_cases vectorFields i
  case case66 => simp [Fits]
  case case23 | case24 | case40 =>
    intro hw
    simp [wellFormed, VHdr.wf_iff, source_iff, scalarOrImm_iff] at hw
    simp [Fits, encodeVOp_lt, hw]
    omega
  all_goals
    intro hw
    simp [wellFormed, triOp, VHdr.wf_iff, Guard.wf, gridOp_iff, source_iff, gridOrScalar_iff, scalarOrImm_iff, flowHdr_iff, reg] at hw
    simp [Fits, encodeVOp_lt, encodeAcc_lt, encodeCount_lt (bits := 21), encodeCount_lt (bits := 22), (loopCode_lt _).trans, reg, hw]

/- In the proofs below the number of a case is the opcode of its instruction, up to VFMT (0x3B = 59): its two forms are two instructions and one row of the decoder. -/

theorem loopSel_loopCode (l : LoopSel) : loopSel (loopCode l) = l := by cases l <;> rfl

theorem decodeVector_of_fields {i : Instr} {w : Nat} : vectorFields i ≠ [] → wellFormed i = true →
    cut w ((vectorFields i).map Prod.fst) = vectorFields i → decodeVector w = .ok i := by
  fun_cases vectorFields i
  case case66 => simp
  all_goals
    intro _ hw hc
    simp [cut] at hc
    simp [wellFormed, triOp, VHdr.wf_iff, flowHdr_iff, gridOp_iff, source_iff, gridOrScalar_iff, scalarOrImm_iff] at hw
    refine (if_neg (by simp [hc, hw])).trans ?_
    rw [hc.1]
  -- three operands
  case case1 | case2 | case3 | case4 | case5 | case6 | case7 | case11 | case12 | case13 | case14 | case15 | case16 | case17 | case18 | case19 | case20 |
      case21 | case22 | case25 | case29 | case30 | case31 | case34 | case35 | case37 | case39 | case41 | case42 | case43 | case46 | case47 =>
    obtain ⟨_, hp, hn, hs, hpop, hpush, hd, ha, hb⟩ := hc
    exact word3_eq_ok.mpr ⟨_, _, _, ⟨by simp [hw], by simp [hw], hd⟩, ⟨by simp [hw], by simp [hw], ha⟩,
      ⟨by simp [hw], by simp [hw], hb⟩, by simp [hp, hn, hs, hpop, hpush, flag_eq_fld]⟩
  -- two operands
  case case8 | case9 | case10 | case36 | case44 | case45 =>
    obtain ⟨_, hp, hn, hs, hpop, hpush, hd, ha, hb⟩ := hc
    exact word2_eq_ok.mpr ⟨_, _, ⟨by simp [hw], by simp [hw], hd⟩, ⟨by simp [hw], by simp [hw], ha⟩, hb,
      by simp [hp, hn, hs, hpop, hpush, flag_eq_fld]⟩
  -- a scalar destination and one operand
  case case32 | case38 | case52 =>
    obtain ⟨_, hp, hn, hs, hpop, hpush, hd, ha, hb⟩ := hc
    exact wordS_eq_ok.mpr ⟨_, _, ⟨by simp [hw], hd⟩, ⟨by simp [hw], by simp [hw], ha⟩, hb,
      by simp [hp, hn, hs, hpop, hpush, flag_eq_fld]⟩
  -- conversions
  case case26 | case27 | case28 =>
    obtain ⟨_, hp, hn, hs, hpop, hpush, hd, ha, hk, hb⟩ := hc
    exact wordC_eq_ok.mpr ⟨_, _, ⟨by simp [hw], by simp [hw], hd⟩, ⟨by simp [hw], by simp [hw], ha⟩, hk,
      by simp [hp, hn, hs, hpop, hpush, hb, flag_eq_fld]⟩
  -- compares and VNMS: the destination is a predicate
  case case23 | case24 | case40 =>
    obtain ⟨_, hp, hn, hs, hpop, hpush, hz, hpd, hz', hrel, hz'', ha, hb⟩ := hc
    exact wordP_eq_ok.mpr ⟨_, _, ⟨by simp [hw], by simp [hw], ha⟩, ⟨by simp [hw], by simp [hw], hb⟩, ⟨hz, hz', hz''⟩,
      by simp [hpd, hrel, hw], by simp [hp, hn, hs, hpop, hpush, hpd, hrel, flag_eq_fld]⟩
  -- VSADD and VSADDI: each operand has one kind
  case case50 | case51 =>
    obtain ⟨_, hp, hn, hs, hpop, hpush, hd, ha, hb⟩ := hc
    exact wordSS_eq_ok.mpr ⟨_, _, _, ⟨by simp [hw], rfl, hd⟩, ⟨by simp [hw], rfl, ha⟩, ⟨by simp [hw], rfl, hb⟩,
      by simp [hp, hn, hs, hpop, hpush, flag_eq_fld]⟩
  -- VREDM
  case case33 =>
    obtain ⟨_, hp, hn, hs, hpop, hpush, hd, ha, hk, hb⟩ := hc
    exact withOp_eq_ok.mpr ⟨_, ⟨by simp [hw], rfl, hd⟩, withOp_eq_ok.mpr ⟨_, ⟨by simp [hw], by simp [hw], ha⟩,
      need_eq_ok.mpr ⟨by simp [hk], by simp [hp, hn, hs, hpop, hpush, hb, flag_eq_fld]⟩⟩⟩
  -- VACLD
  case case48 =>
    obtain ⟨_, hp, hn, hs, hpop, hpush, hd, hf, hb⟩ := hc
    exact withOp_eq_ok.mpr ⟨_, ⟨by simp [hw], by simp [hw], hd⟩,
      need_eq_ok.mpr ⟨by simp [hb], by simp [hp, hn, hs, hpop, hpush, hf, flag_eq_fld, decodeAcc_encodeAcc, hw]⟩⟩
  -- VFMT, its loading form
  case case60 =>
    obtain ⟨_, hg, hs, hpop, hpush, hz, hf, hz', hrow, ha, hb⟩ := hc
    refine (if_pos (by simp [flag_eq_fld, hf])).trans ?_
    exact withOp_eq_ok.mpr ⟨_, ⟨by simp [hw], rfl, ha⟩, need_eq_ok.mpr ⟨by simp [hg, hz, hz', hb], by simp [hs, hpop, hpush, hrow]⟩⟩
  -- VFMT, its selecting form
  case case59 =>
    obtain ⟨_, hg, hs, hpop, hpush, hz, hf, hl, hz', hbase, ha, hb⟩ := hc
    refine (if_neg (by simp [flag_eq_fld, hf])).trans ?_
    exact need_eq_ok.mpr ⟨by simp [hg, hz, hl, (loopCode_lt _).ne, hz', ha, hb], by simp [hs, hpop, hpush, hbase, hl, loopSel_loopCode]⟩
  -- VKAC
  case case61 =>
    obtain ⟨_, hp, hn, hs, hpop, hpush, hd, ha, hk, hb⟩ := hc
    exact withOp_eq_ok.mpr ⟨_, ⟨by simp [hw], by simp [hw], ha⟩,
      need_eq_ok.mpr ⟨by simp [hd, hk], by simp [hp, hn, hs, hpop, hpush, hb, flag_eq_fld]⟩⟩
  -- VLOOP
  case case53 =>
    obtain ⟨_, hg, hs, hpop, hpush, hz, hl, hrot, hz', hdrain, hcount, hz'', hoff⟩ := hc
    exact (withCount_eq_ok (by decide)).mpr ⟨_, hw.1.2, hcount, by simp [hg, hz, hrot, hz', hdrain, hz'', hoff, flag_eq_fld, hw]; omega, by simp [hs, hpop, hpush, hl, hrot, hdrain, hoff, flag_eq_fld]⟩
  -- VWAIT and VSIG
  case case62 | case63 =>
    obtain ⟨_, hg, hs, hpop, hpush, hd, ha, hb⟩ := hc
    exact (withCount_eq_ok (by decide)).mpr ⟨_, hw.2, ha, by simp [hg, hd, hb], by simp [hs, hpop, hpush]⟩
  all_goals
    exact need_eq_ok.mpr ⟨by simp [hc, hw], by simp [hc, hw, flag_eq_fld, decodeAcc_encodeAcc]⟩

theorem loopCode_loopSel {n : Nat} (h : n < 3) : loopCode (loopSel n) = n := by interval_cases n <;> rfl

@[simp] theorem loopCode_loopSel_fld {w lo : Nat} (h : fld w lo 2 ≠ 3) : loopCode (loopSel (fld w lo 2)) = fld w lo 2 :=
  loopCode_loopSel (by have := fld_lt w lo 2; omega)

theorem vecTokens_of_decodeVector {w : Nat} {i : Instr} (h : decodeVector w = .ok i) : vecTokens (fld w 76 4) (fld w 72 4) = true := by
  by_contra ht
  replace h := (if_pos (by simpa using ht)).symm.trans h
  split at h <;> cases h

theorem fields_of_decodeVector {i : Instr} {w : Nat} (h : decodeVector w = .ok i) :
    vectorFields i ≠ [] ∧ wellFormed i = true ∧ cut w ((vectorFields i).map Prod.fst) = vectorFields i := by
  have ht := vecTokens_of_decodeVector h
  have hdr := vecTokens_lt ht
  replace h := (if_neg (by simp [ht])).symm.trans h
  split at h
  -- three operands
  case h_1 hop | h_2 hop | h_3 hop | h_4 hop | h_5 hop | h_6 hop | h_7 hop | h_11 hop | h_12 hop | h_13 hop | h_14 hop | h_15 hop | h_16 hop |
      h_17 hop | h_18 hop | h_19 hop | h_20 hop | h_21 hop | h_22 hop | h_25 hop | h_29 hop | h_30 hop | h_31 hop | h_34 hop | h_35 hop | h_37 hop |
      h_39 hop | h_41 hop | h_42 hop | h_43 hop | h_46 hop | h_47 hop =>
    obtain ⟨d, a, b, ⟨hd, hd', hd''⟩, ⟨ha, ha', ha''⟩, ⟨hb, hb', hb''⟩, rfl⟩ := word3_eq_ok.mp h
    refine ⟨by simp [vectorFields], ?_, by simp [vectorFields, cut, hop, hd'', ha'', hb'']⟩
    simp [wellFormed, triOp, VHdr.wf_iff, gridOp_iff, source_iff, gridOrScalar_iff, scalarOrImm_iff, *]
  -- two operands
  case h_8 hop | h_9 hop | h_10 hop | h_36 hop | h_44 hop | h_45 hop =>
    obtain ⟨d, a, ⟨hd, hd', hd''⟩, ⟨ha, ha', ha''⟩, hb, rfl⟩ := word2_eq_ok.mp h
    refine ⟨by simp [vectorFields], ?_, by simp [vectorFields, cut, hop, hd'', ha'', hb]⟩
    simp [wellFormed, VHdr.wf_iff, gridOp_iff, source_iff, gridOrScalar_iff, *]
  -- a scalar destination and one operand
  case h_32 hop | h_38 hop | h_52 hop =>
    obtain ⟨n, a, ⟨hn, hn'⟩, ⟨ha, ha', ha''⟩, hb, rfl⟩ := wordS_eq_ok.mp h
    refine ⟨by simp [vectorFields], ?_, by simp [vectorFields, cut, hop, hn', ha'', hb]⟩
    simp [wellFormed, VHdr.wf_iff, gridOp_iff, source_iff, *]
  -- conversions
  case h_26 hop | h_27 hop | h_28 hop =>
    obtain ⟨d, a, ⟨hd, hd', hd''⟩, ⟨ha, ha', ha''⟩, hb, rfl⟩ := wordC_eq_ok.mp h
    refine ⟨by simp [vectorFields], ?_, by simp [vectorFields, cut, hop, hd'', ha'', hb]⟩
    simp [wellFormed, VHdr.wf_iff, gridOp_iff, gridOrScalar_iff, *]
  -- compares
  case h_23 hop | h_24 hop =>
    obtain ⟨a, b, ⟨ha, ha', ha''⟩, ⟨hb, hb', hb''⟩, ⟨hz, hz', hz''⟩, ⟨hpd, hrel⟩, rfl⟩ := wordP_eq_ok.mp h
    refine ⟨by simp [vectorFields], ?_, by simp [vectorFields, cut, hop, ha'', hb'', hz, hz', hz'']⟩
    simp [wellFormed, VHdr.wf_iff, source_iff, *]
  -- VNMS
  case h_40 hop =>
    obtain ⟨a, b, ⟨ha, ha', ha''⟩, ⟨hb, hb', hb''⟩, ⟨hz, hz', hz''⟩, ⟨hpd, hrel⟩, rfl⟩ := wordP_eq_ok.mp h
    rw [Nat.lt_one_iff] at hrel
    refine ⟨by simp [vectorFields], ?_, by simp [vectorFields, cut, hop, ha'', hb'', hz, hz', hz'', hrel]⟩
    simp [wellFormed, VHdr.wf_iff, scalarOrImm_iff, *]
  -- VREDM
  case h_33 hop =>
    obtain ⟨d, ⟨hd, hd', hd''⟩, h⟩ := withOp_eq_ok.mp h
    obtain ⟨a, ⟨ha, ha', ha''⟩, h⟩ := withOp_eq_ok.mp h
    obtain ⟨n, rfl⟩ := isScalar_iff.mp hd'
    obtain ⟨hb, rfl⟩ := need_eq_ok.mp h
    simp at hb hd
    refine ⟨by simp [vectorFields], ?_, by simp [vectorFields, cut, hop, hd'', ha'', hb]⟩
    simp [wellFormed, VHdr.wf_iff, gridOp_iff, *]
  -- VACLD
  case h_48 hop =>
    obtain ⟨d, ⟨hd, hd', hd''⟩, h⟩ := withOp_eq_ok.mp h
    obtain ⟨hb, rfl⟩ := need_eq_ok.mp h
    simp at hb
    refine ⟨by simp [vectorFields], ?_, by simp [vectorFields, cut, hop, hd'', hb, encodeAcc_decodeAcc]⟩
    simp [wellFormed, VHdr.wf_iff, gridOp_iff, wf_decodeAcc, *]
  -- VSADD and VSADDI
  case h_50 hop | h_51 hop =>
    obtain ⟨d, a, b, ⟨hd, -, hd''⟩, ⟨ha, -, ha''⟩, ⟨hb, -, hb''⟩, h⟩ := wordSS_eq_ok.mp h
    split at h
    · obtain rfl := Except.ok.inj h
      simp at hd ha hb
      refine ⟨by simp [vectorFields], ?_, by simp [vectorFields, cut, hop, hd'', ha'', hb'']⟩
      simp [wellFormed, VHdr.wf_iff, *]
    · cases h
  -- VLOOP, VWAIT and VSIG
  case h_53 hop | h_61 hop | h_62 hop =>
    obtain ⟨c, hc, hc', hr, rfl⟩ := (withCount_eq_ok (by decide)).mp h
    simp at hr
    refine ⟨by simp [vectorFields], ?_, by simp [vectorFields, cut, hop, hc', hr]⟩
    simp [wellFormed, flowHdr_iff, Nat.one_le_iff_ne_zero, *]
  -- VFMT
  case h_59 hop =>
    split at h
    case isTrue hf =>
      obtain ⟨a, ⟨ha, ha', ha''⟩, h⟩ := withOp_eq_ok.mp h
      obtain ⟨n, rfl⟩ := isScalar_iff.mp ha'
      obtain ⟨hr, rfl⟩ := need_eq_ok.mp h
      simp [flag_eq_fld] at hr ha hf
      refine ⟨by simp [vectorFields], ?_, by simp [vectorFields, cut, hop, ha'', hr, hf]⟩
      simp [wellFormed, flowHdr_iff, *]
    case isFalse hf =>
      obtain ⟨hr, rfl⟩ := need_eq_ok.mp h
      rw [Bool.not_eq_true, flag_eq_false] at hf
      simp at hr
      refine ⟨by simp [vectorFields], ?_, by simp [vectorFields, cut, hop, hr, hf]⟩
      simp [wellFormed, flowHdr_iff, *]
  -- VKAC
  case h_60 hop =>
    obtain ⟨a, ⟨ha, ha', ha''⟩, h⟩ := withOp_eq_ok.mp h
    obtain ⟨hr, rfl⟩ := need_eq_ok.mp h
    simp at hr
    refine ⟨by simp [vectorFields], ?_, by simp [vectorFields, cut, hop, ha'', hr]⟩
    simp [wellFormed, VHdr.wf_iff, gridOp_iff, *]
  case h_65 => cases h
  all_goals
    rename_i hop
    obtain ⟨hr, rfl⟩ := need_eq_ok.mp h
    simp at hr
    refine ⟨by simp [vectorFields], ?_, by simp [vectorFields, cut, hop, hr, encodeAcc_decodeAcc]⟩
    simp [wellFormed, VHdr.wf_iff, flowHdr_iff, Guard.wf, reg, wf_decodeAcc, *]

theorem vectorRecord : Record 96 decodeVector isVector vectorFields where
  width _ hi := vectorFields_width (isVector_iff.mp hi)
  encodes _ hi := encode_eq_pack_vectorFields (isVector_iff.mp hi)
  fits _ := fits_vectorFields
  reads _ _ hi := decodeVector_of_fields (isVector_iff.mp hi)
  only _ _ h := (fields_of_decodeVector h).imp_left isVector_iff.mpr

end Sys2Proof.Encoding

/-! # Words of the matrix stream (03 R64 to R66) -/

namespace Sys2Proof.Encoding

open Sys2Proof Sys2Proof.Spec

/-- The fields of a tile step (03 R64); S and G stand where the opcode says (R65). -/
@[simp] def tileFields (op : Nat) (h : MHdr) (t : MTile) (s g : Bool) : List (Nat × Nat) :=
  [(8, op), (4, h.pop), (4, h.push), (3, t.slotA), (3, t.slotB), (3, t.slotC), (1, bitNat s), (1, bitNat t.absorb), (1, bitNat g),
    (4, h.guard), (9, t.m - 1), (8, t.n - 1), (10, t.k - 1), (3, t.tile), (1, bitNat t.acc), (17, t.offset), (3, t.genA), (1, bitNat g),
    (32, unsigned 32 t.offA), (20, 0), (3, t.genB), (1, 0), (32, unsigned 32 t.offB), (20, 0)]

/-- The fields of a flow word of the matrix stream from its opcode, its header and its low 56 bits (03 R65, 08 R205). -/
@[simp] def mflowFields (op : Nat) (h : MHdr) (body : List (Nat × Nat)) : List (Nat × Nat) :=
  (8, op) :: (4, h.pop) :: (4, h.push) :: (12, 0) :: (4, h.guard) :: (104, 0) :: body

/-- The fields of a matrix word, highest first, its reserved ones among them (03 R64 to R66). -/
def matrixFields : Instr → List (Nat × Nat)
  | .mma h t => tileFields 0x01 h t false false
  | .mmaS h t => tileFields 0x02 h t true false
  | .mmaG h t => tileFields 0x03 h t false true
  | .mmaT h t => tileFields 0x04 h t false false
  | .mwin h t => tileFields 0x05 h t false false
  | .mconv h t => tileFields 0x06 h t false false
  | .mzero h sc m n tile off =>
    [(8, 0x07), (4, h.pop), (4, h.push), (6, 0), (3, sc), (3, 0), (4, h.guard), (9, m - 1), (8, n - 1), (10, 0), (3, tile), (1, 0), (17, off), (112, 0)]
  | .mldi h gen off count =>
    [(8, 0x08), (4, h.pop), (4, h.push), (12, 0), (4, h.guard), (9, count - 1), (39, 0), (3, gen), (1, 0), (32, unsigned 32 off), (76, 0)]
  | .mloop h l count off => mflowFields 0x09 h [(2, l), (22, count), (16, 0), (16, off)]
  | .mlbr h l => mflowFields 0x0A h [(2, l), (54, 0)]
  | .mbr h p neg off => mflowFields 0x0B h [(4, p), (1, bitNat neg), (35, 0), (16, off)]
  | .mj h off => mflowFields 0x0C h [(40, 0), (16, off)]
  | .mtok h => mflowFields 0x0D h [(56, 0)]
  | .mrdv h => mflowFields 0x0E h [(56, 0)]
  | .mstop h => mflowFields 0x0F h [(56, 0)]
  | .mfmt h l base => mflowFields 0x10 h [(2, loopCode l), (4, base), (50, 0)]
  | .mkat h a b c m n k gen off const =>
    [(8, 0x11), (4, h.pop), (4, h.push), (3, a), (3, b), (3, c), (3, 0), (4, h.guard), (9, m - 1), (8, n - 1), (10, k - 1), (21, 0), (3, gen),
      (1, 0), (32, unsigned 32 off), (20, 0), (32, const), (24, 0)]
  | .msig h mask => mflowFields 0x12 h [(24, 0), (32, mask)]
  | _ => []

theorem isMatrix_iff {i : Instr} : isMatrix i = true ↔ matrixFields i ≠ [] := by
  have h : isMatrix i = !(matrixFields i).isEmpty := by cases i <;> rfl
  simp [h]

theorem matrixFields_width {i : Instr} : matrixFields i ≠ [] → ((matrixFields i).map Prod.fst).sum = 192 := by
  fun_cases matrixFields i
  all_goals simp

theorem encode_eq_pack_matrixFields {i : Instr} : matrixFields i ≠ [] → encode i = pack (matrixFields i) := by
  fun_cases matrixFields i
  case case19 => simp
  all_goals
    intro _
    simp only [encode, encTile, encMat, bitNat_false, bitNat_true, pack, tileFields, mflowFields, List.map_cons, List.map_nil, List.sum_cons, List.sum_nil]
    ring

theorem matTokens_lt {pop push : Nat} (h : matTokens pop push = true) : pop < 16 ∧ push < 16 := by
  simp [matTokens] at h
  omega

theorem MHdr.wf_iff {h : MHdr} : h.wf = true ↔ h.guard < 16 ∧ (h.pop < 16 ∧ h.push < 16) ∧ matTokens h.pop h.push = true := by
  rw [and_iff_right_of_imp matTokens_lt, MHdr.wf, Bool.and_eq_true, decide_eq_true_eq]

theorem off32_iff (v : Int) : off32 v = true ↔ InRange 32 v := by
  simp [off32, InRange]

@[simp] theorem off32_signed_fld (w lo : Nat) : off32 (signed 32 (fld w lo 32)) = true :=
  (off32_iff _).mpr (inRange_signed (by decide) (fld_lt w lo 32))

theorem dims_iff {m n k : Nat} : dims m n k = true ↔ (1 ≤ m ∧ m - 1 < 512) ∧ (1 ≤ n ∧ n - 1 < 256) ∧ (1 ≤ k ∧ k - 1 < 1024) := by
  simp [dims]
  omega

theorem unsigned32_lt (v : Int) : unsigned 32 v < 4294967296 := unsigned_lt 32 v

theorem fits_matrixFields {i : Instr} : wellFormed i = true → Fits (matrixFields i) := by
  fun_cases matrixFields i
  case case19 => simp [Fits]
  case case8 =>
    intro hw
    simp [wellFormed, MHdr.wf_iff] at hw
    simp [Fits, unsigned32_lt]
    omega
  -- MLOOP and MLBR name one of three loops
  case case9 | case10 =>
    intro hw
    simp [wellFormed, MHdr.wf_iff] at hw
    simp [Fits, hw]
    omega
  all_goals
    intro hw
    simp [wellFormed, MHdr.wf_iff, MTile.wf, dims_iff] at hw
    simp [Fits, unsigned32_lt, (loopCode_lt _).trans, hw]

theorem decodeTile_of_fields {w op : Nat} {h : MHdr} {t : MTile} {s g : Bool} (ht : t.wf = true)
    (hc : cut w ((tileFields op h t s g).map Prod.fst) = tileFields op h t s g) : decodeTile w = t := by
  simp [cut] at hc
  simp [MTile.wf, dims_iff, off32_iff] at ht
  simp [decodeTile, hc, ht, flag_eq_fld, signed_unsigned]

theorem decodeMatrix_of_fields {i : Instr} {w : Nat} : matrixFields i ≠ [] → wellFormed i = true →
    cut w ((matrixFields i).map Prod.fst) = matrixFields i → decodeMatrix w = .ok i := by
  fun_cases matrixFields i
  case case19 => simp
  case case1 | case2 | case3 | case4 | case5 | case6 =>
    intro _ hw hc
    simp [wellFormed, MHdr.wf_iff] at hw
    have ht := decodeTile_of_fields (by simp [hw]) hc
    simp [cut] at hc
    refine (if_neg (by simp [hc, hw])).trans ?_
    rw [hc.1]
    exact need_eq_ok.mpr ⟨by simp [hc, hw, flag_eq_fld], by simp [hc, ht]⟩
  all_goals
    intro _ hw hc
    simp [cut] at hc
    simp [wellFormed, MHdr.wf_iff, dims_iff, off32_iff] at hw
    refine (if_neg (by simp [hc, hw])).trans ?_
    rw [hc.1]
  case case9 | case10 =>
    refine need_eq_ok.mpr ⟨?_, by simp [hc]⟩
    simp [hc, flowWord]
    omega
  all_goals
    refine need_eq_ok.mpr ⟨?_, ?_⟩
    · simp [hc, hw, flowWord, decodeTile, flag_eq_fld, (loopCode_lt _).ne]
    · simp [hc, hw, decodeTile, flag_eq_fld, signed_unsigned, loopSel_loopCode]

theorem matTokens_of_decodeMatrix {w : Nat} {i : Instr} (h : decodeMatrix w = .ok i) : matTokens (fld w 180 4) (fld w 176 4) = true := by
  by_contra ht
  replace h := (if_pos (by simpa using ht)).symm.trans h
  split at h <;> cases h

theorem fields_of_decodeMatrix {i : Instr} {w : Nat} (h : decodeMatrix w = .ok i) :
    matrixFields i ≠ [] ∧ wellFormed i = true ∧ cut w ((matrixFields i).map Prod.fst) = matrixFields i := by
  have ht := matTokens_of_decodeMatrix h
  have hdr := matTokens_lt ht
  replace h := (if_neg (by simp [ht])).symm.trans h
  split at h
  case h_19 => cases h
  case h_9 hop | h_10 hop =>
    obtain ⟨hr, rfl⟩ := need_eq_ok.mp h
    simp [flowWord] at hr
    have hl := fld_lt w 54 2
    refine ⟨by simp [matrixFields], ?_, by simp [matrixFields, cut, hop, hr]⟩
    simp [wellFormed, MHdr.wf_iff, *]
    omega
  all_goals
    rename_i hop
    obtain ⟨hr, rfl⟩ := need_eq_ok.mp h
    simp [flowWord, decodeTile, flag_eq_true, flag_eq_false] at hr
    refine ⟨by simp [matrixFields], ?_, by simp [matrixFields, cut, decodeTile, hop, hr]⟩
    simp [wellFormed, MHdr.wf_iff, MTile.wf, decodeTile, dims_iff, flag_eq_false, *]

theorem matrixRecord : Record 192 decodeMatrix isMatrix matrixFields where
  width _ hi := matrixFields_width (isMatrix_iff.mp hi)
  encodes _ hi := encode_eq_pack_matrixFields (isMatrix_iff.mp hi)
  fits _ := fits_matrixFields
  reads _ _ hi := decodeMatrix_of_fields (isMatrix_iff.mp hi)
  only _ _ h := (fields_of_decodeMatrix h).imp_left isMatrix_iff.mpr

end Sys2Proof.Encoding

/-! # Commands (03 R67 to R72) -/

namespace Sys2Proof.Encoding

open Sys2Proof Sys2Proof.Spec

theorem fld_cmdD {w j k m : Nat} (h : k + m ≤ 64) : fld (cmdD w j) k m = fld w (64 * j + k) m := fld_fld h

/-! ### References and declared sets (03 R70, R71) -/

theorem encPred_lt {r : PredRef} (h : r.wf = true) : encPred r < 2097152 := by
  simp [PredRef.wf] at h
  rw [encPred]
  omega

theorem encSucc_lt {r : SuccRef} (h : r.wf = true) : encSucc r < 4294967296 := by
  simp [SuccRef.wf] at h
  rw [encSucc]
  omega

theorem encSet_lt {l : LineSet} (h : l.wf = true) : encSet l < 4294967296 := by
  simp [LineSet.wf] at h
  rw [encSet]
  omega

theorem decodePred_encPred {r : PredRef} (h : r.wf = true) : decodePred (encPred r) = r := by
  simp [PredRef.wf] at h
  rw [decodePred, encPred, fld_mul_add_high (by omega) (by omega), fld_mul_add_low (by decide), fld_of_lt (by omega)]

theorem decodeSucc_encSucc {r : SuccRef} (h : r.wf = true) : decodeSucc (encSucc r) = r := by
  simp [SuccRef.wf] at h
  have e : encSucc r = pack [(11, r.core), (2, r.queue), (19, r.seq)] := by simp [encSucc, pack]; ring
  have hc := cut_pack (l := [(11, r.core), (2, r.queue), (19, r.seq)]) (by simp [Fits]; omega)
  simp [cut] at hc
  simp [decodeSucc, e, hc]

theorem decodeSet_encSet {l : LineSet} (h : l.wf = true) : decodeSet (encSet l) = l := by
  simp [LineSet.wf] at h
  rw [decodeSet, encSet, fld_mul_add_high (by omega) (by omega), fld_mul_add_low (by decide), fld_of_lt (by omega)]

/-! ### Successors (03 R70) -/

/-- The four successor fields of a command, those beyond its successors zero. -/
def succCodes (h : CmdHdr) : List Nat := [encSuccAt h 0, encSuccAt h 1, encSuccAt h 2, encSuccAt h 3]

theorem encSuccAt_lt {h : CmdHdr} (hs : h.succ.all SuccRef.wf = true) (j : Nat) : encSuccAt h j < 4294967296 := by
  unfold encSuccAt
  split
  · exact encSucc_lt (List.all_eq_true.mp hs _ (List.mem_of_getElem? ‹_›))
  · decide

theorem decodeSucc_succCodes {h : CmdHdr} (hs : h.succ.all SuccRef.wf = true) (hl : h.succ.length ≤ 4) :
    ((succCodes h).take h.succ.length).map decodeSucc = h.succ := by
  simp only [succCodes, encSuccAt]
  generalize h.succ = l at *
  match l with
  | [] | [_] | [_, _] | [_, _, _] | [_, _, _, _] =>
    simp at hs
    simp [decodeSucc_encSucc, hs]
  | _ :: _ :: _ :: _ :: _ :: _ => simp at hl; omega

theorem drop_succCodes {h : CmdHdr} (hl : h.succ.length ≤ 4) : ((succCodes h).drop h.succ.length).all (· == 0) = true := by
  simp only [succCodes, encSuccAt]
  generalize h.succ = l at *
  match l with
  | [] | [_] | [_, _] | [_, _, _] | [_, _, _, _] => simp
  | _ :: _ :: _ :: _ :: _ :: _ => simp at hl; omega

/-! ### The sixteen doublewords (03 R67 to R72) -/

/-- The fields of each doubleword of a command, the first doubleword first. Bits that the hardware writes are zero in an encoding. -/
def cmdDwords (op : Nat) (h : CmdHdr) (o : CmdOps) : List (List (Nat × Nat)) :=
  [ [(32, 0), (8, 0), (5, 0), (1, bitNat h.pinned), (1, bitNat h.nonstrict), (1, bitNat h.det), (4, h.prio), (4, h.kind), (8, op)],
    [(32, h.signal), (32, h.wait)],
    [(1, 0), (21, encPred h.pred2), (21, encPred h.pred1), (21, encPred h.pred0)],
    [(64, h.release)],
    [(21, 0), (3, h.succ.length), (2, h.absOperand), (2, h.absValue), (4, h.absResult), (16, h.demand), (16, h.dep)],
    [(32, encSuccAt h 1), (32, encSuccAt h 0)],
    [(32, encSuccAt h 3), (32, encSuccAt h 2)],
    [(64, o.d7)], [(64, o.d8)], [(64, o.d9)], [(64, o.d10)], [(64, o.d11)],
    [(32, encSet h.rs1), (32, encSet h.rs0)],
    [(32, encSet h.rs3), (32, encSet h.rs2)],
    [(32, encSet h.ws1), (32, encSet h.ws0)],
    [(48, 0), (16, h.slack)] ]

/-- The fields of a command, highest first. -/
def cmdFields (op : Nat) (h : CmdHdr) (o : CmdOps) : List (Nat × Nat) := (cmdDwords op h o).reverse.flatten

theorem joinDs_map_pack {fs : List (List (Nat × Nat))} (h : ∀ f ∈ fs, (f.map Prod.fst).sum = 64) : joinDs (fs.map pack) = pack fs.reverse.flatten := by
  induction fs with
  | nil => rfl
  | cons f fs ih =>
    obtain ⟨hf, hfs⟩ := List.forall_mem_cons.mp h
    simp [joinDs, ih hfs, pack_append, hf, Nat.mul_comm, Nat.add_comm]

theorem cmdDs_eq_map_pack (op : Nat) (h : CmdHdr) (o : CmdOps) : cmdDs op h o = (cmdDwords op h o).map pack := by
  simp only [cmdDs, cmdDwords, pack, List.map_cons, List.map_nil, List.sum_cons, List.sum_nil, List.cons.injEq, and_true]
  constructorm* _ ∧ _ <;> ring

theorem encCmd_eq_pack (op : Nat) (h : CmdHdr) (o : CmdOps) : encCmd op h o = pack (cmdFields op h o) := by
  rw [encCmd, cmdDs_eq_map_pack, joinDs_map_pack, cmdFields]
  simp [cmdDwords]

theorem succ_of_wf {h : CmdHdr} (hh : h.wf = true) : h.succ.all SuccRef.wf = true ∧ h.succ.length ≤ 4 := by
  simp only [CmdHdr.wf, Bool.and_eq_true, decide_eq_true_eq] at hh
  simp only [hh, and_self]

theorem fits_cmdFields {op : Nat} {h : CmdHdr} {o : CmdOps} (hop : op < 256) (hh : h.wf = true) (ho : o.wf = true) : Fits (cmdFields op h o) := by
  have hs := encSuccAt_lt (succ_of_wf hh).1
  simp [CmdHdr.wf] at hh
  simp [CmdOps.wf] at ho
  simp [cmdFields, cmdDwords, Fits, encSet_lt, encPred_lt, hs, hh, ho, hop]
  omega

theorem decodeOps_of_cut {op w : Nat} {h : CmdHdr} {o : CmdOps} (hc : cut w ((cmdFields op h o).map Prod.fst) = cmdFields op h o) : decodeOps w = o := by
  simp [cmdFields, cmdDwords, cut] at hc
  simp [decodeOps, cmdD, hc]

theorem decodeHdr_of_cut {op w : Nat} {h : CmdHdr} {o : CmdOps} (hh : h.wf = true)
    (hc : cut w ((cmdFields op h o).map Prod.fst) = cmdFields op h o) : decodeHdr w = h := by
  simp [cmdFields, cmdDwords, cut] at hc
  have hs := decodeSucc_succCodes (succ_of_wf hh).1 (succ_of_wf hh).2
  simp [CmdHdr.wf] at hh
  have hf : succFields w = succCodes h := by simp [succFields, succCodes, fld_cmdD, hc]
  have hr : cmdD w 3 = h.release := by simp [cmdD, hc]
  rw [List.map_take] at hs
  simp [decodeHdr, fld_cmdD, flag_eq_fld, hf, hs, hr, hc, hh, decodePred_encPred, decodeSet_encSet]

theorem hdrReserved_of_cut {op w : Nat} {h : CmdHdr} {o : CmdOps} (hl : h.succ.length ≤ 4)
    (hc : cut w ((cmdFields op h o).map Prod.fst) = cmdFields op h o) : hdrReserved w = true := by
  simp [cmdFields, cmdDwords, cut] at hc
  have hf : succFields w = succCodes h := by simp [succFields, succCodes, fld_cmdD, hc]
  have hd := drop_succCodes hl
  simp [hdrReserved, fld_cmdD, hf, hc, hd, hl]

/-- The opcode of a command, with its software fields and its operands (03 R68). -/
def commandParts : Instr → Option (Nat × CmdHdr × CmdOps)
  | .kCopy h o => some (0x01, h, o)
  | .kGather h o => some (0x02, h, o)
  | .kScatter h o => some (0x03, h, o)
  | .kFill h o => some (0x04, h, o)
  | .kFeed h o => some (0x05, h, o)
  | .kJob h o => some (0x06, h, o)
  | .kNest h o => some (0x07, h, o)
  | .kOft h o => some (0x08, h, o)
  | .kOmask h o => some (0x09, h, o)
  | .kOcalRun h o | .kOcalWrite h o | .kOcalRead h o => some (0x0A, h, o)
  | .kAllred h o => some (0x0B, h, o)
  | .kAllgath h o => some (0x0C, h, o)
  | .kRedscat h o => some (0x0D, h, o)
  | .kBcast h o => some (0x0E, h, o)
  | .kAlltoall h o => some (0x0F, h, o)
  | .kTopkm h o => some (0x10, h, o)
  | .kMigr h o => some (0x11, h, o)
  | .kDiscard h o => some (0x12, h, o)
  | .kKernel h o => some (0x13, h, o)
  | .kEvent h o => some (0x14, h, o)
  | .kNop h o => some (0x15, h, o)
  | .kPrefetch h o => some (0x16, h, o)
  | _ => none

theorem commandParts_spec {i : Instr} {op : Nat} {h : CmdHdr} {o : CmdOps} (hi : commandParts i = some (op, h, o)) :
    op < 256 ∧ encode i = encCmd op h o ∧ (wellFormed i = true → h.wf = true ∧ o.wf = true) := by
  revert hi
  fun_cases commandParts i
  case case25 => simp
  all_goals
    intro hi
    obtain ⟨rfl, rfl, rfl⟩ : _ = op ∧ _ = h ∧ _ = o := by simpa using hi
    exact ⟨by decide, rfl, by simp +contextual [wellFormed, cmdWf]⟩

theorem decodeCommand_of_fields {i : Instr} {op w : Nat} {h : CmdHdr} {o : CmdOps} (hi : commandParts i = some (op, h, o)) (hw : wellFormed i = true)
    (hc : cut w ((cmdFields op h o).map Prod.fst) = cmdFields op h o) : decodeCommand w = .ok i := by
  obtain ⟨-, -, hwf⟩ := commandParts_spec hi
  obtain ⟨hh, ho⟩ := hwf hw
  have hH := decodeHdr_of_cut hh hc
  have hO := decodeOps_of_cut hc
  have hR := hdrReserved_of_cut (succ_of_wf hh).2 hc
  have hop : fld (cmdD w 0) 0 8 = op := by
    simp [cmdFields, cmdDwords, cut] at hc
    simp [fld_cmdD, hc]
  revert hi hw
  fun_cases commandParts i
  case case25 => simp
  case case10 | case11 | case12 =>
    intro hi hw
    obtain ⟨rfl, rfl, rfl⟩ : _ = op ∧ _ = h ∧ _ = o := by simpa using hi
    have hd := hw
    simp only [wellFormed, Bool.and_eq_true, decide_eq_true_eq] at hd
    have hsel (v : Nat) : fld v 0 2 = v % 4 := by simp [fld]
    simp only [decodeCommand, hop, hH, hO, hR, hsel, hd.2]
    exact need_eq_ok.mpr ⟨hw, rfl⟩
  all_goals
    intro hi hw
    obtain ⟨rfl, rfl, rfl⟩ : _ = op ∧ _ = h ∧ _ = o := by simpa using hi
    rw [decodeCommand, hH, hO, hR, hop]
    exact need_eq_ok.mpr ⟨hw, rfl⟩

theorem isCommand_iff {i : Instr} : isCommand i = true ↔ ∃ op h o, commandParts i = some (op, h, o) := by
  have h : isCommand i = (commandParts i).isSome := by cases i <;> rfl
  simp [h, Option.isSome_iff_exists]

theorem decodeCommand_encode {i : Instr} (hw : wellFormed i = true) (hi : isCommand i = true) :
    encode i < 2 ^ 1024 ∧ decodeCommand (encode i) = .ok i := by
  obtain ⟨op, h, o, hp⟩ := isCommand_iff.mp hi
  obtain ⟨hop, he, hwf⟩ := commandParts_spec hp
  exact decode_encode_of_fields (by simp [cmdFields, cmdDwords]) (he.trans (encCmd_eq_pack op h o)) (fits_cmdFields hop (hwf hw).1 (hwf hw).2)
    fun w => decodeCommand_of_fields hp hw

end Sys2Proof.Encoding

/-! # The obligations about encodings -/

namespace Sys2Proof.Encoding

open Sys2Proof Sys2Proof.Spec

/-- Settles O57: the three records of words by their fields, the commands by the fields of their doublewords. -/
theorem decodeOfEncode : Obligations.DecodeOfEncode :=
  ⟨fun _ => controlRecord.decode_encode, fun _ => vectorRecord.decode_encode, fun _ => matrixRecord.decode_encode, fun _ => decodeCommand_encode⟩

/-- Settles O58: a word that decodes has the fields of the instruction, and the encoder writes those fields. -/
theorem encodeOfDecode : Obligations.EncodeOfDecode :=
  ⟨fun _ _ => controlRecord.encode_decode, fun _ _ => vectorRecord.encode_decode, fun _ _ => matrixRecord.encode_decode⟩

/-- Settles O56: each word is evaluated. -/
theorem wordsDecode : Obligations.WordsDecode := by
  unfold Obligations.WordsDecode
  decide

end Sys2Proof.Encoding

/-! # Command registers (03 R55, 05 R106) -/

namespace Sys2Proof.Machine
open Sys2Proof Sys2Proof.Spec

/-! ### Fields of a number -/

theorem putBits_split (w lo n v : Nat) : putBits w lo n v = 2 ^ lo * (2 ^ n * (w / 2 ^ lo / 2 ^ n) + v % 2 ^ n) + w % 2 ^ lo := by
  have h1 := Nat.div_add_mod w (2 ^ lo)
  have h2 := Nat.div_add_mod (w / 2 ^ lo) (2 ^ n)
  generalize w / 2 ^ lo / 2 ^ n = q at *
  generalize hm : w / 2 ^ lo % 2 ^ n = m at *
  have h3 : w = 2 ^ lo * (2 ^ n * q) + w % 2 ^ lo + m * 2 ^ lo := by
    conv_lhs => rw [← h1, ← h2]
    ring
  have h4 : w - m * 2 ^ lo = 2 ^ lo * (2 ^ n * q) + w % 2 ^ lo := by omega
  rw [putBits, hm, h4]
  ring

/-- A bit of a number after a field of it was put: the field's bit, or the number's own. -/
theorem testBit_putBits (w lo n v b : Nat) : (putBits w lo n v).testBit b = if lo ≤ b ∧ b < lo + n then v.testBit (b - lo) else w.testBit b := by
  rw [putBits_split, Nat.testBit_two_pow_mul_add _ (Nat.mod_lt _ (Nat.two_pow_pos lo)), Nat.testBit_two_pow_mul_add _ (Nat.mod_lt _ (Nat.two_pow_pos n))]
  by_cases hlo : b < lo
  · simp [hlo, Nat.not_le.mpr hlo, Nat.testBit_mod_two_pow]
  · by_cases hn : b - lo < n
    · have : b < lo + n := by omega
      simp [hlo, hn, Nat.not_lt.mp hlo, this, Nat.testBit_mod_two_pow]
    · have h1 : ¬ b < lo + n := by omega
      have h2 : b = lo + (n + (b - lo - n)) := by omega
      simp only [hlo, hn, h1, and_false, if_false, Nat.testBit_div_two_pow]
      congr 1; omega

theorem getLsbD_setField (old v : Word) (width pos b : Nat) (hb : b < 64) : (setField old width pos v).getLsbD b =
    if 64 / 2 ^ width * pos ≤ b ∧ b < 64 / 2 ^ width * (pos + 1) then v.getLsbD (b - 64 / 2 ^ width * pos) else old.getLsbD b := by
  rw [setField, BitVec.getLsbD_ofNat, decide_eq_true hb, Bool.true_and, testBit_putBits, Nat.mul_succ]
  rfl

/-! ### Instructions that complete -/

/-- An instruction that changes the acting context's registers, predicates and command registers alone, completes. -/
theorem completes_modCur {i : Instr} {s : State} {f : Ctx → Ctx} (hi : exec i s = finish s (.done (s.modCur f)))
    (hf : f s.cur = { s.cur with x := (f s.cur).x, p := (f s.cur).p, c := (f s.cur).c }) :
    Completes i s (f s.cur).getX (f s.cur).getP (f s.cur).getC (s.cur.pc + 4) := by
  refine ⟨_, hi.trans (finish_done ..), ?_⟩
  have hcur : ((s.modCur f).retire (s.cur.pc + 4)).cur = { f s.cur with
    pc := s.cur.pc + 4, st := goesOn s.cur, log := { s.cur.log with iret := s.cur.log.iret + 1 } } := by
    rw [State.cur_retire, State.cur_modCur, hf]; rfl
  exact {
    x := fun n => by rw [State.x, hcur]; rfl
    p := fun n => by rw [State.p, hcur]; rfl
    c := fun n => by rw [hcur]; rfl
    pc := by rw [hcur]
    st := by rw [hcur]
    log := by rw [hcur]
    ctx := by rw [hcur, hf]
    rest := (State.retire_eq ..).trans (State.setCtx_setCtx s _ _ (f s.cur) _)
    memory := fun _ => rfl }

theorem Tbl.get_clear {α : Type} (d : α) (t : Tbl α) (lo n k : Nat) : Tbl.get d (Tbl.clear t lo n) k = if lo ≤ k ∧ k < lo + n then d else Tbl.get d t k := by
  split
  · next h =>
    induction t with
    | nil => rfl
    | cons e t ih =>
      unfold Tbl.clear at ih ⊢
      rw [List.filter_cons]
      split
      · next he =>
        have hk : e.1 ≠ k := by have := of_decide_eq_true he; omega
        rw [Tbl.get, if_neg hk, ih]
      · exact ih
  · exact Tbl.get_clear_outside d t lo n k (by omega)

/-- CSET and CSETI put one field of a command register and complete. -/
theorem completes_setCField {i : Instr} {s : State} {c width pos : Nat} {v : Word} (hi : exec i s = finish s (.done (s.setCField c width pos v))) :
    Completes i s s.x s.p (fun n => if n = c then setField (s.cur.getC c) width pos v else s.cur.getC n) (s.cur.pc + 4) := by
  rw [← funext fun n => Ctx.getC_setC s.cur c n (setField (s.cur.getC c) width pos v)]
  exact completes_modCur hi rfl

/-- CCLR clears a range of command registers and completes. -/
theorem completes_cclr (s : State) {lo hi : Nat} (h : lo ≤ hi) :
    Completes (.cclr lo hi) s s.x s.p (fun n => if lo ≤ n ∧ n ≤ hi then 0 else s.cur.getC n) (s.cur.pc + 4) := by
  have hg : (fun n => if lo ≤ n ∧ n ≤ hi then 0 else s.cur.getC n) = Tbl.get 0 (Tbl.clear s.cur.c lo (hi + 1 - lo)) := by
    funext n
    have hn : n < lo + (hi + 1 - lo) ↔ n ≤ hi := by omega
    simp only [Tbl.get_clear, hn, Ctx.getC]
  rw [hg]
  exact completes_modCur (f := fun k => { k with c := Tbl.clear k.c lo (hi + 1 - lo) }) rfl rfl

/-- Settles O4: CSET and CSETI put one field, CCLR clears a range, and each completes with the rest of its context as it was. -/
theorem commandRegistersWritten : Obligations.CommandRegistersWritten := by
  refine ⟨fun i s c width pos v hi => ⟨setField (s.cur.getC c) width pos v, fun b => getLsbD_setField _ _ _ _ b, ?_⟩, fun s _ _ => completes_cclr s⟩
  cases i
  case cset | cseti =>
    cases hi
    exact completes_setCField rfl
  all_goals cases hi

end Sys2Proof.Machine

/-! # The turn that a step takes (03 R46, R50, 10 R232, R244, R245) -/

namespace Sys2Proof.Machine
open Sys2Proof Sys2Proof.Spec

variable {s v t u : State} {core n named l : Nat} {i : Instr} {rest : List Turn} {j : Job}

/-- A step whose agenda names a turn that runs an instruction answers what that instruction does. -/
theorem step_of_turn {m : Turn} (hv : v = s.settleLogs) (ha : v.agenda = m :: rest) (ht : ({ v with agenda := rest } : State).turn m = .run i u) :
    step s = exec i u := by
  have hnext : s.next = .run i u := by
    rw [State.next, ← hv, State.nextTurn, ha]
    exact ht
  rw [step, hnext]

/-! ### Contexts -/

theorem controlInstr_of_decode {w : Nat} (h : decodeControl w = .ok i) : controlInstr w = i := by
  rw [controlInstr, h]

/-- A fetch from an aligned address that memory holds unpoisoned reads the four bytes of the code there. -/
theorem fetchWord_of_reach {a : Nat} (ha : a % 4 = 0) (hr : s.reach s.focus.core a false (s.privileged s.focus.core s.focus.ctx) false = .loc l u)
    (hp : s.anyPoison l 4 = false) : s.fetchWord a = .ok (u.codeRead s.cur l 4) u := by
  simp [State.fetchWord, ha, hr, hp]

theorem replayIrq_of_no_irqs (h : s.cur.log.irqs = []) : s.replayIrq = none := by
  rw [State.replayIrq, h]

/-- A context with nothing outstanding runs the instruction that its fetch decodes to, unless an access of it is held. -/
theorem issue_of_fetch {w : Nat} (hc : CtxIssues s core n) (hf : s.fetchWord s.cur.pc.toNat = .ok w u) (hd : decodeControl w = .ok i)
    (ha : (s.accesses i).any (fun a => s.accessHeld a.1 a.2) = false) : s.issue = .run i u := by
  simp [State.issue, hc.inside, hc.channel, hf, controlInstr_of_decode hd, hc.loads, ha]

/-- The state in which the turn of a core's next slot finds its owner. -/
def State.atSlot (s : State) (core named : Nat) : State :=
  let slot := (s.core core).nextSlot named
  { (s.modCore core fun k => { k with cycle := slot }).chargeStopped core (slot - (s.core core).cycle) with
    focus := { core := core, ctx := slotOwner slot, queue := .cq core, seq := 0 } }

/-- Nothing that is held for a context's boundary and no replay or breakpoint stands in the way of its issue. -/
theorem nothing_before_issue (hc : CtxIssues s core n) :
    (s.cur.atBoundary && (s.owedStop core n).isSome) = false ∧ (s.cur.atBoundary && s.cur.wpTrap) = false ∧
      (s.cur.atBoundary && decide (s.takeable core n ≠ 0) && !s.replaying) = false := by
  have hstop := hc.stop
  have hwatch := hc.watch
  have hirq := hc.irq
  cases hb : s.cur.atBoundary with
  | false => simp
  | true => simp [hstop hb, hwatch hb, hirq hb]

theorem runs_of_issues (hc : CtxIssues s core n) :
    (s.cur.dbg || !s.clocked core || decide (s.cur.st = .idle ∨ s.cur.st = .frozen ∨ s.cur.st = .saved)) = false := by
  rcases hc.st with h | h | h <;> simp [hc.debug, hc.clock, h]

/-- Nothing that a turn puts before the issue stands in the way: the turn is that issue. -/
theorem ctxTurn_of_issues (hn : named < 3) (hc : CtxIssues (s.atSlot core named) core (slotOwner ((s.core core).nextSlot named))) :
    s.ctxTurn core named = (s.atSlot core named).issue := by
  have hparty : ¬(harbourId < core ∨ 3 ≤ named) := by have := hc.named; omega
  obtain ⟨hstop, hwatch, hirq⟩ := nothing_before_issue hc
  have hruns := runs_of_issues hc
  have hreplay := hc.replay
  have hnone := replayIrq_of_no_irqs hc.irqs
  have hbp := hc.bp
  generalize ht : s.atSlot core named = t at *
  have hcur : t.ctx core (slotOwner ((s.core core).nextSlot named)) = t.cur := by rw [← ht]; rfl
  rw [State.atSlot] at ht
  simp only [State.ctxTurn, hparty, ht, hcur, hruns, hreplay, hstop, hwatch, hirq, hnone, hbp, if_false, Bool.false_eq_true]

theorem step_of_ctx (hv : v = s.settleLogs) (ha : v.agenda = .ctx core named :: rest) (hn : named < 3)
    (ht : ({ v with agenda := rest } : State).atSlot core named = t) (hc : CtxIssues t core (slotOwner ((v.core core).nextSlot named)))
    (hr : t.reach core t.cur.pc.toNat false (t.privileged core (slotOwner ((v.core core).nextSlot named))) false = .loc l u)
    (hp : t.anyPoison l 4 = false) (hd : decodeControl (u.codeRead t.cur l 4) = .ok i)
    (hacc : (t.accesses i).any (fun a => t.accessHeld a.1 a.2) = false) : step s = exec i u := by
  subst ht
  have hf := fetchWord_of_reach hc.aligned hr hp
  exact step_of_turn hv ha ((ctxTurn_of_issues hn hc).trans (issue_of_fetch hc hf hd hacc))

/-! ### The bytes of the code (03 R50) -/

theorem codeByte_of_no_writes {c : Ctx} (h : s.overwritten.length ≤ c.codeSince) (loc : Nat) : s.codeByte c loc = s.byte loc := by
  rw [State.codeByte, Nat.sub_eq_zero_of_le h, List.take_zero, List.foldl_nil]

/-- Code that nothing has written since the context fenced and jumped is what memory holds. -/
theorem codeRead_of_no_writes {c : Ctx} (h : s.overwritten.length ≤ c.codeSince) (n loc : Nat) : s.codeRead c loc n = s.read loc n := by
  induction n generalizing loc with
  | zero => rfl
  | succ n ih => rw [State.codeRead, State.read, codeByte_of_no_writes h, ih]

/-! ### The undo logs' bytes (22 R385, R387) -/

theorem settleLog_of_empty (h : (s.ctx core n).log.recs = [] ∧ (s.ctx core n).log.dead = []) : s.settleLog core n = s := by
  simp [State.settleLog, h]

theorem settleLogs_of_empty (h : ∀ core n, (s.ctx core n).log.recs = [] ∧ (s.ctx core n).log.dead = []) : s.settleLogs = s := by
  have hfold (ps : List (Nat × Nat)) : ps.foldl (fun s p => s.settleLog p.1 p.2) s = s := by
    induction ps with
    | nil => rfl
    | cons p ps ih => rw [List.foldl_cons, settleLog_of_empty (h p.1 p.2), ih]
  exact hfold s.listed

/-! ### Streams -/

/-- A vector stream with nothing due before its word issues that word. -/
theorem vectorDue_of_issues (hc : VecIssues s core) : s.vectorDue core = .run (s.vectorNext core) s := by
  obtain ⟨hheld, -, -⟩ := hc.free
  obtain ⟨hat, hissued, hirq⟩ := hc.stop
  have hdue : ((s.core core).vs.land.any fun r => decide (r.due ≤ (s.core core).vs.cycle)) = false := by
    simpa using hc.due
  rcases hc.bp with hbp | hbp <;>
    simp [State.vectorDue, hc.st, hc.clock, hheld, hc.landed, hbp, hat, hirq, hdue, hissued, hc.first]

theorem vectorMove_of_issues (hc : VecIssues s core) : s.vectorMove core = .run (s.vectorNext core) s := by
  obtain ⟨-, -, hpeer⟩ := hc.free
  simp only [State.vectorMove, hpeer, Bool.and_false, Bool.false_eq_true, if_false]
  exact vectorDue_of_issues hc

theorem turn_vec_of_issues (hj : (s.core core).job = some j) (hc : VecIssues (s.focusJob core j) core) :
    s.turn (.vec core) = .run ((s.focusJob core j).vectorNext core) (s.focusJob core j) := by
  have hbehind : (s.core core).matrixBehind = false := hc.free.2.1
  have hcore : ¬2048 ≤ core := Nat.not_le.mpr hc.named
  simp only [State.turn, hcore, if_false, State.vecTurn, hj, hbehind, Bool.false_and, Bool.false_eq_true]
  exact vectorMove_of_issues hc

/-- A matrix stream with nothing due before its word issues that word. -/
theorem matrixDue_of_issues (hc : MatIssues s core) : s.matrixDue core = .run (s.matrixNext core) s := by
  obtain ⟨hheld, -⟩ := hc.free
  obtain ⟨hready, hfull⟩ := hc.gather
  obtain ⟨hat, hissued, hirq⟩ := hc.stop
  simp [State.matrixDue, hc.st, hc.clock, hheld, hc.bp, hready, hfull, hc.step, hat, hissued, State.irqAlone, hirq]

theorem matrixMove_of_issues (hc : MatIssues s core) : s.matrixMove core = .run (s.matrixNext core) s := by
  obtain ⟨-, hpeer⟩ := hc.free
  simp only [State.matrixMove, hpeer, Bool.and_false, Bool.false_eq_true, if_false]
  exact matrixDue_of_issues hc

theorem turn_mat_of_issues (hj : (s.core core).job = some j) (hc : MatIssues (s.focusJob core j) core) :
    s.turn (.mat core) = .run ((s.focusJob core j).matrixNext core) (s.focusJob core j) := by
  have hfirst : (s.core core).vectorFirst = false := hc.first
  have hirq : s.irqStop core = false := hc.stop.2.2
  have hcore : ¬2048 ≤ core := Nat.not_le.mpr hc.named
  simp only [State.turn, hcore, if_false, State.matTurn, hj, hfirst, State.irqBefore, hirq, Bool.false_and, Bool.or_self, Bool.false_eq_true]
  exact matrixMove_of_issues hc

theorem vectorNext_of_decode
    (h : decodeVector (s.codeWord core ((s.core core).vs.base + 12 * (s.core core).vs.pc) 3) = .ok i) : s.vectorNext core = i := by
  simp only [State.vectorNext, vectorInstr, h]

theorem matrixNext_of_decode
    (h : decodeMatrix (s.codeWord core ((s.core core).ms.base + 24 * (s.core core).ms.pc) 6) = .ok i) : s.matrixNext core = i := by
  simp only [State.matrixNext, matrixInstr, h]

/-! ### Commands and steps of the device -/

theorem turn_cmd_of_pending {q : QueueId} {seq : Nat} {e : Entry} (hq : q.wf = true) (he : (s.queue q).find seq = some e) (hst : e.st = .running)
    (hwork : e.work = .pending) (hclock : s.clocked (queueClock q) = true) (howed : s.serviceOwed q seq = false)
    (hd : decodeCommand (imageWord e.image) = .ok i) :
    s.turn (.cmd q seq) = .run i { s with focus := { core := homeCore q e, ctx := e.ctx, queue := q, seq := seq } } := by
  simp [State.turn, State.cmdTurn, hq, he, hst, hwork, hclock, howed, hd]

theorem turn_ev_of_step (hi : isStep i = true) (hw : wellFormed i = true) (hclock : s.stepClocked i = true) : s.turn (.ev i) = .run i s := by
  simp [State.turn, hi, hw, hclock]

end Sys2Proof.Machine

namespace Sys2Proof.Machine
open Sys2Proof Sys2Proof.Spec

/-- Settles O55: each clause names a turn, the turn runs what was decoded, and the step answers it. -/
theorem stepRunsTheDecodedInstruction : Obligations.StepRunsTheDecodedInstruction := by
  refine ⟨?context, fun _ _ _ h => codeRead_of_no_writes h 4 _, fun _ => settleLogs_of_empty, ?vector, ?matrix, ?command, ?device⟩
  case context =>
    intro s v core named rest l u i hv ha hn slot n t hc hr hp hd hacc
    exact step_of_ctx hv ha hn rfl hc hr hp hd hacc
  case vector =>
    intro s v core rest j i hv ha hj t hc hd
    have hturn := turn_vec_of_issues (s := { v with agenda := rest }) hj hc
    rw [vectorNext_of_decode hd] at hturn
    exact step_of_turn hv ha hturn
  case matrix =>
    intro s v core rest j i hv ha hj t hc hd
    have hturn := turn_mat_of_issues (s := { v with agenda := rest }) hj hc
    rw [matrixNext_of_decode hd] at hturn
    exact step_of_turn hv ha hturn
  case command =>
    intro s v q seq rest e i hv ha hq he hst hwork hclock howed hd
    exact step_of_turn hv ha (turn_cmd_of_pending (s := { v with agenda := rest }) hq he hst hwork hclock howed hd)
  case device =>
    intro s v i rest hv ha hi hw hclock
    exact step_of_turn hv ha (turn_ev_of_step (s := { v with agenda := rest }) hi hw hclock)

end Sys2Proof.Machine

/-! # Integer instructions and their words (05 R90 to R93) -/

namespace Sys2Proof.Machine
open Sys2Proof Sys2Proof.Spec Sys2Proof.Encoding

/-! ### Words of the integer instructions -/

/-- A word that is the encoding of a well-formed control instruction decodes to it. -/
theorem decodeControl_of_encode {i : Instr} {w : Nat} (he : encode i = w) (hi : isControl i = true) (hw : wellFormed i = true) :
    decodeControl w = .ok i := he ▸ (controlRecord.decode_encode hw hi).2

theorem rWord_eq_encR (op rd ra rb : Nat) (g : Guard) (fn : Nat) : rWord op rd ra rb g fn = encR op rd ra rb g fn := by
  unfold rWord encR bitNat
  split <;> simp

/-- The encoder writes the words of 05 R90. -/
theorem r90Words_encode : ∀ p ∈ r90Words, ∀ rd ra rb g,
    encode (p.2 rd ra rb g) = encR p.1 rd ra rb g 0 ∧ isControl (p.2 rd ra rb g) = true ∧ wellFormed (p.2 rd ra rb g) = rForm rd ra rb g := by
  intro p hp
  fin_cases hp <;> intros <;> exact ⟨rfl, rfl, rfl⟩

/-- The encoder writes the words of 05 R91 that have no reserved bit. -/
theorem r91Words_encode : ∀ p ∈ r91Words, ∀ rd ra imm,
    encode (p.2 rd ra imm) = iWord p.1 rd ra imm ∧ isControl (p.2 rd ra imm) = true ∧ wellFormed (p.2 rd ra imm) = (reg rd && reg ra && imm15 imm) := by
  intro p hp
  fin_cases hp <;> intros <;> exact ⟨rfl, rfl, rfl⟩

theorem r91Shifts_encode : ∀ p ∈ r91Shifts, ∀ rd ra sh,
    encode (p.2 rd ra sh) = iWord p.1 rd ra sh ∧ isControl (p.2 rd ra sh) = true ∧ wellFormed (p.2 rd ra sh) = (reg rd && reg ra && decide (sh < 64)) := by
  intro p hp
  fin_cases hp <;> intros <;> exact ⟨rfl, rfl, rfl⟩

theorem r92Words_encode : ∀ p ∈ r92Words, ∀ pd ra rb g,
    encode (p.2 pd ra rb g) = encR p.1 pd ra rb g 0 ∧ isControl (p.2 pd ra rb g) = true ∧ wellFormed (p.2 pd ra rb g) = cmpForm pd ra rb g := by
  intro p hp
  fin_cases hp <;> intros <;> exact ⟨rfl, rfl, rfl⟩

theorem r92Immediates_encode : ∀ p ∈ r92Immediates, ∀ pd ra imm,
    encode (p.2 pd ra imm) = iWord p.1 pd ra imm ∧ isControl (p.2 pd ra imm) = true ∧
      wellFormed (p.2 pd ra imm) = (decide (pd < 16) && reg ra && imm15 imm) := by
  intro p hp
  fin_cases hp <;> intros <;> exact ⟨rfl, rfl, rfl⟩

theorem r93Words_encode : ∀ p ∈ r93Words, ∀ pd pa pb na nb g,
    encode (p.2 pd pa pb na nb g) = encR p.1 pd pa pb g (bitNat na * 2 + bitNat nb) ∧ isControl (p.2 pd pa pb na nb g) = true ∧
      wellFormed (p.2 pd pa pb na nb g) = (decide (pd < 16) && decide (pa < 16) && decide (pb < 16) && g.wf) := by
  intro p hp
  fin_cases hp <;> intros <;> exact ⟨rfl, rfl, rfl⟩

/-! ### Words that decode to nothing -/

/-- A word that the decoder refuses is the illegal instruction, which traps with 0x01. -/
theorem illegalWord_of_error {w : Nat} {e : DecodeError} (h : decodeControl w = .error e) : IllegalWord w :=
  ⟨by rw [controlInstr, h], fun _ => rfl⟩

/-- The fields of an I-form word. -/
theorem fld_iWord {op rd ra imm : Nat} (hop : op < 2 ^ 7) (hd : rd < 32) (ha : ra < 32) (hi : imm < 2 ^ 15) :
    fld (iWord op rd ra imm) 25 7 = op ∧ fld (iWord op rd ra imm) 15 5 = ra ∧ fld (iWord op rd ra imm) 6 9 = imm / 64 := by
  unfold fld iWord
  omega

/-- A shift whose immediate has a bit above the shift amount set (05 R91). -/
theorem decodeControl_shift_reserved : ∀ p ∈ r91Shifts, ∀ rd ra imm, rd < 32 → ra < 32 → imm < 2 ^ 15 → 64 ≤ imm →
    decodeControl (iWord p.1 rd ra imm) = .error .reservedField := by
  intro p hp
  have hop : p.1 < 2 ^ 7 := by fin_cases hp <;> decide
  intro rd ra imm hd ha hi h64
  obtain ⟨h1, -, h3⟩ := fld_iWord hop hd ha hi
  have hne : (imm / 64 == 0) = false := by simp; omega
  fin_cases hp <;> (rw [decodeControl, h1, h3, hne]; rfl)

/-- LUI with a register in ra (05 R91). -/
theorem decodeControl_lui_reserved {rd ra imm : Nat} (hd : rd < 32) (ha : ra < 32) (hi : imm < 2 ^ 15) (h0 : ra ≠ 0) :
    decodeControl (iWord 0x17 rd ra imm) = .error .reservedField := by
  obtain ⟨h1, h2, -⟩ := fld_iWord (op := 0x17) (by decide) hd ha hi
  rw [decodeControl, h1, h2, beq_false_of_ne h0]
  rfl

theorem fld_one_of_testBit {w b : Nat} (h : w.testBit b = true) : (fld w b 1 == 0) = false := by
  rw [fld, pow_one, beq_false_of_ne]
  rw [Nat.testBit_eq_decide_div_mod_eq] at h
  have := of_decide_eq_true h
  omega

theorem fld_opcode {w : Nat} (hw : w < 2 ^ 32) : fld w 25 7 = w / 2 ^ 25 := by
  unfold fld
  omega

/-- A compare word with bit 24 set (05 R92). -/
theorem decodeControl_compare_reserved {w : Nat} (hw : w < 2 ^ 32) (hlo : 0x18 ≤ w / 2 ^ 25) (hhi : w / 2 ^ 25 ≤ 0x1F) (hb : w.testBit 24 = true) :
    decodeControl w = .error .reservedField := by
  rw [decodeControl, fld_opcode hw, fld_one_of_testBit hb]
  interval_cases w / 2 ^ 25 <;> rfl

/-- A predicate word with a reserved bit set (05 R93). -/
theorem decodeControl_predicate_reserved {w : Nat} (hw : w < 2 ^ 32) (hop : w / 2 ^ 25 = 0x20 ∨ w / 2 ^ 25 = 0x21)
    (hb : w.testBit 24 = true ∨ w.testBit 19 = true ∨ w.testBit 14 = true ∨ w / 4 % 8 ≠ 0) : decodeControl w = .error .reservedField := by
  have hr : (fld w 24 1 == 0 && fld w 19 1 == 0 && fld w 14 1 == 0 && fld w 2 3 == 0) = false := by
    rcases hb with h | h | h | h
    · rw [fld_one_of_testBit h]; rfl
    · rw [fld_one_of_testBit h]; simp
    · rw [fld_one_of_testBit h]; simp
    · have h2 : (fld w 2 3 == 0) = false := beq_false_of_ne h
      rw [h2, Bool.and_false]
  rw [decodeControl, fld_opcode hw]
  rcases hop with h | h <;> (rw [h, hr]; rfl)

/-! ### The values of the tables as the model computes them -/

theorem ofNat_mul_two_pow (a : Word) (n : Nat) : BitVec.ofNat 64 (a.toNat * 2 ^ n) = a <<< n := by
  apply BitVec.eq_of_toNat_eq
  simp [Nat.shiftLeft_eq]

theorem ofNat_div_two_pow (a : Word) (n : Nat) : BitVec.ofNat 64 (a.toNat / 2 ^ n) = a >>> n := by
  apply BitVec.eq_of_toNat_eq
  rw [BitVec.toNat_ofNat, BitVec.toNat_ushiftRight, Nat.shiftRight_eq_div_pow, Nat.mod_eq_of_lt]
  exact (Nat.div_le_self ..).trans_lt a.isLt

theorem ofInt_div_two_pow (a : Word) (n : Nat) : BitVec.ofInt 64 (a.toInt / 2 ^ n) = a.sshiftRight n := by
  rw [← BitVec.ofInt_toInt (x := a.sshiftRight n), BitVec.toInt_sshiftRight, Int.shiftRight_eq_div_pow]
  rfl

theorem ofNat_add_toNat (a b : Word) : BitVec.ofNat 64 (a.toNat + b.toNat) = a + b := by
  rw [BitVec.ofNat_add, BitVec.ofNat_toNat, BitVec.ofNat_toNat]; simp

theorem ofNat_mul_toNat (a b : Word) : BitVec.ofNat 64 (a.toNat * b.toNat) = a * b := by
  apply BitVec.eq_of_toNat_eq; simp

theorem ofInt_sub_toNat (a b : Word) : BitVec.ofInt 64 (a.toNat - b.toNat) = a - b := by
  rw [Int.sub_eq_add_neg, BitVec.ofInt_add, BitVec.ofInt_neg, BitVec.sub_eq_add_neg]; simp

theorem ofInt_min_toInt (a b : Word) : BitVec.ofInt 64 (min a.toInt b.toInt) = minS a b := by
  unfold minS
  split <;> rename_i h
  · rw [min_eq_left h, BitVec.ofInt_toInt]
  · rw [min_eq_right (le_of_not_ge h), BitVec.ofInt_toInt]

theorem ofInt_max_toInt (a b : Word) : BitVec.ofInt 64 (max a.toInt b.toInt) = maxS a b := by
  unfold maxS
  split <;> rename_i h
  · rw [max_eq_right h, BitVec.ofInt_toInt]
  · rw [max_eq_left (le_of_not_ge h), BitVec.ofInt_toInt]

/-! ### What the instructions do -/

theorem putX_eq_setX (s : State) (d : Nat) (v : Word) : putX s d v = (s.cur.setX d v).getX := by
  funext n
  rw [Ctx.getX_setX]; rfl

theorem putP_eq_setP (s : State) (d : Nat) (v : Bool) : putP s d v = (s.cur.setP d v).getP := by
  funext n
  rw [Ctx.getP_setP]; rfl

theorem Ctx.setX_rest (c : Ctx) (n : Nat) (v : Word) : c.setX n v = { c with x := (c.setX n v).x } := by
  unfold Ctx.setX; split <;> rfl

theorem Ctx.setP_rest (c : Ctx) (n : Nat) (v : Bool) : c.setP n v = { c with p := (c.setP n v).p } := by
  unfold Ctx.setP; split <;> rfl

/-- An instruction that writes one register completes. -/
theorem completes_setX {i : Instr} {s : State} {d : Nat} {v : Word} (hi : exec i s = finish s (.done (s.setX d v))) :
    Completes i s (putX s d v) s.p s.cur.getC (s.cur.pc + 4) := by
  have hp : s.p = (s.cur.setX d v).getP := funext fun n => (Ctx.getP_setX s.cur d n v).symm
  have hc : s.cur.getC = (s.cur.setX d v).getC := funext fun n => (Ctx.getC_setX s.cur d n v).symm
  rw [putX_eq_setX, hp, hc]
  exact completes_modCur (f := fun c => c.setX d v) hi (by rw [Ctx.setX_rest])

/-- An instruction that writes one predicate completes. -/
theorem completes_setP {i : Instr} {s : State} {d : Nat} {v : Bool} (hi : exec i s = finish s (.done (s.setP d v))) :
    Completes i s s.x (putP s d v) s.cur.getC (s.cur.pc + 4) := by
  have hx : s.x = (s.cur.setP d v).getX := funext fun n => (Ctx.getX_setP s.cur d n v).symm
  have hc : s.cur.getC = (s.cur.setP d v).getC := funext fun n => (Ctx.getC_setP s.cur d n v).symm
  rw [putP_eq_setP, hx, hc]
  exact completes_modCur (f := fun c => c.setP d v) hi (by rw [Ctx.setP_rest])

/-- An instruction that only goes on changes no register. -/
theorem completed_refl (s : State) (pc : Word) : Completed s (s.retire pc) s.x s.p s.cur.getC s.cur.log pc := by
  have hcur := State.cur_retire s pc
  exact {
    x := fun n => State.x_retire ..
    p := fun n => State.p_retire ..
    c := fun n => by rw [hcur]; rfl
    pc := by rw [hcur]
    st := by rw [hcur]; rfl
    log := by rw [hcur]
    ctx := by rw [hcur]
    rest := State.retire_eq ..
    memory := fun _ => rfl }

theorem passesOver_of_done {i : Instr} {s : State} (hi : exec i s = finish s (.done s)) : PassesOver i s :=
  ⟨_, hi.trans (finish_done ..), completed_refl ..⟩

/-- An instruction whose guard does not hold is passed over (03 R52). -/
theorem passesOver_of_off {i : Instr} {s : State} {g : Guard} {r : CtxRes} (hi : exec i s = guarded s g r) (hg : s.holds g = false) : PassesOver i s :=
  passesOver_of_done (hi.trans (by rw [guarded, hg]; rfl))

theorem completes_guarded_setX {i : Instr} {s : State} {g : Guard} {d : Nat} {v : Word} (hi : exec i s = guarded s g (.done (s.setX d v))) :
    Completes i s (if s.holds g then putX s d v else s.x) s.p s.cur.getC (s.cur.pc + 4) := by
  cases hg : s.holds g with
  | true => exact completes_setX (hi.trans (guarded_on _ _ _ hg))
  | false => exact passesOver_of_off hi hg

theorem completes_guarded_setP {i : Instr} {s : State} {g : Guard} {d : Nat} {v : Bool} (hi : exec i s = guarded s g (.done (s.setP d v))) :
    Completes i s s.x (if s.holds g then putP s d v else s.p) s.cur.getC (s.cur.pc + 4) := by
  cases hg : s.holds g with
  | true => exact completes_setP (hi.trans (guarded_on _ _ _ hg))
  | false => exact passesOver_of_off hi hg

theorem ofInt_mul_two_pow (z : Int) (n : Nat) : BitVec.ofInt 64 (z * 2 ^ n) = BitVec.ofInt 64 z <<< n := by
  have h : BitVec.ofInt 64 (2 ^ n) = BitVec.twoPow 64 n := by
    rw [show (2 : Int) ^ n = ((2 ^ n : Nat) : Int) by norm_cast, BitVec.ofInt_natCast]
    apply BitVec.eq_of_toNat_eq
    simp
  rw [BitVec.shiftLeft_eq_mul_twoPow, BitVec.ofInt_mul, h]

/-- The table of 05 R90 is what the model does. -/
theorem exec_of_r90 {i : Instr} {s : State} {d : Nat} {g : Guard} {v : Word} (h : r90 i s = some (d, g, v)) :
    exec i s = guarded s g (.done (s.setX d v)) := by
  unfold r90 at h
  split at h
  case h_16 => cases h
  all_goals
    simp only [Option.some.injEq, Prod.mk.injEq, ofNat_mul_two_pow, ofNat_div_two_pow, ofInt_div_two_pow, ofNat_add_toNat, ofNat_mul_toNat,
      ofInt_sub_toNat, ofInt_min_toInt, ofInt_max_toInt] at h
    obtain ⟨rfl, rfl, rfl⟩ := h
    rfl

/-- The table of 05 R91 is what the model does. -/
theorem exec_of_r91 {i : Instr} {s : State} {d : Nat} {v : Word} (h : r91 i s = some (d, v)) : exec i s = finish s (.done (s.setX d v)) := by
  unfold r91 at h
  split at h
  case h_9 => cases h
  all_goals
    simp only [Option.some.injEq, Prod.mk.injEq, ofNat_mul_two_pow, ofNat_div_two_pow, ofInt_div_two_pow, ofInt_mul_two_pow, BitVec.ofInt_add,
      BitVec.ofInt_toInt] at h
    obtain ⟨rfl, rfl⟩ := h
    rfl

/-- A sign-extended 15-bit immediate has the value of its field. -/
theorem toInt_sextWord_15 (v : Nat) : (sextWord 15 v).toInt = sextNat 15 v := by
  rw [sextWord, BitVec.toInt_ofInt]
  unfold sextNat
  apply Int.bmod_eq_of_le <;> (split <;> omega)

theorem not_slt_eq_decide (a b : Word) : (!a.slt b) = decide (b.toInt ≤ a.toInt) := by
  rw [BitVec.slt, ← decide_not, decide_eq_decide, not_lt]

theorem not_ult_eq_decide (a b : Word) : (!a.ult b) = decide (b.toNat ≤ a.toNat) := by
  rw [BitVec.ult, ← decide_not, decide_eq_decide, not_lt]

/-- The tables of 05 R92 and R93 are what the model does. -/
theorem exec_of_r92 {i : Instr} {s : State} {d : Nat} {g : Option Guard} {v : Bool} (h : r92 i s = some (d, g, v)) :
    exec i s = (match g with | some g => guarded s g (.done (s.setP d v)) | none => finish s (.done (s.setP d v))) := by
  unfold r92 at h
  split at h
  case h_11 => cases h
  all_goals
    simp only [Option.some.injEq, Prod.mk.injEq, ne_eq, BitVec.toNat_inj, ← toInt_sextWord_15, BitVec.toInt_inj, ← not_slt_eq_decide, ← not_ult_eq_decide] at h
    obtain ⟨rfl, rfl, rfl⟩ := h
    rfl

/-- Settles O1: each R-form word is an encoding, and each instruction writes its value where its guard holds. -/
theorem arithmeticWritesRd : Obligations.ArithmeticWritesRd := by
  refine ⟨fun p hp rd ra rb g hd ha hb hg => ?_, fun i s d g v h => completes_guarded_setX (exec_of_r90 h)⟩
  obtain ⟨he, hi, hw⟩ := r90Words_encode p hp rd ra rb g
  refine decodeControl_of_encode (he.trans (rWord_eq_encR ..).symm) hi ?_
  rw [hw]
  simp [rForm, reg, Guard.wf, *]

/-- Settles O2: each I-form word is an encoding, or has a reserved bit set, and each instruction writes its value. -/
theorem immediateArithmeticWritesRd : Obligations.ImmediateArithmeticWritesRd := by
  refine ⟨fun p hp rd ra imm hd ha hi => ?_, fun p hp rd ra imm hd ha hi => ⟨fun h64 => ?_, fun h64 => ?_⟩,
    fun rd ra imm hd ha hi => ⟨fun h0 => ?_, fun h0 => ?_⟩, fun i s d v h => completes_setX (exec_of_r91 h)⟩
  · obtain ⟨he, hc, hw⟩ := r91Words_encode p hp rd ra imm
    refine decodeControl_of_encode he hc ?_
    rw [hw]
    simpa [reg, imm15, hd, ha] using hi
  · obtain ⟨he, hc, hw⟩ := r91Shifts_encode p hp rd ra imm
    refine decodeControl_of_encode he hc ?_
    rw [hw]
    simp [reg, *]
  · exact illegalWord_of_error (decodeControl_shift_reserved p hp rd ra imm hd ha hi h64)
  · subst h0
    exact decodeControl_of_encode rfl rfl (by simpa [wellFormed, reg, imm15, hd] using hi)
  · exact illegalWord_of_error (decodeControl_lui_reserved hd ha hi h0)

/-- Settles O3: each compare and predicate word is an encoding, or has a reserved bit set, and each instruction writes its predicate where its guard holds. -/
theorem compareWritesPd : Obligations.CompareWritesPd := by
  refine ⟨fun p hp pd ra rb g hd ha hb hg => ?_, fun p hp pd ra imm hd ha hi => ?_, fun p hp pd pa pb na nb g hd ha hb hg => ?_,
    fun w hw hlo hhi hb => illegalWord_of_error (decodeControl_compare_reserved hw hlo hhi hb),
    fun w hw hop hb => illegalWord_of_error (decodeControl_predicate_reserved hw hop hb), fun i s d g v h => ?_⟩
  · obtain ⟨he, hi, hw⟩ := r92Words_encode p hp pd ra rb g
    refine decodeControl_of_encode (he.trans (rWord_eq_encR ..).symm) hi ?_
    rw [hw]
    simp [cmpForm, reg, Guard.wf, *]
  · obtain ⟨he, hc, hw⟩ := r92Immediates_encode p hp pd ra imm
    refine decodeControl_of_encode he hc ?_
    rw [hw]
    simpa [reg, imm15, hd, ha] using hi
  · obtain ⟨he, hi, hw⟩ := r93Words_encode p hp pd pa pb na nb g
    have hfn : (if na then 2 else 0) + (if nb then 1 else 0) = bitNat na * 2 + bitNat nb := by cases na <;> cases nb <;> rfl
    rw [hfn]
    refine decodeControl_of_encode (he.trans (rWord_eq_encR ..).symm) hi ?_
    rw [hw]
    simp [Guard.wf, *]
  · have he := exec_of_r92 h
    cases g with
    | some g => exact completes_guarded_setP he
    | none => exact completes_setP he

end Sys2Proof.Machine

/-! # What the operations behind an instruction keep of the contexts (05 R88, 16 R313 to R321, 22 R385 to R390) -/

namespace Sys2Proof.Machine
open Sys2Proof Sys2Proof.Spec

/-! ### The undo log -/

/-- What appending records leaves of a log: all but its records, what it has dropped and its windows' states. -/
structure LogKept (l m : UndoLog) : Prop where
  rest : m = { l with windows := m.windows, recs := m.recs, dead := m.dead, tail := m.tail }
  windows : ∀ w ∈ l.windows, ∃ v ∈ m.windows, v = { w with st := v.st }

theorem LogKept.refl (l : UndoLog) : LogKept l l := ⟨rfl, fun w hw => ⟨w, hw, rfl⟩⟩

theorem LogKept.trans {l m n : UndoLog} (h : LogKept l m) (h' : LogKept m n) : LogKept l n := by
  refine ⟨h'.rest.trans (by rw [h.rest]), fun w hw => ?_⟩
  obtain ⟨v, hv, ev⟩ := h.windows w hw
  obtain ⟨u, hu, eu⟩ := h'.windows v hv
  exact ⟨u, hu, eu.trans (by rw [ev])⟩

theorem LogKept.drop (l : UndoLog) (w : Nat) : LogKept l (l.drop w) := by
  refine ⟨rfl, fun v hv => ⟨_, List.mem_map_of_mem hv, ?_⟩⟩
  split <;> rfl

theorem LogKept.makeRoom (l : UndoLog) (n fuel : Nat) : LogKept l (l.makeRoom n fuel) := by
  induction fuel generalizing l with
  | zero => exact .refl l
  | succ fuel ih =>
    unfold UndoLog.makeRoom
    split
    · exact .refl l
    · split
      · exact .refl l
      · exact (LogKept.drop l _).trans (ih _)

theorem LogKept.append (l : UndoLog) (kind size loc : Nat) (body : List Word) (pc : Word) (src : InputSrc) :
    LogKept l (l.append kind size loc body pc src) := by
  have hroom : LogKept l (if l.stall then l else l.makeRoom (16 + 8 * body.length) (l.windows.length + 1)) := by
    split
    · exact .refl l
    · exact .makeRoom l _ _
  unfold UndoLog.append
  dsimp only
  split
  · exact .refl l
  · split
    · exact hroom
    · split
      · exact hroom
      · exact hroom.trans ⟨rfl, fun w hw => ⟨w, hw, rfl⟩⟩

theorem LogKept.iret {l m : UndoLog} (h : LogKept l m) : m.iret = l.iret := by rw [h.rest]

theorem LogKept.replay {l m : UndoLog} (h : LogKept l m) : m.replay = l.replay := by rw [h.rest]

/-! ### What is kept -/

/-- What the operations of the object units, the undo log and the store buffers leave of a context: all but its watch registers, the wait that has
reached an object, the flip that it holds up, its log's records and what has left its store buffer. -/
structure CtxKept (c d : Ctx) : Prop where
  rest : d = { c with waiter := d.waiter, flip := d.flip, wpctl := d.wpctl, wpcyc := d.wpcyc, wpTrap := d.wpTrap, sbuf := d.sbuf, log := d.log }
  waiter : c.waiter = none → d.waiter = none
  sbuf : d.sbuf = c.sbuf ∨ d.sbuf = []
  iret : d.log.iret = c.log.iret
  replay : d.log.replay = c.log.replay

theorem CtxKept.refl (c : Ctx) : CtxKept c c := ⟨rfl, id, .inl rfl, rfl, rfl⟩

theorem CtxKept.trans {c d e : Ctx} (h : CtxKept c d) (h' : CtxKept d e) : CtxKept c e where
  rest := h'.rest.trans (by rw [h.rest])
  waiter hc := h'.waiter (h.waiter hc)
  sbuf := by
    rcases h'.sbuf with he | he
    · rcases h.sbuf with hd | hd
      · exact .inl (he.trans hd)
      · exact .inr (he.trans hd)
    · exact .inr he
  iret := h'.iret.trans h.iret
  replay := h'.replay.trans h.replay

section
variable {c d : Ctx}

theorem CtxKept.x_eq (h : CtxKept c d) : d.x = c.x := by rw [h.rest]
theorem CtxKept.p_eq (h : CtxKept c d) : d.p = c.p := by rw [h.rest]
theorem CtxKept.c_eq (h : CtxKept c d) : d.c = c.c := by rw [h.rest]
theorem CtxKept.pc_eq (h : CtxKept c d) : d.pc = c.pc := by rw [h.rest]
theorem CtxKept.st_eq (h : CtxKept c d) : d.st = c.st := by rw [h.rest]
theorem CtxKept.priv_eq (h : CtxKept c d) : d.priv = c.priv := by rw [h.rest]
theorem CtxKept.tvec_eq (h : CtxKept c d) : d.tvec = c.tvec := by rw [h.rest]
theorem CtxKept.loads_eq (h : CtxKept c d) : d.loads = c.loads := by rw [h.rest]
theorem CtxKept.bpend_eq (h : CtxKept c d) : d.bpend = c.bpend := by rw [h.rest]
theorem CtxKept.iter_eq (h : CtxKept c d) : d.iter = c.iter := by rw [h.rest]

end

/-- A change of the log alone that keeps its counts. -/
theorem CtxKept.withLog (c : Ctx) {l : UndoLog} (hi : l.iret = c.log.iret) (hr : l.replay = c.log.replay) : CtxKept c { c with log := l } :=
  ⟨rfl, id, .inl rfl, hi, hr⟩

/-- A record in the log. -/
theorem CtxKept.record (c : Ctx) (kind size loc : Nat) (body : List Word) (pc : Word) (src : InputSrc) :
    CtxKept c { c with log := c.log.append kind size loc body pc src } := .withLog c (LogKept.append ..).iret (LogKept.append ..).replay

/-- A wait that has reached an object is answered. -/
theorem CtxKept.notified (c : Ctx) {w : Waiter} (h : c.waiter ≠ none) : CtxKept c { c with waiter := some w } :=
  ⟨rfl, fun hn => absurd hn h, .inl rfl, rfl, rfl⟩

theorem CtxKept.withFlip (c : Ctx) (m : Option FlipMark) : CtxKept c { c with flip := m } := ⟨rfl, id, .inl rfl, rfl, rfl⟩

theorem CtxKept.ite {c d e : Ctx} {p : Prop} [Decidable p] (hd : CtxKept c d) (he : CtxKept c e) : CtxKept c (if p then d else e) := by
  split
  · exact hd
  · exact he

/-- What those operations leave of a core: all but its contexts, event word, rings and the entries of its queues. -/
structure CoreKept (k l : Core) : Prop where
  rest : l = { k with ctxs := l.ctxs, evw := l.evw, rings := l.rings, mq := l.mq, vq := l.vq, cq := l.cq }

theorem CoreKept.refl (k : Core) : CoreKept k k := ⟨rfl⟩

theorem CoreKept.trans {k l m : Core} (h : CoreKept k l) (h' : CoreKept l m) : CoreKept k m := ⟨h'.rest.trans (by rw [h.rest])⟩

/-- What those operations leave of the state. -/
structure Kept (s t : State) : Prop where
  rest : t = { s with mem := t.mem, overwritten := t.overwritten, cores := t.cores, groups := t.groups, kqs := t.kqs, openings := t.openings,
                      ofus := t.ofus, lqs := t.lqs }
  ctx : ∀ k n, CtxKept (s.ctx k n) (t.ctx k n)
  core : ∀ k, CoreKept (s.core k) (t.core k)

theorem Kept.refl (s : State) : Kept s s := ⟨rfl, fun _ _ => .refl _, fun _ => .refl _⟩

theorem Kept.trans {s t u : State} (h : Kept s t) (h' : Kept t u) : Kept s u :=
  ⟨h'.rest.trans (by rw [h.rest]), fun k n => (h.ctx k n).trans (h'.ctx k n), fun k => (h.core k).trans (h'.core k)⟩

theorem Kept.focus {s t : State} (h : Kept s t) : t.focus = s.focus := by rw [h.rest]

theorem Kept.cur {s t : State} (h : Kept s t) : CtxKept s.cur t.cur := by
  unfold State.cur
  rw [h.focus]
  exact h.ctx ..

theorem Kept.getX {s t : State} (h : Kept s t) (k n r : Nat) : (t.ctx k n).getX r = (s.ctx k n).getX r := by
  rw [Ctx.getX, Ctx.getX, congrArg Ctx.x (h.ctx k n).rest]

theorem Kept.privileged {s t : State} (h : Kept s t) (k n : Nat) : t.privileged k n = s.privileged k n := by
  rw [State.privileged, State.privileged, congrArg Ctx.priv (h.ctx k n).rest]

theorem Kept.ite {s t u : State} {p : Prop} [Decidable p] (ht : Kept s t) (hu : Kept s u) : Kept s (if p then t else u) := by
  split
  · exact ht
  · exact hu

/-- A fold of operations that keep the state keeps it. -/
theorem Kept.foldl {α : Type} (f : State → α → State) (l : List α) (h : ∀ t, ∀ a ∈ l, Kept t (f t a)) (s : State) : Kept s (l.foldl f s) :=
  foldl_keeps (Kept s) f l (fun t a ha ht => ht.trans (h t a ha)) s (.refl s)

/-- A change of the state outside its cores. -/
theorem Kept.of_cores {s t : State} (hc : t.cores = s.cores)
    (h : t = { s with mem := t.mem, overwritten := t.overwritten, cores := t.cores, groups := t.groups, kqs := t.kqs, openings := t.openings,
                      ofus := t.ofus, lqs := t.lqs }) : Kept s t := by
  have hcore (k : Nat) : t.core k = s.core k := by rw [State.core, State.core, hc]
  refine ⟨h, fun k n => ?_, fun k => ?_⟩
  · rw [State.ctx, State.ctx, hcore]; exact .refl _
  · rw [hcore]; exact .refl _

theorem Kept.setCtx (s : State) (k n : Nat) {c : Ctx} (h : CtxKept (s.ctx k n) c) : Kept s (s.setCtx k n c) := by
  refine ⟨rfl, fun j m => ?_, fun j => ?_⟩
  · by_cases hj : j = k ∧ m = n
    · rw [hj.1, hj.2, State.ctx_setCtx_same]; exact h
    · rw [State.ctx_setCtx_other _ _ _ _ _ _ hj]; exact .refl _
  · by_cases hj : j = k
    · rw [hj, State.setCtx, State.core_setCore_same]; exact ⟨rfl⟩
    · rw [State.setCtx, State.core_setCore_other _ _ _ _ hj]; exact .refl _

theorem Kept.modCtx (s : State) (k n : Nat) {f : Ctx → Ctx} (h : CtxKept (s.ctx k n) (f (s.ctx k n))) : Kept s (s.modCtx k n f) := .setCtx s k n h

theorem Kept.mapCtxs (s : State) {f : Nat → Nat → Ctx → Ctx} (h : ∀ k n c, CtxKept c (f k n c)) : Kept s (s.mapCtxs f) :=
  .foldl _ _ (fun t e _ => .modCtx t e.1 e.2 (h ..)) s

theorem Kept.modCore (s : State) (k : Nat) {f : Core → Core} (h : CoreKept (s.core k) (f (s.core k)))
    (hc : (f (s.core k)).ctxs = (s.core k).ctxs) : Kept s (s.modCore k f) := by
  refine ⟨rfl, fun j m => ?_, fun j => ?_⟩
  · rw [State.ctx, State.ctx]
    by_cases hj : j = k
    · rw [hj, State.core_modCore_same, Core.ctx, Core.ctx, hc]; exact .refl _
    · rw [State.core_modCore_other _ _ _ _ hj]; exact .refl _
  · by_cases hj : j = k
    · rw [hj, State.core_modCore_same]; exact h
    · rw [State.core_modCore_other _ _ _ _ hj]; exact .refl _

theorem Kept.modQueue (s : State) (q : QueueId) (f : Queue → Queue) : Kept s (s.modQueue q f) := by
  cases q with
  | mq c => exact .modCore s c (f := fun k => { k with mq := f ((s.core c).mq) }) ⟨rfl⟩ rfl
  | vq c => exact .modCore s c (f := fun k => { k with vq := f ((s.core c).vq) }) ⟨rfl⟩ rfl
  | cq c => exact .modCore s c (f := fun k => { k with cq := f ((s.core c).cq) }) ⟨rfl⟩ rfl
  | oq u => exact .of_cores rfl rfl
  | lq d => exact .of_cores rfl rfl

theorem Kept.write (s : State) (l n v : Nat) : Kept s (s.write l n v) := .of_cores (by simp) (by rw [State.write_rest])

theorem Kept.setGroup (s : State) (g : Nat) (v : Group) : Kept s (s.setGroup g v) := .of_cores rfl rfl

theorem Kept.modKernel (s : State) (q i : Nat) (f : Kernel → Kernel) : Kept s (s.modKernel q i f) := .of_cores rfl rfl

/-! ### Windows, seals and records -/

theorem Kept.logRec (s : State) (k n kind size loc : Nat) (body : List Word) : Kept s (s.logRec k n kind size loc body) := by
  unfold State.logRec
  exact .modCtx s k n (.record ..)

theorem Kept.logFrom (s : State) (src : InputSrc) (v : Word) : Kept s (s.logFrom src v) := by
  unfold State.logFrom
  exact .modCtx s _ _ (.record ..)

theorem Kept.openWindowIn (s : State) (k n opener : Nat) (pc : Word) (joint : Option (Nat × Nat)) : Kept s (s.openWindowIn k n opener pc joint) := by
  unfold State.openWindowIn
  exact .setCtx s k n (.withLog _ (LogKept.append ..).iret (LogKept.append ..).replay)

theorem Kept.openWindow (s : State) (k n opener : Nat) (pc : Word) : Kept s (s.openWindow k n opener pc) := .openWindowIn ..

theorem Kept.openAll (s : State) (g opener : Nat) : Kept s (s.openAll g opener) := by
  unfold State.openAll
  refine .trans ?_ (.foldl _ _ (fun _ _ _ => .openWindowIn ..) _)
  exact .of_cores rfl rfl

theorem Kept.sealCtx (s : State) (k n code : Nat) : Kept s (s.sealCtx k n code) := by
  unfold State.sealCtx
  refine .ite (.refl s) (.trans (.setCtx s k n ?_) (.openWindow ..))
  exact .withLog _ (LogKept.append ..).iret (LogKept.append ..).replay

theorem Kept.markPushed (s : State) (k n : Nat) : Kept s (s.markPushed k n) := by
  unfold State.markPushed
  exact .modCtx s k n (.withLog _ rfl rfl)

/-! ### Objects, flips and groups -/

theorem Kept.watch (s : State) (l h t m b a : Nat) : Kept s (s.watch l h t m b a) := by
  unfold State.watch
  exact .mapCtxs s fun k n c => .ite ⟨rfl, id, .inl rfl, rfl, rfl⟩ (.refl c)

theorem Kept.serve (s : State) (l : Nat) : Kept s (s.serve l) := by
  unfold State.serve
  refine .mapCtxs s fun k n c => ?_
  cases hw : c.waiter with
  | none => exact .refl c
  | some w =>
    cases w with
    | mask => exact .ite (.notified c (by simp [hw])) (.refl c)
    | _ => exact .refl c

theorem Kept.settleFlip (s : State) (m : FlipMark) : Kept s (s.settleFlip m) := by
  unfold State.settleFlip
  refine .ite (.refl s) ?_
  cases m.group with
  | none => exact .watch ..
  | some g => exact ((Kept.watch ..).trans (.setGroup ..)).trans (.openAll ..)

theorem Kept.clearFlip (s : State) (k n : Nat) : Kept s (s.clearFlip k n) := by
  unfold State.clearFlip
  split
  · exact .refl s
  · exact (Kept.modCtx s k n (f := fun c => { c with flip := none }) (.withFlip ..)).trans (.settleFlip ..)

theorem Kept.flip (s : State) (l : Nat) (o : SyncObj) : Kept s (s.flip l o) := by
  have hflip (c : Ctx) : CtxKept c (if c.owes l o.phase then { c with flip := some (s.flipMark l o) } else c) := .ite (.withFlip ..) (.refl c)
  have hmap (t : State) : Kept t (t.mapCtxs fun _ _ c =>
      let d := if c.owes l o.phase then { c with flip := some (s.flipMark l o) } else c
      if c.waiter = some (.phase l o.phase) then { d with waiter := some (.flipped l o.phase) } else d) := by
    refine .mapCtxs t fun k n c => ?_
    by_cases hw : c.waiter = some (.phase l o.phase)
    · rw [if_pos hw]
      exact (hflip c).trans (.notified _ (by split <;> simp [hw]))
    · rw [if_neg hw]
      exact hflip c
  unfold State.flip
  refine .trans ?_ (.settleFlip ..)
  have h2 := (Kept.write s (l + 8) 8 ((o.phase + 1) % 2 ^ 32 * 2 ^ 32)).trans (hmap _)
  cases (s.flipMark l o).group with
  | some g => exact h2.trans (.setGroup ..)
  | none => exact h2

theorem Kept.notice (s : State) (l n : Nat) : Kept s (s.notice l n) := by
  unfold State.notice
  refine .trans (.mapCtxs s fun k m c => ?_) (.foldl _ _ (fun t e _ => .ite (.setGroup ..) (.refl t)) _)
  extract_lets d
  have hd : CtxKept c d := by
    dsimp only [d]
    split
    · next hw => exact .ite (.notified c (by simp [hw])) (.refl c)
    · exact .refl c
  clear_value d
  split
  · exact .ite (hd.trans (.withFlip ..)) hd
  · exact hd

/-! ### Stores that reach memory -/

theorem Kept.storeBy (s : State) (src : InputSrc) (l n v : Nat) : Kept s (s.storeBy src l n v) := by
  unfold State.storeBy
  refine .trans (.trans ?_ (.write ..)) (.notice ..)
  exact .of_cores rfl rfl

theorem Kept.escapes (s : State) (k n l m : Nat) : Kept s (s.escapes k n l m) := by
  unfold State.escapes
  exact .foldl _ _ (fun t q _ => .ite (.modQueue ..) (.refl t)) s

theorem Kept.writeFor (s : State) (k n i l m v : Nat) : Kept s (s.writeFor k n i l m v) := (Kept.storeBy ..).trans (.escapes ..)

theorem Kept.signalObject (s : State) (l m : Nat) : Kept s (s.signalObject l m) := by
  unfold State.signalObject
  exact .ite (.refl s) (.trans (.trans (.write ..) (.serve ..)) (.watch ..))

theorem Kept.noteEvents (s : State) (src : InputSrc) (l : Nat) : Kept s (s.noteEvents src l) := .of_cores rfl rfl

theorem Kept.signal (s : State) (k m : Nat) : Kept s (s.signal k m) := by
  unfold State.signal
  exact .modCore s k ⟨rfl⟩ rfl

theorem Kept.perform (s : State) (k n : Nat) (e : SbEntry) : Kept s (s.perform k n e) := by
  unfold State.perform
  split
  · exact .writeFor ..
  · exact .ite (.trans (.noteEvents ..) (.signal ..)) (.trans (.noteEvents ..) (.signalObject ..))
  · exact .modCore s e.loc ⟨rfl⟩ rfl
  · exact .writeFor ..

theorem Kept.drain (s : State) (k n : Nat) : Kept s (s.drain k n) := by
  unfold State.drain
  exact .trans (.foldl _ _ (fun _ _ _ => .perform ..) s) (.modCtx _ k n ⟨rfl, id, .inr rfl, rfl, rfl⟩)

theorem Kept.release (s : State) : Kept s s.release := .drain ..

theorem Kept.settlePages (s : State) : Kept s s.settlePages := by
  unfold State.settlePages
  exact .foldl _ _ (fun t p _ => .ite (.drain ..) (.refl t)) s

theorem Kept.leaveGroup (s : State) (g k n : Nat) : Kept s (s.leaveGroup g k n) := by
  unfold State.leaveGroup
  refine .ite (.refl s) (.trans (.trans (.trans (.setGroup ..) (.openAll ..)) (.openWindow ..)) (.foldl _ _ (fun t l _ => ?_) _))
  exact .ite (.trans (.flip ..) (.serve ..)) (.refl t)

theorem Kept.leaveAll (s : State) (k n : Nat) : Kept s (s.leaveAll k n) := by
  unfold State.leaveAll
  exact .foldl _ _ (fun _ _ _ => .leaveGroup ..) s

end Sys2Proof.Machine

/-! # What an instruction leaves of the registers (05 R88, R89, R120) -/

namespace Sys2Proof.Machine
open Sys2Proof Sys2Proof.Spec

/-! ### Changes of the acting context alone -/

/-- A change of a context changes nothing else of its core. -/
theorem State.core_modCtx (s : State) (c n : Nat) (f : Ctx → Ctx) (k : Nat) : (s.modCtx c n f).core k = { s.core k with ctxs := ((s.modCtx c n f).core k).ctxs } := by
  unfold State.modCtx State.setCtx
  rw [State.core_setCore]
  split
  · next h => rw [h]; rfl
  · rfl

theorem State.core_modCur (s : State) (f : Ctx → Ctx) (k : Nat) : (s.modCur f).core k = { s.core k with ctxs := ((s.modCur f).core k).ctxs } :=
  State.core_modCtx ..

theorem State.core_retire (s : State) (pc : Word) (k : Nat) : (s.retire pc).core k = { s.core k with ctxs := ((s.retire pc).core k).ctxs } :=
  State.core_modCur ..

/-- Retiring after a change of the acting context that keeps all but registers and log: what `Completed` says. -/
theorem completed_retire {s : State} {f : Ctx → Ctx} (pc : Word)
    (hf : f s.cur = { s.cur with x := (f s.cur).x, p := (f s.cur).p, c := (f s.cur).c, log := (f s.cur).log }) :
    Completed s ((s.modCur f).retire pc) (f s.cur).getX (f s.cur).getP (f s.cur).getC (f s.cur).log pc := by
  have hcur : ((s.modCur f).retire pc).cur = { f s.cur with
    pc := pc, st := goesOn s.cur, log := { (f s.cur).log with iret := (f s.cur).log.iret + 1 } } := by
    rw [State.cur_retire, State.cur_modCur, hf]; rfl
  exact {
    x := fun n => by rw [State.x, hcur]; rfl
    p := fun n => by rw [State.p, hcur]; rfl
    c := fun n => by rw [hcur]; rfl
    pc := by rw [hcur]
    st := by rw [hcur]
    log := by rw [hcur]
    ctx := by rw [hcur, hf]
    rest := (State.retire_eq ..).trans (State.setCtx_setCtx s _ _ (f s.cur) _)
    memory := fun _ => rfl }

theorem completed_setX (s : State) (d : Nat) (v pc : Word) : Completed s ((s.setX d v).retire pc) (putX s d v) s.p s.cur.getC s.cur.log pc := by
  have h := completed_retire (s := s) (f := fun c => c.setX d v) pc (by rw [Ctx.setX_rest])
  rwa [← putX_eq_setX, funext fun n => Ctx.getP_setX s.cur d n v, funext fun n => Ctx.getC_setX s.cur d n v, Ctx.setX_log] at h

/-- A register write with its input record (22 R386). -/
theorem completed_setX_logFrom (s : State) (d : Nat) (v pc : Word) (src : InputSrc) :
    Completed s (((s.setX d v).logFrom src v).retire pc) (putX s d v) s.p s.cur.getC (entered s v src) pc := by
  have h := completed_retire (s := s)
    (f := fun c => { c.setX d v with log := c.log.append 6 0 c.log.iret [v] c.pc src }) pc (by rw [Ctx.setX_rest])
  have he : (s.setX d v).logFrom src v = s.modCur fun c => { c.setX d v with log := c.log.append 6 0 c.log.iret [v] c.pc src } := by
    rw [State.logFrom, State.setX, State.modCur_modCur]
    simp
  have hp : s.p = (s.cur.setX d v).getP := funext fun n => (Ctx.getP_setX s.cur d n v).symm
  have hc : s.cur.getC = (s.cur.setX d v).getC := funext fun n => (Ctx.getC_setX s.cur d n v).symm
  rw [he, putX_eq_setX, hp, hc]
  exact h

/-! ### Registers before an instruction retires -/

/-- Two contexts with the same predicates, command registers, state, level and trap registers. -/
structure SameButX (a b : Ctx) : Prop where
  p : b.p = a.p
  c : b.c = a.c
  st : b.st = a.st
  priv : b.priv = a.priv
  tvec : b.tvec = a.tvec
  tstat : b.tstat = a.tstat
  tinfo : b.tinfo = a.tinfo
  busy : b.busy = a.busy

theorem SameButX.refl (c : Ctx) : SameButX c c := ⟨rfl, rfl, rfl, rfl, rfl, rfl, rfl, rfl⟩

theorem SameButX.trans {c d e : Ctx} (h : SameButX c d) (h' : SameButX d e) : SameButX c e :=
  ⟨h'.p.trans h.p, h'.c.trans h.c, h'.st.trans h.st, h'.priv.trans h.priv, h'.tvec.trans h.tvec, h'.tstat.trans h.tstat,
    h'.tinfo.trans h.tinfo, h'.busy.trans h.busy⟩

theorem CtxKept.sameButX {c d : Ctx} (h : CtxKept c d) : SameButX c d := by
  rw [h.rest]
  exact ⟨rfl, rfl, rfl, rfl, rfl, rfl, rfl, rfl⟩

theorem SameButX.setX (c : Ctx) (d : Nat) (v : Word) : SameButX c (c.setX d v) := by
  rw [Ctx.setX_rest]
  exact ⟨rfl, rfl, rfl, rfl, rfl, rfl, rfl, rfl⟩

/-- What the instruction begun in s has made of the registers, in u, before it retires: the acting context's are x, all others are as they were. -/
structure RegsNow (s u : State) (x : Nat → Word) : Prop where
  x : ∀ n, u.x n = x n
  cur : SameButX s.cur u.cur
  others : ∀ k n, ¬(k = s.focus.core ∧ n = s.focus.ctx) → ∀ r, (u.ctx k n).getX r = (s.ctx k n).getX r
  focus : u.focus = s.focus

variable {s u v : State} {x : Nat → Word}

theorem RegsNow.refl (s : State) : RegsNow s s s.x := ⟨fun _ => rfl, .refl _, fun _ _ _ _ => rfl, rfl⟩

theorem RegsNow.kept (h : RegsNow s u x) (k : Kept u v) : RegsNow s v x where
  x n := by
    rw [← h.x, State.x, State.x, Ctx.getX, Ctx.getX, k.cur.rest]
  cur := h.cur.trans k.cur.sameButX
  others j n hn r := (k.getX j n r).trans (h.others j n hn r)
  focus := k.focus.trans h.focus

/-- A change of the state that leaves every context as it was. -/
theorem RegsNow.of_ctx (h : RegsNow s u x) (hc : ∀ k n, v.ctx k n = u.ctx k n) (hf : v.focus = u.focus) : RegsNow s v x := by
  have hcur : v.cur = u.cur := by rw [State.cur, State.cur, hf, hc]
  exact ⟨fun n => by rw [State.x, hcur]; exact h.x n, by rw [hcur]; exact h.cur, fun k n hn r => by rw [hc]; exact h.others k n hn r, hf.trans h.focus⟩

/-- A change of the acting context. -/
theorem RegsNow.modCur {y : Nat → Word} (h : RegsNow s u x) {f : Ctx → Ctx} (hx : ∀ n, (f u.cur).getX n = y n) (hs : SameButX u.cur (f u.cur)) :
    RegsNow s (u.modCur f) y where
  x n := by rw [State.x, State.cur_modCur, hx]
  cur := by rw [State.cur_modCur]; exact h.cur.trans hs
  others j n hn r := by
    rw [State.modCur, State.ctx_modCtx_other _ _ _ _ _ _ (by rw [h.focus]; exact hn)]
    exact h.others j n hn r
  focus := h.focus

/-- A change of the acting context that leaves its registers. -/
theorem RegsNow.modRest (h : RegsNow s u x) {f : Ctx → Ctx} (hx : (f u.cur).x = u.cur.x) (hs : SameButX u.cur (f u.cur)) : RegsNow s (u.modCur f) x :=
  h.modCur (fun n => by rw [Ctx.getX, hx]; exact h.x n) hs

theorem RegsNow.setX (h : RegsNow s u s.x) (d : Nat) (w : Word) : RegsNow s (u.setX d w) (putX s d w) := by
  refine h.modCur (fun n => ?_) (.setX ..)
  rw [Ctx.getX_setX, putX, ← h.x]
  rfl

theorem RegsNow.modHere (h : RegsNow s u x) {f : Core → Core} (hf : (f u.here).ctxs = u.here.ctxs) : RegsNow s (u.modHere f) x := by
  refine h.of_ctx (fun k n => ?_) rfl
  unfold State.ctx State.modHere State.modCore
  rw [State.core_setCore]
  split
  · next hk => rw [hk]; exact congrArg (Tbl.get Ctx.reset · n) hf
  · rfl

theorem RegsNow.retire (h : RegsNow s u x) (pc : Word) : RegsAfter s (u.retire pc) x pc := by
  have hcur := State.cur_retire u pc
  obtain ⟨hp, hc, hst, hl, htv, hts, hti, hb⟩ := h.cur
  exact {
    x := fun n => (State.x_retire ..).trans (h.x n)
    p := fun n => by rw [State.p_retire, State.p, State.p, Ctx.getP, Ctx.getP, hp]
    c := fun n => by rw [hcur, Ctx.getC, Ctx.getC, hc]
    pc := by rw [hcur]
    st := by rw [hcur, hst, hb]; rfl
    level := by rw [hcur, hl]
    trap := by rw [hcur]; exact ⟨htv, hts, hti, hb⟩
    others := fun k n hn r => by
      rw [State.retire, State.modCur, State.ctx_modCtx_other _ _ _ _ _ _ (by rw [h.focus]; exact hn)]
      exact h.others k n hn r
    focus := h.focus }

theorem regsAfter_kept {t : State} {pc : Word} (h : RegsAfter s t x pc) (k : Kept t u) : RegsAfter s u x pc := by
  have hc := k.cur.rest
  exact {
    x := fun n => by rw [← h.x, State.x, State.x, Ctx.getX, Ctx.getX, hc]
    p := fun n => by rw [← h.p, State.p, State.p, Ctx.getP, Ctx.getP, hc]
    c := fun n => by rw [← h.c, Ctx.getC, Ctx.getC, hc]
    pc := by rw [← h.pc, hc]
    st := by rw [← h.st, hc]
    level := by rw [← h.level, hc]
    trap := by rw [hc]; exact h.trap
    others := fun j n hn r => (k.getX j n r).trans (h.others j n hn r)
    focus := k.focus.trans h.focus }

theorem sameMemory_of_mem {t : State} (h : t.mem = s.mem) : SameMemory s t := State.byte_eq s t h

end Sys2Proof.Machine

/-! # Control transfer (05 R94, R95) and loads (R97) -/

namespace Sys2Proof.Machine
open Sys2Proof Sys2Proof.Spec

/-! ### Control transfer -/

/-- The state of a taken transfer with its link written. -/
def State.takenLinked (s : State) (link : Option Nat) : State :=
  match link with
  | some d => s.taken.setX d s.link
  | none => s.taken

theorem State.near_eq (s : State) (w off : Nat) : BitVec.ofInt 64 (s.cur.pc.toInt + 4 * sextNat w off) = s.near w off := by
  rw [BitVec.ofInt_add, BitVec.ofInt_toInt, BitVec.ofInt_mul]
  rfl

/-- The table of 05 R94 is what the model does. -/
theorem exec_of_r94 {i : Instr} {s : State} {taken : Bool} {target : Word} {link : Option Nat} (h : r94 i s = some (taken, target, link)) :
    exec i s = finish s (if taken then .jump (s.takenLinked link) target else .done s) := by
  unfold r94 at h
  split at h
  case h_6 => cases h
  all_goals
    simp only [Option.some.injEq, Prod.mk.injEq, State.near_eq] at h
    obtain ⟨rfl, rfl, rfl⟩ := h
    rfl

theorem State.cur_taken (s : State) : s.taken.cur = { s.cur with codeSince := s.taken.cur.codeSince, codeFenced := s.taken.cur.codeFenced } := by
  unfold State.taken
  rw [State.cur_modCur]

theorem State.x_taken (s : State) : s.taken.x = s.x := by
  funext n; rw [State.x, State.x, State.cur_taken]; rfl

theorem State.p_taken (s : State) : s.taken.p = s.p := by
  funext n; rw [State.p, State.p, State.cur_taken]; rfl

theorem State.getC_taken (s : State) : s.taken.cur.getC = s.cur.getC := by
  funext n; rw [State.cur_taken]; rfl

theorem State.log_taken (s : State) : s.taken.cur.log = s.cur.log := by rw [State.cur_taken]

theorem completed_takenLinked (s : State) (link : Option Nat) (target : Word) :
    Completed s.taken ((s.takenLinked link).retire target) (linked s link) s.p s.cur.getC s.cur.log target := by
  rw [← s.p_taken, ← s.getC_taken, ← s.log_taken]
  cases link with
  | none =>
    rw [show linked s none = s.taken.x from s.x_taken.symm]
    exact completed_refl s.taken target
  | some d =>
    have hx : linked s (some d) = putX s.taken d s.link := by
      funext n
      show putX s d (s.cur.pc + 4) n = _
      rw [putX, putX, s.x_taken]
      rfl
    rw [hx]
    exact completed_setX s.taken d s.link target

/-- A context's part of its iteration has ended; the iteration may go on (05 R95). -/
def State.partEnded (s : State) (core ctx : Nat) : State := ((s.drain core ctx).clearFlip core ctx).modCtx core ctx fun c => { c with st := .idle, iter := none }

theorem State.partEnded_focus (s : State) (core ctx : Nat) : (s.partEnded core ctx).focus = s.focus := ((Kept.drain s core ctx).trans (.clearFlip ..)).focus

/-- What follows a context's part, the end of the iteration, keeps the contexts. -/
theorem Kept.endPart (s : State) (core ctx : Nat) : Kept (s.partEnded core ctx) (s.endPart core ctx) := by
  unfold State.endPart
  dsimp only
  split
  · exact .refl _
  · exact .ite (.refl _) ((Kept.foldl _ _ (fun _ _ _ => .leaveAll ..) _).trans (.modKernel ..))

/-- A context whose part of its iteration has ended is idle (05 R95). -/
theorem State.cur_endPart (s : State) :
    (s.endPart s.focus.core s.focus.ctx).cur.st = .idle ∧ (s.endPart s.focus.core s.focus.ctx).cur.iter = none := by
  have hk := Kept.endPart s s.focus.core s.focus.ctx
  have hc : (s.partEnded s.focus.core s.focus.ctx).cur.st = .idle ∧ (s.partEnded s.focus.core s.focus.ctx).cur.iter = none := by
    rw [State.cur, State.partEnded_focus, State.partEnded, State.ctx_modCtx_same]
    exact ⟨rfl, rfl⟩
  exact ⟨hk.cur.st_eq.trans hc.1, hk.cur.iter_eq.trans hc.2⟩

theorem State.focus_takenLinked (s : State) (link : Option Nat) : (s.takenLinked link).focus = s.focus := by cases link <;> rfl

/-- Settles O5: each transfer finishes as a taken jump or passes over, and `finish` tells the target's cases apart. -/
theorem transfersGoToTheirTarget : Obligations.TransfersGoToTheirTarget := by
  intro i s taken target link h
  have he := exec_of_r94 h
  refine ⟨fun ht => ?_, fun ht hm => ?_, fun ht hm hne => ?_, fun ht hend => ?_⟩
  · exact passesOver_of_done (by rw [he, ht]; rfl)
  · rw [Traps, he, ht]
    exact finish_jump_misaligned _ _ _ hm
  · rw [ht] at he
    exact ⟨_, he.trans (finish_jump _ _ _ hm hne), completed_takenLinked s link target⟩
  · rw [ht, hend] at he
    refine ⟨_, he.trans (finish_jump_end ..), ?_⟩
    rw [← s.focus_takenLinked link]
    exact State.cur_endPart ((s.takenLinked link).retire iterationEnd)

/-! ### Loads -/

theorem State.ctxRead_zero (s : State) (a n : Nat) (h : a % n = 0)
    (hr : s.reach s.focus.core a false (s.privileged s.focus.core s.focus.ctx) false = .zero) : s.ctxRead a n = .ok 0 s := by
  unfold State.ctxRead
  rw [if_neg (by simp [h]), hr]

theorem State.ctxRead_hole (s : State) (a n : Nat) (h : a % n = 0)
    (hr : s.reach s.focus.core a false (s.privileged s.focus.core s.focus.ctx) false = .hole) : s.ctxRead a n = s.outOfRange a := by
  unfold State.ctxRead
  rw [if_neg (by simp [h]), hr]

theorem State.ctxRead_of_readable {s : State} {a n l : Nat} (h : Readable s a n l) : s.ctxRead a n = .ok (seenAt s l n) s :=
  s.ctxRead_ok a n l s h.aligned h.reached h.sound

/-- An out-of-range access is noted in SPOR; no memory is touched (10 R238). -/
theorem State.outOfRange_plain (s : State) (a : Nat) (h : s.cur.sporen = false) : s.outOfRange a = .hole (s.recordSpor s.focus.core s.focus.ctx a) := by
  simp [State.outOfRange, h]

theorem State.outOfRange_trap (s : State) (a : Nat) (h : s.cur.sporen = true) :
    s.outOfRange a = .trap (s.recordSpor s.focus.core s.focus.ctx a) 0x11 a := by
  simp [State.outOfRange, h]

/-- The context after the record of an out-of-range address. -/
def Ctx.sporAt (c : Ctx) (a : Nat) : Ctx := if c.spor.getLsbD 63 then c else { c with spor := BitVec.ofNat 64 (2 ^ 63 + a % 2 ^ 52) }

theorem State.recordSpor_eq_modCur (s : State) (a : Nat) : s.recordSpor s.focus.core s.focus.ctx a = s.modCur fun c => c.sporAt a := rfl

theorem Ctx.sporAt_rest (c : Ctx) (a : Nat) : c.sporAt a = { c with spor := (c.sporAt a).spor } := by
  unfold Ctx.sporAt; split <;> rfl

theorem SameButX.sporAt (c : Ctx) (a : Nat) : SameButX c (c.sporAt a) := by
  rw [Ctx.sporAt_rest]
  exact ⟨rfl, rfl, rfl, rfl, rfl, rfl, rfl, rfl⟩

theorem RegsNow.recordSpor {s u : State} {x : Nat → Word} (h : RegsNow s u x) (a : Nat) : RegsNow s (u.recordSpor u.focus.core u.focus.ctx a) x := by
  rw [State.recordSpor_eq_modCur]
  exact h.modRest (by rw [Ctx.sporAt_rest]) (.sporAt ..)

/-- A loaded value in its register, with its record where the load leaves one (22 R386). -/
def State.loaded (t : State) (logs : Bool) (src : InputSrc) (d : Nat) (v : Word) : State := if logs then (t.setX d v).logFrom src v else t.setX d v

theorem exec_of_loadOf {i : Instr} {s : State} {d a n : Nat} (h : loadOf i s = some (d, a, n)) (hr : s.cur.log.replay = none)
    (hl : s.cur.lateLoads = false) :
    exec i s = finish s ((s.ctxRead a n).result fun v t => .done (t.loaded (strong i) (s.supplierAt a n) d (extend n v))) := by
  have hr' : s.replaying = false := by rw [State.replaying, hr]; rfl
  unfold loadOf at h
  split at h
  case h_4 => cases h
  all_goals
    simp only [Option.some.injEq, Prod.mk.injEq] at h
    obtain ⟨rfl, rfl, rfl⟩ := h
    simp only [exec, execLd, execLda, execLds, State.load, State.loadStrong, withInput, hl, hr', Bool.false_and, Bool.false_eq_true, if_false]
    rfl

theorem completed_loaded (s : State) (logs : Bool) (src : InputSrc) (d : Nat) (v pc : Word) :
    Completed s ((s.loaded logs src d v).retire pc) (putX s d v) s.p s.cur.getC (if logs then entered s v src else s.cur.log) pc := by
  cases logs with
  | true => exact completed_setX_logFrom s d v pc src
  | false => exact completed_setX s d v pc

theorem RegsNow.loaded {s u : State} (h : RegsNow s u s.x) (logs : Bool) (src : InputSrc) (d : Nat) (v : Word) :
    RegsNow s (u.loaded logs src d v) (putX s d v) := by
  unfold State.loaded
  split
  · exact (h.setX d v).kept (.logFrom ..)
  · exact h.setX d v

theorem State.loaded_mem (s : State) (logs : Bool) (src : InputSrc) (d : Nat) (v : Word) : (s.loaded logs src d v).mem = s.mem := by
  unfold State.loaded; split <;> rfl

theorem State.spor_loaded (s : State) (logs : Bool) (src : InputSrc) (d : Nat) (v : Word) : (s.loaded logs src d v).cur.spor = s.cur.spor := by
  unfold State.loaded
  split <;> simp [State.logFrom, State.setX]

theorem extend_zero (n : Nat) : extend n 0 = 0 := by simp [extend, sextWord, sextNat]

/-- The trap of an out-of-range access, behind its record (05 R97). -/
theorem State.trapHere_recordSpor (s : State) (a : Nat) : Host.Outcome.next ((s.recordSpor s.focus.core s.focus.ctx a).trapHere 0x11 (trapInfo 0x11 a)) =
    (.next ((s.recordSpor s.focus.core s.focus.ctx a).takeTrap s.focus.core s.focus.ctx 0x11 (BitVec.ofNat 64 a) 0 s.cur.pc) : Answer) := by
  have hpc : (s.recordSpor s.focus.core s.focus.ctx a).cur.pc = s.cur.pc := by
    rw [State.recordSpor_eq_modCur, State.cur_modCur, Ctx.sporAt_rest]
  have hf : (s.recordSpor s.focus.core s.focus.ctx a).focus = s.focus := by
    rw [State.recordSpor_eq_modCur]; rfl
  rw [State.trapHere, hpc, hf]
  rfl

/-- A load whose access traps. -/
theorem traps_of_ctxRead {i : Instr} {s : State} {a n c : Nat} {f : Nat → State → CtxRes} (he : exec i s = finish s ((s.ctxRead a n).result f))
    (h : s.ctxRead a n = .trap s c a) : Traps i s c (trapInfo c a) := by
  rw [Traps, he, h]
  rfl

/-- Settles O6: a load's access is told apart by `ctxRead`; what it reads enters the register alone. -/
theorem loadsReadMemory : Obligations.LoadsReadMemory := by
  intro i s d a n h hr hl
  have he := exec_of_loadOf h hr hl
  refine ⟨fun l hread => ⟨_, ?_, completed_loaded ..⟩, fun ha hz => ⟨_, ?_, completed_loaded ..⟩, fun ha => ?_, fun ha hf => ?_, fun ha hf => ?_,
    fun l ha hloc hp => ?_, fun ha hh hs => ⟨((s.recordSpor s.focus.core s.focus.ctx a).loaded (strong i) (s.supplierAt a n) d 0).retire (s.cur.pc + 4), ?_, ?_, ?_, ?_⟩, fun ha hh hs => ?_⟩
  · rw [he, State.ctxRead_of_readable hread]
    rfl
  · rw [he, s.ctxRead_zero a n ha hz, ← extend_zero n]
    rfl
  · exact traps_of_ctxRead he (s.ctxRead_misaligned a n ha)
  · exact traps_of_ctxRead he (s.ctxRead_fault a n _ ha hf)
  · exact traps_of_ctxRead he (s.ctxRead_fault a n _ ha hf)
  · exact traps_of_ctxRead he (s.ctxRead_poisoned a n l s ha hloc hp)
  · rw [he, s.ctxRead_hole a n ha hh, s.outOfRange_plain a hs, ← extend_zero n]
    rfl
  · exact (((RegsNow.refl s).recordSpor a).loaded ..).retire _
  · exact sameMemory_of_mem (State.loaded_mem ..)
  · intro h63
    rw [State.cur_retire]
    show (State.loaded ..).cur.spor = _
    rw [State.spor_loaded, State.recordSpor_eq_modCur, State.cur_modCur, Ctx.sporAt, h63]
    rfl
  · rw [he, s.ctxRead_hole a n ha hh, s.outOfRange_trap a hs]
    exact s.trapHere_recordSpor a

end Sys2Proof.Machine

/-! # Stores on their way to memory (05 R88, R97) -/

namespace Sys2Proof.Machine
open Sys2Proof Sys2Proof.Spec

/-! ### What a performed entry makes of memory -/

section
variable {s t : State}

theorem State.read_mem_congr (h : t.mem = s.mem) (l n : Nat) : t.read l n = s.read l n := State.read_congr s t l n fun _ _ => State.byte_eq s t h _

theorem State.syncObj_mem_congr (h : t.mem = s.mem) (l : Nat) : t.syncObj l = s.syncObj l := by
  simp only [State.syncObj, State.read_mem_congr h]

theorem State.write_mem_congr (h : t.mem = s.mem) (l n v : Nat) : (t.write l n v).mem = (s.write l n v).mem := by
  induction n generalizing s t l v with
  | zero => exact h
  | succ n ih => exact ih (by rw [State.setByte, State.setByte, h]) ..

end

theorem State.mem_writeFor (s : State) (core ctx iret l n v : Nat) : (s.writeFor core ctx iret l n v).mem = (s.write l n v).mem := by
  rw [State.writeFor, State.escapes_mem, State.storeBy, State.notice_mem]
  refine State.write_mem_congr ?_ l n v
  rfl

theorem State.mem_signalObject (s : State) (l m : Nat) :
    (s.signalObject l m).mem = if m = 0 then s.mem else (s.write (l + 16) 4 ((s.syncObj l).events ||| m)).mem := by
  unfold State.signalObject
  split
  · rfl
  · rw [State.watch_mem, State.serve_mem]

theorem State.mem_signalObject_noteEvents (s : State) (src : InputSrc) (l m : Nat) : ((s.noteEvents src (l + 16)).signalObject l m).mem =
    if m = 0 then s.mem else (s.write (l + 16) 4 ((s.syncObj l).events ||| m)).mem := by
  rw [State.mem_signalObject, State.syncObj_mem_congr (s := s) rfl, State.write_mem_congr (s := s) rfl]
  rfl

/-- What a performed entry makes of memory depends on memory alone. -/
theorem State.perform_mem_congr {s t : State} (h : t.mem = s.mem) (c n d m : Nat) (e : SbEntry) : (t.perform c n e).mem = (s.perform d m e).mem := by
  obtain ⟨kind, loc, size, value, iret⟩ := e
  cases kind with
  | store => rw [State.perform, State.perform, State.mem_writeFor, State.mem_writeFor, State.write_mem_congr h]
  | release => rw [State.perform, State.perform, State.mem_writeFor, State.mem_writeFor, State.write_mem_congr h, State.read_mem_congr h]
  | ring => exact h
  | signal =>
    dsimp only [State.perform]
    split
    · exact h
    · rw [State.mem_signalObject_noteEvents, State.mem_signalObject_noteEvents, State.syncObj_mem_congr h, State.write_mem_congr h, h]

theorem State.performAll_mem_congr {s t : State} (h : t.mem = s.mem) (c n d m : Nat) (es : List SbEntry) :
    (es.foldl (fun t e => t.perform c n e) t).mem = (es.foldl (fun t e => t.perform d m e) s).mem := by
  induction es generalizing s t with
  | nil => exact h
  | cons e es ih => exact ih (State.perform_mem_congr h c n d m e)

theorem State.drain_mem_congr {s t : State} {c n d m : Nat} (h : t.mem = s.mem) (hs : (t.ctx c n).sbuf = (s.ctx d m).sbuf) :
    (t.drain c n).mem = (s.drain d m).mem := by
  rw [State.drain, State.drain, State.modCtx_mem, State.modCtx_mem, hs]
  exact State.performAll_mem_congr h ..

theorem State.release_mem_congr {s t : State} (h : t.mem = s.mem) (hs : t.cur.sbuf = s.cur.sbuf) : t.release.mem = s.release.mem :=
  State.drain_mem_congr h hs

/-- A write leaves its bytes and changes no other. -/
theorem holds_of_write {s t : State} {l n v : Nat} (h : t.mem = (s.write l n v).mem) : Holds t l n v ∧ SameOutside s t l n :=
  ⟨fun i hi => (State.byte_eq _ t h _).trans (State.byte_write_inside s l n v i hi),
   fun a ha => (State.byte_eq _ t h _).trans (State.byte_write_outside s l n v a ha)⟩

/-! ### Where a store goes -/

theorem State.reach_cores {s t : State} {c a l : Nat} {w p e : Bool} (h : s.reach c a w p e = .loc l t) : t.cores = s.cores ∧ t.focus = s.focus := by
  unfold State.reach at h
  split at h
  · cases h
  · split at h
    · cases h; exact ⟨rfl, rfl⟩
    · cases h
    · cases h
    · split at h
      · next hp => cases h; exact State.pagedAccess_cores _ _ _ _ _ _ _ hp
      · cases h
      · cases h
      · cases h

/-- The cases of a store's address that passes its checks: the state with the page moved on has the same cores. -/
theorem State.ctxStoreAt_frame {s t : State} {a n l : Nat} (h : s.ctxStoreAt a n = .frame l t) : t.cores = s.cores ∧ t.focus = s.focus := by
  unfold State.ctxStoreAt at h
  split at h
  · cases h
  · split at h
    · cases h
    · cases h
    · split at h <;> cases h
    · cases h
    · next hr =>
      split at h
      · cases h
      · cases h; exact State.reach_cores hr

theorem storeTarget_cores {s u : State} {a n l : Nat} (h : storeTarget s a n = some (l, u)) : u.cores = s.cores ∧ u.focus = s.focus := by
  unfold storeTarget at h
  split at h
  · cases h; exact ⟨rfl, rfl⟩
  · next hf => cases h; exact State.ctxStoreAt_frame hf
  · cases h

theorem result_of_storeTarget {s u : State} {a n l : Nat} (h : storeTarget s a n = some (l, u)) (put : State → Nat → CtxRes) :
    (s.ctxStoreAt a n).result s put = put u l := by
  unfold storeTarget at h
  split at h
  · next hf => cases h; rw [hf]; rfl
  · next hf => cases h; rw [hf]; rfl
  · cases h

theorem State.cur_of_cores {s u : State} (h : u.cores = s.cores ∧ u.focus = s.focus) : u.cur = s.cur := by
  rw [State.cur, State.cur, State.ctx, State.ctx, State.core_of_cores h.1, h.2]

theorem RegsNow.of_cores {s u : State} (h : u.cores = s.cores ∧ u.focus = s.focus) : RegsNow s u s.x :=
  (RegsNow.refl s).of_ctx (fun k n => by rw [State.ctx, State.ctx, State.core_of_cores h.1]) h.2

theorem State.ctxStoreAt_fault {s : State} {a n c : Nat} (h : a % n = 0)
    (hr : s.reach s.focus.core a true (s.privileged s.focus.core s.focus.ctx) false = .fault c) : s.ctxStoreAt a n = .trap s c a := by
  unfold State.ctxStoreAt
  rw [if_neg (by simp [h]), hr]

/-- An out-of-range store leaves its record in SPOR (05 R97). -/
theorem State.ctxStoreAt_hole {s u : State} {a n : Nat} (h : s.ctxStoreAt a n = .hole u) : u = s.recordSpor s.focus.core s.focus.ctx a := by
  unfold State.ctxStoreAt at h
  split at h
  · cases h
  · split at h
    · cases h
    · cases h
    · unfold State.outOfRange at h
      dsimp only at h
      split at h
      · cases h
      · next ho => split at ho <;> cases ho
      · next ho =>
        split at ho
        · cases ho
        · cases ho; cases h; rfl
    · cases h
    · split at h <;> cases h

/-! ### The seal behind a write to host memory (22 R390) -/

theorem sealAfter_false (s : State) (o : Answer) : sealAfter s false o = o := by cases o <;> rfl

/-- Nothing is sealed behind an instruction that has not completed. -/
theorem sealAfter_of_iret {s t : State} (hit : Bool) (h : t.cur.log.iret = s.cur.log.iret) : sealAfter s hit (.next t) = .next t := by
  simp [sealAfter, h]

/-- The state that `sealAfter` leaves. -/
def State.sealedIf (t : State) (p : Bool) (core ctx : Nat) : State := if p then t.sealCtx core ctx 2 else t

theorem sealAfter_next (s : State) (hit : Bool) (t : State) :
    sealAfter s hit (.next t) = .next (t.sealedIf (hit && decide (t.cur.log.iret ≠ s.cur.log.iret)) s.focus.core s.focus.ctx) := by
  unfold sealAfter State.sealedIf
  dsimp only
  split <;> rfl

theorem Kept.sealedIf (t : State) (p : Bool) (core ctx : Nat) : Kept t (t.sealedIf p core ctx) := .ite (.sealCtx ..) (.refl t)

@[simp] theorem State.sealedIf_mem (t : State) (p : Bool) (core ctx : Nat) : (t.sealedIf p core ctx).mem = t.mem := by
  unfold State.sealedIf; split <;> simp

/-- A seal leaves the store buffer as it was. -/
theorem State.sbuf_sealCtx (s : State) (core ctx code : Nat) : ((s.sealCtx core ctx code).ctx core ctx).sbuf = (s.ctx core ctx).sbuf := by
  unfold State.sealCtx
  dsimp only
  split
  · rfl
  · rw [State.openWindow, State.openWindowIn, State.ctx_setCtx_same]
    show (((s.setCtx ..).ctx core ctx)).sbuf = _
    rw [State.ctx_setCtx_same]

theorem State.sbuf_sealedIf (t : State) (p : Bool) : (t.sealedIf p t.focus.core t.focus.ctx).cur.sbuf = t.cur.sbuf := by
  rw [State.cur, (Kept.sealedIf ..).focus]
  unfold State.sealedIf
  split
  · exact State.sbuf_sealCtx ..
  · rfl

/-! ### Stores (05 R97) -/

theorem RegsNow.buffer {s u : State} {x : Nat → Word} (h : RegsNow s u x) (kind : SbKind) (l n : Nat) (v : Word) : RegsNow s (u.buffer kind l n v) x := by
  unfold State.buffer
  exact h.modRest rfl ⟨rfl, rfl, rfl, rfl, rfl, rfl, rfl, rfl⟩

theorem Kept.logStore (s : State) (a l n : Nat) : Kept s (s.logStore a l n) := .logRec ..

theorem State.sbuf_logStore (s : State) (a l n : Nat) : (s.logStore a l n).cur.sbuf = s.cur.sbuf := by
  show (State.modCur s _).cur.sbuf = _
  rw [State.cur_modCur]

/-- The acting context's buffer after an entry, whatever the instruction leaves beside it. -/
theorem State.sbuf_buffer (s : State) (kind : SbKind) (l n : Nat) (v : Word) :
    (s.buffer kind l n v).cur.sbuf = s.cur.sbuf ++ [{ kind := kind, loc := l, size := n, value := v, iret := s.cur.log.iret }] := by
  unfold State.buffer
  exact congrArg Ctx.sbuf (State.cur_modCur ..)

theorem State.sbuf_retire (s : State) (pc : Word) : (s.retire pc).cur.sbuf = s.cur.sbuf := by rw [State.cur_retire]

theorem waits_of_finish {i : Instr} {s : State} {hit : Bool} (he : exec i s = sealAfter s hit (finish s (.wait s))) : Waits i s := by
  rw [Waits, he, finish_wait, sealAfter_of_iret]
  · rfl
  · rw [State.waitHere, State.cur_modCur]

theorem writesHost_of_ctxStoreAt_trap {s t : State} {a n c b : Nat} (h : s.ctxStoreAt a n = .trap t c b) : s.writesHost a n = false := by
  rw [State.writesHost, h]

theorem writesHost_of_ctxStoreAt_hole {s t : State} {a n : Nat} (h : s.ctxStoreAt a n = .hole t) : s.writesHost a n = false := by
  rw [State.writesHost, h]

/-- What a store does, whichever word it stands in. -/
theorem exec_of_storeOf {i : Instr} {s : State} {r a n : Nat} (h : storeOf i s = some (r, a, n)) :
    exec i s = sealAfter s (s.writesHost a n) (finish s (s.ctxStore a n ((s.x r).toNat % 256 ^ n))) := by
  unfold storeOf at h
  split at h
  case h_4 => cases h
  all_goals
    simp only [Option.some.injEq, Prod.mk.injEq] at h
    obtain ⟨rfl, rfl, rfl⟩ := h
    rfl

section
variable {i : Instr} {s : State} {r a n : Nat}

theorem store_buffers (h : storeOf i s = some (r, a, n)) {l : Nat} {u : State} (ht : storeTarget s a n = some (l, u)) (hroom : s.cur.sbuf.length < 16)
    (hlog : s.cur.log.blocks 1 = false) :
    ∃ t, exec i s = .next t ∧ RegsAfter s t s.x (s.cur.pc + 4) ∧ SameMemory u t ∧
      t.cur.sbuf = s.cur.sbuf ++ [{ kind := .store, loc := l, size := n, value := BitVec.ofNat 64 ((s.x r).toNat % 256 ^ n), iret := s.cur.log.iret }] := by
  have hu := storeTarget_cores ht
  have hfull : (s.bufferFull || s.cur.log.blocks 1) = false := by
    rw [hlog, State.bufferFull, Bool.or_false, decide_eq_false (by omega)]
  have he : exec i s = sealAfter s (s.writesHost a n) (finish s (.done ((u.logStore a l n).buffer .store l n (BitVec.ofNat 64 ((s.x r).toNat % 256 ^ n))))) := by
    rw [exec_of_storeOf h, State.ctxStore, result_of_storeTarget ht, hfull]
    rfl
  rw [he, finish_done, sealAfter_next]
  refine ⟨_, rfl, ?_, ?_, ?_⟩
  · exact regsAfter_kept (((RegsNow.of_cores hu).kept (.logStore ..)).buffer .. |>.retire _) (.sealedIf ..)
  · exact sameMemory_of_mem (State.sealedIf_mem ..)
  · have hf : (((u.logStore a l n).buffer .store l n (BitVec.ofNat 64 ((s.x r).toNat % 256 ^ n))).retire (s.cur.pc + 4)).focus = s.focus := hu.2
    rw [← hf, State.sbuf_sealedIf, State.sbuf_retire, State.sbuf_buffer, State.sbuf_logStore, (Kept.logStore u a l n).cur.iret, State.cur_of_cores hu]

theorem store_waits (h : storeOf i s = some (r, a, n)) {l : Nat} {u : State} (ht : storeTarget s a n = some (l, u))
    (hfull : 16 ≤ s.cur.sbuf.length ∨ s.cur.log.blocks 1 = true) : Waits i s := by
  have hfull' : (s.bufferFull || s.cur.log.blocks 1) = true := by
    rw [State.bufferFull, Bool.or_eq_true, decide_eq_true_eq]
    exact hfull
  refine waits_of_finish (hit := s.writesHost a n) ?_
  rw [exec_of_storeOf h, State.ctxStore, result_of_storeTarget ht, hfull']
  rfl

theorem store_hole (h : storeOf i s = some (r, a, n)) {u : State} (hh : s.ctxStoreAt a n = .hole u) :
    ∃ t, exec i s = .next t ∧ RegsAfter s t s.x (s.cur.pc + 4) ∧ SameMemory s t ∧ t.cur.sbuf = s.cur.sbuf := by
  obtain rfl := State.ctxStoreAt_hole hh
  refine ⟨_, ?_, ((RegsNow.refl s).recordSpor a).retire _, sameMemory_of_mem rfl, ?_⟩
  · rw [exec_of_storeOf h, State.ctxStore, hh, writesHost_of_ctxStoreAt_hole hh, sealAfter_false]
    rfl
  · rw [State.sbuf_retire, State.recordSpor_eq_modCur, State.cur_modCur, Ctx.sporAt_rest]

theorem store_traps (h : storeOf i s = some (r, a, n)) {c : Nat} (ht : s.ctxStoreAt a n = .trap s c a) : Traps i s c (trapInfo c a) := by
  rw [Traps, exec_of_storeOf h, State.ctxStore, ht, writesHost_of_ctxStoreAt_trap ht, sealAfter_false]
  rfl

end

/-! ### The oldest entry leaves the buffer (05 R88) -/

theorem State.perform_ctx_getX (s : State) (core ctx : Nat) (e : SbEntry) (k n r : Nat) :
    ((s.perform core ctx e).ctx k n).getX r = (s.ctx k n).getX r ∧ ((s.perform core ctx e).ctx k n).pc = (s.ctx k n).pc :=
  ⟨(Kept.perform ..).getX .., ((Kept.perform ..).ctx ..).pc_eq⟩

theorem State.mem_perform_store (s : State) (core ctx loc size : Nat) (value : Word) (iret : Nat) :
    (s.perform core ctx { kind := .store, loc := loc, size := size, value := value, iret := iret }).mem = (s.write loc size value.toNat).mem :=
  State.mem_writeFor ..

theorem State.mem_perform_release (s : State) (core ctx loc size : Nat) (value : Word) (iret : Nat) :
    (s.perform core ctx { kind := .release, loc := loc, size := size, value := value, iret := iret }).mem =
      (s.write loc 8 ((s.read loc 8 + 1) % 2 ^ 64)).mem :=
  State.mem_writeFor ..

theorem State.perform_ring (s : State) (core ctx loc size : Nat) (value : Word) (iret : Nat) :
    s.perform core ctx { kind := .ring, loc := loc, size := size, value := value, iret := iret } = s.modCore loc fun k => k.showEntry size value.toNat := rfl

theorem State.perform_signal (s : State) (core ctx loc : Nat) (value : Word) (iret : Nat) :
    s.perform core ctx { kind := .signal, loc := loc, size := 0, value := value, iret := iret } =
      (s.noteEvents (.write core ctx iret) (evwMark loc)).signal loc value.toNat := rfl

/-- The context behind its oldest entry: the entry is gone, and each outstanding load counts one less before it. -/
def Ctx.behind (c : Ctx) (rest : List SbEntry) : Ctx :=
  { c with sbuf := rest, loads := c.loads.map fun l => { l with mark := { l.mark with sbuf := l.mark.sbuf - 1 } } }

theorem State.drainOne_cons {s : State} {core ctx : Nat} {e : SbEntry} {rest : List SbEntry} (h : (s.ctx core ctx).sbuf = e :: rest) :
    s.drainOne core ctx = (s.perform core ctx e).modCtx core ctx fun c => c.behind rest := by
  rw [State.drainOne, h]
  rfl

theorem State.getX_drainOne {s : State} {core ctx : Nat} {e : SbEntry} {rest : List SbEntry} (h : (s.ctx core ctx).sbuf = e :: rest) (k n r : Nat) :
    ((s.drainOne core ctx).ctx k n).getX r = (s.ctx k n).getX r ∧ ((s.drainOne core ctx).ctx k n).pc = (s.ctx k n).pc := by
  rw [State.drainOne_cons h]
  by_cases hk : k = core ∧ n = ctx
  · rw [hk.1, hk.2, State.ctx_modCtx_same]
    exact s.perform_ctx_getX core ctx e core ctx r
  · rw [State.ctx_modCtx_other _ _ _ _ _ _ hk]
    exact s.perform_ctx_getX core ctx e k n r

theorem State.ring_modCtx (s : State) (c n : Nat) (f : Ctx → Ctx) (k z : Nat) : ((s.modCtx c n f).core k).ring z = (s.core k).ring z := by
  rw [State.core_modCtx]; rfl

theorem State.evw_modCtx (s : State) (c n : Nat) (f : Ctx → Ctx) (k : Nat) : ((s.modCtx c n f).core k).evw = (s.core k).evw := by
  rw [State.core_modCtx]

/-- Settles O7: a store's address is told apart by `ctxStoreAt`, and the oldest entry is performed by `perform`. -/
theorem storesWriteTheirBytes : Obligations.StoresWriteTheirBytes := by
  refine ⟨fun i s r a n h => ⟨fun l u ht hroom hlog => store_buffers h ht hroom hlog, fun l u ht hfull => store_waits h ht hfull,
    fun u hh => store_hole h hh, fun ha => store_traps h (s.ctxStoreAt_misaligned a n ha), fun ha hf => store_traps h (State.ctxStoreAt_fault ha hf),
    fun ha hf => store_traps h (State.ctxStoreAt_fault ha hf)⟩, fun s core ctx e rest h hl => ⟨s.drainOne core ctx, ?_, ?_, State.getX_drainOne h, ?_⟩⟩
  · show Host.Outcome.next _ = _
    rw [if_neg]
    simpa using hl
  · rw [State.drainOne_cons h, State.ctx_modCtx_same]
    rfl
  · rw [State.drainOne_cons h]
    obtain ⟨kind, loc, size, value, iret⟩ := e
    refine ⟨?_, ?_, ?_, ?_⟩
    · rintro rfl
      exact holds_of_write (by rw [State.modCtx_mem, State.mem_perform_store])
    · rintro rfl
      exact holds_of_write (by rw [State.modCtx_mem, State.mem_perform_release])
    · rintro rfl
      rw [State.perform_ring]
      refine ⟨sameMemory_of_mem (by rw [State.modCtx_mem, State.modCore_mem]), ?_⟩
      rw [State.ring_modCtx, State.core_modCore_same, Core.showEntry, Core.ring, Core.setRing, Tbl.get_set_same]
      exact ⟨rfl, rfl⟩
    · rintro rfl rfl
      rw [State.perform_signal]
      refine ⟨sameMemory_of_mem (by rw [State.modCtx_mem, State.signal, State.modCore_mem, State.noteEvents_mem]), ?_⟩
      rw [State.evw_modCtx]
      exact congrArg Core.evw (State.core_modCore_same ..)

end Sys2Proof.Machine

/-! # Atomics, fences and release objects (05 R99 to R105) -/

namespace Sys2Proof.Machine
open Sys2Proof Sys2Proof.Spec

/-! ### What is left of the store buffer -/

theorem Kept.sbuf_nil {s t : State} (h : Kept s t) (hs : s.cur.sbuf = []) : t.cur.sbuf = [] := h.cur.sbuf.elim (·.trans hs) id

theorem State.sbuf_release (s : State) : s.release.cur.sbuf = [] := by
  rw [State.cur, (Kept.release s).focus, State.release, State.drain, State.ctx_modCtx_same]

theorem State.sbuf_setX (s : State) (d : Nat) (v : Word) : (s.setX d v).cur.sbuf = s.cur.sbuf := by
  rw [State.setX, State.cur_modCur, Ctx.setX_sbuf]

/-! ### Atomics (05 R99) -/

/-- Whether an atomic writes what it has read. -/
def State.amoWrites (s : State) (a n : Nat) (f : Nat → Option Nat) : Bool :=
  match s.amoRead a n with
  | .ok old _ => (f old).isSome
  | _ => false

theorem two_pow_eight_mul (n : Nat) : 2 ^ (8 * n) = 256 ^ n := Nat.pow_mul ..

/-- The table of 05 R99 is what the model does. -/
theorem exec_of_r99 {i : Instr} {s : State} {d a n : Nat} {g : Guard} {f : Nat → Option Nat} (h : r99 i s = some (d, a, n, g, f))
    (hr : s.cur.log.replay = none) :
    exec i s = sealAfter s (s.holds g && s.amoWrites a n f && s.writesHost a n) (guarded s g (s.amo d a n f)) := by
  have hr' : s.replaying = false := by rw [State.replaying, hr]; rfl
  unfold r99 at h
  dsimp only at h
  split at h
  case h_7 => cases h
  all_goals
    simp only [Option.some.injEq, Prod.mk.injEq] at h
    obtain ⟨rfl, rfl, rfl, rfl, rfl⟩ := h
    simp only [exec, execAmoadd, execAmoand, execAmoor, execAmomax, execAmoswp, execAmocas, atomic, hr', Bool.false_eq_true, if_false, two_pow_eight_mul]
    rfl

section
variable {i : Instr} {s : State} {d a n : Nat} {g : Guard} {f : Nat → Option Nat}

theorem State.amoRead_of_writable (h : s.readOnly a = false) : s.amoRead a n = s.ctxRead a n := by
  rw [State.amoRead, if_neg (by simp [h])]

theorem State.amoRead_misaligned (h : a % n ≠ 0) : s.amoRead a n = .trap s 0x03 a := by
  rw [State.amoRead, if_neg (by simp [h]), s.ctxRead_misaligned a n h]

theorem State.amoRead_readOnly (h : a % n = 0) (hr : s.readOnly a = true) : s.amoRead a n = .trap s 0x04 a := by
  rw [State.amoRead, if_pos ⟨h, hr⟩]

theorem atomic_traps (h : r99 i s = some (d, a, n, g, f)) (hr : s.cur.log.replay = none) (hg : s.holds g = true) {c : Nat}
    (ht : s.amoRead a n = .trap s c a) : Traps i s c (trapInfo c a) := by
  rw [Traps, exec_of_r99 h hr, State.amoWrites, ht, Bool.and_false, Bool.false_and, sealAfter_false, guarded_on _ _ _ hg, State.amo, ht]
  rfl

/-- An atomic that writes nothing: one that does not match, or out of range. -/
theorem exec_atomic_of_not_writes (h : r99 i s = some (d, a, n, g, f)) (hr : s.cur.log.replay = none) (hg : s.holds g = true)
    (hw : s.amoWrites a n f = false) : exec i s = finish s (s.amo d a n f) := by
  rw [exec_of_r99 h hr, hw, Bool.and_false, Bool.false_and, sealAfter_false, guarded_on _ _ _ hg]

theorem atomic_hole (h : r99 i s = some (d, a, n, g, f)) (hr : s.cur.log.replay = none) (hg : s.holds g = true)
    (hh : s.amoRead a n = .hole (s.recordSpor s.focus.core s.focus.ctx a)) :
    ∃ t, exec i s = .next t ∧ RegsAfter s t (putX s d 0) (s.cur.pc + 4) ∧ SameMemory s t := by
  rw [exec_atomic_of_not_writes h hr hg (by rw [State.amoWrites, hh]), State.amo, hh]
  exact ⟨_, rfl, ((((RegsNow.refl s).recordSpor a).setX d 0).kept (.logFrom _ .other 0)).retire _, sameMemory_of_mem (by simp)⟩

theorem atomic_unmatched (h : r99 i s = some (d, a, n, g, f)) (hr : s.cur.log.replay = none) (hg : s.holds g = true) {old : Nat}
    (ho : s.amoRead a n = .ok old s) (hf : f old = none) :
    ∃ t, exec i s = .next t ∧ Completed s t (putX s d (extend n old)) s.p s.cur.getC (entered s (extend n old) (s.supplierAt a n)) (s.cur.pc + 4) := by
  have hw : s.amoWrites a n f = false := by
    rw [State.amoWrites, ho]
    exact congrArg Option.isSome hf
  refine ⟨_, ?_, completed_setX_logFrom ..⟩
  rw [exec_atomic_of_not_writes h hr hg hw, State.amo, ho]
  dsimp only
  rw [hf]
  rfl

/-- The state of an atomic behind its write, before its register. -/
def State.amoWritten (s u : State) (a l n new : Nat) : State :=
  ((u.logStore a l n).release).writeFor s.focus.core s.focus.ctx s.cur.log.iret l n new

theorem Kept.amoWritten (s u : State) (a l n new : Nat) : Kept u (s.amoWritten u a l n new) := by
  unfold State.amoWritten
  exact ((Kept.logStore ..).trans (.release ..)).trans (.writeFor ..)

theorem State.mem_amoWritten (s u : State) (a l n new : Nat) : (s.amoWritten u a l n new).mem = (u.release.write l n new).mem := by
  rw [State.amoWritten, State.mem_writeFor]
  exact State.write_mem_congr (State.release_mem_congr (State.logRec_mem ..) (State.sbuf_logStore ..)) ..

theorem State.sbuf_amoWritten (s u : State) (a l n new : Nat) : (s.amoWritten u a l n new).cur.sbuf = [] := by
  unfold State.amoWritten
  exact (Kept.writeFor ..).sbuf_nil (State.sbuf_release _)

theorem State.amoWrite_some {l new : Nat} {u : State} (v : Word) (src : InputSrc) (ht : storeTarget s a n = some (l, u))
    (hb : s.cur.log.blocks 1 = false) :
    s.amoWrite d a n v src (some new) = .done (((s.amoWritten u a l n new).setX d v).logFrom src v) := by
  rw [State.amoWrite, hb, State.ctxWriteNow, result_of_storeTarget ht]
  rfl

theorem atomic_writes (h : r99 i s = some (d, a, n, g, f)) (hr : s.cur.log.replay = none) (hg : s.holds g = true) {old new l : Nat} {u : State}
    (ho : s.amoRead a n = .ok old s) (hf : f old = some new) (ht : storeTarget s a n = some (l, u)) (hb : s.cur.log.blocks 1 = false) :
    ∃ t, exec i s = .next t ∧ RegsAfter s t (putX s d (extend n old)) (s.cur.pc + 4) ∧ Holds t l n new ∧ SameOutside u.release t l n ∧ t.cur.sbuf = [] := by
  rw [exec_of_r99 h hr, guarded_on _ _ _ hg, State.amo, ho]
  dsimp only
  rw [hf, State.amoWrite_some _ _ ht hb, finish_done, sealAfter_next]
  refine ⟨_, rfl, ?_, ?_⟩
  · exact regsAfter_kept (((((RegsNow.of_cores (storeTarget_cores ht)).kept (.amoWritten s u a l n new)).setX d (extend n old)).kept (.logFrom ..)).retire _)
      (.sealedIf ..)
  · rw [← and_assoc]
    refine ⟨holds_of_write (by simp [State.mem_amoWritten]), (Kept.sealedIf ..).sbuf_nil ?_⟩
    rw [State.sbuf_retire]
    exact (Kept.logFrom ..).sbuf_nil (by rw [State.sbuf_setX, State.sbuf_amoWritten])

end

/-- Settles O8: an atomic's read is told apart by `amoRead`; its write is made behind the earlier stores. -/
theorem atomicsReadModifyWrite : Obligations.AtomicsReadModifyWrite := by
  intro i s d a n g f h hr
  refine ⟨fun hg => ?_, fun hg ha => atomic_traps h hr hg (State.amoRead_misaligned ha), fun hg ha ho => atomic_traps h hr hg (State.amoRead_readOnly ha ho),
    fun hg ha ho hh hs => ?_, fun l hg ho hread => ?_⟩
  · refine passesOver_of_done ?_
    rw [exec_of_r99 h hr, hg, Bool.false_and, Bool.false_and, sealAfter_false, guarded, hg]
    rfl
  · exact atomic_hole h hr hg (by rw [State.amoRead_of_writable ho, s.ctxRead_hole a n ha hh, s.outOfRange_plain a hs])
  · have hok : s.amoRead a n = .ok (seenAt s l n) s := by rw [State.amoRead_of_writable ho, State.ctxRead_of_readable hread]
    exact ⟨fun hf => atomic_unmatched h hr hg hok hf, fun new l2 u hf ht hb => atomic_writes h hr hg hok hf ht hb⟩

/-! ### Fences and release objects (05 R101 to R105) -/

theorem RegsNow.fenceCode {s u : State} {x : Nat → Word} (h : RegsNow s u x) (n : Nat) : RegsNow s (u.modCur fun c => c.fenceCode n) x :=
  h.modRest rfl ⟨rfl, rfl, rfl, rfl, rfl, rfl, rfl, rfl⟩

theorem fence_performs (s : State) (scope : Nat) {g : Guard} (hg : s.holds g = true) :
    ∃ t, exec (.fence scope g) s = .next t ∧ RegsAfter s t s.x (s.cur.pc + 4) ∧ SameMemory s.release t ∧ t.cur.sbuf = [] := by
  have hk := (RegsNow.refl s).kept (.release s)
  have he : exec (.fence scope g) s =
      finish s (.done (if 1 ≤ scope then s.release.modCur fun c => c.fenceCode s.release.overwritten.length else s.release)) := guarded_on _ _ _ hg
  rw [he, finish_done]
  refine ⟨_, rfl, ?_⟩
  split
  · refine ⟨(hk.fenceCode _).retire _, sameMemory_of_mem (by simp), ?_⟩
    rw [State.sbuf_retire, State.cur_modCur]
    exact s.sbuf_release
  · exact ⟨hk.retire _, sameMemory_of_mem (by simp), by rw [State.sbuf_retire, State.sbuf_release]⟩

/-- What REL does where it reads and finds a place for its increment. -/
theorem exec_rel {s u : State} {ra l l2 : Nat} (scope : Nat) {g : Guard} (hg : s.holds g = true) (hr : s.cur.log.replay = none)
    (ho : s.readOnly (s.x ra).toNat = false) (hread : Readable s (s.x ra).toNat 8 l) (ht : storeTarget s (s.x ra).toNat 8 = some (l2, u)) :
    exec (.rel ra scope g) s = sealAfter s (s.writesHost (s.x ra).toNat 8) (finish s (if s.bufferFull then .wait s else .done (u.buffer .release l2 8 0))) := by
  have hr' : s.replaying = false := by rw [State.replaying, hr]; rfl
  have hok : s.amoRead (s.x ra).toNat 8 = .ok (seenAt s l 8) s := by rw [State.amoRead_of_writable ho, State.ctxRead_of_readable hread]
  show execRel ra scope g s = _
  rw [execRel, hok, hr', hg, guarded_on _ _ _ hg]
  dsimp only
  rw [result_of_storeTarget ht]
  rfl

theorem rel_buffers {s u : State} {ra l l2 : Nat} (scope : Nat) {g : Guard} (hg : s.holds g = true) (hr : s.cur.log.replay = none)
    (ho : s.readOnly (s.x ra).toNat = false) (hread : Readable s (s.x ra).toNat 8 l) (ht : storeTarget s (s.x ra).toNat 8 = some (l2, u))
    (hroom : s.cur.sbuf.length < 16) :
    ∃ t, exec (.rel ra scope g) s = .next t ∧ RegsAfter s t s.x (s.cur.pc + 4) ∧ SameMemory u t ∧
      t.cur.sbuf = s.cur.sbuf ++ [{ kind := .release, loc := l2, size := 8, value := 0, iret := s.cur.log.iret }] := by
  have hu := storeTarget_cores ht
  have hfull : s.bufferFull = false := decide_eq_false (by omega)
  rw [exec_rel scope hg hr ho hread ht, hfull, if_neg Bool.false_ne_true, finish_done, sealAfter_next]
  refine ⟨_, rfl, regsAfter_kept (((RegsNow.of_cores hu).buffer ..).retire _) (.sealedIf ..), sameMemory_of_mem (State.sealedIf_mem ..), ?_⟩
  have hf : ((u.buffer .release l2 8 0).retire (s.cur.pc + 4)).focus = s.focus := hu.2
  rw [← hf, State.sbuf_sealedIf, State.sbuf_retire, State.sbuf_buffer, State.cur_of_cores hu]

theorem State.core_modHere (s : State) (f : Core → Core) : (s.modHere f).here = f s.here := State.core_modCore_same ..

theorem State.here_retire (s : State) (pc : Word) : (s.retire pc).here = { s.here with ctxs := (s.retire pc).here.ctxs } := State.core_retire ..

theorem Core.bindTo_ctxs (k : Core) (obj base len : Nat) : (k.bindTo obj base len).ctxs = k.ctxs := by
  unfold Core.bindTo
  split
  · rfl
  · split
    · rfl
    · split <;> rfl

/-- The bind table of 05 R103. -/
theorem Core.bound_bindTo (k : Core) (obj base len : Nat) : Bound k (k.bindTo obj base len) obj base len where
  gone h := by
    rw [Core.bindTo, if_pos h]
    exact ⟨fun e => by simp, fun o => by simp⟩
  room h hl := by
    rw [← bindEntries] at hl
    rw [Core.bindTo, if_neg h, if_pos hl]
    exact ⟨rfl, rfl⟩
  full h hl := by
    rw [Core.bindTo, if_neg h, if_neg (by rw [bindEntries]; omega)]
    split
    · next hc => exact ⟨rfl, by simpa using hc⟩
    · exact ⟨rfl, by simp⟩

theorem bind_binds (s : State) (rd ra rb : Nat) {g : Guard} (hg : s.holds g = true) :
    ∃ t, exec (.bind rd ra rb g) s = .next t ∧ RegsAfter s t s.x (s.cur.pc + 4) ∧ SameMemory s t ∧
      Bound s.here t.here (flatten s.focus.core (s.x ra).toNat) (s.x rb).toNat (s.x rd).toNat := by
  refine ⟨_, (guarded_on _ _ _ hg).trans (finish_done ..), ((RegsNow.refl s).modHere (Core.bindTo_ctxs ..)).retire _, sameMemory_of_mem rfl, ?_⟩
  obtain ⟨hgone, hroom, hfull⟩ := s.here.bound_bindTo (flatten s.focus.core (s.x ra).toNat) (s.x rb).toNat (s.x rd).toNat
  rw [State.here_retire, State.core_modHere]
  exact ⟨hgone, hroom, hfull⟩

/-- Settles O9: FENCE drains the buffer, ACQ reads, REL buffers its increment, BIND changes the core's table. -/
theorem fencesAndReleaseObjects : Obligations.FencesAndReleaseObjects := by
  refine ⟨fun s scope g hg => fence_performs s scope hg, fun s ra scope g l hg hread => passesOver_of_done ?_,
    fun s ra scope g l l2 u hg hr ho hread ht => ⟨rel_buffers scope hg hr ho hread ht, fun hfull => waits_of_finish (hit := s.writesHost (s.x ra).toNat 8) ?_⟩,
    fun s rd ra rb g hg => bind_binds s rd ra rb hg, fun s g scope ra rb rd hg =>
      ⟨passesOver_of_off rfl hg, passesOver_of_off rfl hg, passesOver_of_done ?_, passesOver_of_off rfl hg⟩⟩
  · show execAcq ra scope g s = _
    rw [execAcq, guarded_on _ _ _ hg, State.ctxRead_of_readable hread]
    rfl
  · rw [exec_rel scope hg hr ho hread ht, State.bufferFull, decide_eq_true hfull]
    rfl
  · show execRel ra scope g s = _
    rw [execRel, hg, Bool.false_and, Bool.false_and, sealAfter_false, guarded, hg]
    rfl

end Sys2Proof.Machine

/-! # Result queues, rings and tokens (05 R109 to R111, 10 R237) -/

namespace Sys2Proof.Machine
open Sys2Proof Sys2Proof.Spec

/-! ### Instructions outside a replay (22 R393) -/

theorem State.replaying_of_live {s : State} (h : s.cur.log.replay = none) : s.replaying = false := by rw [State.replaying, h]; rfl

theorem withInput_of_live {s : State} (h : s.cur.log.replay = none) (rd : Nat) (r : CtxRes) : withInput s rd r = r := by
  rw [withInput, State.replaying_of_live h]
  rfl

/-- A guarded instruction outside a replay, its guard holding. -/
theorem guarded_withInput {s : State} {g : Guard} (hg : s.holds g = true) (hr : s.cur.log.replay = none) (rd : Nat) (r : CtxRes) :
    guarded s g (withInput s rd r) = finish s r := by rw [guarded_on _ _ _ hg, withInput_of_live hr]

/-! ### The acting core behind a change of the acting context -/

theorem State.here_modCur (s : State) (f : Ctx → Ctx) : (s.modCur f).here = { s.here with ctxs := (s.modCur f).here.ctxs } := State.core_modCur ..

/-- A value that an instruction takes out of the acting core enters a register: what is left of the core. -/
theorem State.here_taken (s : State) (f : Core → Core) (d : Nat) (v : Word) (src : InputSrc) (pc : Word) :
    ∃ cs, ((((s.modHere f).setX d v).logFrom src v).retire pc).here = { f s.here with ctxs := cs } := by
  have h1 := State.here_modCur (s.modHere f) fun c => c.setX d v
  have h2 := State.here_modCur ((s.modHere f).setX d v) fun c => { c with log := c.log.append 6 0 c.log.iret [v] c.pc src }
  have h3 := State.here_retire (((s.modHere f).setX d v).logFrom src v) pc
  exact ⟨_, h3.trans (by rw [State.logFrom, h2, State.setX, h1, State.core_modHere])⟩

theorem regsAfter_taken (s : State) {f : Core → Core} (hf : (f s.here).ctxs = s.here.ctxs) (d : Nat) (v : Word) (src : InputSrc) (pc : Word) :
    RegsAfter s ((((s.modHere f).setX d v).logFrom src v).retire pc) (putX s d v) pc :=
  ((((RegsNow.refl s).modHere hf).setX d v).kept (.logFrom ..)).retire _

theorem mem_taken (s : State) (f : Core → Core) (d : Nat) (v : Word) (src : InputSrc) (pc : Word) :
    ((((s.modHere f).setX d v).logFrom src v).retire pc).mem = s.mem := by simp

/-! ### Result queues (05 R109, R110) -/

theorem fpop_takes {s : State} (rd : Nat) {c : Nat} {g : Guard} {v : Word} {vs : List Word} (hg : s.holds g = true) (hr : s.cur.log.replay = none)
    (h : s.here.resultsOf c = v :: vs) :
    ∃ t, exec (.fpop rd c g) s = .next t ∧ RegsAfter s t (putX s rd v) (s.cur.pc + 4) ∧ SameMemory s t ∧ t.here.resultsOf c = vs ∧
      ∀ c', c' ≠ c → t.here.resultsOf c' = s.here.resultsOf c' := by
  have he : exec (.fpop rd c g) s = finish s (.done (((s.modHere fun k => { k with results := Tbl.set [] k.results c vs }).setX rd v).logFrom
      (.result s.focus.core c (bitsOf v.toNat 63 32)) v)) := by
    show execFpop rd c g s = _
    rw [execFpop, guarded_withInput hg hr, h]
  obtain ⟨cs, hh⟩ := s.here_taken (fun k => { k with results := Tbl.set [] k.results c vs }) rd v (.result s.focus.core c (bitsOf v.toNat 63 32)) (s.cur.pc + 4)
  refine ⟨_, he.trans (finish_done ..), regsAfter_taken s rfl .., sameMemory_of_mem (mem_taken ..), ?_, fun c' hc => ?_⟩
  · rw [hh]
    exact Tbl.get_set_same ..
  · rw [hh]
    exact Tbl.get_set_other _ _ _ _ _ hc

theorem fpop_waits {s : State} (rd : Nat) {c : Nat} {g : Guard} (hg : s.holds g = true) (hr : s.cur.log.replay = none) (h : s.here.resultsOf c = []) :
    Waits (.fpop rd c g) s := by
  show execFpop rd c g s = _
  rw [execFpop, guarded_withInput hg hr, h]
  rfl

/-- The one held element of a queue with room is appended. -/
theorem Core.appendHeld_one {k : Core} {c : Nat} {e : Word} (hh : k.held = [{ source := c, elem := e }]) (hl : (k.resultsOf c).length < 16) :
    k.appendHeld c = { k with results := Tbl.set [] k.results c (k.resultsOf c ++ [e]), held := [] } := by
  simp [Core.appendHeld, hh, hl]

/-! ### Rings (05 R111) -/

theorem Core.ring_setRing (k : Core) (z : Nat) (r : Ring) : (k.setRing z r).ring z = r := Tbl.get_set_same ..

/-- A context at the end of a ring that it does not own (05 R111). -/
theorem zpop_refused {s : State} (rd : Nat) {z : Nat} {g : Guard} (hg : s.holds g = true) (hr : s.cur.log.replay = none)
    (h : (s.here.ring z).depth = 0 ∨ (s.here.ring z).cons ≠ s.focus.ctx) : Traps (.zpop rd z g) s 0x02 0 := by
  show execZpop rd z g s = _
  rw [execZpop, guarded_withInput hg hr, if_pos h]
  rfl

theorem zpop_waits {s : State} (rd : Nat) {z : Nat} {g : Guard} (hg : s.holds g = true) (hr : s.cur.log.replay = none)
    (hd : (s.here.ring z).depth ≠ 0) (hc : (s.here.ring z).cons = s.focus.ctx) (h : (s.here.ring z).entries = [] ∨ (s.here.ring z).visible ≤ (s.here.ring z).pops) :
    Waits (.zpop rd z g) s := by
  have hready : (s.here.ring z).ready = false := by
    rcases h with h | h
    · simp [Ring.ready, h]
    · rw [Ring.ready, decide_eq_false (by omega), Bool.false_and]
  show execZpop rd z g s = _
  rw [execZpop, guarded_withInput hg hr, if_neg (by simp [hd, hc]), hready]
  rfl

theorem zpop_takes {s : State} (rd : Nat) {z : Nat} {g : Guard} {v : Word} {vs : List Word} (hg : s.holds g = true) (hr : s.cur.log.replay = none)
    (hd : (s.here.ring z).depth ≠ 0) (hc : (s.here.ring z).cons = s.focus.ctx) (h : (s.here.ring z).entries = v :: vs)
    (hv : (s.here.ring z).pops < (s.here.ring z).visible) :
    ∃ t, exec (.zpop rd z g) s = .next t ∧ RegsAfter s t (putX s rd v) (s.cur.pc + 4) ∧ SameMemory s t ∧
      t.here.ring z = { s.here.ring z with entries := vs, pops := (s.here.ring z).pops + 1 } := by
  have hready : (s.here.ring z).ready = true := by simp [Ring.ready, h, hv]
  have he : exec (.zpop rd z g) s = finish s (.done (((s.modHere fun k => k.setRing z (s.here.ring z).pop).setX rd v).logFrom
      (.ring s.focus.core z (s.here.ring z).pops) v)) := by
    show execZpop rd z g s = _
    rw [execZpop, guarded_withInput hg hr, if_neg (by simp [hd, hc]), hready, h]
    rfl
  obtain ⟨cs, hh⟩ := s.here_taken (fun k => k.setRing z (s.here.ring z).pop) rd v (.ring s.focus.core z (s.here.ring z).pops) (s.cur.pc + 4)
  refine ⟨_, he.trans (finish_done ..), regsAfter_taken s rfl .., sameMemory_of_mem (mem_taken ..), ?_⟩
  rw [hh]
  refine (Core.ring_setRing ..).trans ?_
  rw [Ring.pop, h]
  rfl

/-- What ZPUSH does where it owns the ring's producer end. -/
theorem exec_zpush {s : State} {z : Nat} (rb : Nat) {g : Guard} (hg : s.holds g = true) (hr : s.cur.log.replay = none) (hd : (s.here.ring z).depth ≠ 0)
    (hp : (s.here.ring z).prod = s.focus.ctx) :
    exec (.zpush z rb g) s = finish s (if (s.here.ring z).full || s.bufferFull then .wait s
      else .done ((s.modHere fun k => k.setRing z ((s.here.ring z).push (s.x rb) false)).buffer .ring s.focus.core z (BitVec.ofNat 64 (s.here.ring z).pushes))) := by
  show execZpush z rb g s = _
  rw [execZpush, guarded_on _ _ _ hg, if_neg (by simp [hd, hp]), State.replaying_of_live hr]
  rfl

theorem zpush_refused {s : State} {z : Nat} (rb : Nat) {g : Guard} (hg : s.holds g = true)
    (h : (s.here.ring z).depth = 0 ∨ (s.here.ring z).prod ≠ s.focus.ctx) : Traps (.zpush z rb g) s 0x02 0 := by
  show execZpush z rb g s = _
  rw [execZpush, guarded_on _ _ _ hg, if_pos h]
  rfl

theorem zpush_waits {s : State} {z : Nat} (rb : Nat) {g : Guard} (hg : s.holds g = true) (hr : s.cur.log.replay = none) (hd : (s.here.ring z).depth ≠ 0)
    (hp : (s.here.ring z).prod = s.focus.ctx) (h : (s.here.ring z).depth ≤ (s.here.ring z).pushes - (s.here.ring z).pops ∨ 16 ≤ s.cur.sbuf.length) :
    Waits (.zpush z rb g) s := by
  have hfull : ((s.here.ring z).full || s.bufferFull) = true := by
    rw [Ring.full, State.bufferFull, Bool.or_eq_true, decide_eq_true_eq, decide_eq_true_eq]
    exact h
  rw [Waits, exec_zpush rb hg hr hd hp, hfull]
  rfl

/-- The entry that a push reserves, where the ring is so long (10 R247). -/
theorem Ring.entries_push (r : Ring) (v : Word) (seen : Bool) (h : r.pops ≤ r.pushes) :
    (r.push v seen).entries[r.pushes - r.pops]? = if r.pushes - r.pops ≤ r.entries.length then some v else none := by
  simp only [Ring.push, if_neg (Nat.not_lt.mpr h)]
  split
  · next hi => rw [if_pos hi.le, List.getElem?_set_self hi]
  · next hi =>
    split
    · next hle => rw [show r.pushes - r.pops = r.entries.length by omega, List.getElem?_concat_length]
    · next hle => rw [List.getElem?_eq_none]; simp; omega

/-- The entries before it stand. -/
theorem Ring.entries_push_before (r : Ring) (v : Word) (seen : Bool) {i : Nat} (hi : i < r.pushes - r.pops) (hl : i < r.entries.length) :
    (r.push v seen).entries[i]? = r.entries[i]? := by
  simp only [Ring.push, if_neg (show ¬r.pushes < r.pops by omega)]
  split
  · exact List.getElem?_set_ne (by omega)
  · exact List.getElem?_append_left hl

theorem State.cur_modHere (s : State) {f : Core → Core} (h : (f s.here).ctxs = s.here.ctxs) : (s.modHere f).cur = s.cur := by
  show ((s.modHere f).here).ctx s.focus.ctx = s.here.ctx s.focus.ctx
  rw [State.core_modHere, Core.ctx, Core.ctx, h]

theorem zpush_reserves {s : State} {z : Nat} (rb : Nat) {g : Guard} (hg : s.holds g = true) (hr : s.cur.log.replay = none) (hd : (s.here.ring z).depth ≠ 0)
    (hp : (s.here.ring z).prod = s.focus.ctx) (hroom : (s.here.ring z).pushes - (s.here.ring z).pops < (s.here.ring z).depth) (hb : s.cur.sbuf.length < 16) :
    ∃ t, exec (.zpush z rb g) s = .next t ∧ RegsAfter s t s.x (s.cur.pc + 4) ∧ SameMemory s t ∧
      t.cur.sbuf = s.cur.sbuf ++ [{ kind := .ring, loc := s.focus.core, size := z, value := BitVec.ofNat 64 (s.here.ring z).pushes, iret := s.cur.log.iret }] ∧
      t.here.ring z = (s.here.ring z).push (s.x rb) false := by
  have hfull : ((s.here.ring z).full || s.bufferFull) = false := by
    rw [Ring.full, State.bufferFull, decide_eq_false (by omega), decide_eq_false (by omega), Bool.or_false]
  have hcur := s.cur_modHere (f := fun k => k.setRing z ((s.here.ring z).push (s.x rb) false)) rfl
  rw [exec_zpush rb hg hr hd hp, hfull, if_neg Bool.false_ne_true, finish_done]
  refine ⟨_, rfl, ((((RegsNow.refl s).modHere rfl).buffer ..).retire _), sameMemory_of_mem (by simp), ?_, ?_⟩
  · rw [State.sbuf_retire, State.sbuf_buffer, hcur]
  · rw [State.here_retire, State.buffer, State.here_modCur, State.core_modHere]
    exact Core.ring_setRing ..

theorem Core.token_setToken_same (k : Core) (q n : Nat) : (k.setToken q n).token q = n := Tbl.get_set_same ..

theorem Core.token_setToken_other (k : Core) {q r : Nat} (n : Nat) (h : r ≠ q) : (k.setToken q n).token r = k.token r := Tbl.get_set_other _ _ _ _ _ h

/-- Settles O11: each queue and ring instruction has its cases, and the pushed ring's entries are told by `Ring.push`. -/
theorem queuesAndRings : Obligations.QueuesAndRings := by
  refine ⟨fun s rd c g v vs hg hr h => fpop_takes rd hg hr h, fun s rd c g hg hr h => fpop_waits rd hg hr h,
    fun s rd z g v vs hg hr hd hc h hv => zpop_takes rd hg hr hd hc h hv,
    fun s rd z g hg hr => ⟨zpop_refused rd hg hr, zpop_waits rd hg hr⟩,
    fun s z rb g hg hr => ⟨zpush_refused rb hg, zpush_waits rb hg hr, fun hd hp hroom hb => ?_⟩, fun s core c e hh hl => ?_, fun s core q n hn ht => ?_,
    fun s core ctx hs hl hw => if_pos ⟨hs, hl, hw⟩⟩
  · obtain ⟨t, he, hregs, hmem, hsb, hring⟩ := zpush_reserves rb hg hr hd hp hroom hb
    refine ⟨t, he, hregs, hmem, hsb, ?_⟩
    rw [hring]
    exact ⟨rfl, rfl, rfl, fun h => Ring.entries_push _ _ _ h, fun i hi hl => Ring.entries_push_before _ _ _ hi hl⟩
  · refine ⟨_, rfl, ?_, ?_, sameMemory_of_mem (by simp)⟩
    · rw [State.core_modCore_same, Core.appendHeld_one hh hl]
      exact Tbl.get_set_same ..
    · rw [State.core_modCore_same, Core.appendHeld_one hh hl]
  · refine ⟨_, if_pos ⟨by omega, ht⟩, ?_, ?_, sameMemory_of_mem rfl⟩
    · rw [State.core_setCore_same]
      exact Core.token_setToken_same (s.core core) q ((s.core core).token q + 1)
    · rw [State.core_setCore_same, hn]
      exact Tbl.get_set_same (0 : Nat) (s.core core).deferred q n

end Sys2Proof.Machine

/-! # Windows that an instruction opens (05 R118, 22 R382, R385) -/

namespace Sys2Proof.Machine
open Sys2Proof Sys2Proof.Spec

/-! ### What an instruction does to windows as of the next one (22 R382) -/

/-- The acting context as of the next instruction, and back. -/
def Ctx.stepped (c : Ctx) : Ctx := { c with pc := c.pc + 4, log := { c.log with iret := c.log.iret + 1 } }
def Ctx.counted (c : Ctx) : Ctx := { c with log := { c.log with iret := c.log.iret - 1 } }

theorem State.ahead_eq (s : State) (f : State → State) : s.ahead f = (f (s.modCur Ctx.stepped)).modCur Ctx.counted := rfl

theorem RegsNow.ahead {s u : State} {x : Nat → Word} (h : RegsNow s u x) {f : State → State} (hf : ∀ t, Kept t (f t)) : RegsNow s (u.ahead f) x := by
  rw [State.ahead_eq]
  refine ((h.modRest rfl ?_).kept (hf _)).modRest rfl ?_ <;> exact ⟨rfl, rfl, rfl, rfl, rfl, rfl, rfl, rfl⟩

theorem State.ahead_mem (s : State) {f : State → State} (hf : ∀ t, (f t).mem = t.mem) : (s.ahead f).mem = s.mem := by
  rw [State.ahead_eq, State.modCur_mem, hf, State.modCur_mem]

/-! ### The window that opens (22 R385) -/

/-- The log m of a context that was c holds the window that an opening has made the current one. -/
structure WindowOpened (c : Ctx) (m : UndoLog) (opener : Nat) (pc : Word) : Prop where
  counter : m.counter = (c.log.counter + 1) % 2 ^ 32
  iret : m.iret = c.log.iret
  window : ∃ v ∈ m.windows, v.num = (c.log.counter + 1) % 2 ^ 32 ∧ v.opener = opener ∧ v.pc = pc ∧ v.iret = c.log.iret ∧ v.x = c.x ∧ v.p = c.p ∧ v.c = c.c

theorem WindowOpened.append {c : Ctx} {l m : UndoLog} {opener : Nat} {pc : Word} (h : WindowOpened c l opener pc) (k : LogKept l m) :
    WindowOpened c m opener pc := by
  obtain ⟨hc, hi, v, hv, hw⟩ := h
  obtain ⟨u, hu, he⟩ := k.windows v hv
  refine ⟨by rw [k.rest]; exact hc, k.iret.trans hi, u, hu, ?_⟩
  rw [he]
  exact hw

theorem State.windowOpened_openWindow (s : State) (core ctx opener : Nat) (pc : Word) :
    WindowOpened (s.ctx core ctx) ((s.openWindow core ctx opener pc).ctx core ctx).log opener pc := by
  rw [State.openWindow, State.openWindowIn, State.ctx_setCtx_same]
  refine .append ?_ (.append ..)
  exact ⟨rfl, rfl, _, List.mem_append_right _ List.mem_cons_self, rfl, rfl, rfl, rfl, rfl, rfl, rfl⟩

/-! ### Tile snapshots (22 R384) -/

theorem Kept.snapTiles (s : State) (core ctx mask : Nat) : Kept s (s.snapTiles core ctx mask) := by
  unfold State.snapTiles
  exact .ite (.refl s) (.foldl _ _ (fun _ _ _ => .logRec ..) s)

theorem State.snapTiles_mem (s : State) (core ctx mask : Nat) : (s.snapTiles core ctx mask).mem = s.mem := by
  unfold State.snapTiles
  split
  · rfl
  · exact foldl_mem _ _ (fun _ _ => State.logRec_mem ..) s

theorem State.logKept_snapTiles (s : State) (core ctx mask : Nat) : LogKept (s.ctx core ctx).log ((s.snapTiles core ctx mask).ctx core ctx).log := by
  unfold State.snapTiles
  split
  · exact .refl _
  · refine foldl_keeps (fun t : State => LogKept (s.ctx core ctx).log (t.ctx core ctx).log) _ _ (fun t j _ ht => ht.trans ?_) s (.refl _)
    rw [State.logRec, State.ctx_modCtx_same]
    exact .append ..

/-! ### TMARK -/

/-- What TMARK does to windows. -/
def State.marked (t : State) (core ctx mask : Nat) : State := (t.openWindow core ctx 1 (t.ctx core ctx).pc).snapTiles core ctx mask

theorem Kept.marked (t : State) (core ctx mask : Nat) : Kept t (t.marked core ctx mask) := by
  unfold State.marked
  exact (Kept.openWindow ..).trans (.snapTiles ..)

theorem State.marked_mem (t : State) (core ctx mask : Nat) : (t.marked core ctx mask).mem = t.mem := by
  rw [State.marked, State.snapTiles_mem]
  rfl

theorem State.windowOpened_marked (t : State) (core ctx mask : Nat) :
    WindowOpened (t.ctx core ctx) ((t.marked core ctx mask).ctx core ctx).log 1 (t.ctx core ctx).pc := by
  unfold State.marked
  exact (State.windowOpened_openWindow ..).append (State.logKept_snapTiles ..)

theorem State.windowOpened_cur_marked (t : State) (mask : Nat) : WindowOpened t.cur (t.marked t.focus.core t.focus.ctx mask).cur.log 1 t.cur.pc := by
  have h := t.windowOpened_marked t.focus.core t.focus.ctx mask
  rw [State.cur, State.cur, (Kept.marked ..).focus]
  exact h

theorem exec_tmark (s : State) (rd mask : Nat) : exec (.tmark rd mask) s = finish s (
    if (decide (s.here.ms.st = .running) && s.here.ms.step.isSome) || s.cur.log.blocks (markWords mask) then .wait s
    else .done ((s.setX rd (BitVec.ofNat 64 ((s.cur.log.counter + 1) % 2 ^ 32))).ahead fun t => t.marked s.focus.core s.focus.ctx mask)) := rfl

/-- The log behind an instruction that opens a window, once it has retired. -/
theorem State.log_retire_ahead (s : State) (f : State → State) (hf : ∀ t, Kept t (f t)) (pc : Word) :
    ((s.ahead f).retire pc).cur.log = { (f (s.modCur Ctx.stepped)).cur.log with iret := s.cur.log.iret + 1 } := by
  have hi : (f (s.modCur Ctx.stepped)).cur.log.iret = s.cur.log.iret + 1 := by
    rw [(hf _).cur.iret, State.cur_modCur]
    rfl
  rw [State.cur_retire, State.ahead_eq, State.cur_modCur]
  show ({ (f (s.modCur Ctx.stepped)).cur.log with iret := (f (s.modCur Ctx.stepped)).cur.log.iret - 1 + 1 } : UndoLog) = _
  rw [hi]
  rfl

/-- Settles O14: the window that `openWindow` opens ahead of the instruction is kept by the snapshots behind it. -/
theorem tmarkOpensAWindow : Obligations.TmarkOpensAWindow := by
  intro s rd mask
  refine ⟨fun hm hb => ?_, fun h => ?_⟩
  · intro w
    have hm' : (decide (s.here.ms.st = .running) && s.here.ms.step.isSome) = false := by
      rcases hm with h | h <;> simp [h]
    have hk := fun t : State => Kept.marked t s.focus.core s.focus.ctx mask
    rw [exec_tmark, hm', hb, Bool.or_false, if_neg Bool.false_ne_true, finish_done]
    refine ⟨_, rfl, (((RegsNow.refl s).setX ..).ahead hk).retire _, sameMemory_of_mem ?_, ?_⟩
    · rw [State.retire_mem, State.ahead_mem _ fun t => State.marked_mem .., State.setX_mem]
    · rw [State.log_retire_ahead _ _ hk]
      have hcur : ((s.setX rd (BitVec.ofNat 64 w)).modCur Ctx.stepped).cur = (s.cur.setX rd (BitVec.ofNat 64 w)).stepped := by
        rw [State.cur_modCur, State.setX, State.cur_modCur]
      have hw : WindowOpened _ (((s.setX rd (BitVec.ofNat 64 w)).modCur Ctx.stepped).marked s.focus.core s.focus.ctx mask).cur.log 1 _ :=
        State.windowOpened_cur_marked ..
      rw [hcur] at hw
      generalize (((s.setX rd (BitVec.ofNat 64 w)).modCur Ctx.stepped).marked s.focus.core s.focus.ctx mask).cur.log = m at hw ⊢
      obtain ⟨hc, -, v, hv, hnum, hop, hpc, hir, hx, hp, hcr⟩ := hw
      simp only [Ctx.stepped, Ctx.setX_log, Ctx.setX_pc, Ctx.setX_p, Ctx.setX_c] at hc hnum hpc hir hx hp hcr
      refine ⟨hc, by rw [State.setX, State.cur_modCur, Ctx.setX_log], v, hv, hnum, hop, hpc, hir, fun n => ?_, hp, hcr⟩
      rw [putX_eq_setX, Ctx.getX, Ctx.getX, hx]
  · have h' : ((decide (s.here.ms.st = .running) && s.here.ms.step.isSome) || s.cur.log.blocks (markWords mask)) = true := by
      rcases h with ⟨h1, h2⟩ | h
      · rw [decide_eq_true h1, Option.isSome_iff_ne_none.2 h2]
        rfl
      · rw [h, Bool.or_true]
    rw [Waits, exec_tmark, h']
    rfl

end Sys2Proof.Machine

/-! # Groups (05 R114, R115, 15 R301 to R303) -/

namespace Sys2Proof.Machine
open Sys2Proof Sys2Proof.Spec

/-! ### Members -/

theorem State.group_setGroup_same (s : State) (g : Nat) (v : Group) : (s.setGroup g v).group g = v := Tbl.get_set_same ..

theorem State.group_setGroup_other (s : State) {g h : Nat} (v : Group) (hn : h ≠ g) : (s.setGroup g v).group h = s.group h := Tbl.get_set_other _ _ _ _ _ hn

/-- Every group has the members that it had. -/
structure MembersKept (s t : State) : Prop where
  members : ∀ g, (t.group g).members = (s.group g).members

theorem MembersKept.refl (s : State) : MembersKept s s := ⟨fun _ => rfl⟩

theorem MembersKept.trans {s t u : State} (h : MembersKept s t) (h' : MembersKept t u) : MembersKept s u := ⟨fun g => (h'.members g).trans (h.members g)⟩

theorem MembersKept.of_groups {s t : State} (h : t.groups = s.groups) : MembersKept s t := ⟨fun g => by rw [State.group, State.group, h]⟩

theorem MembersKept.setGroup (s : State) (g : Nat) {v : Group} (h : v.members = (s.group g).members) : MembersKept s (s.setGroup g v) := ⟨fun j => by
  by_cases hj : j = g
  · rw [hj, State.group_setGroup_same, h]
  · rw [State.group_setGroup_other _ _ hj]⟩

theorem MembersKept.foldl {α : Type} (f : State → α → State) (l : List α) (h : ∀ t a, MembersKept t (f t a)) (s : State) : MembersKept s (l.foldl f s) :=
  foldl_keeps (MembersKept s) f l (fun t a _ ht => ht.trans (h t a)) s (.refl s)

theorem foldl_groups {α : Type} (f : State → α → State) (l : List α) (h : ∀ t a, (f t a).groups = t.groups) (s : State) : (l.foldl f s).groups = s.groups :=
  foldl_keeps (fun t : State => t.groups = s.groups) f l (fun t a _ ht => (h t a).trans ht) s rfl

theorem State.mapCtxs_groups (s : State) (f : Nat → Nat → Ctx → Ctx) : (s.mapCtxs f).groups = s.groups := by
  unfold State.mapCtxs
  refine foldl_groups _ _ ?_ s
  exact fun _ _ => rfl

theorem State.openAll_groups (s : State) (g opener : Nat) : (s.openAll g opener).groups = s.groups := by
  unfold State.openAll
  refine (foldl_groups _ _ ?_ _).trans rfl
  exact fun _ _ => rfl

theorem MembersKept.openAll (s : State) (g opener : Nat) : MembersKept s (s.openAll g opener) := .of_groups (State.openAll_groups ..)

theorem MembersKept.settleFlip (s : State) (m : FlipMark) : MembersKept s (s.settleFlip m) := by
  unfold State.settleFlip
  split
  · exact .refl s
  · have hw : MembersKept s (s.watch m.loc (homeOf m.loc) 3 0 0 0) := .of_groups (State.mapCtxs_groups ..)
    cases m.group with
    | none => exact hw
    | some g =>
      refine (hw.trans ?_).trans (.openAll _ g 3)
      exact .setGroup _ g rfl

theorem MembersKept.flip (s : State) (l : Nat) (o : SyncObj) : MembersKept s (s.flip l o) := by
  have hmap (t : State) (f : Nat → Nat → Ctx → Ctx) : MembersKept t (t.mapCtxs f) := .of_groups (State.mapCtxs_groups ..)
  have h2 (f : Nat → Nat → Ctx → Ctx) := (MembersKept.of_groups (State.write_groups s (l + 8) 8 ((o.phase + 1) % 2 ^ 32 * 2 ^ 32))).trans (hmap _ f)
  unfold State.flip
  refine .trans ?_ (.settleFlip ..)
  cases (s.flipMark l o).group with
  | none => exact h2 _
  | some g => exact (h2 _).trans (.setGroup _ g rfl)

theorem MembersKept.serve (s : State) (l : Nat) : MembersKept s (s.serve l) := .of_groups (State.mapCtxs_groups ..)

/-! ### Joining -/

theorem Group.indexOf_eq_none {g : Group} {core ctx : Nat} : g.indexOf core ctx = none ↔ ∀ m ∈ g.members, ¬(m.2.1 = core ∧ m.2.2 = ctx) := by
  simp [Group.indexOf]

theorem find_insertMember {p : Nat × Nat × Nat → Bool} {m : Nat × Nat × Nat} {l : List (Nat × Nat × Nat)} (hm : p m = true) (hl : ∀ a ∈ l, p a = false) :
    (insertMember m l).find? p = some m := by
  induction l with
  | nil => rw [insertMember, List.find?_cons_of_pos hm]
  | cons a l ih =>
    rw [insertMember]
    split
    · exact List.find?_cons_of_pos hm
    · rw [List.find?_cons_of_neg (by simp [hl a]), ih fun b hb => hl b (List.mem_cons_of_mem _ hb)]

/-- A context that joins a group it is no member of takes the free index. -/
theorem Group.indexOf_join {v : Group} {core ctx : Nat} (lockstep : Bool) (h : v.indexOf core ctx = none) :
    (v.join core ctx lockstep).indexOf core ctx = some v.freeIndex := by
  rw [Group.indexOf_eq_none] at h
  have hf : (v.join core ctx lockstep).members.find? (fun m => m.2.1 == core && m.2.2 == ctx) = some (v.freeIndex, core, ctx) :=
    find_insertMember (by simp) fun a ha => by simpa using h a ha
  rw [Group.indexOf, hf]
  rfl

theorem bitsOf_high (w : Word) : bitsOf w.toNat 63 12 ≠ 0 ↔ 2 ^ 12 ≤ w.toNat := by
  have := w.isLt
  unfold bitsOf
  omega

section
variable {s : State} {rd ra : Nat} {lockstep : Bool} {g : Guard}

theorem exec_gjoin (rd ra : Nat) (lockstep : Bool) (hg : s.holds g = true) (hr : s.cur.log.replay = none) :
    exec (.gjoin rd ra lockstep g) s = finish s (s.joinGroup rd (s.x ra).toNat lockstep) := guarded_withInput hg hr ..

theorem gjoin_reserved (hg : s.holds g = true) (hr : s.cur.log.replay = none) (h : 2 ^ 12 ≤ (s.x ra).toNat) : Traps (.gjoin rd ra lockstep g) s 0x01 0 := by
  rw [Traps, exec_gjoin rd ra lockstep hg hr, State.joinGroup]
  dsimp only
  rw [if_pos ((bitsOf_high _).2 h)]
  rfl

/-- What a member reads, and what a refused context does: no membership changes. -/
theorem gjoin_reads {v : Word} (he : exec (.gjoin rd ra lockstep g) s = finish s (.done ((s.setX rd v).logInput v))) :
    ∃ t, exec (.gjoin rd ra lockstep g) s = .next t ∧ RegsAfter s t (putX s rd v) (s.cur.pc + 4) ∧ t.groups = s.groups ∧ SameMemory s t :=
  ⟨_, he.trans (finish_done ..), (((RegsNow.refl s).setX rd v).kept (.logFrom ..)).retire _, rfl, sameMemory_of_mem rfl⟩

theorem gjoin_member {i : Nat} (hg : s.holds g = true) (hr : s.cur.log.replay = none) (ha : (s.x ra).toNat < 2 ^ 12)
    (hi : (s.group (s.x ra).toNat).indexOf s.focus.core s.focus.ctx = some i) :
    exec (.gjoin rd ra lockstep g) s = finish s (.done ((s.setX rd (BitVec.ofNat 64 i)).logInput (BitVec.ofNat 64 i))) := by
  rw [exec_gjoin rd ra lockstep hg hr, State.joinGroup]
  dsimp only
  rw [if_neg (by rw [bitsOf_high]; omega), hi]

/-- What GJOIN of no member comes to, unless it waits for a round or a flip. -/
theorem exec_gjoin_stranger (hg : s.holds g = true) (hr : s.cur.log.replay = none) (ha : (s.x ra).toNat < 2 ^ 12)
    (hi : (s.group (s.x ra).toNat).indexOf s.focus.core s.focus.ctx = none)
    (hw : (s.group (s.x ra).toNat).kind = .lockstep → (s.group (s.x ra).toNat).flip = false ∧ s.roundRuns (s.x ra).toNat = false) :
    exec (.gjoin rd ra lockstep g) s = finish s (
      if s.joinRefused s.focus.core s.focus.ctx (s.x ra).toNat lockstep then .done ((s.setX rd (BitVec.allOnes 64)).logInput (BitVec.allOnes 64))
      else .done ((((s.setX rd (BitVec.ofNat 64 (s.group (s.x ra).toNat).freeIndex)).logInput (BitVec.ofNat 64 (s.group (s.x ra).toNat).freeIndex)).setGroup
        (s.x ra).toNat ((s.group (s.x ra).toNat).join s.focus.core s.focus.ctx lockstep)).ahead fun t => t.openAll (s.x ra).toNat 4)) := by
  have hw' : (decide ((s.group (s.x ra).toNat).kind = .lockstep) && ((s.group (s.x ra).toNat).flip || s.roundRuns (s.x ra).toNat)) = false := by
    by_cases hk : (s.group (s.x ra).toNat).kind = .lockstep
    · rw [(hw hk).1, (hw hk).2, Bool.or_false, Bool.and_false]
    · rw [decide_eq_false hk, Bool.false_and]
  rw [exec_gjoin rd ra lockstep hg hr, State.joinGroup]
  dsimp only
  rw [if_neg (by rw [bitsOf_high]; omega), hi]
  dsimp only
  rw [hw', if_neg Bool.false_ne_true]

theorem State.group_retire_ahead_openAll (s : State) (g opener : Nat) (pc : Word) (h : Nat) :
    (((s.ahead fun t => t.openAll g opener).retire pc).group h) = s.group h := by
  show Tbl.get Group.reset ((s.modCur Ctx.stepped).openAll g opener).groups h = _
  rw [State.openAll_groups]
  rfl

theorem gjoin_joins (he : exec (.gjoin rd ra lockstep g) s = finish s (.done ((((s.setX rd (BitVec.ofNat 64 (s.group (s.x ra).toNat).freeIndex)).logInput
      (BitVec.ofNat 64 (s.group (s.x ra).toNat).freeIndex)).setGroup (s.x ra).toNat
        ((s.group (s.x ra).toNat).join s.focus.core s.focus.ctx lockstep)).ahead fun t => t.openAll (s.x ra).toNat 4)))
    (hi : (s.group (s.x ra).toNat).indexOf s.focus.core s.focus.ctx = none) :
    ∃ t, exec (.gjoin rd ra lockstep g) s = .next t ∧ RegsAfter s t (putX s rd (BitVec.ofNat 64 (s.group (s.x ra).toNat).freeIndex)) (s.cur.pc + 4) ∧ SameMemory s t ∧
      (t.group (s.x ra).toNat).indexOf s.focus.core s.focus.ctx = some (s.group (s.x ra).toNat).freeIndex := by
  refine ⟨_, he.trans (finish_done ..), (((((RegsNow.refl s).setX ..).kept (.logFrom ..)).kept (.setGroup ..)).ahead fun t => .openAll ..).retire _,
    sameMemory_of_mem ?_, ?_⟩
  · rw [State.retire_mem, State.ahead_mem _ fun t => State.openAll_mem .., State.setGroup_mem, State.logInput_mem, State.setX_mem]
  · rw [State.group_retire_ahead_openAll, State.group_setGroup_same, Group.indexOf_join lockstep hi]

end

/-! ### Leaving -/

/-- A context that leaves a group is no member of it any more (15 R303). -/
theorem State.indexOf_leaveGroup (s : State) (g core ctx : Nat) : ((s.leaveGroup g core ctx).group g).indexOf core ctx = none := by
  unfold State.leaveGroup
  extract_lets v rest s1 s2
  split
  · next h => exact Option.isNone_iff_eq_none.1 h
  · have h1 : (s1.group g).members = rest := by
      dsimp only [s1]
      rw [State.group_setGroup_same]
      split
      · next he => exact (List.isEmpty_iff.1 he).symm
      · rfl
    have h2 : MembersKept s1 s2 := .of_groups (State.openAll_groups s1 g 4)
    have h3 := MembersKept.foldl (fun (s : State) l =>
      if (s.syncObj l).kind = 2 ∧ (s.syncObj l).tied = true ∧ (s.syncObj l).group = g ∧ 0 < (s.syncObj l).arrivals ∧ s.target (s.syncObj l) ≤ (s.syncObj l).arrivals
      then (s.flip l (s.syncObj l)).serve l else s) (s.tiedTo g) (fun t l => by split; exacts [(MembersKept.flip ..).trans (.serve ..), .refl t]) s2
    rw [Group.indexOf_eq_none]
    intro m hm
    have hm' : m ∈ rest := by
      rw [← h1, ← h2.members g, ← h3.members g]
      exact hm
    exact of_decide_eq_true (List.mem_filter.1 hm').2

theorem exec_gleave {s : State} (ra : Nat) {g : Guard} (hg : s.holds g = true) : exec (.gleave ra g) s = finish s (
    if bitsOf (s.x ra).toNat 63 12 ≠ 0 then .trap 0x01 0
    else if ((s.group (s.x ra).toNat).indexOf s.focus.core s.focus.ctx).isNone then .done s
    else if s.jobPushed s.focus.core s.focus.ctx (s.x ra).toNat then .wait s
    else .done (s.ahead fun t => t.leaveGroup (s.x ra).toNat s.focus.core s.focus.ctx)) := guarded_on _ _ _ hg

theorem gleave_leaves {s : State} {ra i : Nat} {g : Guard} (hg : s.holds g = true) (ha : (s.x ra).toNat < 2 ^ 12)
    (hi : (s.group (s.x ra).toNat).indexOf s.focus.core s.focus.ctx = some i) (hj : s.jobPushed s.focus.core s.focus.ctx (s.x ra).toNat = false) :
    ∃ t, exec (.gleave ra g) s = .next t ∧ t.cur.pc = s.cur.pc + 4 ∧ (∀ n, t.x n = s.x n) ∧
      (t.group (s.x ra).toNat).indexOf s.focus.core s.focus.ctx = none := by
  have hregs := (((RegsNow.refl s).ahead fun t => Kept.leaveGroup t (s.x ra).toNat s.focus.core s.focus.ctx).retire (s.cur.pc + 4))
  refine ⟨_, ?_, hregs.pc, hregs.x, State.indexOf_leaveGroup ..⟩
  rw [exec_gleave ra hg, if_neg (by rw [bitsOf_high]; omega), hi, if_neg (by simp), hj]
  rfl

/-- Settles O12: a join reads or takes an index, a leave takes the context out of the members. -/
theorem groupsGainAndLoseMembers : Obligations.GroupsGainAndLoseMembers := by
  refine ⟨fun s rd ra lockstep g hg hr => ⟨gjoin_reserved hg hr, fun i ha hi => gjoin_reads (gjoin_member hg hr ha hi), fun ha hi hw => ⟨fun href => ?_, fun href => ?_⟩⟩,
    fun s ra g hg => ⟨fun h => ?_, fun ha hi => passesOver_of_done ?_, fun i ha hi hj => gleave_leaves hg ha hi hj⟩⟩
  · exact gjoin_reads (by rw [exec_gjoin_stranger hg hr ha hi hw, if_pos href])
  · exact gjoin_joins (by rw [exec_gjoin_stranger hg hr ha hi hw, href, if_neg Bool.false_ne_true]) hi
  · rw [Traps, exec_gleave ra hg, if_pos ((bitsOf_high _).2 h)]
    rfl
  · rw [exec_gleave ra hg, if_neg (by rw [bitsOf_high]; omega), hi]
    rfl

end Sys2Proof.Machine

/-! # Barriers and events (05 R116, R117, 16 R312 to R316) -/

namespace Sys2Proof.Machine
open Sys2Proof Sys2Proof.Spec

/-! ### The fields of an object (16 R311) -/

theorem State.read_add (s : State) (l m n : Nat) : s.read l (m + n) = s.read l m + 256 ^ m * s.read (l + m) n := by
  induction m generalizing l with
  | zero => simp [State.read]
  | succ m ih =>
    rw [Nat.succ_add, State.read, State.read, ih, pow_succ, show l + 1 + m = l + (m + 1) by omega]
    ring

theorem State.read_lt (s : State) (l n : Nat) : s.read l n < 256 ^ n := by
  induction n generalizing l with
  | zero => simp [State.read]
  | succ n ih =>
    have h1 := (s.byte l).isLt
    have h2 := ih (l + 1)
    rw [State.read, pow_succ]
    omega

theorem State.syncObj_arrivals (s : State) (l : Nat) : (s.syncObj l).arrivals = s.read (l + 8) 4 := by
  show bitsOf (s.read (l + 8) (4 + 4)) 31 0 = _
  have h := s.read_lt (l + 8) 4
  rw [State.read_add, bitsOf]
  omega

theorem State.syncObj_phase (s : State) (l : Nat) : (s.syncObj l).phase = s.read (l + 12) 4 := by
  show bitsOf (s.read (l + 8) (4 + 4)) 63 32 = s.read (l + 8 + 4) 4
  have h := s.read_lt (l + 8) 4
  have h' := s.read_lt (l + 8 + 4) 4
  rw [State.read_add, bitsOf]
  omega

theorem State.syncObj_events (s : State) (l : Nat) : (s.syncObj l).events = s.read (l + 16) 4 := by
  show bitsOf (s.read (l + 16) (4 + 4)) 31 0 = _
  have h := s.read_lt (l + 16) 4
  rw [State.read_add, bitsOf]
  omega

section
variable {s t : State} {l : Nat}

/-- An object whose arrivals are written alone. -/
theorem syncObj_of_write_arrivals {n : Nat} (h : t.mem = (s.write (l + 8) 4 n).mem) (hn : n < 2 ^ 32) :
    (t.syncObj l).arrivals = n ∧ (t.syncObj l).phase = (s.syncObj l).phase := by
  rw [State.syncObj_arrivals, State.syncObj_phase, State.syncObj_phase, State.read_mem_congr h, State.read_mem_congr h, State.read_write_same,
    State.read_write_other _ _ _ _ _ _ (by omega)]
  exact ⟨Nat.mod_eq_of_lt hn, rfl⟩

/-- An object whose state doubleword a flip has written. -/
theorem syncObj_of_write_phase {p : Nat} (h : t.mem = (s.write (l + 8) 8 (p * 2 ^ 32)).mem) (hp : p < 2 ^ 32) :
    (t.syncObj l).phase = p ∧ (t.syncObj l).arrivals = 0 := by
  have hr : t.read (l + 8) 8 = p * 2 ^ 32 := by
    rw [State.read_mem_congr h, State.read_write_same]
    exact Nat.mod_eq_of_lt (by omega)
  show bitsOf (t.read (l + 8) 8) 63 32 = p ∧ bitsOf (t.read (l + 8) 8) 31 0 = 0
  rw [hr, bitsOf, bitsOf]
  omega

theorem syncObj_of_write_events {v : Nat} (h : t.mem = (s.write (l + 16) 4 v).mem) (hv : v < 2 ^ 32) : (t.syncObj l).events = v := by
  rw [State.syncObj_events, State.read_mem_congr h, State.read_write_same]
  exact Nat.mod_eq_of_lt hv

end

/-! ### Arrivals (16 R313, R314) -/

theorem State.mem_flip (s : State) (l : Nat) (o : SyncObj) : (s.flip l o).mem = (s.write (l + 8) 8 ((o.phase + 1) % 2 ^ 32 * 2 ^ 32)).mem := by
  unfold State.flip
  rw [State.settleFlip_mem]
  cases (s.flipMark l o).group with
  | none => exact State.mapCtxs_mem ..
  | some g => exact State.mapCtxs_mem ..

/-- An arrival changes the state doubleword alone. -/
theorem State.mem_arrive (s : State) (l core ctx : Nat) : (s.arrive l core ctx).mem =
    if s.target (s.syncObj l) ≤ ((s.syncObj l).arrivals + 1) % 2 ^ 32
    then ((s.write (l + 8) 4 (((s.syncObj l).arrivals + 1) % 2 ^ 32)).write (l + 8) 8 (((s.syncObj l).phase + 1) % 2 ^ 32 * 2 ^ 32)).mem
    else (s.write (l + 8) 4 (((s.syncObj l).arrivals + 1) % 2 ^ 32)).mem := by
  unfold State.arrive
  extract_lets o n s1 s2 v s3 s4
  have h1 : s1.mem = (s.write (l + 8) 4 n).mem := State.write_mem_congr (State.clearFlip_mem ..) ..
  have h3 : s3.mem = s1.mem := by
    dsimp only [s3]
    split
    · split <;> rfl
    · rfl
  have h4 : s4.mem = (s.write (l + 8) 4 n).mem := (State.watch_mem ..).trans (h3.trans h1)
  clear_value s4
  rw [State.serve_mem]
  split
  · rw [State.mem_flip]
    exact State.write_mem_congr ((State.watch_mem ..).trans h4) ..
  · exact h4

/-- An arrival keeps all but BPEND of the contexts. -/
theorem State.kept_arrive (s : State) (l core ctx : Nat) :
    ∃ t, Kept s t ∧ Kept (t.modCtx core ctx fun c => { c with bpend := bpendOf l (s.syncObj l).phase }) (s.arrive l core ctx) := by
  unfold State.arrive
  extract_lets o n s1 s2 v s3 s4
  have h3 : Kept s2 s3 := by
    dsimp only [s3]
    refine .ite ?_ (.refl s2)
    exact .ite (.refl s2) (.setGroup ..)
  have h4 : Kept s2 s4 := h3.trans (.watch ..)
  refine ⟨s1, (Kept.clearFlip ..).trans (.write ..), Kept.trans ?_ (.serve ..)⟩
  exact .ite ((h4.trans (.watch ..)).trans (.flip ..)) h4

theorem RegsNow.arrive {s u : State} {x : Nat → Word} (h : RegsNow s u x) (l : Nat) : RegsNow s (u.arrive l u.focus.core u.focus.ctx) x := by
  obtain ⟨t, k1, k2⟩ := u.kept_arrive l u.focus.core u.focus.ctx
  rw [← k1.focus] at k2
  rw [← k1.focus]
  refine RegsNow.kept (u := t.modCur fun c => { c with bpend := bpendOf l (u.syncObj l).phase }) ?_ k2
  exact (h.kept k1).modRest rfl ⟨rfl, rfl, rfl, rfl, rfl, rfl, rfl, rfl⟩

theorem State.pc_arrive (s : State) (l : Nat) : (s.arrive l s.focus.core s.focus.ctx).cur.pc = s.cur.pc := by
  obtain ⟨t, k1, k2⟩ := s.kept_arrive l s.focus.core s.focus.ctx
  rw [← k1.focus] at k2
  rw [← k1.focus, k2.cur.pc_eq]
  refine Eq.trans ?_ k1.cur.pc_eq
  show (t.modCur _).cur.pc = _
  rw [State.cur_modCur]

/-! ### BARR (05 R116) -/

section
variable {s : State} {rd ra : Nat} {g : Guard}

theorem exec_barr (rd ra : Nat) (hg : s.holds g = true) (hr : s.cur.log.replay = none) :
    exec (.barr rd ra g) s = finish s (s.barrier rd (s.x ra).toNat) := guarded_withInput hg hr ..

theorem toNat_ne_zero {w : Word} (h : w ≠ 0) : w.toNat ≠ 0 := fun h0 => h (BitVec.eq_of_toNat_eq h0)

theorem State.barrier_error {a c : Nat} (hw : s.cur.waiter = none) (ha : a ≠ 0)
    (h : s.release.checkObject s.focus.core s.focus.ctx a (s.privileged s.focus.core s.focus.ctx) true false = .error c) :
    s.barrier rd a = .trap c (trapInfo c a) := by
  rw [State.barrier, hw]
  dsimp only
  rw [if_neg ha, h]

theorem State.barrier_arrives {a l : Nat} (hw : s.cur.waiter = none) (ha : a ≠ 0) (hn : s.release.cur.bpend.names l = false)
    (h : s.release.checkObject s.focus.core s.focus.ctx a (s.privileged s.focus.core s.focus.ctx) true false = .ok l) :
    s.barrier rd a = (s.release.arrive l s.focus.core s.focus.ctx).awaitPhase rd l (s.release.syncObj l).phase := by
  rw [State.barrier, hw]
  dsimp only
  rw [if_neg ha, h]
  dsimp only
  rw [hn, if_neg Bool.false_ne_true]

/-- The acting context once its BARR has passed (16 R313). -/
def Ctx.passed (c : Ctx) : Ctx := { c with waiter := none, bpend := { c.bpend with valid := false } }

/-- The phase of a BARR in its register, with its record (22 R386). -/
def State.phaseTaken (u : State) (rd l n : Nat) : State := ((u.modCur Ctx.passed).setX rd (BitVec.ofNat 64 n)).logFrom (.barrier l n) (BitVec.ofNat 64 n)

/-- The state that a BARR which passes leaves before it retires. -/
def State.passedBarrier (u : State) (rd l n : Nat) : State := (u.phaseTaken rd l n).ahead fun t => t.clearFlip u.focus.core u.focus.ctx

theorem State.passBarrier_eq (u : State) (rd l n : Nat) : u.passBarrier rd l n = .done (u.passedBarrier rd l n) := rfl

theorem RegsNow.phaseTaken {u : State} (h : RegsNow s u s.x) (rd l n : Nat) : RegsNow s (u.phaseTaken rd l n) (putX s rd (BitVec.ofNat 64 n)) := by
  refine RegsNow.kept (RegsNow.setX (h.modRest rfl ?_) ..) (.logFrom ..)
  exact ⟨rfl, rfl, rfl, rfl, rfl, rfl, rfl, rfl⟩

theorem State.cur_phaseTaken (u : State) (rd l n : Nat) :
    (u.phaseTaken rd l n).cur.waiter = none ∧ (u.phaseTaken rd l n).cur.bpend = { u.cur.bpend with valid := false } := by
  rw [State.phaseTaken, State.logFrom, State.setX, State.cur_modCur, State.cur_modCur, State.cur_modCur]
  dsimp only
  rw [Ctx.setX_waiter, Ctx.setX_bpend]
  exact ⟨rfl, rfl⟩

/-- What happens to windows ahead of an instruction leaves a wait that is over, and BPEND. -/
theorem State.cur_ahead (s : State) {f : State → State} (hf : ∀ t, Kept t (f t)) (pc : Word) :
    (s.cur.waiter = none → ((s.ahead f).retire pc).cur.waiter = none) ∧ ((s.ahead f).retire pc).cur.bpend = s.cur.bpend := by
  have hk := (hf (s.modCur Ctx.stepped)).cur
  rw [State.cur_modCur] at hk
  rw [State.cur_retire, State.ahead_eq, State.cur_modCur]
  exact ⟨fun h => hk.waiter h, hk.bpend_eq⟩

/-- A BARR that passes in u (16 R313). -/
theorem passes_barrier {i : Instr} {u : State} {l n : Nat} (he : exec i s = finish s (.done (u.passedBarrier rd l n))) (h : RegsNow s u s.x) :
    ∃ t, exec i s = .next t ∧ (∀ m, t.x m = putX s rd (BitVec.ofNat 64 n) m) ∧ t.cur.pc = s.cur.pc + 4 ∧ t.mem = u.mem ∧ t.cur.waiter = none ∧
      t.cur.bpend = { u.cur.bpend with valid := false } := by
  have hk := fun t : State => Kept.clearFlip t u.focus.core u.focus.ctx
  have hregs := ((h.phaseTaken rd l n).ahead hk).retire (s.cur.pc + 4)
  obtain ⟨hw, hb⟩ := (u.phaseTaken rd l n).cur_ahead hk (s.cur.pc + 4)
  refine ⟨_, he.trans (finish_done ..), hregs.x, hregs.pc, ?_, hw (State.cur_phaseTaken ..).1, hb.trans (State.cur_phaseTaken ..).2⟩
  rw [State.retire_mem, State.passedBarrier, State.ahead_mem _ fun t => State.clearFlip_mem ..]
  rfl

/-- A wait that has reached an object in u (16 R312). -/
theorem waits_at_object {i : Instr} {u : State} {w : Waiter} (he : exec i s = finish s (.wait (u.modCur fun c => { c with waiter := some w }))) (h : RegsNow s u s.x)
    (hpc : u.cur.pc = s.cur.pc) :
    ∃ t, exec i s = .next t ∧ t.cur.st = .waiting ∧ t.cur.waiter = some w ∧ t.cur.pc = s.cur.pc ∧ (∀ m, t.x m = s.x m) ∧ t.mem = u.mem := by
  have hcur : ((u.modCur fun c => { c with waiter := some w }).waitHere).cur = { u.cur with waiter := some w, st := .waiting } := by
    rw [State.waitHere, State.cur_modCur, State.cur_modCur]
  refine ⟨_, he.trans (finish_wait ..), by rw [hcur], by rw [hcur], by rw [hcur]; exact hpc, fun m => ?_, rfl⟩
  rw [← h.x m, State.x, State.x, hcur]
  rfl

theorem awaitPhase_passes {u : State} {l n : Nat} (h : (u.syncObj l).phase ≠ n) : u.awaitPhase rd l n = .done (u.passedBarrier rd l n) := by
  rw [State.awaitPhase, if_pos h, State.passBarrier_eq]

theorem awaitPhase_waits {u : State} {l n : Nat} (h : (u.syncObj l).phase = n) :
    u.awaitPhase rd l n = .wait (u.modCur fun c => { c with waiter := some (.phase l n) }) := by
  rw [State.awaitPhase, if_neg (not_not.2 h)]

theorem regsNow_arrived (s : State) (l : Nat) : RegsNow s (s.release.arrive l s.focus.core s.focus.ctx) s.x := by
  have hk := Kept.release s
  rw [← hk.focus]
  exact ((RegsNow.refl s).kept hk).arrive l

theorem State.phase_lt (s : State) (l : Nat) : (s.syncObj l).phase < 2 ^ 32 := by
  have := s.read_lt (l + 12) 4
  rw [State.syncObj_phase]
  omega

/-- The last arrival of a phase (16 R313, R314). -/
theorem barr_completes {l : Nat} (hg : s.holds g = true) (hr : s.cur.log.replay = none) (hw : s.cur.waiter = none) (hx : s.x ra ≠ 0)
    (hn : s.release.cur.bpend.names l = false)
    (h : s.release.checkObject s.focus.core s.focus.ctx (s.x ra).toNat (s.privileged s.focus.core s.focus.ctx) true false = .ok l)
    (ht : s.release.target (s.release.syncObj l) ≤ ((s.release.syncObj l).arrivals + 1) % 2 ^ 32) :
    ∃ t, exec (.barr rd ra g) s = .next t ∧ (∀ m, t.x m = putX s rd (BitVec.ofNat 64 (s.release.syncObj l).phase) m) ∧ t.cur.pc = s.cur.pc + 4 ∧
      (t.syncObj l).phase = ((s.release.syncObj l).phase + 1) % 2 ^ 32 ∧ (t.syncObj l).arrivals = 0 ∧ SameOutside s.release t (l + 8) 8 := by
  have hm := s.release.mem_arrive l s.focus.core s.focus.ctx
  rw [if_pos ht] at hm
  have hne : ((s.release.arrive l s.focus.core s.focus.ctx).syncObj l).phase ≠ (s.release.syncObj l).phase := by
    have := s.release.phase_lt l
    rw [(syncObj_of_write_phase hm (Nat.mod_lt _ (by decide))).1]
    omega
  have he : exec (.barr rd ra g) s = finish s (.done ((s.release.arrive l s.focus.core s.focus.ctx).passedBarrier rd l (s.release.syncObj l).phase)) := by
    rw [exec_barr rd ra hg hr, State.barrier_arrives hw (toNat_ne_zero hx) hn h, awaitPhase_passes hne]
  obtain ⟨t, hex, hregs, hpc, hmem, -⟩ := passes_barrier he (regsNow_arrived s l)
  rw [hm] at hmem
  obtain ⟨hp, ha⟩ := syncObj_of_write_phase hmem (Nat.mod_lt _ (by decide))
  refine ⟨t, hex, hregs, hpc, hp, ha, fun a hout => ?_⟩
  rw [(holds_of_write hmem).2 a hout]
  exact State.byte_write_outside _ _ _ _ _ (by omega)

/-- An arrival that does not complete its phase waits. -/
theorem barr_waits {l : Nat} (hg : s.holds g = true) (hr : s.cur.log.replay = none) (hw : s.cur.waiter = none) (hx : s.x ra ≠ 0)
    (hn : s.release.cur.bpend.names l = false)
    (h : s.release.checkObject s.focus.core s.focus.ctx (s.x ra).toNat (s.privileged s.focus.core s.focus.ctx) true false = .ok l)
    (ht : ((s.release.syncObj l).arrivals + 1) % 2 ^ 32 < s.release.target (s.release.syncObj l)) :
    ∃ t, exec (.barr rd ra g) s = .next t ∧ t.cur.st = .waiting ∧ t.cur.waiter = some (.phase l (s.release.syncObj l).phase) ∧ t.cur.pc = s.cur.pc ∧
      (∀ m, t.x m = s.x m) ∧ (t.syncObj l).arrivals = ((s.release.syncObj l).arrivals + 1) % 2 ^ 32 ∧ (t.syncObj l).phase = (s.release.syncObj l).phase ∧
      SameOutside s.release t (l + 8) 4 := by
  have hm := s.release.mem_arrive l s.focus.core s.focus.ctx
  rw [if_neg (by omega)] at hm
  have hphase := (syncObj_of_write_arrivals hm (Nat.mod_lt _ (by decide))).2
  have hpc : (s.release.arrive l s.focus.core s.focus.ctx).cur.pc = s.cur.pc := by
    rw [← (Kept.release s).focus, State.pc_arrive, (Kept.release s).cur.pc_eq]
  have he : exec (.barr rd ra g) s = finish s (.wait ((s.release.arrive l s.focus.core s.focus.ctx).modCur fun c =>
      { c with waiter := some (.phase l (s.release.syncObj l).phase) })) := by
    rw [exec_barr rd ra hg hr, State.barrier_arrives hw (toNat_ne_zero hx) hn h, awaitPhase_waits hphase]
  obtain ⟨t, hex, hst, hwt, hpc', hx', hmem⟩ := waits_at_object he (regsNow_arrived s l) hpc
  rw [hm] at hmem
  obtain ⟨h1, h2⟩ := syncObj_of_write_arrivals hmem (Nat.mod_lt _ (by decide))
  exact ⟨t, hex, hst, hwt, hpc', hx', h1, h2, (holds_of_write hmem).2⟩

end

end Sys2Proof.Machine

/-! # SIG, WAITS and the home unit's operations (05 R117, 16 R312, R316) -/

namespace Sys2Proof.Machine
open Sys2Proof Sys2Proof.Spec

section
variable {s : State} {rd ra rb : Nat} {g : Guard}

theorem barr_flipped {l n : Nat} (hg : s.holds g = true) (hr : s.cur.log.replay = none) (hw : s.cur.waiter = some (.flipped l n)) :
    ∃ t, exec (.barr rd ra g) s = .next t ∧ (∀ m, t.x m = putX s rd (BitVec.ofNat 64 n) m) ∧ t.cur.pc = s.cur.pc + 4 ∧ t.cur.waiter = none ∧
      t.cur.bpend = { s.cur.bpend with valid := false } ∧ SameMemory s t := by
  have he : exec (.barr rd ra g) s = finish s (.done (s.passedBarrier rd l n)) := by
    rw [exec_barr rd ra hg hr, State.barrier, hw]
    rfl
  obtain ⟨t, hex, hregs, hpc, hmem, hwt, hb⟩ := passes_barrier he (.refl s)
  exact ⟨t, hex, hregs, hpc, hwt, hb, sameMemory_of_mem hmem⟩

theorem barr_nowhere (hg : s.holds g = true) (hr : s.cur.log.replay = none) (hw : s.cur.waiter = none) (hx : (s.x ra).toNat = 0) :
    Traps (.barr rd ra g) s 0x07 0 := by
  rw [Traps, exec_barr rd ra hg hr, State.barrier, hw, hx]
  rfl

theorem barr_refused {c : Nat} (hg : s.holds g = true) (hr : s.cur.log.replay = none) (hw : s.cur.waiter = none) (hx : (s.x ra).toNat ≠ 0)
    (h : s.release.checkObject s.focus.core s.focus.ctx (s.x ra).toNat (s.privileged s.focus.core s.focus.ctx) true false = .error c) :
    Traps (.barr rd ra g) s c (trapInfo c (s.x ra).toNat) := by
  rw [Traps, exec_barr rd ra hg hr, State.barrier_error hw hx h]
  rfl

/-! ### SIG (05 R117) -/

theorem bitsOf_upper (w : Word) : bitsOf w.toNat 63 32 ≠ 0 ↔ 2 ^ 32 ≤ w.toNat := by
  have := w.isLt
  unfold bitsOf
  omega

theorem sig_reserved (hg : s.holds g = true) (h : 2 ^ 32 ≤ (s.x rb).toNat) : Traps (.sig ra rb g) s 0x01 0 := by
  show execSig ra rb g s = _
  rw [execSig, guarded_on _ _ _ hg, if_pos ((bitsOf_upper _).2 h)]
  rfl

theorem sig_refused {c : Nat} (hg : s.holds g = true) (hr : s.cur.log.replay = none) (hx : s.x ra ≠ 0) (hm : (s.x rb).toNat < 2 ^ 32)
    (h : s.release.checkObject s.focus.core s.focus.ctx (s.x ra).toNat (s.privileged s.focus.core s.focus.ctx) false false = .error c) :
    Traps (.sig ra rb g) s c (trapInfo c (s.x ra).toNat) := by
  show execSig ra rb g s = _
  rw [execSig, guarded_on _ _ _ hg, if_neg (by rw [bitsOf_upper]; omega), State.replaying_of_live hr, if_neg Bool.false_ne_true, if_neg (toNat_ne_zero hx), h]
  rfl

/-- Where SIG puts its bits: the core's own word, or an object that passes its checks. -/
def SigGoesTo (s : State) (ra l size : Nat) : Prop :=
  (s.x ra = 0 ∧ l = s.focus.core ∧ size = 0) ∨ (s.x ra ≠ 0 ∧ size = 4 ∧
    s.release.checkObject s.focus.core s.focus.ctx (s.x ra).toNat (s.privileged s.focus.core s.focus.ctx) false false = .ok l)

theorem exec_sig {l size : Nat} (hg : s.holds g = true) (hr : s.cur.log.replay = none) (hm : (s.x rb).toNat < 2 ^ 32) (h : SigGoesTo s ra l size) :
    exec (.sig ra rb g) s = finish s (if s.bufferFull then .wait s else .done (s.buffer .signal l size (s.x rb))) := by
  show execSig ra rb g s = _
  rw [execSig, guarded_on _ _ _ hg, if_neg (by rw [bitsOf_upper]; omega), State.replaying_of_live hr, if_neg Bool.false_ne_true, BitVec.ofNat_toNat,
    BitVec.setWidth_eq]
  rcases h with ⟨hx, rfl, rfl⟩ | ⟨hx, rfl, hok⟩
  · rw [hx]
    rfl
  · rw [if_neg (toNat_ne_zero hx), hok]

theorem sig_waits {l size : Nat} (hg : s.holds g = true) (hr : s.cur.log.replay = none) (hm : (s.x rb).toNat < 2 ^ 32) (h : SigGoesTo s ra l size)
    (hfull : 16 ≤ s.cur.sbuf.length) : Waits (.sig ra rb g) s := by
  rw [Waits, exec_sig hg hr hm h, State.bufferFull, decide_eq_true hfull]
  rfl

theorem sig_buffers {l size : Nat} (hg : s.holds g = true) (hr : s.cur.log.replay = none) (hm : (s.x rb).toNat < 2 ^ 32) (h : SigGoesTo s ra l size)
    (hroom : s.cur.sbuf.length < 16) :
    ∃ t, exec (.sig ra rb g) s = .next t ∧ RegsAfter s t s.x (s.cur.pc + 4) ∧ SameMemory s t ∧
      t.cur.sbuf = s.cur.sbuf ++ [{ kind := .signal, loc := l, size := size, value := s.x rb, iret := s.cur.log.iret }] := by
  have hfull : s.bufferFull = false := decide_eq_false (by omega)
  rw [exec_sig hg hr hm h, hfull, if_neg Bool.false_ne_true, finish_done]
  exact ⟨_, rfl, ((RegsNow.refl s).buffer ..).retire _, sameMemory_of_mem (by simp), by rw [State.sbuf_retire, State.sbuf_buffer]⟩

/-! ### WAITS (05 R117) -/

theorem exec_waits (rd ra rb : Nat) (hg : s.holds g = true) (hr : s.cur.log.replay = none) :
    exec (.waits rd ra rb g) s = finish s (s.awaitEvents rd (s.x ra).toNat ((s.x rb).toNat % 2 ^ 32)) := guarded_withInput hg hr ..

/-- An event word enters a register in u. -/
theorem takes_events {i : Instr} {u : State} {place v : Nat} (he : exec i s = finish s (u.takeEvents place rd v)) (h : RegsNow s u s.x) :
    ∃ t, exec i s = .next t ∧ RegsAfter s t (putX s rd (BitVec.ofNat 64 v)) (s.cur.pc + 4) ∧ t.mem = u.mem := by
  refine ⟨_, he.trans (finish_done ..), (RegsNow.kept (RegsNow.setX (h.modRest rfl ?_) ..) (.logFrom ..)).retire _, ?_⟩
  · exact ⟨rfl, rfl, rfl, rfl, rfl, rfl, rfl, rfl⟩
  · rw [State.retire_mem, State.logFrom_mem, State.setX_mem, State.modCur_mem]

theorem waits_refused {c : Nat} (hg : s.holds g = true) (hr : s.cur.log.replay = none) (hx : s.x ra ≠ 0) (hw : s.cur.waiter = none)
    (h : s.release.checkObject s.focus.core s.focus.ctx (s.x ra).toNat (s.privileged s.focus.core s.focus.ctx) false false = .error c) :
    Traps (.waits rd ra rb g) s c (trapInfo c (s.x ra).toNat) := by
  rw [Traps, exec_waits rd ra rb hg hr, State.awaitEvents, if_neg (toNat_ne_zero hx), hw]
  dsimp only
  rw [h]
  rfl

theorem awaitEvents_own (hx : s.x ra = 0) (mask : Nat) : s.awaitEvents rd (s.x ra).toNat mask =
    if s.release.here.evw.toNat &&& mask = mask then s.release.takeEvents (evwMark s.focus.core) rd s.release.here.evw.toNat else .wait s.release := by
  rw [hx]
  rfl

theorem waits_own_passes (hg : s.holds g = true) (hr : s.cur.log.replay = none) (hx : s.x ra = 0)
    (hm : s.release.here.evw.toNat &&& ((s.x rb).toNat % 2 ^ 32) = (s.x rb).toNat % 2 ^ 32) :
    ∃ t, exec (.waits rd ra rb g) s = .next t ∧ RegsAfter s t (putX s rd (BitVec.ofNat 64 s.release.here.evw.toNat)) (s.cur.pc + 4) ∧
      SameMemory s.release t := by
  have he : exec (.waits rd ra rb g) s = finish s (s.release.takeEvents (evwMark s.focus.core) rd s.release.here.evw.toNat) := by
    rw [exec_waits rd ra rb hg hr, awaitEvents_own hx, if_pos hm]
  obtain ⟨t, hex, hregs, hmem⟩ := takes_events he ((RegsNow.refl s).kept (.release s))
  exact ⟨t, hex, hregs, sameMemory_of_mem hmem⟩

theorem waits_own_waits (hg : s.holds g = true) (hr : s.cur.log.replay = none) (hx : s.x ra = 0)
    (hm : s.release.here.evw.toNat &&& ((s.x rb).toNat % 2 ^ 32) ≠ (s.x rb).toNat % 2 ^ 32) :
    exec (.waits rd ra rb g) s = .next s.release.waitHere := by
  rw [exec_waits rd ra rb hg hr, awaitEvents_own hx, if_neg hm]
  rfl

theorem State.events_serve (s : State) (l m : Nat) : ((s.serve l).syncObj m).events = (s.syncObj m).events := by
  rw [State.syncObj_mem_congr (State.serve_mem ..)]

theorem kept_served (s : State) (l : Nat) : Kept s (s.release.serve l) := (Kept.release s).trans (.serve ..)

theorem awaitEvents_object {l mask : Nat} (hx : s.x ra ≠ 0) (hw : s.cur.waiter = none)
    (h : s.release.checkObject s.focus.core s.focus.ctx (s.x ra).toNat (s.privileged s.focus.core s.focus.ctx) false false = .ok l) :
    s.awaitEvents rd (s.x ra).toNat mask =
      if (s.release.syncObj l).events &&& mask = mask then (s.release.serve l).takeEvents (l + 16) rd (s.release.syncObj l).events
      else .wait ((s.release.serve l).modCur fun c => { c with waiter := some (.mask l mask) }) := by
  rw [State.awaitEvents, if_neg (toNat_ne_zero hx), hw]
  dsimp only
  rw [h]
  dsimp only
  rw [State.events_serve]

theorem waits_object_passes {l : Nat} (hg : s.holds g = true) (hr : s.cur.log.replay = none) (hx : s.x ra ≠ 0) (hw : s.cur.waiter = none)
    (h : s.release.checkObject s.focus.core s.focus.ctx (s.x ra).toNat (s.privileged s.focus.core s.focus.ctx) false false = .ok l)
    (hm : (s.release.syncObj l).events &&& ((s.x rb).toNat % 2 ^ 32) = (s.x rb).toNat % 2 ^ 32) :
    ∃ t, exec (.waits rd ra rb g) s = .next t ∧ RegsAfter s t (putX s rd (BitVec.ofNat 64 (s.release.syncObj l).events)) (s.cur.pc + 4) ∧
      SameMemory s.release t := by
  have he : exec (.waits rd ra rb g) s = finish s ((s.release.serve l).takeEvents (l + 16) rd (s.release.syncObj l).events) := by
    rw [exec_waits rd ra rb hg hr, awaitEvents_object hx hw h, if_pos hm]
  obtain ⟨t, hex, hregs, hmem⟩ := takes_events he ((RegsNow.refl s).kept (kept_served s l))
  exact ⟨t, hex, hregs, sameMemory_of_mem (hmem.trans (State.serve_mem ..))⟩

theorem waits_object_waits {l : Nat} (hg : s.holds g = true) (hr : s.cur.log.replay = none) (hx : s.x ra ≠ 0) (hw : s.cur.waiter = none)
    (h : s.release.checkObject s.focus.core s.focus.ctx (s.x ra).toNat (s.privileged s.focus.core s.focus.ctx) false false = .ok l)
    (hm : (s.release.syncObj l).events &&& ((s.x rb).toNat % 2 ^ 32) ≠ (s.x rb).toNat % 2 ^ 32) :
    ∃ t, exec (.waits rd ra rb g) s = .next t ∧ t.cur.st = .waiting ∧ t.cur.waiter = some (.mask l ((s.x rb).toNat % 2 ^ 32)) ∧ t.cur.pc = s.cur.pc ∧
      (∀ m, t.x m = s.x m) ∧ SameMemory s.release t := by
  have he : exec (.waits rd ra rb g) s = finish s (.wait ((s.release.serve l).modCur fun c => { c with waiter := some (.mask l ((s.x rb).toNat % 2 ^ 32)) })) := by
    rw [exec_waits rd ra rb hg hr, awaitEvents_object hx hw h, if_neg hm]
  obtain ⟨t, hex, hst, hwt, hpc, hregs, hmem⟩ := waits_at_object he ((RegsNow.refl s).kept (kept_served s l)) (kept_served s l).cur.pc_eq
  exact ⟨t, hex, hst, hwt, hpc, hregs, sameMemory_of_mem (hmem.trans (State.serve_mem ..))⟩

end

/-! ### Operations at the home unit (16 R312) -/

section
variable {s : State} {core ctx obj value l : Nat}

theorem operation_signals (h : s.checkObject core ctx obj (s.privileged core ctx) false false = .ok l) :
    ∃ t, exec (.objectOperation 1 core ctx obj value) s = .next t ∧ (t.syncObj l).events = (s.syncObj l).events ||| value % 2 ^ 32 ∧
      SameOutside s t (l + 16) 4 := by
  have he : exec (.objectOperation 1 core ctx obj value) s = .next (s.signalObject l (value % 2 ^ 32)) := by
    show execObjectOperation 1 core ctx obj value s = _
    rw [execObjectOperation, show ((1 : Nat) == 0) = false from rfl, h]
    rfl
  have hev : (s.syncObj l).events < 2 ^ 32 := by
    have := s.read_lt (l + 16) 4
    rw [State.syncObj_events]
    omega
  refine ⟨_, he, ?_⟩
  have hm := s.mem_signalObject l (value % 2 ^ 32)
  split at hm
  · next h0 => exact ⟨by rw [State.syncObj_mem_congr hm, h0, Nat.or_zero], fun a _ => State.byte_eq _ _ hm a⟩
  · exact ⟨syncObj_of_write_events hm (Nat.or_lt_two_pow hev (Nat.mod_lt _ (by decide))), (holds_of_write hm).2⟩

theorem operation_arrives (h : s.checkObject core ctx obj (s.privileged core ctx) true false = .ok l) (hs : s.standsAt true core ctx obj value l = true)
    (ht : (s.syncObj l).arrivals + 1 < s.target (s.syncObj l)) (ha : (s.syncObj l).arrivals + 1 < 2 ^ 32) :
    ∃ t, exec (.objectOperation 0 core ctx obj value) s = .next t ∧ (t.syncObj l).arrivals = (s.syncObj l).arrivals + 1 ∧ SameOutside s t (l + 8) 4 := by
  have he : exec (.objectOperation 0 core ctx obj value) s = .next (s.arrive l core ctx) := by
    show execObjectOperation 0 core ctx obj value s = _
    rw [execObjectOperation, show ((0 : Nat) == 0) = true from rfl, h]
    dsimp only
    rw [hs]
    rfl
  have hm := s.mem_arrive l core ctx
  rw [Nat.mod_eq_of_lt ha, if_neg (by omega)] at hm
  exact ⟨_, he, (syncObj_of_write_arrivals hm ha).1, (holds_of_write hm).2⟩

theorem operation_reads (h : s.checkObject core ctx obj (s.privileged core ctx) false false = .ok l) (hs : s.standsAt false core ctx obj value l = true) :
    ∃ t, exec (.objectOperation 2 core ctx obj value) s = .next t ∧ SameMemory s t ∧
      (t.ctx core ctx).waiter = some (if (s.syncObj l).events &&& value = value then .notified l (s.syncObj l).events else .mask l value) := by
  have he : exec (.objectOperation 2 core ctx obj value) s = .next ((s.serve l).modCtx core ctx fun c =>
      { c with waiter := some (if (s.syncObj l).events &&& value = value then .notified l (s.syncObj l).events else .mask l value) }) := by
    show execObjectOperation 2 core ctx obj value s = _
    rw [execObjectOperation, show ((2 : Nat) == 0) = false from rfl, h]
    dsimp only
    rw [hs, if_pos rfl, State.events_serve]
    rfl
  refine ⟨_, he, sameMemory_of_mem ?_, ?_⟩
  · rw [State.modCtx_mem, State.serve_mem]
  · rw [State.ctx_modCtx_same]

end

/-- Settles O13: an arrival's memory is told by `mem_arrive`, the registers of each case by the relations that its operations keep. -/
theorem barriersAndEvents : Obligations.BarriersAndEvents := by
  refine ⟨fun s rd ra g l hg hr hw hx => ?_, fun s rd ra g hg hr hw => ⟨fun h0 => barr_nowhere hg hr hw h0, fun c h0 h => barr_refused hg hr hw h0 h⟩,
    fun s ra rb rd g c hg hr hx hw h => ⟨fun hm => sig_refused hg hr hx hm h, waits_refused hg hr hx hw h⟩,
    fun s rd ra g l n hg hr hw => barr_flipped hg hr hw,
    fun s ra rb g l size hg hr hm h => ⟨sig_waits hg hr hm h, sig_buffers hg hr hm h⟩, fun s ra rb g hg hm => sig_reserved hg hm,
    fun s rd ra rb g hg hr hx => ⟨waits_own_passes hg hr hx, waits_own_waits hg hr hx⟩,
    fun s rd ra rb g l hg hr hx hw h => ⟨waits_object_passes hg hr hx hw h, waits_object_waits hg hr hx hw h⟩,
    fun s core ctx obj value l h => ⟨operation_signals h, operation_arrives, operation_reads h⟩⟩
  exact fun hn h => ⟨barr_completes hg hr hw hx hn h, barr_waits hg hr hw hx hn h⟩

end Sys2Proof.Machine

/-! # Traps and the frame (05 R120, 10 R241 to R243, R250) -/

namespace Sys2Proof.Machine
open Sys2Proof Sys2Proof.Spec

/-! ### Doublewords in memory -/

theorem State.readD_mem_congr {s t : State} (h : t.mem = s.mem) (l : Nat) : t.readD l = s.readD l := by
  rw [State.readD, State.readD, State.read_mem_congr h]

theorem State.readD_writeD_same (s : State) (l : Nat) (v : Word) : (s.writeD l v).readD l = v := by
  rw [State.readD, State.writeD, State.read_write_same, Nat.mod_eq_of_lt (show v.toNat < 256 ^ 8 from v.isLt), BitVec.ofNat_toNat, BitVec.setWidth_eq]

theorem State.readD_writeDs_outside (s : State) (l : Nat) (vs : List Word) (m : Nat) (h : m + 8 ≤ l ∨ l + 8 * vs.length ≤ m) :
    (s.writeDs l vs).readD m = s.readD m := by
  rw [State.readD, State.readD, State.read_congr s _ m 8 fun i hi => State.byte_writeDs_outside s l vs _ (by omega)]

theorem State.readD_writeDs (s : State) (l : Nat) (vs : List Word) {i : Nat} {v : Word} (h : vs[i]? = some v) : (s.writeDs l vs).readD (l + 8 * i) = v := by
  induction vs generalizing s l i with
  | nil => simp at h
  | cons w vs ih =>
    rw [State.writeDs]
    cases i with
    | zero =>
      rw [List.getElem?_cons_zero, Option.some.injEq] at h
      rw [show l + 8 * 0 = l from rfl, State.readD_writeDs_outside _ _ _ _ (by omega), State.readD_writeD_same, h]
    | succ i =>
      rw [show l + 8 * (i + 1) = l + 8 + 8 * i by omega]
      exact ih _ _ (by simpa using h)

/-! ### The frame (10 R243) -/

/-- The three parts of a frame: x registers; predicates, return address, trap registers, level, ring counters and BPEND; command registers. -/
def frameRegs (c : Ctx) : List Word := (List.range 32).map c.getX
def frameState (d : State) (core ctx : Nat) (ret tstat tinfo : Word) : List Word :=
  [BitVec.ofNat 64 ((d.core core).ctx ctx).pbits, ret, tstat, tinfo, BitVec.ofNat 64 (b2n (d.privileged core ctx))] ++ pack32 (d.core core).counters ++
    [BitVec.ofNat 64 ((d.core core).ctx ctx).bpend.word]
def frameCommands (c : Ctx) : List Word := (List.range 16).map c.getC

theorem frameRegs_length (c : Ctx) : (frameRegs c).length = 32 := by simp [frameRegs]

theorem frameState_length (d : State) (core ctx : Nat) (ret tstat tinfo : Word) : (frameState d core ctx ret tstat tinfo).length = 10 := rfl

theorem frameCommands_length (c : Ctx) : (frameCommands c).length = 16 := by simp [frameCommands]

theorem State.writeFrame_eq (d : State) (core ctx : Nat) (ret tstat tinfo : Word) : d.writeFrame core ctx ret tstat tinfo =
    ((d.writeDs (frameLoc core ctx) (frameRegs (d.ctx core ctx))).writeDs (frameLoc core ctx + 0x100) (frameState d core ctx ret tstat tinfo)).writeDs
      (frameLoc core ctx + 0x180) (frameCommands (d.ctx core ctx)) := rfl

section
variable (d : State) (core ctx : Nat) (ret tstat tinfo : Word)

theorem State.readD_writeFrame_x {n : Nat} (hn : n < 32) :
    (d.writeFrame core ctx ret tstat tinfo).readD (frameLoc core ctx + 8 * n) = (d.ctx core ctx).getX n := by
  rw [State.writeFrame_eq, State.readD_writeDs_outside _ _ _ _ (by omega), State.readD_writeDs_outside _ _ _ _ (by omega)]
  exact State.readD_writeDs _ _ _ (by simp [frameRegs, hn])

theorem State.readD_writeFrame_state {i : Nat} {v : Word} (h : (frameState d core ctx ret tstat tinfo)[i]? = some v) :
    (d.writeFrame core ctx ret tstat tinfo).readD (frameLoc core ctx + 0x100 + 8 * i) = v := by
  have hi : i < 10 := (List.getElem?_eq_some_iff.1 h).1
  rw [State.writeFrame_eq, State.readD_writeDs_outside _ _ _ _ (by omega)]
  exact State.readD_writeDs _ _ _ h

theorem State.readD_writeFrame_c {n : Nat} (hn : n < 16) :
    (d.writeFrame core ctx ret tstat tinfo).readD (frameLoc core ctx + 0x180 + 8 * n) = (d.ctx core ctx).getC n := by
  rw [State.writeFrame_eq]
  exact State.readD_writeDs _ _ _ (by simp [frameCommands, hn])

theorem State.byte_writeFrame_outside {a : Nat} (h : a < frameLoc core ctx ∨ frameLoc core ctx + 0x200 ≤ a) :
    (d.writeFrame core ctx ret tstat tinfo).byte a = d.byte a := by
  rw [State.writeFrame_eq, State.byte_writeDs_outside _ _ _ _ (by rw [frameCommands_length]; omega),
    State.byte_writeDs_outside _ _ _ _ (by rw [frameState_length]; omega), State.byte_writeDs_outside _ _ _ _ (by rw [frameRegs_length]; omega)]

theorem Ctx.pbits_congr {c e : Ctx} (h : e.p = c.p) : e.pbits = c.pbits := by
  have hp : e.getP = c.getP := funext fun n => by rw [Ctx.getP, Ctx.getP, h]
  rw [Ctx.pbits, Ctx.pbits, hp]

variable {d core ctx ret tstat tinfo}

/-- The frame that is written once the context's stores are performed holds the registers of before. -/
theorem frame_of_mem {s t : State} (h : t.mem = ((s.drain core ctx).writeFrame core ctx ret tstat tinfo).mem) : Frame s t core ctx ret tstat tinfo := by
  have hk := (Kept.drain s core ctx)
  have hc := hk.ctx core ctx
  have hstate {i a : Nat} {v : Word} (ha : a = 0x100 + 8 * i) (hi : (frameState (s.drain core ctx) core ctx ret tstat tinfo)[i]? = some v) :
      t.readD (frameLoc core ctx + a) = v := by
    rw [State.readD_mem_congr h, ha, ← Nat.add_assoc, State.readD_writeFrame_state _ _ _ _ _ _ hi]
  have hlevel : BitVec.ofNat 64 (b2n ((s.drain core ctx).privileged core ctx)) = if s.privileged core ctx then 1 else 0 := by
    rw [hk.privileged]
    cases s.privileged core ctx <;> rfl
  exact {
    x := fun n hn => by rw [State.readD_mem_congr h, State.readD_writeFrame_x _ _ _ _ _ _ hn, hk.getX]
    p := (hstate (i := 0) (by decide) rfl).trans (congrArg (BitVec.ofNat 64) (Ctx.pbits_congr hc.p_eq))
    ret := hstate (i := 1) (by decide) rfl
    tstat := hstate (i := 2) (by decide) rfl
    tinfo := hstate (i := 3) (by decide) rfl
    level := (hstate (i := 4) (by decide) rfl).trans hlevel
    c := fun n hn => by rw [State.readD_mem_congr h, State.readD_writeFrame_c _ _ _ _ _ _ hn, Ctx.getC, Ctx.getC, hc.c_eq] }

end

/-! ### Entering the handler (10 R241) -/

section
variable {s : State} {core ctx : Nat}

/-- The context after a trap that is not a double one, its buffered stores performed. -/
theorem State.ctx_takeTrap (hb : (s.ctx core ctx).busy = false) (hw : (s.ctx core ctx).waiter = none) (cause : Nat) (info : Word) (source : Nat) (ret : Word) :
    (s.takeTrap core ctx cause info source ret).ctx core ctx =
      { (s.drain core ctx).ctx core ctx with
        tstat := BitVec.ofNat 64 (source * 2 ^ 16 + cause), tinfo := info, busy := true, ppriv := (s.ctx core ctx).priv, priv := true,
        pc := (s.ctx core ctx).tvec, st := .handler, waiter := none, block := none } := by
  have hc := (Kept.drain s core ctx).ctx core ctx
  have hctx (m : List Host.Cell) : ({ s.drain core ctx with mem := m } : State).ctx core ctx = (s.drain core ctx).ctx core ctx := rfl
  simp only [State.takeTrap, hb, Bool.false_eq_true, if_false]
  unfold State.dropWaiter
  rw [State.writeFrame_rest]
  simp only [State.ctx_modCtx_same, hctx, hc.waiter hw, hc.priv_eq, hc.tvec_eq]

theorem State.mem_takeTrap (hb : (s.ctx core ctx).busy = false) (cause : Nat) (info : Word) (source : Nat) (ret : Word) :
    (s.takeTrap core ctx cause info source ret).mem =
      ((s.drain core ctx).writeFrame core ctx ret (BitVec.ofNat 64 (source * 2 ^ 16 + cause)) info).mem := by
  rw [State.takeTrap, if_neg (by rw [hb]; decide)]
  exact (State.dropWaiter_mem ..).trans (State.modCtx_mem ..)

theorem entered_takeTrap (hb : (s.ctx core ctx).busy = false) (hw : (s.ctx core ctx).waiter = none) (cause source : Nat) (info ret : Word) :
    Entered s (s.takeTrap core ctx cause info source ret) core ctx cause source ret info := by
  have hctx := State.ctx_takeTrap hb hw cause info source ret
  have hmem := State.mem_takeTrap hb cause info source ret
  exact {
    frame := frame_of_mem hmem
    pc := by rw [hctx]
    level := by rw [hctx]; exact ⟨rfl, rfl⟩
    busy := by rw [hctx]; exact ⟨rfl, rfl⟩
    tstat := by rw [hctx]; exact ⟨rfl, rfl⟩
    regs := fun n => by rw [hctx, ← (Kept.drain s core ctx).getX core ctx n]; rfl
    memory := fun a ha => by rw [State.byte_eq _ _ hmem]; exact State.byte_writeFrame_outside _ _ _ _ _ _ ha }

/-- A change of the trapping context's log beforehand does not show in what the trap leaves. -/
theorem entered_of_log {u t : State} {cause source : Nat} {ret info : Word} (hu : u = s.modCtx core ctx fun c => { c with log := (u.ctx core ctx).log })
    (h : Entered u t core ctx cause source ret info) : Entered s t core ctx cause source ret info := by
  have hc : u.ctx core ctx = { s.ctx core ctx with log := (u.ctx core ctx).log } := by
    conv_lhs => rw [hu]
    rw [State.ctx_modCtx_same]
  have hmem : u.mem = s.mem := by rw [hu]; rfl
  have hdrain : (u.drain core ctx).mem = (s.drain core ctx).mem := State.drain_mem_congr hmem (by rw [hc])
  have hpriv : u.privileged core ctx = s.privileged core ctx := by rw [State.privileged, State.privileged, hc]
  obtain ⟨⟨hx, hp, hret, hts, hti, hlevel, hcr⟩, hpc, hpl, hbusy, hstat, hregs, hout⟩ := h
  refine ⟨⟨fun n hn => ?_, ?_, hret, hts, hti, by rw [hlevel, hpriv], fun n hn => ?_⟩, by rw [hpc, hc], by rw [hc] at hpl; exact hpl, hbusy, hstat, fun n => ?_, fun a ha => ?_⟩
  · rw [hx n hn, hc]; rfl
  · rw [hp, hc]; rfl
  · rw [hcr n hn, hc]; rfl
  · rw [hregs, hc]; rfl
  · rw [hout a ha, State.byte_eq _ _ hdrain]

/-! ### A double trap (10 R250) -/

/-- What a frozen context still holds: the interrupted registers and its instruction. -/
theorem State.ctx_dropWaiter (s : State) (core ctx : Nat) :
    CtxKept { s.ctx core ctx with waiter := none, block := none } ((s.dropWaiter core ctx).ctx core ctx) := by
  have hsame : (s.modCtx core ctx fun c => { c with waiter := none, block := none }).ctx core ctx = { s.ctx core ctx with waiter := none, block := none } :=
    State.ctx_modCtx_same ..
  rw [← hsame]
  refine Kept.ctx ?_ core ctx
  unfold State.dropWaiter
  dsimp only
  split
  · exact .clearFlip ..
  · exact .refl _

theorem State.wrackAdd_rest (s : State) (event cause kind source : Nat) (detail : Word) (cycle : Nat) :
    s.wrackAdd event cause kind source detail cycle = { s with wrack := (s.wrackAdd event cause kind source detail cycle).wrack } := by
  unfold State.wrackAdd
  split <;> rfl

theorem State.ctx_of_cores {s t : State} (h : t.cores = s.cores) (core ctx : Nat) : t.ctx core ctx = s.ctx core ctx := by
  rw [State.ctx, State.ctx, State.core, State.core, h]

/-- The reports of a freeze change no core, and raise the harbour core's first interrupt. -/
theorem State.reportFreeze (u : State) (event cause kind source cycle k : Nat) (detail : Word) (it : Option IterRef) :
    (((u.wrackAdd event cause kind source detail cycle).hirq 0).kernelFault it k).cores = u.cores ∧
      (((u.wrackAdd event cause kind source detail cycle).hirq 0).kernelFault it k).mgmt.hirqPending = u.mgmt.hirqPending ||| 1 := by
  rw [State.wrackAdd_rest]
  cases it <;> exact ⟨rfl, rfl⟩

theorem State.mgmt_dropWaiter (s : State) (core ctx : Nat) : (s.dropWaiter core ctx).mgmt = s.mgmt := by
  unfold State.dropWaiter
  dsimp only
  split
  · rw [(Kept.clearFlip ..).rest]
    rfl
  · rfl

/-- A freeze stops the context, keeps its registers and raises the harbour core's first interrupt. -/
theorem State.freezeCtx_leaves (s : State) (core ctx cause : Nat) :
    CtxKept { s.ctx core ctx with st := .frozen, waiter := none, block := none } ((s.freezeCtx core ctx cause).ctx core ctx) ∧
      (s.freezeCtx core ctx cause).mgmt.hirqPending = s.mgmt.hirqPending ||| 1 := by
  have hdrop : CtxKept { s.ctx core ctx with st := .frozen, waiter := none, block := none }
      (((s.modCtx core ctx fun c => { c with st := .frozen }).dropWaiter core ctx).ctx core ctx) := by
    have h := State.ctx_dropWaiter (s.modCtx core ctx fun c => { c with st := .frozen }) core ctx
    rwa [State.ctx_modCtx_same] at h
  have hmgmt := State.mgmt_dropWaiter (s.modCtx core ctx fun c => { c with st := .frozen }) core ctx
  unfold State.freezeCtx
  dsimp only
  generalize (s.modCtx core ctx fun c => { c with st := .frozen }).dropWaiter core ctx = t at hdrop hmgmt ⊢
  have hflip := Kept.clearFlip t core ctx
  obtain ⟨hcores, hirq⟩ := State.reportFreeze (t.clearFlip core ctx) 1 cause 0 (wrackSource core ctx) ((t.clearFlip core ctx).core core).cycle cause 0 (s.ctx core ctx).iter
  refine ⟨?_, ?_⟩
  · rw [State.ctx_of_cores hcores]
    exact hdrop.trans (hflip.ctx core ctx)
  · rw [hirq, hflip.rest]
    exact congrArg (·.hirqPending ||| 1) hmgmt

end

/-! ### Obligation O17 -/

/-- A TRAP counts as one of the context's instructions (22 R388). -/
def Ctx.retired (c : Ctx) : Ctx := { c with log := { c.log with iret := c.log.iret + 1 } }

theorem State.modCtx_retired (s : State) (core ctx : Nat) :
    s.modCtx core ctx Ctx.retired = s.modCtx core ctx fun c => { c with log := ((s.modCtx core ctx Ctx.retired).ctx core ctx).log } := by
  rw [State.ctx_modCtx_same]
  rfl

/-- Settles O17: a trap writes the frame over the memory that the context's stores leave; one that meets a busy context freezes it. -/
theorem trapsEnterTheHandler : Obligations.TrapsEnterTheHandler := by
  unfold Obligations.TrapsEnterTheHandler
  refine ⟨⟨fun s imm hb hw => ⟨_, rfl, ?_⟩, fun s w hb hw => ⟨_, rfl, entered_takeTrap hb hw ..⟩, fun s core ctx cause source info ret hb hw => entered_takeTrap hb hw ..⟩,
    fun s core ctx cause source info ret hb hw => ?_⟩
  · have hcur : (s.modCtx s.focus.core s.focus.ctx Ctx.retired).ctx s.focus.core s.focus.ctx = s.cur.retired := State.ctx_modCtx_same ..
    exact entered_of_log (State.modCtx_retired ..) (entered_takeTrap (by rw [hcur]; exact hb) (by rw [hcur]; exact hw) ..)
  · obtain ⟨hctx, hirq⟩ := State.freezeCtx_leaves s core ctx cause
    rw [State.takeTrap_busy s _ _ _ _ _ _ hb]
    exact ⟨hctx.st_eq, fun n => by rw [Ctx.getX, hctx.x_eq]; rfl, hctx.pc_eq, hirq, sameMemory_of_mem (State.freezeCtx_mem ..)⟩

end Sys2Proof.Machine

/-! # What the streams' resume and a command's report leave of the contexts (10 R242, R245, 13 R276) -/

namespace Sys2Proof.Machine
open Sys2Proof Sys2Proof.Spec

/-- Every context is as it was but for its out-of-range record, and the same one acts. -/
structure CtxsKept (s t : State) : Prop where
  ctx : ∀ k n, t.ctx k n = { s.ctx k n with spor := (t.ctx k n).spor }
  focus : t.focus = s.focus

theorem CtxsKept.refl (s : State) : CtxsKept s s := ⟨fun _ _ => rfl, rfl⟩

theorem CtxsKept.trans {s t u : State} (h : CtxsKept s t) (h' : CtxsKept t u) : CtxsKept s u :=
  ⟨fun k n => (h'.ctx k n).trans (by rw [h.ctx k n]), h'.focus.trans h.focus⟩

theorem CtxsKept.pc {s t : State} (h : CtxsKept s t) (k n : Nat) : (t.ctx k n).pc = (s.ctx k n).pc := by rw [h.ctx]

theorem CtxsKept.cur {s t : State} (h : CtxsKept s t) : t.cur = { s.cur with spor := t.cur.spor } := by
  unfold State.cur
  rw [h.focus]
  exact h.ctx ..

theorem CtxsKept.ite {s t u : State} {p : Prop} [Decidable p] (ht : CtxsKept s t) (hu : CtxsKept s u) : CtxsKept s (if p then t else u) := by
  split
  · exact ht
  · exact hu

theorem CtxsKept.foldl {α : Type} (f : State → α → State) (l : List α) (h : ∀ t a, CtxsKept t (f t a)) (s : State) : CtxsKept s (l.foldl f s) :=
  foldl_keeps (CtxsKept s) f l (fun t a _ ht => ht.trans (h t a)) s (.refl s)

theorem CtxsKept.of_cores {s t : State} (hc : t.cores = s.cores) (hf : t.focus = s.focus) : CtxsKept s t :=
  ⟨fun k n => by rw [State.ctx_of_cores hc], hf⟩

theorem State.ctx_modCore (s : State) (c : Nat) {f : Core → Core} (h : (f (s.core c)).ctxs = (s.core c).ctxs) (k n : Nat) :
    (s.modCore c f).ctx k n = s.ctx k n := by
  rw [State.ctx, State.ctx]
  by_cases hk : k = c
  · rw [hk, State.core_modCore_same, Core.ctx, Core.ctx, h]
  · rw [State.core_modCore_other _ _ _ _ hk]

theorem CtxsKept.modCore (s : State) (c : Nat) {f : Core → Core} (h : (f (s.core c)).ctxs = (s.core c).ctxs) : CtxsKept s (s.modCore c f) :=
  ⟨fun k n => by rw [State.ctx_modCore s c h], rfl⟩

theorem CtxsKept.modQueue (s : State) (q : QueueId) (f : Queue → Queue) : CtxsKept s (s.modQueue q f) := by
  cases q with
  | mq c => exact .modCore s c (f := fun k => { k with mq := f ((s.core c).mq) }) rfl
  | vq c => exact .modCore s c (f := fun k => { k with vq := f ((s.core c).vq) }) rfl
  | cq c => exact .modCore s c (f := fun k => { k with cq := f ((s.core c).cq) }) rfl
  | oq u => exact .of_cores rfl rfl
  | lq d => exact .of_cores rfl rfl

theorem CtxsKept.recordSpor (s : State) (core ctx a : Nat) : CtxsKept s (s.recordSpor core ctx a) := by
  refine ⟨fun k n => ?_, rfl⟩
  unfold State.recordSpor
  by_cases h : k = core ∧ n = ctx
  · rw [h.1, h.2, State.ctx_modCtx_same]
    split <;> rfl
  · rw [State.ctx_modCtx_other _ _ _ _ _ _ h]

/-! ### Reports and traces (13 R276, 23 R405) -/

theorem CtxsKept.report (s : State) (e : Entry) (state : Nat) : CtxsKept s (s.report e state) := by
  unfold State.report
  exact .ite (.refl s) (.modCore s e.core (by split <;> rfl))

theorem CtxsKept.trace (s : State) (core bit kind source cycle p0 p1 : Nat) : CtxsKept s (s.trace core bit kind source cycle p0 p1) := by
  obtain ⟨hf, hc⟩ := State.trace_core s core bit kind source cycle p0 p1
  refine ⟨fun k n => ?_, hf⟩
  obtain ⟨h, d, hk⟩ := hc k
  rw [State.ctx, State.ctx, hk]
  rfl

theorem CtxsKept.traceCmd (s : State) (q : QueueId) (kind : Nat) (e : Entry) : CtxsKept s (s.traceCmd q kind e) := by
  cases q with
  | oq u => exact .refl s
  | lq d => exact .refl s
  | mq c => exact .trace ..
  | vq c => exact .trace ..
  | cq c => exact .trace ..

theorem CtxsKept.hirq_wrackAdd (s : State) (event cause kind source cycle b : Nat) (detail : Word) :
    CtxsKept s ((s.wrackAdd event cause kind source detail cycle).hirq b) := by
  rw [State.wrackAdd_rest]
  exact .of_cores rfl rfl

theorem CtxsKept.faultCmd (s : State) (q : QueueId) (seq cause : Nat) (freeze : Bool) : CtxsKept s (s.faultCmd q seq cause freeze) := by
  unfold State.faultCmd
  split
  · exact .refl s
  · extract_lets e0' e s1 code s2 s3
    have h1 : CtxsKept s s1 := .modQueue ..
    have h2 : CtxsKept s1 s2 := by
      dsimp only [s2]
      clear s3 s2
      clear_value code
      cases code with
      | none => exact .refl s1
      | some c => exact .modCore s1 _ rfl
    have h3 : CtxsKept s2 s3 := (CtxsKept.report ..).trans (.traceCmd ..)
    have h := (h1.trans h2).trans h3
    clear_value s1 s2 s3
    exact .ite (h.trans (.hirq_wrackAdd ..)) h

/-! ### Stream stops and resumes (10 R242, R244, R245) -/

theorem CtxsKept.raiseStall (s : State) (core time : Nat) : CtxsKept s (s.raiseStall core time) := by
  unfold State.raiseStall
  split
  · exact .refl s
  · exact .ite (.refl s) (.of_cores rfl rfl)

theorem CtxsKept.dropStall (s : State) (core : Nat) : CtxsKept s (s.dropStall core) := by
  unfold State.dropStall
  split
  · exact .refl s
  · exact .of_cores rfl rfl

theorem CtxsKept.stopSpread (s : State) (core cause : Nat) (report : Bool) : CtxsKept s (s.stopSpread core cause report) := by
  unfold State.stopSpread
  extract_lets s0 rose s1
  have h1 : CtxsKept s s1 := (CtxsKept.modCore s core (by rfl)).trans (.raiseStall ..)
  clear_value s1
  split
  · exact h1
  · extract_lets s2 frozen
    have h2 : CtxsKept s s2 := by
      dsimp only [s2]
      split
      · refine .ite (h1.trans (.foldl _ _ (fun t c => .ite (.refl t) ((CtxsKept.modCore t c (by rfl)).trans (.raiseStall ..))) _)) h1
      · exact h1
    clear_value s2 frozen
    exact .ite (h2.trans ((CtxsKept.modCore s2 core (by rfl)).trans (.faultCmd ..))) h2

theorem CtxsKept.addrChecks (s : State) (j : Job) (addrs : List Nat) :
    (∀ t, s.addrChecks j addrs = .ok t → CtxsKept s t) ∧ ∀ t c, s.addrChecks j addrs = .stop t c → CtxsKept s t := by
  have hspor (far : List Nat) : CtxsKept s (match far with | [] => s | a :: _ => s.recordSpor j.core j.ctx a) := by
    cases far with
    | nil => exact .refl s
    | cons a _ => exact .recordSpor ..
  refine ⟨fun t h => ?_, fun t c h => ?_⟩ <;> unfold State.addrChecks at h
  · split at h
    · cases h
    · split at h
      · cases h
      · extract_lets far s1 at h
        have h1 : CtxsKept s s1 := hspor far
        clear_value s1
        split at h
        · cases h
        · cases h
          exact h1
  · split at h
    · cases h
      exact .refl s
    · split at h
      · cases h
        exact .refl s
      · extract_lets far s1 at h
        have h1 : CtxsKept s s1 := hspor far
        clear_value s1
        split at h
        · cases h
          exact h1
        · cases h

theorem CtxsKept.reload (s : State) (core : Nat) (j : Job) (r : Landing) :
    (∀ t r', s.reload core j r = .ok (t, r') → CtxsKept s t) ∧ ∀ e, s.reload core j r = .error e → CtxsKept s e.1 := by
  obtain ⟨hok, hstop⟩ := CtxsKept.addrChecks s j ((lanesOf r.lanes).map fun l => r.addrs.getD l 0)
  unfold State.reload
  dsimp only
  refine ⟨fun t r' h => ?_, fun e h => ?_⟩
  · split at h
    · split at h
      · cases h
      · next ht =>
        cases h
        exact hok _ ht
    · cases h
      exact .refl s
  · split at h
    · split at h
      · next ht =>
        cases h
        exact hstop _ _ ht
      · cases h
    · cases h

theorem CtxsKept.reloads (core : Nat) (j : Job) (rs : List Landing) (s : State) :
    (∀ t rs', s.reloads core j rs = .ok (t, rs') → CtxsKept s t) ∧ ∀ e, s.reloads core j rs = .error e → CtxsKept s e.1 := by
  induction rs generalizing s with
  | nil => exact ⟨fun t rs' h => by cases h; exact .refl s, fun e h => by cases h⟩
  | cons r rs ih =>
    obtain ⟨hok, herr⟩ := CtxsKept.reload s core j r
    unfold State.reloads
    refine ⟨fun t rs' h => ?_, fun e h => ?_⟩
    · split at h
      · cases h
      · next u r' hu =>
        split at h
        · cases h
        · next ht =>
          cases h
          exact (hok _ _ hu).trans ((ih u).1 _ _ ht)
    · split at h
      · next he =>
        cases h
        exact herr _ he
      · next u r' hu =>
        split at h
        · next he =>
          cases h
          exact (hok _ _ hu).trans ((ih u).2 _ he)
        · cases h

theorem CtxsKept.readVFrame (s : State) (core : Nat) (j : Job) :
    (∀ t, s.readVFrame core j = .ok t → CtxsKept s t) ∧ ∀ e, s.readVFrame core j = .error e → CtxsKept s e.1 := by
  unfold State.readVFrame
  extract_lets k b rd n base row
  refine ⟨fun t h => ?_, fun e h => ?_⟩
  · split at h
    · split at h
      · cases h
      · split at h
        · cases h
        · split at h
          · cases h
          · next hl =>
            cases h
            exact ((CtxsKept.reloads ..).1 _ _ hl).trans (.modCore _ core rfl)
    · cases h
  · split at h
    · split at h
      · cases h; exact .refl s
      · split at h
        · cases h; exact .refl s
        · split at h
          · next he =>
            cases h
            exact (CtxsKept.reloads ..).2 _ he
          · cases h
    · cases h; exact .refl s

theorem CtxsKept.recode (s : State) (core : Nat) : CtxsKept s (s.recode core) := .modCore s core rfl

theorem CtxsKept.writeD (s : State) (l : Nat) (v : Word) : CtxsKept s (s.writeD l v) := .of_cores (by simp) (by simp)

theorem CtxsKept.vecResume (s : State) (core : Nat) : CtxsKept s (s.vecResume core) := by
  unfold State.vecResume
  dsimp only
  split
  · exact .refl s
  · next j _ =>
    obtain ⟨hok, herr⟩ := CtxsKept.readVFrame s core j
    split
    · exact .refl s
    · split
      · next ht => exact (hok _ ht).trans ((CtxsKept.dropStall ..).trans (.recode ..))
      · next he => exact (herr _ he).trans ((CtxsKept.modCore _ core (by rfl)).trans ((CtxsKept.writeD ..).trans (.stopSpread ..)))

theorem CtxsKept.readMFrame {s t : State} {core : Nat} (h : s.readMFrame core = some t) : CtxsKept s t := by
  unfold State.readMFrame at h
  extract_lets k m b rd w32 row n at h
  split at h
  · split at h
    · cases h
    · cases h
      exact .modCore s core rfl
  · cases h

theorem CtxsKept.matResume (s : State) (core : Nat) : CtxsKept s (s.matResume core) := by
  unfold State.matResume
  split
  · exact .refl s
  · split
    · next ht => exact (CtxsKept.readMFrame ht).trans ((CtxsKept.dropStall ..).trans (.recode ..))
    · exact (CtxsKept.modCore s core (by rfl)).trans ((CtxsKept.writeD ..).trans (.stopSpread ..))

theorem CtxsKept.resumeStreams (s : State) (core : Nat) : CtxsKept s (s.resumeStreams core) := by
  unfold State.resumeStreams
  extract_lets s1 s2
  have h2 : CtxsKept s s2 := by
    refine (CtxsKept.modCore s core (by rfl)).trans ((CtxsKept.vecResume ..).trans ((CtxsKept.matResume ..).trans (.modCore _ core ?_)))
    unfold Core.countTogether
    split <;> rfl
  clear_value s2
  exact .ite (h2.trans (.modCore s2 core (by rfl))) h2

end Sys2Proof.Machine

/-! # The return from a trap (05 R121, 10 R242) -/

namespace Sys2Proof.Machine
open Sys2Proof Sys2Proof.Spec

/-! ### Registers read from a frame -/

theorem bitOf_eq_testBit (w i : Nat) : bitOf w i = w.testBit i := by
  rw [bitOf, Nat.testBit_eq_decide_div_mod_eq]
  rfl

theorem State.readD_getLsbD (s : State) (l : Nat) {n : Nat} (hn : n < 64) : (s.readD l).getLsbD n = bitOf (s.read l 8) n := by
  rw [State.readD, BitVec.getLsbD_ofNat, bitOf_eq_testBit, decide_eq_true hn, Bool.true_and]

/-- The first m registers of a context, each written with its value. -/
def Ctx.loadX (c : Ctx) (v : Nat → Word) (m : Nat) : Ctx := (List.range m).foldl (fun c n => c.setX n (v n)) c
def Ctx.loadP (c : Ctx) (v : Nat → Bool) (m : Nat) : Ctx := (List.range m).foldl (fun c n => c.setP n (v n)) c
def Ctx.loadC (c : Ctx) (v : Nat → Word) (m : Nat) : Ctx := (List.range m).foldl (fun c n => c.setC n (v n)) c

section
variable (c : Ctx) (m : Nat)

theorem Ctx.loadX_succ (v : Nat → Word) : c.loadX v (m + 1) = (c.loadX v m).setX m (v m) := by
  rw [Ctx.loadX, List.range_succ, List.foldl_append]; rfl

theorem Ctx.loadP_succ (v : Nat → Bool) : c.loadP v (m + 1) = (c.loadP v m).setP m (v m) := by
  rw [Ctx.loadP, List.range_succ, List.foldl_append]; rfl

theorem Ctx.loadC_succ (v : Nat → Word) : c.loadC v (m + 1) = (c.loadC v m).setC m (v m) := by
  rw [Ctx.loadC, List.range_succ, List.foldl_append]; rfl

theorem Ctx.getX_loadX (v : Nat → Word) {n : Nat} (hn : n < m) : (c.loadX v m).getX n = if n = 0 then 0 else v n := by
  induction m with
  | zero => omega
  | succ m ih =>
    rw [Ctx.loadX_succ, Ctx.getX_setX]
    by_cases h : n = m
    · subst h
      by_cases h0 : n = 0
      · simp [h0, Ctx.getX]
      · simp [h0]
    · rw [if_neg (fun hm => h hm.1), ih (by omega)]

theorem Ctx.getP_loadP (v : Nat → Bool) {n : Nat} (hn : n < m) : (c.loadP v m).getP n = (n == 0 || v n) := by
  induction m with
  | zero => omega
  | succ m ih =>
    rw [Ctx.loadP_succ, Ctx.getP_setP]
    by_cases h : n = m
    · subst h
      by_cases h0 : n = 0
      · simp [h0, Ctx.getP]
      · simp [h0]
    · rw [if_neg (fun hm => h hm.1), ih (by omega)]

theorem Ctx.getC_loadC (v : Nat → Word) {n : Nat} (hn : n < m) : (c.loadC v m).getC n = v n := by
  induction m with
  | zero => omega
  | succ m ih =>
    rw [Ctx.loadC_succ, Ctx.getC_setC]
    by_cases h : n = m
    · rw [if_pos h, h]
    · rw [if_neg h, ih (by omega)]

theorem Ctx.getX_loadP (v : Nat → Bool) (n : Nat) : (c.loadP v m).getX n = c.getX n :=
  foldl_keeps (fun d : Ctx => d.getX n = c.getX n) _ _ (fun d i _ h => (Ctx.getX_setP d i n _).trans h) c rfl

theorem Ctx.getX_loadC (v : Nat → Word) (n : Nat) : (c.loadC v m).getX n = c.getX n :=
  foldl_keeps (fun d : Ctx => d.getX n = c.getX n) _ _ (fun d i _ h => (Ctx.getX_setC d i n _).trans h) c rfl

theorem Ctx.getP_loadC (v : Nat → Word) (n : Nat) : (c.loadC v m).getP n = c.getP n :=
  foldl_keeps (fun d : Ctx => d.getP n = c.getP n) _ _ (fun d i _ h => (Ctx.getP_setC d i n _).trans h) c rfl

end

theorem Core.restoreCounters_rest (k : Core) (ctx : Nat) (vs : List Nat) : k.restoreCounters ctx vs = { k with rings := (k.restoreCounters ctx vs).rings } := by
  refine foldl_keeps (fun l : Core => l = { k with rings := l.rings }) _ _ (fun l z _ h => ?_) k rfl
  split
  · rw [h]
    rfl
  · exact h

section
variable (s : State) (core ctx : Nat)

/-- The context's registers as its frame holds them. -/
def State.restored : Ctx :=
  (((s.ctx core ctx).loadX (fun n => s.readD (frameLoc core ctx + 8 * n)) 32).loadP (fun n => bitOf (s.read (frameLoc core ctx + 0x100) 8) n) 16).loadC
    (fun n => s.readD (frameLoc core ctx + 0x180 + 8 * n)) 16

theorem State.ctx_restoreRegs : (s.restoreRegs core ctx).ctx core ctx = s.restored core ctx := by
  unfold State.restoreRegs
  dsimp only
  rw [State.ctx_modCore _ _ (by rw [Core.restoreCounters_rest]), State.ctx_modCtx_same]
  rfl

theorem State.preempt_restoreRegs (k : Nat) : ((s.restoreRegs core ctx).core k).preempt = (s.core k).preempt := by
  unfold State.restoreRegs
  dsimp only
  by_cases hk : k = core
  · rw [hk, State.core_modCore_same, Core.restoreCounters_rest, State.core_modCtx]
  · rw [State.core_modCore_other _ _ _ _ hk, State.core_modCtx]

theorem State.preempt_returnFromTrap (k : Nat) : ((s.returnFromTrap core ctx).core k).preempt = (s.core k).preempt := by
  unfold State.returnFromTrap
  dsimp only
  rw [State.core_modCtx, State.preempt_restoreRegs, ((Kept.drain s core ctx).core k).rest]

theorem State.getX_restored {n : Nat} (hn : n < 32) : (s.restored core ctx).getX n = if n = 0 then 0 else s.readD (frameLoc core ctx + 8 * n) := by
  rw [State.restored, Ctx.getX_loadC, Ctx.getX_loadP, Ctx.getX_loadX _ _ _ hn]

theorem State.getP_restored {n : Nat} (hn : n < 16) : (s.restored core ctx).getP n = (n == 0 || (s.readD (frameLoc core ctx + 0x100)).getLsbD n) := by
  rw [State.restored, Ctx.getP_loadC, Ctx.getP_loadP _ _ _ hn, State.readD_getLsbD _ _ (by omega)]

theorem State.getC_restored {n : Nat} (hn : n < 16) : (s.restored core ctx).getC n = s.readD (frameLoc core ctx + 0x180 + 8 * n) := by
  rw [State.restored, Ctx.getC_loadC _ _ _ hn]

/-- Where a context goes on does not show in its registers. -/
theorem Ctx.regs_goTo (c : Ctx) (pc : Word) (priv busy : Bool) (st : CtxSt) (n : Nat) :
    ({ c with pc := pc, priv := priv, busy := busy, st := st } : Ctx).getX n = c.getX n ∧
      ({ c with pc := pc, priv := priv, busy := busy, st := st } : Ctx).getP n = c.getP n ∧
      ({ c with pc := pc, priv := priv, busy := busy, st := st } : Ctx).getC n = c.getC n := ⟨rfl, rfl, rfl⟩

/-- A return leaves the registers of the frame. -/
theorem State.returnFromTrap_regs (n : Nat) :
    ((s.returnFromTrap core ctx).ctx core ctx).getX n = ((s.drain core ctx).restored core ctx).getX n ∧
    ((s.returnFromTrap core ctx).ctx core ctx).getP n = ((s.drain core ctx).restored core ctx).getP n ∧
    ((s.returnFromTrap core ctx).ctx core ctx).getC n = ((s.drain core ctx).restored core ctx).getC n := by
  unfold State.returnFromTrap
  dsimp only
  rw [State.ctx_modCtx_same, State.ctx_restoreRegs]
  exact Ctx.regs_goTo ..

theorem State.returnFromTrap_mem : (s.returnFromTrap core ctx).mem = (s.drain core ctx).mem := by
  unfold State.returnFromTrap
  dsimp only
  rw [State.modCtx_mem, State.restoreRegs_mem]

theorem State.returnFromTrap_focus : (s.returnFromTrap core ctx).focus = s.focus := by
  unfold State.returnFromTrap State.restoreRegs
  dsimp only
  rw [State.modCtx_focus, State.modCore_focus, State.modCtx_focus, (Kept.drain s core ctx).focus]

end

theorem State.getC_retire (s : State) (pc : Word) (n : Nat) : (s.retire pc).cur.getC n = s.cur.getC n := by
  rw [State.cur_retire]
  rfl

/-- What retiring leaves of the acting context's control. -/
theorem State.control_retire (s : State) (pc : Word) : (s.retire pc).cur.pc = pc ∧ (s.retire pc).cur.priv = s.cur.priv ∧ (s.retire pc).cur.busy = s.cur.busy ∧
    (s.retire pc).cur.st = goesOn s.cur := by
  rw [State.cur_retire]
  exact ⟨rfl, rfl, rfl, rfl⟩

theorem goesOn_of_running {c : Ctx} (h : c.st = .running) : goesOn c = .running := by
  rw [goesOn, h]
  rfl

/-! ### Obligation O18 -/

section
variable {s : State}

/-- RFE goes to its frame's return address, from the state in which the streams run again. -/
theorem exec_rfe (h : s.privileged s.focus.core s.focus.ctx = true) {u : State}
    (hu : (s.rfeResumes s.focus.core s.focus.ctx).foldl State.rfeStreams (s.returnFromTrap s.focus.core s.focus.ctx) = u)
    (hk : CtxsKept (s.returnFromTrap s.focus.core s.focus.ctx) u) :
    exec .rfe s = finish s (.jump u (s.release.readD (frameLoc s.focus.core s.focus.ctx + 0x108))) := by
  have hpc : (u.ctx s.focus.core s.focus.ctx).pc = s.release.readD (frameLoc s.focus.core s.focus.ctx + 0x108) := by
    rw [hk.pc, (State.returnFromTrap_ctx s _ _).1, State.release]
  show execRfe s = _
  unfold execRfe
  dsimp only
  rw [h, hu, hpc, if_neg (by decide)]

theorem exec_rfe_alone (h : s.privileged s.focus.core s.focus.ctx = true) (hr : s.rfeResumes s.focus.core s.focus.ctx = []) : exec .rfe s =
    finish s (.jump (s.returnFromTrap s.focus.core s.focus.ctx) (s.release.readD (frameLoc s.focus.core s.focus.ctx + 0x108))) :=
  exec_rfe h (by rw [hr]; rfl) (.refl _)

theorem exec_rfe_stream (h : s.privileged s.focus.core s.focus.ctx = true) {c : Nat} (hr : s.rfeResumes s.focus.core s.focus.ctx = [c])
    (hpre : (s.core c).preempt.state = 0) : exec .rfe s =
    finish s (.jump ((s.returnFromTrap s.focus.core s.focus.ctx).resumeStreams c) (s.release.readD (frameLoc s.focus.core s.focus.ctx + 0x108))) := by
  refine exec_rfe h ?_ (.resumeStreams ..)
  rw [hr, List.foldl_cons, List.foldl_nil, State.rfeStreams, State.preempt_returnFromTrap, if_pos hpre]

theorem cur_returnFromTrap (s : State) : (s.returnFromTrap s.focus.core s.focus.ctx).cur = (s.returnFromTrap s.focus.core s.focus.ctx).ctx s.focus.core s.focus.ctx := by
  rw [State.cur, State.returnFromTrap_focus]

end

/-- Settles O18: the return takes the registers from the frame, and streams that resume change no context. -/
theorem rfeReturnsFromTheFrame : Obligations.RfeReturnsFromTheFrame := by
  unfold Obligations.RfeReturnsFromTheFrame
  refine ⟨fun s hp hr hal hne => ?_, fun s c hp hr hpre hal hne => ?_, fun s hp => ?_, fun s hp hr hal => ?_⟩
  · obtain ⟨hpc, hbusy, hst, hpriv⟩ := State.returnFromTrap_ctx s s.focus.core s.focus.ctx
    have hregs := State.returnFromTrap_regs s s.focus.core s.focus.ctx
    have hmem := State.returnFromTrap_mem s s.focus.core s.focus.ctx
    have hcur := cur_returnFromTrap s
    have hrun := exec_rfe_alone hp hr
    obtain ⟨hpc', hpriv', hbusy', hst'⟩ := State.control_retire (s.returnFromTrap s.focus.core s.focus.ctx) (s.release.readD (frameLoc s.focus.core s.focus.ctx + 0x108))
    rw [← hcur] at hbusy hst hpriv hregs
    refine ⟨_, hrun.trans (finish_jump _ _ _ hal hne), fun n hn => ?_, fun n hn => ?_, fun n hn => ?_, ?_, ?_, ?_, ?_, ?_⟩
    · rw [State.x_retire, State.x, (hregs n).1, State.getX_restored _ _ _ hn]; rfl
    · rw [State.p_retire, State.p, (hregs n).2.1, State.getP_restored _ _ _ hn]; rfl
    · rw [State.getC_retire, (hregs n).2.2, State.getC_restored _ _ _ hn]; rfl
    · exact hpc'
    · rw [hpriv', hpriv]
      exact (State.readD_getLsbD _ _ (by decide)).symm
    · rw [hbusy', hbusy]
    · rw [hst', goesOn_of_running hst]
    · exact sameMemory_of_mem ((State.retire_mem ..).trans hmem)
  · have hk := CtxsKept.resumeStreams (s.returnFromTrap s.focus.core s.focus.ctx) c
    have hbusy := (State.returnFromTrap_ctx s s.focus.core s.focus.ctx).2.1
    rw [← cur_returnFromTrap] at hbusy
    have hrun := exec_rfe_stream hp hr hpre
    obtain ⟨hpc', -, hbusy', -⟩ := State.control_retire ((s.returnFromTrap s.focus.core s.focus.ctx).resumeStreams c)
      (s.release.readD (frameLoc s.focus.core s.focus.ctx + 0x108))
    refine ⟨_, hrun.trans (finish_jump _ _ _ hal hne), hpc', ?_, ?_, ?_, ?_⟩
    · rw [hbusy', hk.cur, ← hbusy]
    · rw [State.core_retire]
    · rw [State.core_retire]
    · exact sameMemory_of_mem (State.retire_mem ..)
  · show execRfe s = _
    unfold execRfe
    dsimp only
    rw [hp, if_pos (by decide)]
    rfl
  · exact (exec_rfe_alone hp hr).trans (finish_jump_misaligned _ _ _ hal)

end Sys2Proof.Machine

/-! # Interrupts, late loads and the stops of streams (05 R122, 10 R233, R239, R244, R247) -/

namespace Sys2Proof.Machine
open Sys2Proof Sys2Proof.Spec

section
variable {s : State} {core ctx : Nat}

/-! ### A trap's entry -/

/-- A record in a context's log changes nothing of the state but that log. -/
theorem State.logRec_eq_modCtx (s : State) (core ctx kind size loc : Nat) (body : List Word) : s.logRec core ctx kind size loc body =
    s.modCtx core ctx fun c => { c with log := ((s.logRec core ctx kind size loc body).ctx core ctx).log } := by
  unfold State.logRec
  rw [State.ctx_modCtx_same]
  rfl

theorem State.ctx_logRec (s : State) (core ctx kind size loc : Nat) (body : List Word) : (s.logRec core ctx kind size loc body).ctx core ctx =
    { s.ctx core ctx with log := ((s.logRec core ctx kind size loc body).ctx core ctx).log } := by
  conv_lhs => rw [State.logRec_eq_modCtx]
  rw [State.ctx_modCtx_same]

/-- An interrupt enters the handler of a context that no trap holds. -/
theorem entered_takeIrq (hb : (s.ctx core ctx).busy = false) (hw : (s.ctx core ctx).waiter = none) :
    Entered s (s.takeIrq core ctx) core ctx 0x10 1 (s.ctx core ctx).pc 0 := by
  refine entered_of_log (State.logRec_eq_modCtx ..) (entered_takeTrap ?_ ?_ ..)
  · rw [State.ctx_logRec]; exact hb
  · rw [State.ctx_logRec]; exact hw

theorem Ctx.atBoundary_iff (c : Ctx) :
    c.atBoundary = true ↔ ((c.st = .running ∨ c.st = .waiting ∨ c.st = .handler) ∧ c.busy = false) ∧ c.loads.isEmpty = true ∧ c.dbg = false := by
  simp [Ctx.atBoundary, and_assoc]

/-! ### Late loads (10 R247) -/

/-- The context behind its only outstanding load, which has returned v. -/
def Ctx.returned (l : OutLoad) (v : Word) (c : Ctx) : Ctx := { c.setX l.rd v with loads := [] }

/-- The context as it was when its outstanding load issued. -/
def Ctx.rolledBack (l : OutLoad) (c : Ctx) : Ctx :=
  { c with x := l.mark.x, p := l.mark.p, c := l.mark.c, pc := l.mark.pc, sbuf := c.sbuf.take l.mark.sbuf, loads := []
           st := if c.busy then .handler else .running, log := { c.log with iret := l.mark.iret } }

theorem State.drain_nil (h : (s.ctx core ctx).sbuf = []) : s.drain core ctx = s.modCtx core ctx fun c => { c with sbuf := [] } := by
  rw [State.drain, h, List.foldl_nil]

theorem State.showRings_nil (hl : (s.ctx core ctx).loads = []) (hb : (s.ctx core ctx).sbuf = []) :
    s.showRings core ctx = s.modCtx core ctx fun c => { c with sbuf := [] } := by
  rw [← State.drain_nil hb, State.showRings, hl]

variable {l : OutLoad}

theorem exec_loadReturn_clean (hl : (s.ctx core ctx).loads = [l]) (hp : s.anyPoison l.loc l.size = false) (hb : (s.ctx core ctx).sbuf = []) :
    exec (.loadReturn core ctx) s =
      .next ((s.modCtx core ctx (Ctx.returned l (sextWord (8 * l.size) (s.read l.loc l.size)))).modCtx core ctx fun c => { c with sbuf := [] }) := by
  show execLoadReturn core ctx s = _
  unfold execLoadReturn
  dsimp only
  rw [hl]
  dsimp only
  rw [hp, if_neg (by decide), hb, List.take_nil, State.seen, List.foldl_nil, List.map_nil]
  refine congrArg Host.Outcome.next (State.showRings_nil ?_ ?_)
  · rw [State.ctx_modCtx_same]
  · rw [State.ctx_modCtx_same]
    exact (Ctx.setX_sbuf ..).trans hb

theorem exec_loadReturn_poison (hl : (s.ctx core ctx).loads = [l]) (hp : s.anyPoison l.loc l.size = true) :
    exec (.loadReturn core ctx) s = .next (((s.modCtx core ctx (Ctx.rolledBack l)).modCore core fun k => k.restoreCounters ctx l.mark.counters).takeTrap core ctx 0x06 l.addr 0 l.mark.pc) := by
  show execLoadReturn core ctx s = _
  unfold execLoadReturn
  dsimp only
  rw [hl]
  dsimp only
  rw [hp, if_pos rfl]
  rfl

/-- A clean return writes the register of the load and ends the wait for it. -/
theorem Ctx.returned_leaves (l : OutLoad) (v : Word) (c : Ctx) :
    (c.returned l v).loads = [] ∧ (c.returned l v).pc = c.pc ∧ ∀ n, (c.returned l v).getX n = if n = l.rd ∧ n ≠ 0 then v else c.getX n := by
  refine ⟨rfl, Ctx.setX_pc .., fun n => ?_⟩
  show (c.setX l.rd v).getX n = _
  rw [Ctx.getX_setX]
  by_cases h : n = l.rd
  · rw [h]
  · rw [if_neg (fun hn => h hn.1), if_neg (fun hn => h hn.1)]

theorem State.ctx_rolledBack : ((s.modCtx core ctx (Ctx.rolledBack l)).modCore core fun k => k.restoreCounters ctx l.mark.counters).ctx core ctx =
    (s.ctx core ctx).rolledBack l := by
  rw [State.ctx_modCore _ _ (by rw [Core.restoreCounters_rest]), State.ctx_modCtx_same]

/-! ### The traps of stopped streams (10 R244) -/

/-- What comes before the trap of stopped streams changes the context's log at most. -/
theorem takeStop_eq (s : State) (core ctx : Nat) (t : Nat × Nat × Nat × Nat) :
    ∃ u : State, s.takeStop core ctx t = u.takeTrap core ctx t.2.2.1 (BitVec.ofNat 64 t.2.2.2) t.2.1 (s.ctx core ctx).pc ∧
      ∃ log, u.ctx core ctx = { s.ctx core ctx with log := log } := by
  unfold State.takeStop
  extract_lets c s1 s2
  refine ⟨s2, rfl, ?_⟩
  have h1 : s1.ctx core ctx = s.ctx core ctx := State.ctx_modCore s _ rfl ..
  dsimp only [s2]
  clear s2
  clear_value s1
  split
  · unfold State.dropIrq
    rw [State.ctx_modCtx_same, State.ctx_logRec, h1]
    split
    · exact ⟨_, rfl⟩
    · exact ⟨_, rfl⟩
  · exact ⟨_, h1⟩

/-- The trap of stopped streams enters the handler. -/
theorem entered_takeStop (hb : (s.ctx core ctx).busy = false) (hw : (s.ctx core ctx).waiter = none) (c source cause cycle : Nat) :
    ∃ u log, u.ctx core ctx = { s.ctx core ctx with log := log } ∧
      Entered u (s.takeStop core ctx (c, source, cause, cycle)) core ctx cause source (s.ctx core ctx).pc (BitVec.ofNat 64 cycle) := by
  obtain ⟨u, hu, log, hctx⟩ := takeStop_eq s core ctx (c, source, cause, cycle)
  refine ⟨u, log, hctx, ?_⟩
  rw [hu]
  exact entered_takeTrap (by rw [hctx]; exact hb) (by rw [hctx]; exact hw) ..

end

/-! ### Obligation O19 -/

/-- Settles O19: each held trap is `State.takeTrap` behind what has come before it, and a clean load writes its register. -/
theorem interruptsAndHeldTraps : Obligations.InterruptsAndHeldTraps := by
  unfold Obligations.InterruptsAndHeldTraps
  refine ⟨fun s core ctx hat htake howed hrep hw => ?_, fun s core ctx hb => ?_, fun s core ctx hst => ?_, fun s core ctx l hl hp hb => ?_,
    fun s core ctx l hl hp hb hw => ?_, fun s core j source cause cycle hj howed hat hw => ?_, fun s core hstop hrun hat => ?_⟩
  · have hb := ((Ctx.atBoundary_iff _).1 hat).1.2
    refine ⟨_, ?_, entered_takeIrq hb hw⟩
    show execInterruptTake core ctx s = _
    simp only [execInterruptTake, hat, htake, howed, hrep, ne_eq, not_false_eq_true, decide_true, Option.isNone_none, Bool.and_self, if_true]
  · have hat : (s.ctx core ctx).atBoundary = false := by simp [Ctx.atBoundary, hb]
    show execInterruptTake core ctx s = _
    simp only [execInterruptTake, hat, Bool.false_and, Bool.false_eq_true, if_false]
  · exact if_pos hst
  · obtain ⟨hloads, hpc, hx⟩ := Ctx.returned_leaves l (sextWord (8 * l.size) (s.read l.loc l.size)) (s.ctx core ctx)
    refine ⟨_, exec_loadReturn_clean hl hp hb, ?_, ?_, ?_, ?_⟩
    · rw [State.ctx_modCtx_same, State.ctx_modCtx_same]
      exact hloads
    · rw [State.ctx_modCtx_same, State.ctx_modCtx_same]
      exact hpc
    · exact sameMemory_of_mem ((State.modCtx_mem ..).trans (State.modCtx_mem ..))
    · rw [State.ctx_modCtx_same, State.ctx_modCtx_same]
      exact hx
  · have hctx := State.ctx_rolledBack (s := s) (core := core) (ctx := ctx) (l := l)
    have hrun := exec_loadReturn_poison hl hp
    generalize (s.modCtx core ctx (Ctx.rolledBack l)).modCore core (fun k => k.restoreCounters ctx l.mark.counters) = u at hctx hrun
    have hb' : (u.ctx core ctx).busy = false := by rw [hctx]; exact hb
    have hw' : (u.ctx core ctx).waiter = none := by rw [hctx]; exact hw
    obtain ⟨hframe, hpc, -, ⟨-, hst⟩, ⟨htstat, htinfo⟩, -, -⟩ := entered_takeTrap hb' hw' 0x06 0 l.addr l.mark.pc
    refine ⟨_, hrun, hst, ?_, ?_, htstat, htinfo, hframe.ret⟩
    · rw [hpc, hctx]; rfl
    · rw [State.ctx_takeTrap hb' hw']
      exact ((Kept.drain u core ctx).ctx core ctx).loads_eq.trans (by rw [hctx]; rfl)
  · have hb := ((Ctx.atBoundary_iff _).1 hat).1.2
    obtain ⟨u, log, hctx, -, hpc, -, ⟨-, hst⟩, ⟨htstat, htinfo⟩, -, -⟩ := entered_takeStop hb hw core source cause cycle
    refine ⟨_, ?_, hst, ?_, htstat, htinfo⟩
    · show execStreamStopTrap core s = _
      unfold execStreamStopTrap
      rw [hj]
      dsimp only
      rw [howed]
      exact if_pos hat
    · rw [hpc, hctx]
  · refine ⟨_, if_pos hstop, ?_, fun a => rfl, fun c n => State.ctx_modCore s core ?_ c n⟩
    · rw [State.core_modCore_same, if_pos hrun, if_pos hat]
      rfl
    · rw [if_pos hrun, if_pos hat]

end Sys2Proof.Machine

/-! # Queues and the push of an image (05 R107, 13 R265, R276) -/

namespace Sys2Proof.Machine
open Sys2Proof Sys2Proof.Spec

/-! ### The queues of a state -/

theorem State.queue_modQueue_same (s : State) (q : QueueId) (f : Queue → Queue) : (s.modQueue q f).queue q = f (s.queue q) := by
  cases q with
  | mq c => exact congrArg Core.mq (State.core_modCore_same s c fun k => { k with mq := f ((s.core c).mq) })
  | vq c => exact congrArg Core.vq (State.core_modCore_same s c fun k => { k with vq := f ((s.core c).vq) })
  | cq c => exact congrArg Core.cq (State.core_modCore_same s c fun k => { k with cq := f ((s.core c).cq) })
  | oq u => exact congrArg Ofu.queue (Tbl.get_set_same ..)
  | lq d => exact Tbl.get_set_same ..

/-- A core's queues alone show in the state's. -/
theorem State.queue_of_core {s t : State} (h : ∀ c, ((t.core c).mq, (t.core c).vq, (t.core c).cq) = ((s.core c).mq, (s.core c).vq, (s.core c).cq))
    (ho : t.ofus = s.ofus) (hl : t.lqs = s.lqs) (q : QueueId) : t.queue q = s.queue q := by
  have hm := fun c => congrArg (·.1) (h c)
  have hv := fun c => congrArg (·.2.1) (h c)
  have hc := fun c => congrArg (·.2.2) (h c)
  cases q with
  | mq c => exact hm c
  | vq c => exact hv c
  | cq c => exact hc c
  | oq u => rw [State.queue, State.queue, ho]
  | lq d => rw [State.queue, State.queue, hl]

theorem State.queue_modCore (s : State) (c : Nat) {f : Core → Core}
    (h : ((f (s.core c)).mq, (f (s.core c)).vq, (f (s.core c)).cq) = ((s.core c).mq, (s.core c).vq, (s.core c).cq)) (q : QueueId) :
    (s.modCore c f).queue q = s.queue q := by
  refine State.queue_of_core (s := s) (t := s.modCore c f) (fun k => ?_) rfl rfl q
  by_cases hk : k = c
  · rw [hk, State.core_modCore_same]; exact h
  · rw [State.core_modCore_other _ _ _ _ hk]

theorem State.queue_modCtx (s : State) (c n : Nat) (f : Ctx → Ctx) (q : QueueId) : (s.modCtx c n f).queue q = s.queue q :=
  State.queue_of_core (s := s) (t := s.modCtx c n f) (fun k => by rw [State.core_modCtx]) rfl rfl q

theorem State.queue_modCur (s : State) (f : Ctx → Ctx) (q : QueueId) : (s.modCur f).queue q = s.queue q := State.queue_modCtx ..

theorem State.queue_report (s : State) (e : Entry) (state : Nat) (q : QueueId) : (s.report e state).queue q = s.queue q := by
  unfold State.report
  split
  · rfl
  · refine State.queue_modCore s e.core ?_ q
    split <;> rfl

theorem State.coreQueues_trace (s : State) (core bit kind source cycle p0 p1 c : Nat) :
    ((s.trace core bit kind source cycle p0 p1).core c).mq = (s.core c).mq ∧ ((s.trace core bit kind source cycle p0 p1).core c).vq = (s.core c).vq ∧
      ((s.trace core bit kind source cycle p0 p1).core c).cq = (s.core c).cq := by
  obtain ⟨h, d, hk⟩ := (State.trace_core s core bit kind source cycle p0 p1).2 c
  rw [hk]
  exact ⟨rfl, rfl, rfl⟩

/-- A command's trace record does not show in its queue. -/
theorem State.queue_traceCmd (s : State) (q : QueueId) (kind : Nat) (e : Entry) : (s.traceCmd q kind e).queue q = s.queue q := by
  cases q with
  | oq u => rfl
  | lq d => rfl
  | mq c => exact (State.coreQueues_trace ..).1
  | vq c => exact (State.coreQueues_trace ..).2.1
  | cq c => exact (State.coreQueues_trace ..).2.2

/-! ### The entry of a command -/

/-- The same command, its state and image aside. -/
def SameCommand (a b : Entry) : Prop := b.seq = a.seq ∧ b.core = a.core ∧ b.ctx = a.ctx

theorem SameCommand.addProducer (e : Entry) (p : QueueId × Nat) : SameCommand e (e.addProducer p) := by
  unfold Entry.addProducer
  split <;> exact ⟨rfl, rfl, rfl⟩

theorem SameCommand.trans {a b c : Entry} (h : SameCommand a b) (h' : SameCommand b c) : SameCommand a c :=
  ⟨h'.1.trans h.1, h'.2.1.trans h.2.1, h'.2.2.trans h.2.2⟩

theorem SameCommand.foldl {α : Type} (f : Entry → α → Entry) (h : ∀ e a, SameCommand e (f e a)) (l : List α) (e : Entry) : SameCommand e (l.foldl f e) :=
  foldl_keeps (SameCommand e) f l (fun d a _ hd => hd.trans (h d a)) e ⟨rfl, rfl, rfl⟩

theorem SameCommand.applyPending (e : Entry) (ps : List Pend) : SameCommand e (e.applyPending ps) :=
  .foldl _ (fun d p => by
    split
    · exact .addProducer ..
    · exact ⟨rfl, rfl, rfl⟩) ps e

theorem Queue.find_append_of_none {v : Queue} {seq : Nat} (h : v.find seq = none) {e : Entry} (he : e.seq = seq) {w : Queue} (hw : w.entries = v.entries ++ [e]) :
    w.find seq = some e := by
  rw [Queue.find] at h ⊢
  rw [hw, List.find?_append, h]
  simp [he]

/-- Changing an entry that only the tail of a queue has. -/
theorem Queue.entries_modEntry_tail {v : Queue} {seq : Nat} (h : v.find seq = none) {e : Entry} (he : e.seq = seq) {w : Queue} (hw : w.entries = v.entries ++ [e])
    (f : Entry → Entry) : (w.modEntry seq f).entries = v.entries ++ [f e] := by
  rw [Queue.find, List.find?_eq_none] at h
  have hmap : v.entries.map (fun d => if d.seq = seq then f d else d) = v.entries :=
    (List.map_congr_left fun d hd => by rw [if_neg (by simpa using h d hd), id]).trans (List.map_id _)
  rw [Queue.modEntry, hw, List.map_append, hmap, List.map_singleton, if_pos he]

/-- A fault at the push leaves the command in its queue. -/
theorem State.queue_faultCmd (s : State) (q : QueueId) {seq : Nat} {e0 : Entry} (h : (s.queue q).find seq = some e0) (cause : Nat) :
    ∃ e, SameCommand e0 e ∧ (s.faultCmd q seq cause false).queue q =
      { (s.queue q).modEntry seq (fun _ => e) with fault := true, frozen := (s.queue q).frozen || false } := by
  unfold State.faultCmd
  split
  · next hn =>
    rw [h] at hn
    cases hn
  · next d he =>
    rw [h] at he
    cases he
    extract_lets e0' e s1 code s2 s3
    refine ⟨e, ⟨rfl, rfl, rfl⟩, ?_⟩
    have h1 : s1.queue q = { (s.queue q).modEntry seq (fun _ => e) with fault := true, frozen := (s.queue q).frozen || false } := State.queue_modQueue_same ..
    have h2 : s2.queue q = s1.queue q := by
      dsimp only [s2]
      clear s3 s2
      clear_value code
      cases code with
      | none => rfl
      | some c => exact State.queue_modCore s1 _ rfl q
    have h3 : s3.queue q = s2.queue q := (State.queue_traceCmd ..).trans (State.queue_report ..)
    rw [if_neg (by decide), h3, h2, h1]

/-! ### The push (05 R107) -/

/-- What an accepted push makes of its queue: the command last under the queue's next number. -/
structure Appended (v w : Queue) (seq core ctx : Nat) : Prop where
  next : w.next = (seq + 1) % 2 ^ 32
  entries : ∃ e, w.entries = v.entries ++ [e] ∧ e.seq = seq ∧ e.core = core ∧ e.ctx = ctx

theorem Appended.fault {v w : Queue} {seq core ctx : Nat} (h : Appended v w seq core ctx) (hf : v.find seq = none) {s : State} {q : QueueId} (hq : s.queue q = w)
    (cause : Nat) : Appended v ((s.faultCmd q seq cause false).queue q) seq core ctx := by
  obtain ⟨hn, e, he, hseq, hcore, hctx⟩ := h
  obtain ⟨d, ⟨hd1, hd2, hd3⟩, hd⟩ := State.queue_faultCmd s q (hq ▸ Queue.find_append_of_none hf hseq he) cause
  rw [hd, hq]
  exact ⟨hn, d, Queue.entries_modEntry_tail hf hseq he _, hd1.trans hseq, hd2.trans hcore, hd3.trans hctx⟩

theorem State.sendSuccs_rest (s : State) (kind : MsgKind) (q : QueueId) (seq : Nat) (refs : List (QueueId × Nat)) :
    s.sendSuccs kind q seq refs = { s with msgs := (s.sendSuccs kind q seq refs).msgs } := by
  refine foldl_keeps (fun t : State => t = { s with msgs := t.msgs }) _ _ (fun t r _ h => ?_) s rfl
  rw [h]
  rfl

theorem CtxsKept.sent (s : State) (q : QueueId) (f : Queue → Queue) (kind : MsgKind) (seq : Nat) (refs : List (QueueId × Nat)) :
    CtxsKept s ((s.modQueue q f).sendSuccs kind q seq refs) := by
  refine (CtxsKept.modQueue s q f).trans ?_
  rw [State.sendSuccs_rest]
  exact .of_cores rfl rfl

theorem State.queue_sent (s : State) (q : QueueId) (f : Queue → Queue) (kind : MsgKind) (seq : Nat) (refs : List (QueueId × Nat)) :
    ((s.modQueue q f).sendSuccs kind q seq refs).queue q = f (s.queue q) := by
  rw [State.sendSuccs_rest, ← State.queue_modQueue_same s q f]
  exact State.queue_of_core (fun _ => rfl) rfl rfl q

theorem SameCommand.pushed (e : Entry) (preds : List (QueueId × Nat)) (mine : List Pend) :
    SameCommand e ((preds.foldl Entry.addProducer e).applyPending mine) := (SameCommand.foldl _ .addProducer ..).trans (.applyPending ..)

theorem eq_or_eq_of_ite {α : Type} {p : Prop} [Decidable p] {a b c : α} (h : (if p then a else b) = c) : c = b ∨ c = a := by
  split at h
  · exact .inr h.symm
  · exact .inl h.symm

section
variable {s u : State} {q : QueueId} {img : List Word} {core ctx seq : Nat}

/-- An accepted push appends its command, and may fault it at once (13 R275). -/
theorem State.pushImage_ok (h : s.pushImage q img core ctx = .ok seq u) :
    seq = (s.queue q).next ∧ ∃ t : State, CtxsKept s t ∧ Appended (s.queue q) (t.queue q) seq core ctx ∧ (u = t ∨ u = t.faultCmd q seq 0x09 false) := by
  unfold State.pushImage at h
  dsimp only at h
  split at h
  · cases h
  · split at h
    · cases h
    · split at h
      · cases h
      · split at h
        · cases h
        · obtain ⟨hseq, hu⟩ := PushRes.ok.inj h
          subst hseq
          refine ⟨rfl, _, .sent .., ?_, eq_or_eq_of_ite hu⟩
          rw [State.queue_sent]
          exact ⟨rfl, _, rfl, (SameCommand.pushed _ _ _).1, (SameCommand.pushed _ _ _).2.1, (SameCommand.pushed _ _ _).2.2⟩

theorem State.ctxsKept_pushImage (h : s.pushImage q img core ctx = .ok seq u) : CtxsKept s u := by
  obtain ⟨-, t, ht, -, rfl | rfl⟩ := State.pushImage_ok h
  · exact ht
  · exact ht.trans (.faultCmd ..)

theorem State.appended_pushImage (h : s.pushImage q img core ctx = .ok seq u) (hf : (s.queue q).find seq = none) :
    Appended (s.queue q) (u.queue q) seq core ctx := by
  obtain ⟨-, t, -, ht, rfl | rfl⟩ := State.pushImage_ok h
  · exact ht
  · exact ht.fault hf rfl _

theorem State.pushImage_crowded (h : Crowded s q img) : s.pushImage q img s.focus.core s.focus.ctx = .wait := by
  obtain ⟨hc, hl, hfull⟩ := h
  unfold State.pushImage
  dsimp only
  rw [hl, if_neg (by decide), hc]
  exact if_pos hfull

theorem State.pushImage_accepted (h : Accepted s q img) : ∃ u, s.pushImage q img s.focus.core s.focus.ctx = .ok (s.queue q).next u := by
  have hfull : ¬(64 ≤ (s.queue q).entries.length ∨ s.pendingRoom (imageSuccs img) = false) := by
    rw [h.room.2]
    simpa using h.room.1
  unfold State.pushImage
  rw [h.there, if_neg (by decide), h.checks]
  dsimp only
  rw [if_neg hfull]
  split
  · next c hc =>
    have hno : (some c : Option Nat) = none := by cases q <;> exact hc.symm.trans h.shapes
    cases hno
  · exact ⟨_, rfl⟩

end

end Sys2Proof.Machine

/-! # PUSH and RPUSH (05 R107, R108) -/

namespace Sys2Proof.Machine
open Sys2Proof Sys2Proof.Spec

theorem CtxsKept.getX {s t : State} (h : CtxsKept s t) (k n r : Nat) : (t.ctx k n).getX r = (s.ctx k n).getX r := by
  rw [Ctx.getX, Ctx.getX, h.ctx]

theorem RegsNow.ctxsKept {s u v : State} {x : Nat → Word} (h : RegsNow s u x) (k : CtxsKept u v) : RegsNow s v x where
  x n := by
    rw [← h.x, State.x, State.x, State.cur, State.cur, k.focus]
    exact k.getX ..
  cur := by
    refine h.cur.trans ?_
    rw [k.cur]
    exact ⟨rfl, rfl, rfl, rfl, rfl, rfl, rfl, rfl⟩
  others j n hn r := (k.getX j n r).trans (h.others j n hn r)
  focus := k.focus.trans h.focus

/-! ### The state behind a push -/

/-- What a push leaves of its context: the number in its register, and no block held. -/
def Ctx.answered (rd : Nat) (v : Word) (c : Ctx) : Ctx := { c.setX rd v with block := none }

/-- What a push makes of the state in which its command stands in the queue. -/
def State.answered (u : State) (core ctx rd : Nat) (v : Word) (src : InputSrc) : State :=
  ((u.markPushed core ctx).modCur (Ctx.answered rd v)).logFrom src v

section
variable {s u : State} {q : QueueId} {img : List Word} {seq : Nat}

theorem State.queue_answered (u : State) (core ctx rd : Nat) (v : Word) (src : InputSrc) (pc : Word) (q : QueueId) :
    ((u.answered core ctx rd v src).retire pc).queue q = u.queue q := by
  unfold State.answered State.retire State.logFrom State.markPushed
  rw [State.queue_modCur, State.queue_modCur, State.queue_modCur, State.queue_modCtx]

theorem State.mem_answered (u : State) (core ctx rd : Nat) (v : Word) (src : InputSrc) (pc : Word) :
    ((u.answered core ctx rd v src).retire pc).mem = u.mem := by
  unfold State.answered State.retire State.logFrom State.markPushed
  rw [State.modCur_mem, State.modCur_mem, State.modCur_mem, State.modCtx_mem]

theorem Ctx.getX_answered (c : Ctx) (rd : Nat) (v : Word) (n : Nat) : (c.answered rd v).getX n = if n = rd ∧ rd ≠ 0 then v else c.getX n :=
  Ctx.getX_setX ..

theorem SameButX.answered (c : Ctx) (rd : Nat) (v : Word) : SameButX c (c.answered rd v) := by
  obtain ⟨hp, hc, hst, hl, htv, hts, hti, hb⟩ := SameButX.setX c rd v
  exact ⟨hp, hc, hst, hl, htv, hts, hti, hb⟩

theorem RegsNow.answered (h : RegsNow s u s.x) (core ctx rd : Nat) (v : Word) (src : InputSrc) :
    RegsNow s (u.answered core ctx rd v src) (putX s rd v) := by
  have hm := h.kept (.markPushed u core ctx)
  refine (hm.modCur (fun n => ?_) (.answered ..)).kept (.logFrom ..)
  rw [Ctx.getX_answered, putX, ← hm.x]
  rfl

theorem State.pushNow_ok (hr : s.cur.log.replay = none) (h : s.release.pushImage q img s.focus.core s.focus.ctx = .ok seq u) (rd : Nat)
    (block : Option (List Word)) : ∃ src, s.pushNow rd q img block = .done (u.answered s.focus.core s.focus.ctx rd (BitVec.ofNat 64 seq) src) := by
  have hu : u.replaying = false := by
    refine State.replaying_of_live ?_
    rw [(State.ctxsKept_pushImage h).cur]
    exact (Kept.release s).cur.replay.trans hr
  unfold State.pushNow
  rw [h]
  dsimp only
  rw [hu]
  exact ⟨_, rfl⟩

theorem State.pushNow_crowded (h : Crowded s.release q img) (rd : Nat) (block : Option (List Word)) :
    s.pushNow rd q img block = .wait (s.modCur fun c => { c with block := block }) := by
  have hw := State.pushImage_crowded h
  rw [(Kept.release s).focus] at hw
  rw [State.pushNow, hw]

/-- The registers behind a push of which the queue has taken the command. -/
theorem regsAfter_pushed (h : s.release.pushImage q img s.focus.core s.focus.ctx = .ok seq u) (rd : Nat) (src : InputSrc) :
    RegsAfter s ((u.answered s.focus.core s.focus.ctx rd (BitVec.ofNat 64 seq) src).retire (s.cur.pc + 4)) (putX s rd (BitVec.ofNat 64 seq)) (s.cur.pc + 4) :=
  ((((RegsNow.refl s).kept (.release s)).ctxsKept (State.ctxsKept_pushImage h)).answered ..).retire _

/-! ### PUSH (05 R107) -/

variable {rd n : Nat} {g : Guard}

theorem exec_push (hg : s.holds g = true) : exec (.push rd n g) s = finish s (s.pushNow rd (pushed s n) (ownImage s) none) :=
  guarded_on _ _ _ hg

theorem push_completes (hg : s.holds g = true) (hr : s.cur.log.replay = none)
    (h : s.release.pushImage (pushed s n) (ownImage s) s.focus.core s.focus.ctx = .ok seq u) :
    ∃ t, exec (.push rd n g) s = .next t ∧ RegsAfter s t (putX s rd (BitVec.ofNat 64 seq)) (s.cur.pc + 4) ∧ SameMemory u t ∧ ∀ q, t.queue q = u.queue q := by
  obtain ⟨src, hp⟩ := State.pushNow_ok hr h rd none
  refine ⟨_, (exec_push hg).trans (by rw [hp, finish_done]), regsAfter_pushed h rd src, sameMemory_of_mem (State.mem_answered ..), State.queue_answered u _ _ _ _ _ _⟩

/-- A push without room waits with all as it was, but for the block that an RPUSH holds. -/
theorem waits_of_crowded {i : Instr} {block : Option (List Word)} (he : exec i s = finish s (s.pushNow rd q img block)) (h : Crowded s.release q img) :
    ∃ t, exec i s = .next t ∧ t.cur.st = .waiting ∧ t.cur.pc = s.cur.pc ∧ t.cur.block = block ∧ (∀ r, t.x r = s.x r) ∧ (∀ q, t.queue q = s.queue q) ∧
      SameMemory s t := by
  have hcur : (s.modCur fun c => { c with block := block }).waitHere.cur = { s.cur with block := block, st := .waiting } := by
    rw [State.waitHere, State.cur_modCur, State.cur_modCur]
  refine ⟨_, he.trans (by rw [State.pushNow_crowded h]; rfl), ?_, ?_, ?_, fun r => ?_, fun q => ?_, ?_⟩
  · rw [hcur]
  · rw [hcur]
  · rw [hcur]
  · rw [State.x, hcur]
    rfl
  · exact (State.queue_modCur ..).trans (State.queue_modCur ..)
  · exact sameMemory_of_mem ((State.modCur_mem ..).trans (State.modCur_mem ..))

/-! ### RPUSH (05 R108) -/

variable {ra rb : Nat}

theorem bitsOf_reserved (v : Word) : bitsOf v.toNat 63 16 ≠ 0 ↔ 2 ^ 16 ≤ v.toNat := by
  have := v.isLt
  unfold bitsOf
  omega

theorem rpushQueue_of_reserved (v : Word) (h : reservedTarget v.toNat) : rpushQueue v.toNat = none := by
  unfold rpushQueue
  dsimp only
  rcases h with h | h | h | ⟨h, ht⟩ | ⟨h, ht⟩
  · rw [if_pos (.inl ((bitsOf_reserved v).2 h))]
  · rw [if_pos (.inr h)]
  · split
    · rfl
    · obtain ⟨k, hk⟩ := Nat.exists_eq_add_of_le' h
      rw [hk]
      rfl
  · split
    · rfl
    · rw [h]
      exact if_neg (by omega)
  · split
    · rfl
    · rw [h]
      exact if_neg (by omega)

theorem exec_rpush_misaligned (hg : s.holds g = true) (h : (s.x ra).toNat % 128 ≠ 0) : Traps (.rpush rd ra rb g) s 0x03 (s.x ra) := by
  show execRpush rd ra rb g s = _
  rw [execRpush, guarded_on _ _ _ hg, if_pos h, finish, trapInfo, if_pos (.inl rfl), BitVec.ofNat_toNat, BitVec.setWidth_eq]
  rfl

theorem exec_rpush_held (hg : s.holds g = true) (ha : (s.x ra).toNat % 128 = 0) (hq : rpushQueue (s.x rb).toNat = some q) (hb : s.cur.block = some img) :
    exec (.rpush rd ra rb g) s = finish s (s.pushNow rd q img (some img)) := by
  show execRpush rd ra rb g s = _
  rw [execRpush, guarded_on _ _ _ hg, if_neg (fun h => h ha), hq, hb]

theorem exec_rpush_read (hg : s.holds g = true) (ha : (s.x ra).toNat % 128 = 0) (hq : rpushQueue (s.x rb).toNat = some q) (hb : s.cur.block = none)
    (h : s.readBlock (s.x ra).toNat 16 = (u, .inl img)) : exec (.rpush rd ra rb g) s = finish s (u.pushNow rd q img (some img)) := by
  show execRpush rd ra rb g s = _
  rw [execRpush, guarded_on _ _ _ hg, if_neg (fun h => h ha), hq, hb]
  dsimp only
  rw [h]

/-- The read of a block notes out-of-range addresses and moves pages alone. -/
theorem CtxsKept.ctxRead (s : State) (a n : Nat) :
    (∀ v t, s.ctxRead a n = .ok v t → CtxsKept s t) ∧ (∀ t, s.ctxRead a n = .hole t → CtxsKept s t) ∧ ∀ t c b, s.ctxRead a n = .trap t c b → CtxsKept s t := by
  have hout := CtxsKept.recordSpor s s.focus.core s.focus.ctx a
  unfold State.ctxRead State.outOfRange
  refine ⟨fun v t h => ?_, fun t h => ?_, fun t c b h => ?_⟩
  · split at h
    · cases h
    · split at h
      · cases h
      · cases h
      · dsimp only at h
        split at h <;> cases h
      · cases h
        exact .refl s
      · next hr =>
        split at h
        · cases h
        · cases h
          obtain ⟨hc, hf⟩ := State.reach_cores hr
          exact .of_cores hc hf
  · split at h
    · cases h
    · split at h
      · cases h
      · cases h
      · dsimp only at h
        split at h
        · cases h
        · cases h
          exact hout
      · cases h
      · split at h <;> cases h
  · split at h
    · cases h
      exact .refl s
    · split at h
      · cases h
        exact .refl s
      · cases h
        exact .refl s
      · dsimp only at h
        split at h
        · cases h
          exact hout
        · cases h
      · cases h
      · split at h
        · cases h
          exact .refl s
        · cases h

theorem CtxsKept.readBlock (s : State) (a n : Nat) : CtxsKept s (s.readBlock a n).1 := by
  induction n generalizing s a with
  | zero => exact .refl s
  | succ n ih =>
    obtain ⟨hok, hhole, htrap⟩ := CtxsKept.ctxRead s (a % 2 ^ 64) 8
    have hnext (t : State) (v : Nat) : CtxsKept t (match t.readBlock (a + 8) n with
        | (u, .inl ds) => (u, Sum.inl (BitVec.ofNat 64 v :: ds))
        | (u, .inr c) => (u, Sum.inr c)).1 := by
      have h := ih t (a + 8)
      generalize t.readBlock (a + 8) n = r at h
      obtain ⟨u, ds | c⟩ := r <;> exact h
    unfold State.readBlock
    dsimp only
    split
    · next hv => exact (hok _ _ hv).trans (hnext ..)
    · next hv => exact (hhole _ hv).trans (hnext ..)
    · next hv => exact htrap _ _ _ hv

theorem State.readBlock_readable (s : State) (n a l : Nat) (h : ∀ i, i < n → Readable s (a + 8 * i) 8 (l + 8 * i)) (ha : a + 8 * n ≤ 2 ^ 64) :
    s.readBlock a n = (s, .inl ((List.range n).map fun i => BitVec.ofNat 64 (seenAt s (l + 8 * i) 8))) := by
  induction n generalizing a l with
  | zero => rfl
  | succ n ih =>
    have hrest := ih (a + 8) (l + 8) (fun i hi => by
      rw [show a + 8 + 8 * i = a + 8 * (i + 1) by omega, show l + 8 + 8 * i = l + 8 * (i + 1) by omega]
      exact h (i + 1) (by omega)) (by omega)
    have hfirst : s.ctxRead (a % 2 ^ 64) 8 = .ok (seenAt s l 8) s := by
      rw [Nat.mod_eq_of_lt (by omega)]
      exact State.ctxRead_of_readable (h 0 (by omega))
    unfold State.readBlock
    rw [hfirst]
    dsimp only
    rw [hrest, List.range_succ_eq_map, List.map_cons, List.map_map]
    refine Prod.ext rfl (congrArg Sum.inl (congrArg₂ List.cons rfl (List.map_congr_left fun i _ => ?_)))
    rw [Function.comp, show l + 8 + 8 * i = l + 8 * i.succ by omega]

end

/-! ### Obligation O10 -/

/-- Settles O10: a push is the append of `State.pushImage` behind the stores that its context holds. -/
theorem pushesAppendCommands : Obligations.PushesAppendCommands := by
  unfold Obligations.PushesAppendCommands
  refine ⟨fun s rd n g seq u hg _ hr h => push_completes hg hr h, fun s rd n g c a hg _ h => ?_, fun s rd ra rb g img seq q u v hg hr hb ha hq hread h => ?_,
    fun s rd ra rb g hg ha => exec_rpush_misaligned hg ha, fun s rd ra rb g hg ha hres => ?_, fun s rd n g hg _ h => ?_, fun s rd ra rb g img q hg ha hq hb h => ?_,
    fun s rd n g hg _ hr h => ?_, fun s rd ra rb g q l hg hr hb ha hq hread h => ?_, fun s q img core ctx seq u h hf => ?_⟩
  · refine (exec_push hg).trans ?_
    have h' : s.release.pushImage (pushed s n) (ownImage s) s.focus.core s.focus.ctx = .refused c a := h
    rw [State.pushNow, h']
    rfl
  · have hk : CtxsKept s u := by
      have := CtxsKept.readBlock s (s.x ra).toNat 16
      rwa [hread] at this
    rw [← hk.focus] at h
    have hru : u.cur.log.replay = none := by rw [hk.cur]; exact hr
    obtain ⟨src, hp⟩ := State.pushNow_ok hru h rd (some img)
    have hafter := regsAfter_pushed h rd src
    rw [show u.cur.pc = s.cur.pc by rw [hk.cur]] at hafter
    refine ⟨_, (exec_rpush_read hg ha hq hb hread).trans (by rw [hp, finish_done]), ?_, ?_, State.queue_answered v _ _ _ _ _ _⟩
    · rw [hafter.x, putX]
      by_cases h0 : rd = 0
      · rw [if_neg (fun hn => hn.2 h0), if_pos h0, h0]
        rfl
      · rw [if_pos ⟨rfl, h0⟩, if_neg h0]
    · exact hafter.pc
  · show execRpush rd ra rb g s = _
    rw [execRpush, guarded_on _ _ _ hg, if_neg (fun h => h ha), rpushQueue_of_reserved _ hres]
    rfl
  · obtain ⟨t, he, hst, hpc, -, hrest⟩ := waits_of_crowded (exec_push hg) h
    exact ⟨t, he, hst, hpc, hrest⟩
  · exact waits_of_crowded (exec_rpush_held hg ha hq hb) h
  · obtain ⟨u, hu⟩ := State.pushImage_accepted h
    rw [(Kept.release s).focus] at hu
    obtain ⟨t, he, hregs, -⟩ := push_completes hg hr hu
    exact ⟨t, he, hregs⟩
  · obtain ⟨u, hu⟩ := State.pushImage_accepted h
    rw [(Kept.release s).focus] at hu
    obtain ⟨src, hp⟩ := State.pushNow_ok hr hu rd (some ((List.range 16).map fun i => BitVec.ofNat 64 (seenAt s (l + 8 * i) 8)))
    have hblock := State.readBlock_readable s 16 (s.x ra).toNat l hread (by have := (s.x ra).isLt; omega)
    exact ⟨_, (exec_rpush_read hg ha hq hb hblock).trans (by rw [hp, finish_done]), regsAfter_pushed hu rd src⟩
  · obtain ⟨hnext, e, he, hseq, hcore, hctx⟩ := State.appended_pushImage h hf
    refine ⟨(State.pushImage_ok h).1, hnext, ?_, e, ?_, hseq, hcore, hctx⟩
    · rw [he, List.length_append]
      rfl
    · rw [he, List.getLast?_concat]

end Sys2Proof.Machine

/-! # The registers that CSRR and CSRW reach (05 R119, 10 R235) -/

namespace Sys2Proof.Machine
open Sys2Proof Sys2Proof.Spec

/-! ### Which numbers there are -/

/-- The registers of `csrValue`. -/
def namedCsrs : List Nat :=
  [0x000, 0x001, 0x004, 0x208, 0x220, 0x222, 0x230, 0x232, 0x240, 0x251, 0x801, 0x802, 0x803, 0x808, 0x80A, 0x902, 0x920, 0x921, 0x930, 0x931, 0x932, 0x941,
   0x960, 0x961, 0x962, 0x963, 0x971, 0x972, 0x974, 0x975]

theorem mem_namedCsrs {n : Nat} {s : State} {v : Word} (h : csrValue n s = some v) : n ∈ namedCsrs := by
  unfold csrValue at h
  split at h
  case h_31 => cases h
  all_goals decide

theorem namedCsrs_assigned : ∀ n ∈ namedCsrs, csrAssigned false n = true ∧ ¬(0x290 ≤ n ∧ n ≤ 0x292) := by decide

theorem csrAssigned_of_false {n : Nat} (h : csrAssigned false n = true) (harbour : Bool) : csrAssigned harbour n = true := by
  unfold csrAssigned at h ⊢
  rw [Bool.false_and, Bool.or_false] at h
  rw [h, Bool.true_or]

section
variable {s : State} {n r : Nat}

theorem State.csrCause_none (ha : csrAssigned (s.focus.core == harbourId) n = true) (hm : mayAccess s n) (ht : 0x290 ≤ n ∧ n ≤ 0x292 → s.focus.ctx = 1) :
    s.csrCause n = none := by
  have hpriv : (decide (0x800 ≤ n) && !s.privileged s.focus.core s.focus.ctx) = false := by
    rcases hm with hm | hm
    · rw [decide_eq_false (by omega), Bool.false_and]
    · rw [hm, Bool.not_true, Bool.and_false]
  have htoken : (decide (0x290 ≤ n ∧ n ≤ 0x292) && decide (s.focus.ctx ≠ 1)) = false := by
    by_cases h : 0x290 ≤ n ∧ n ≤ 0x292
    · rw [decide_eq_false (p := s.focus.ctx ≠ 1) (fun hn => hn (ht h)), Bool.and_false]
    · rw [decide_eq_false h, Bool.false_and]
  rw [State.csrCause, ha, if_neg (by decide), hpriv, if_neg (by decide), htoken, if_neg (by decide)]

theorem State.csrCause_named (h : n ∈ namedCsrs) (hm : mayAccess s n) : s.csrCause n = none :=
  State.csrCause_none (csrAssigned_of_false (namedCsrs_assigned n h).1 _) hm fun ht => absurd ht (namedCsrs_assigned n h).2

/-- A refused access traps at a read and at a write. -/
theorem traps_of_csrCause {c : Nat} (h : s.csrCause n = some c) : Traps (.csrr r n) s c 0 ∧ Traps (.csrw r n) s c 0 := by
  constructor
  · show finish s (s.readCsr r n) = _
    rw [State.readCsr, h]
    rfl
  · show finish s (s.writeCsr r n) = _
    rw [State.writeCsr, h]
    rfl

theorem State.csrCause_unassigned (h : csrAssigned (s.focus.core == harbourId) n = false) : s.csrCause n = some 0x01 := by
  rw [State.csrCause, h, if_pos (by decide)]

theorem State.csrCause_unprivileged (h : csrAssigned (s.focus.core == harbourId) n = true) (hn : 0x800 ≤ n)
    (hp : s.privileged s.focus.core s.focus.ctx = false) : s.csrCause n = some 0x02 := by
  rw [State.csrCause, h, if_neg (by decide), hp, decide_eq_true hn, if_pos (by decide)]

/-! ### Reading -/

theorem Bpend.word_eq (b : Bpend) : b.word = b.valid.toNat * 2 ^ 63 + b.harbour.toNat * 2 ^ 60 + b.obj / 32 * 2 ^ 32 + b.phase := by
  obtain ⟨valid, harbour, obj, phase⟩ := b
  cases valid <;> cases harbour <;> rfl

/-- A named register but the event word is read as it stands. -/
theorem State.csrGet_named {v : Word} (h : csrValue n s = some v) (hn : n ≠ 0x208) : ∃ w, s.csrGet n = .val w s ∧ BitVec.ofNat 64 w = v := by
  unfold csrValue at h
  split at h
  case h_4 => exact absurd rfl hn
  case h_31 => cases h
  all_goals
    obtain rfl := Option.some.inj h
    refine ⟨_, rfl, ?_⟩
    simp [State.csrLow, State.csrMid, State.csrPriv, State.csrLog, Bpend.word_eq, BitVec.ofNat_toNat]

theorem exec_csrr (hc : s.csrCause n = none) (hr : s.cur.log.replay = none) {w : Nat} {t : State} (h : s.csrGet n = .val w t) (rd : Nat) :
    exec (.csrr rd n) s = .next (((t.setX rd (BitVec.ofNat 64 w)).logInput (BitVec.ofNat 64 w)).retire (s.cur.pc + 4)) := by
  show finish s (s.readCsr rd n) = _
  rw [State.readCsr, hc]
  dsimp only
  rw [withInput_of_live hr, h]
  rfl

theorem exec_csrw (hc : s.csrCause n = none) {u : State} (h : s.csrPut n (s.x r) = some u) : exec (.csrw r n) s = .next (u.retire (s.cur.pc + 4)) := by
  show finish s (s.writeCsr r n) = _
  rw [State.writeCsr, hc]
  dsimp only
  rw [h]
  rfl

theorem csrw_waits (hc : s.csrCause n = none) (h : s.csrPut n (s.x r) = none) : Waits (.csrw r n) s := by
  show finish s (s.writeCsr r n) = _
  rw [State.writeCsr, hc]
  dsimp only
  rw [h]
  rfl

theorem csrr_waits (hc : s.csrCause n = none) (hr : s.cur.log.replay = none) (h : s.csrGet n = .wait) : Waits (.csrr r n) s := by
  show finish s (s.readCsr r n) = _
  rw [State.readCsr, hc]
  dsimp only
  rw [withInput_of_live hr, h]
  rfl

/-- With no store held, what a release leaves makes no difference to a write of the acting context's registers. -/
theorem State.setX_release (h : s.cur.sbuf = []) (rd : Nat) (v : Word) : s.release.setX rd v = s.setX rd v := by
  have hr : s.release = s.modCur fun c => { c with sbuf := [] } := State.drain_nil h
  rw [hr, State.setX, State.modCur_modCur, State.setX]
  show s.setCtx _ _ (({ s.cur with sbuf := [] } : Ctx).setX rd v) = s.setCtx _ _ (s.cur.setX rd v)
  rw [← h]

theorem State.here_release_nil (h : s.cur.sbuf = []) : s.release.here.evw = s.here.evw := by
  have hr : s.release = s.modCur fun c => { c with sbuf := [] } := State.drain_nil h
  rw [hr, State.here_modCur]

theorem csrr_completes {v : Word} (h : csrValue n s = some v) (hm : mayAccess s n) (hr : s.cur.log.replay = none) (hb : n = 0x208 → s.cur.sbuf = []) (rd : Nat) :
    ∃ t, exec (.csrr rd n) s = .next t ∧ Completed s t (putX s rd v) s.p s.cur.getC (entered s v .other) (s.cur.pc + 4) := by
  have hc := State.csrCause_named (mem_namedCsrs h) hm
  by_cases hn : n = 0x208
  · subst hn
    have hv : BitVec.ofNat 64 (s.release.csrMid 0x208) = v := by
      rw [← Option.some.inj h, ← State.here_release_nil (hb rfl)]
      exact BitVec.ofNat_toNat ..
    refine ⟨_, exec_csrr hc hr rfl rd, ?_⟩
    rw [hv, State.setX_release (hb rfl)]
    exact completed_setX_logFrom ..
  · obtain ⟨w, hw, rfl⟩ := State.csrGet_named h hn
    exact ⟨_, exec_csrr hc hr hw rd, completed_setX_logFrom ..⟩

end

end Sys2Proof.Machine

/-! # What CSRW stores (05 R119, 10 R235) -/

namespace Sys2Proof.Machine
open Sys2Proof Sys2Proof.Spec

/-! ### The bits that a register keeps -/

theorem ofNat_bitsOf_mul (w : Word) (hi lo : Nat) : BitVec.ofNat 64 (bitsOf w.toNat hi lo * 2 ^ lo) = w &&& BitVec.ofNat 64 ((2 ^ (hi + 1 - lo) - 1) * 2 ^ lo) := by
  refine BitVec.eq_of_getLsbD_eq fun i hi => ?_
  rw [BitVec.getLsbD_and, BitVec.getLsbD_ofNat, BitVec.getLsbD_ofNat, bitsOf, Nat.testBit_mul_two_pow, Nat.testBit_mul_two_pow, Nat.testBit_mod_two_pow,
    Nat.testBit_div_two_pow, Nat.testBit_two_pow_sub_one]
  by_cases h : lo ≤ i
  · simp [h, hi, BitVec.getLsbD, Nat.sub_add_cancel h, Bool.and_comm]
  · simp [h]

theorem ofNat_mod_two_pow (w : Word) (k : Nat) : BitVec.ofNat 64 (w.toNat % 2 ^ k) = w &&& BitVec.ofNat 64 (2 ^ k - 1) := by
  refine BitVec.eq_of_getLsbD_eq fun i hi => ?_
  rw [BitVec.getLsbD_and, BitVec.getLsbD_ofNat, BitVec.getLsbD_ofNat, Nat.testBit_mod_two_pow, Nat.testBit_two_pow_sub_one]
  simp [hi, BitVec.getLsbD, Bool.and_comm]

theorem setWidth_ofNat (w : Word) : (BitVec.ofNat 32 w.toNat).setWidth 64 = w &&& BitVec.ofNat 64 (2 ^ 32 - 1) := by
  rw [← ofNat_mod_two_pow]
  refine BitVec.eq_of_toNat_eq ?_
  simp

theorem putBits_bit1 (n : Nat) : putBits n 1 1 0 = 2 ^ 2 * (n / 2 ^ 2) + n % 2 ^ 1 := by
  unfold putBits
  omega

theorem ofNat_clear_bit1 (w : Word) : BitVec.ofNat 64 (putBits w.toNat 1 1 0) = w &&& ~~~2 := by
  refine BitVec.eq_of_getLsbD_eq fun i hi => ?_
  have hi' : decide (i < 64) = true := decide_eq_true hi
  rw [putBits_bit1, BitVec.getLsbD_and, BitVec.getLsbD_not, BitVec.getLsbD_ofNat, hi', Bool.true_and, Bool.true_and,
    Nat.testBit_two_pow_mul_add _ (by omega), Nat.testBit_mod_two_pow, Nat.testBit_div_two_pow, BitVec.getLsbD]
  by_cases h : i < 2
  · interval_cases i
    · simp
    · simp
  · have h2 : (2 : Word).getLsbD i = false := by
      rw [show (2 : Word) = BitVec.ofNat 64 (2 ^ 1) from rfl, BitVec.getLsbD_ofNat, Nat.testBit_two_pow_of_ne (by omega), Bool.and_false]
    rw [if_neg h, Nat.sub_add_cancel (by omega), h2, Bool.not_false, Bool.and_true]

theorem and_low_eq_zero (w : Word) : (w &&& 0xFFFF = 0) ↔ w.toNat % 2 ^ 16 = 0 := by
  have h : BitVec.ofNat 64 (w.toNat % 2 ^ 16) = w &&& 0xFFFF := ofNat_mod_two_pow w 16
  have hlt : w.toNat % 2 ^ 16 < 2 ^ 64 := by omega
  rw [← h, ← BitVec.toNat_inj, BitVec.toNat_ofNat, Nat.mod_eq_of_lt hlt]
  rfl

theorem stored_ctime (w : Word) : BitVec.ofNat 64 (if w.toNat % 2 ^ 16 = 0 then 200 else w.toNat % 2 ^ 16) = if w &&& 0xFFFF = 0 then 200 else w &&& 0xFFFF := by
  have h : BitVec.ofNat 64 (w.toNat % 2 ^ 16) = w &&& 0xFFFF := ofNat_mod_two_pow w 16
  by_cases h0 : w.toNat % 2 ^ 16 = 0
  · rw [if_pos h0, if_pos ((and_low_eq_zero w).2 h0)]
    rfl
  · rw [if_neg h0, if_neg (fun hn => h0 ((and_low_eq_zero w).1 hn)), h]

theorem stored_ien (w : Word) (harbour : Bool) : BitVec.ofNat 64 (w.toNat % if harbour then 32 else 16) = w &&& if harbour then 0x1F else 0xF := by
  cases harbour with
  | true => exact ofNat_mod_two_pow w 5
  | false => exact ofNat_mod_two_pow w 4

/-! ### Where the stored registers stand -/

/-- The stored registers of a context. -/
def ctxCsr (n : Nat) (c : Ctx) : Option Word :=
  match n with
  | 0x220 => some c.gsel
  | 0x230 => some c.lsel
  | 0x240 => some c.osel
  | 0x801 => some c.tvec
  | 0x808 => some c.ien
  | 0x902 => some c.psel
  | 0x920 => some c.wpobj
  | 0x960 => some c.log.base
  | 0x961 => some c.log.len
  | 0x971 => some c.bpaddr
  | _ => none

/-- The stored registers of a core. -/
def coreCsr (n : Nat) (k : Core) : Option Word :=
  match n with
  | 0x931 => some k.tdir
  | 0x972 => some k.bpcyc
  | 0x974 => some k.trbase
  | 0x975 => some k.trlen
  | _ => none

/-- The stored registers of the module: PTBR, HEPOCH, CTIME. -/
def moduleCsr (n : Nat) (ptbr hepoch : BitVec 32) (ctime : Nat) : Option Word :=
  match n with
  | 0x930 => some (ptbr.setWidth 64)
  | 0x932 => some (hepoch.setWidth 64)
  | 0x941 => some (BitVec.ofNat 64 ctime)
  | _ => none

/-- The numbers that `csrStored` gives a value. -/
def IsStored (n : Nat) : Prop := (csrStored n true 0).isSome

theorem isStored_of_stored {n : Nat} {harbour : Bool} {w v : Word} (h : csrStored n harbour w = some v) : IsStored n := by
  unfold csrStored at h
  split at h
  case h_18 => cases h
  all_goals rfl

theorem csrValue_of_isStored {n : Nat} (h : IsStored n) (s : State) :
    csrValue n s = ((ctxCsr n s.cur).or (coreCsr n s.here)).or (moduleCsr n s.ptbr s.hepoch s.ctime) := by
  unfold IsStored csrStored at h
  split at h
  case h_18 => cases h
  all_goals rfl

/-- A write of a stored register: the register's new value, and what it leaves. -/
structure Stores (s u : State) (n : Nat) (v : Word) : Prop where
  x : ∀ m, u.x m = s.x m
  p : ∀ m, u.p m = s.p m
  mem : u.mem = s.mem
  value : csrValue n u = some v
  others : ∀ m, m ≠ n → IsStored m → csrValue m u = csrValue m s

/-- A context, and a core, with a stored register written. -/
def Ctx.putCsr (n : Nat) (v : Word) (c : Ctx) : Ctx :=
  match n with
  | 0x220 => { c with gsel := v }
  | 0x230 => { c with lsel := v }
  | 0x240 => { c with osel := v }
  | 0x801 => { c with tvec := v }
  | 0x808 => { c with ien := v }
  | 0x902 => { c with psel := v }
  | 0x920 => { c with wpobj := v }
  | 0x960 => { c with log := { c.log with base := v } }
  | 0x961 => { c with log := { c.log with len := v } }
  | 0x971 => { c with bpaddr := v }
  | _ => c

def Core.putCsr (n : Nat) (v : Word) (k : Core) : Core :=
  match n with
  | 0x931 => { k with tdir := v }
  | 0x972 => { k with bpcyc := v }
  | 0x974 => { k with trbase := v }
  | 0x975 => { k with trlen := v }
  | _ => k

theorem Ctx.putCsr_regs (n : Nat) (v : Word) (c : Ctx) : (c.putCsr n v).x = c.x ∧ (c.putCsr n v).p = c.p := by
  unfold Ctx.putCsr
  split <;> exact ⟨rfl, rfl⟩

theorem ctxCsr_putCsr_same {n : Nat} {c : Ctx} (h : (ctxCsr n c).isSome) (v : Word) : ctxCsr n (c.putCsr n v) = some v := by
  unfold ctxCsr at h
  split at h
  case h_11 => cases h
  all_goals rfl

theorem ctxCsr_putCsr_other {m n : Nat} (h : m ≠ n) (c : Ctx) (v : Word) : ctxCsr m (c.putCsr n v) = ctxCsr m c := by
  unfold Ctx.putCsr
  split
  all_goals
    unfold ctxCsr
    split
  all_goals simp_all

theorem Core.putCsr_ctxs (n : Nat) (v : Word) (k : Core) : (k.putCsr n v).ctxs = k.ctxs := by
  unfold Core.putCsr
  split <;> rfl

theorem coreCsr_putCsr_same {n : Nat} {k : Core} (h : (coreCsr n k).isSome) (v : Word) : coreCsr n (k.putCsr n v) = some v := by
  unfold coreCsr at h
  split at h
  case h_5 => cases h
  all_goals rfl

theorem coreCsr_putCsr_other {m n : Nat} (h : m ≠ n) (k : Core) (v : Word) : coreCsr m (k.putCsr n v) = coreCsr m k := by
  unfold Core.putCsr
  split
  all_goals
    unfold coreCsr
    split
  all_goals simp_all

section
variable {s u : State} {n r : Nat} {v w : Word}

theorem stores_ctx (hn : IsStored n) (h : (ctxCsr n s.cur).isSome) (v : Word) : Stores s (s.modCur (Ctx.putCsr n v)) n v where
  x m := by rw [State.x, State.cur_modCur, Ctx.getX, (Ctx.putCsr_regs ..).1]; rfl
  p m := by rw [State.p, State.cur_modCur, Ctx.getP, (Ctx.putCsr_regs ..).2]; rfl
  mem := rfl
  value := by
    rw [csrValue_of_isStored hn, State.cur_modCur, ctxCsr_putCsr_same h]
    rfl
  others m hm hs := by
    rw [csrValue_of_isStored hs, csrValue_of_isStored hs, State.cur_modCur, ctxCsr_putCsr_other hm, State.here_modCur]
    rfl

theorem cur_modHere_eq {f : Core → Core} (hf : (f s.here).ctxs = s.here.ctxs) : (s.modHere f).cur = s.cur := State.ctx_modCore s _ hf ..

theorem stores_core (hn : IsStored n) (h0 : ctxCsr n s.cur = none) (h : (coreCsr n s.here).isSome) (v : Word) : Stores s (s.modHere (Core.putCsr n v)) n v := by
  have hcur : (s.modHere (Core.putCsr n v)).cur = s.cur := cur_modHere_eq (Core.putCsr_ctxs ..)
  exact {
    x := fun m => by rw [State.x, hcur]; rfl
    p := fun m => by rw [State.p, hcur]; rfl
    mem := rfl
    value := by
      rw [csrValue_of_isStored hn, hcur, h0, State.core_modHere, coreCsr_putCsr_same h]
      rfl
    others := fun m hm hs => by
      rw [csrValue_of_isStored hs, csrValue_of_isStored hs, hcur, State.core_modHere, coreCsr_putCsr_other hm]
      rfl }

theorem stores_module (hn : IsStored n) (hcur : u.cur = s.cur) (hhere : u.here = s.here) (hmem : u.mem = s.mem) (h0 : ctxCsr n s.cur = none)
    (h1 : coreCsr n s.here = none) (hv : moduleCsr n u.ptbr u.hepoch u.ctime = some v)
    (ho : ∀ m, m ≠ n → moduleCsr m u.ptbr u.hepoch u.ctime = moduleCsr m s.ptbr s.hepoch s.ctime) : Stores s u n v where
  x m := by rw [State.x, hcur]; rfl
  p m := by rw [State.p, hcur]; rfl
  mem := hmem
  value := by
    rw [csrValue_of_isStored hn, hcur, hhere, h0, h1, hv]
    rfl
  others m hm hs := by
    rw [csrValue_of_isStored hs, csrValue_of_isStored hs, hcur, hhere, ho m hm]

/-- A write of a stored register keeps the bits that it has. -/
theorem State.csrPut_stored (h : csrStored n (s.focus.core == harbourId) w = some v) : ∃ u, s.csrPut n w = some u ∧ Stores s u n v := by
  have hn := isStored_of_stored h
  have hctx {v v' : Word} (hp : s.csrPut n w = some (s.modCur (Ctx.putCsr n v))) (hv : v = v') (h : (ctxCsr n s.cur).isSome) :
      ∃ u, s.csrPut n w = some u ∧ Stores s u n v' := ⟨_, hv ▸ hp, stores_ctx hn h v'⟩
  have hcore (hp : s.csrPut n w = some (s.modHere (Core.putCsr n w))) (h0 : ctxCsr n s.cur = none) (h : (coreCsr n s.here).isSome) :
      ∃ u, s.csrPut n w = some u ∧ Stores s u n w := ⟨_, hp, stores_core hn h0 h w⟩
  unfold csrStored at h
  split at h
  case h_18 => cases h
  all_goals obtain rfl := Option.some.inj h
  case h_1 => exact hctx rfl (ofNat_mod_two_pow w 12) rfl
  case h_2 => exact hctx rfl (ofNat_mod_two_pow w 5) rfl
  case h_3 => exact hctx rfl (ofNat_mod_two_pow w 4) rfl
  case h_4 => exact hctx rfl rfl rfl
  case h_5 => exact hctx rfl (stored_ien ..) rfl
  case h_6 => exact hctx rfl (ofNat_mod_two_pow w 11) rfl
  case h_7 => exact hctx rfl (ofNat_bitsOf_mul w 33 5) rfl
  case h_8 =>
    refine ⟨{ s with ptbr := BitVec.ofNat 32 w.toNat, tlb := [] }, rfl, stores_module hn rfl rfl rfl rfl rfl (congrArg some (setWidth_ofNat w)) fun m hm => ?_⟩
    unfold moduleCsr
    split
    case h_1 => exact absurd rfl hm
    all_goals rfl
  case h_9 => exact hcore rfl rfl rfl
  case h_10 =>
    refine ⟨{ s with hepoch := BitVec.ofNat 32 w.toNat }, rfl, stores_module hn rfl rfl rfl rfl rfl (congrArg some (setWidth_ofNat w)) fun m hm => ?_⟩
    unfold moduleCsr
    split
    case h_2 => exact absurd rfl hm
    all_goals rfl
  case h_11 =>
    refine ⟨{ s with ctime := if w.toNat % 2 ^ 16 = 0 then 200 else w.toNat % 2 ^ 16 }, rfl,
      stores_module hn rfl rfl rfl rfl rfl (congrArg some (stored_ctime w)) fun m hm => ?_⟩
    unfold moduleCsr
    split
    case h_3 => exact absurd rfl hm
    all_goals rfl
  case h_12 => exact hctx rfl (ofNat_bitsOf_mul w 51 16) rfl
  case h_13 => exact hctx rfl (ofNat_mod_two_pow w 20) rfl
  case h_14 => exact hctx rfl (ofNat_clear_bit1 w) rfl
  case h_15 => exact hcore rfl rfl rfl
  case h_16 => exact hcore rfl rfl rfl
  case h_17 => exact hcore rfl rfl rfl

/-- Retiring changes no stored register. -/
theorem csrValue_retire (h : IsStored n) (u : State) (pc : Word) : csrValue n (u.retire pc) = csrValue n u := by
  rw [csrValue_of_isStored h, csrValue_of_isStored h, State.cur_retire, State.here_retire]
  rfl

theorem mem_namedCsrs_of_isStored (h : IsStored n) : n ∈ namedCsrs := by
  unfold IsStored csrStored at h
  split at h
  case h_18 => cases h
  all_goals decide

theorem csrw_completes (h : csrStored n (s.focus.core == harbourId) (s.x r) = some v) (hm : mayAccess s n) :
    ∃ t, exec (.csrw r n) s = .next t ∧ csrValue n t = some v ∧ t.cur.pc = s.cur.pc + 4 ∧ (∀ m, t.x m = s.x m) ∧ (∀ m, t.p m = s.p m) ∧ SameMemory s t ∧
      ∀ m, m ≠ n → (csrStored m true 0).isSome → csrValue m t = csrValue m s := by
  have hn := isStored_of_stored h
  obtain ⟨u, hu, hx, hp, hmem, hv, ho⟩ := State.csrPut_stored h
  refine ⟨u.retire (s.cur.pc + 4), exec_csrw (State.csrCause_named (mem_namedCsrs_of_isStored hn) hm) hu, (csrValue_retire hn ..).trans hv,
    (State.control_retire ..).1, fun m => (State.x_retire ..).trans (hx m),
    fun m => (State.p_retire ..).trans (hp m), sameMemory_of_mem ((State.retire_mem ..).trans hmem), fun m hm hs => (csrValue_retire hs ..).trans (ho m hm hs)⟩

end

/-! ### Obligation O15 -/

/-- Settles O15: a read has the register's value and a write its bits; a refused number traps at either. -/
theorem csrsAreReadAndWritten : Obligations.CsrsAreReadAndWritten := by
  unfold Obligations.CsrsAreReadAndWritten
  exact ⟨fun s rd n v h hm hr hb => csrr_completes h hm hr hb rd, fun s ra n v h hm => csrw_completes h hm,
    fun s r n h => traps_of_csrCause (State.csrCause_unassigned h), fun s r n h hn hp => traps_of_csrCause (State.csrCause_unprivileged h hn hp)⟩

end Sys2Proof.Machine

/-! # CSRs with an effect of their own (05 R113, 10 R239, 17 R327, 23 R400 to R408, 24 R410 to R421) -/

namespace Sys2Proof.Machine
open Sys2Proof Sys2Proof.Spec

section
variable {s u : State} {r rd n key : Nat}

/-! ### Access -/

theorem State.csrCause_effect (h : csrAssigned false n = true) (hm : mayAccess s n) (ht : ¬(0x290 ≤ n ∧ n ≤ 0x292)) : s.csrCause n = none :=
  State.csrCause_none (csrAssigned_of_false h _) hm fun h => absurd h ht

theorem State.csrCause_harbour (hh : s.focus.core = harbourId) (h : csrAssigned true n = true) (ht : ¬(0x290 ≤ n ∧ n ≤ 0x292)) : s.csrCause n = none := by
  refine State.csrCause_none ?_ (.inr ?_) fun h => absurd h ht
  · rw [hh, beq_self_eq_true, h]
  · rw [State.privileged, hh, beq_self_eq_true, Bool.true_or]

theorem State.csrCause_token (hx : s.focus.ctx = 1) (h : csrAssigned false n = true) (hn : n < 0x800) : s.csrCause n = none :=
  State.csrCause_none (csrAssigned_of_false h _) (.inl hn) fun _ => hx

theorem State.csrCause_foreign (hx : s.focus.ctx ≠ 1) (h : csrAssigned false n = true) (hn : 0x290 ≤ n ∧ n ≤ 0x292) : s.csrCause n = some 0x02 := by
  have hpriv : (decide (0x800 ≤ n) && !s.privileged s.focus.core s.focus.ctx) = false := by rw [decide_eq_false (by omega), Bool.false_and]
  rw [State.csrCause, csrAssigned_of_false h, if_neg (by decide), hpriv, if_neg (by decide), decide_eq_true hn, decide_eq_true hx, if_pos (by decide)]

/-! ### Tokens (05 R113) -/

theorem token_release (q : Nat) : s.release.here.token q = s.here.token q := by
  have h := ((Kept.release s).core s.focus.core).rest
  rw [State.here, (Kept.release s).focus, h]
  rfl

theorem token_retire (u : State) (pc : Word) (q : Nat) : (u.retire pc).here.token q = u.here.token q := by
  rw [State.here_retire]
  rfl

theorem bitOf_zero_of_odd {w : Nat} (h : w % 2 = 1) : bitOf w 0 = true := by
  rw [bitOf, Nat.pow_zero, Nat.div_one, h]
  rfl

theorem bitOf_one_of_mod_four {w : Nat} (h : w % 4 = 1) : bitOf w 1 = false := by
  have hw : w / 2 ^ 1 % 2 = 0 := by omega
  rw [bitOf, hw]
  rfl

/-- A token for xv alone. -/
theorem State.writeTkpush_xv {w : Nat} (hw : w % 4 = 1) (ht : s.here.token 8 < 15) :
    s.writeTkpush w = some (s.release.modHere fun k => k.setToken 8 (k.token 8 + 1)) := by
  have hroom : ¬(([8] ++ [] : List Nat).any fun t => decide (15 ≤ s.here.token t)) = true := by simpa using ht
  unfold State.writeTkpush
  dsimp only
  rw [bitOf_zero_of_odd (by omega), bitOf_one_of_mod_four hw, if_pos rfl, if_neg Bool.false_ne_true, if_neg hroom]
  rfl

theorem State.writeTkpush_full {w : Nat} (hw : w % 2 = 1) (ht : 15 ≤ s.here.token 8) : s.writeTkpush w = none := by
  unfold State.writeTkpush
  dsimp only
  rw [bitOf_zero_of_odd hw, if_pos rfl, if_pos]
  rw [List.any_append, List.any_cons, decide_eq_true ht, Bool.true_or, Bool.true_or]

theorem tkpush_xv (hx : s.focus.ctx = 1) (hw : (s.x r).toNat % 4 = 1) (ht : s.here.token 8 < 15) :
    ∃ t, exec (.tkpush r) s = .next t ∧ RegsAfter s t s.x (s.cur.pc + 4) ∧ SameMemory s.release t ∧ t.here.token 8 = s.here.token 8 + 1 ∧
      t.here.token 10 = s.here.token 10 := by
  have hput : s.csrPut 0x290 (s.x r) = some (s.release.modHere fun k => k.setToken 8 (k.token 8 + 1)) := State.writeTkpush_xv hw ht
  refine ⟨_, exec_csrw (State.csrCause_token hx rfl (by decide)) hput, (((RegsNow.refl s).kept (.release s)).modHere rfl).retire _,
    sameMemory_of_mem (State.retire_mem ..), ?_, ?_⟩
  · rw [token_retire, State.core_modHere, Core.token_setToken_same, token_release]
  · rw [token_retire, State.core_modHere, Core.token_setToken_other _ _ (by decide), token_release]

theorem tkpush_waits (hx : s.focus.ctx = 1) (hw : (s.x r).toNat % 2 = 1) (ht : 15 ≤ s.here.token 8) : Waits (.tkpush r) s :=
  csrw_waits (n := 0x290) (State.csrCause_token hx rfl (by decide)) (State.writeTkpush_full hw ht)

/-- A token taken from a queue: the count left is read. -/
theorem csrr_popToken {q : Nat} (hc : s.csrCause n = none) (hr : s.cur.log.replay = none) (hg : s.csrGet n = s.popToken q) {k : Nat} (ht : s.here.token q = k + 1) :
    ∃ t, exec (.csrr rd n) s = .next t ∧ RegsAfter s t (putX s rd (BitVec.ofNat 64 k)) (s.cur.pc + 4) ∧ t.here.token q = k ∧ SameMemory s t := by
  have hpop : s.csrGet n = .val k (s.modHere fun c => c.setToken q k) := by
    rw [hg, State.popToken, ht]
    rfl
  obtain ⟨cs, hh⟩ := s.here_taken (fun c => c.setToken q k) rd (BitVec.ofNat 64 k) .other (s.cur.pc + 4)
  refine ⟨_, exec_csrr hc hr hpop rd, regsAfter_taken s rfl .., ?_, sameMemory_of_mem (mem_taken ..)⟩
  rw [State.logInput, hh]
  exact Core.token_setToken_same ..

theorem csrr_popToken_waits {q : Nat} (hc : s.csrCause n = none) (hr : s.cur.log.replay = none) (hg : s.csrGet n = s.popToken q) (ht : s.here.token q = 0) :
    Waits (.csrr rd n) s := by
  refine csrr_waits hc hr ?_
  rw [hg, State.popToken, ht]
  rfl

/-! ### A write that touches neither registers nor cores -/

/-- A write whose state is that of before but outside the cores, as an instruction. -/
theorem csrw_outside (hc : s.csrCause n = none) (hp : s.csrPut n (s.x r) = some u) (hu : u.cores = s.cores) (hf : u.focus = s.focus) :
    exec (.csrw r n) s = .next (u.retire (s.cur.pc + 4)) ∧ RegsAfter s (u.retire (s.cur.pc + 4)) s.x (s.cur.pc + 4) :=
  ⟨exec_csrw hc hp, (RegsNow.of_cores ⟨hu, hf⟩).retire _⟩

/-! ### TCMP, TINV, WRCTL and CMCLR -/

theorem tcmp_write (hp : s.privileged s.focus.core s.focus.ctx = true) :
    ∃ t, exec (.tcmpWrite r) s = .next t ∧ RegsAfter s t s.x (s.cur.pc + 4) ∧ SameMemory s t ∧
      t.cur.tcmp = (if s.x r ≠ 0 ∧ (s.x r).toNat ≤ s.time then 0 else s.x r) ∧
      t.cur.ipend = (if s.x r ≠ 0 ∧ (s.x r).toNat ≤ s.time then s.cur.ipend ||| 1 else s.cur.ipend) := by
  have hput : s.csrPut 0x80A (s.x r) = some (s.writeTcmp (s.x r)) := rfl
  have hregs : RegsNow s (s.writeTcmp (s.x r)) s.x := by
    refine (RegsNow.refl s).modRest ?_ ?_
    · split <;> rfl
    · split <;> exact ⟨rfl, rfl, rfl, rfl, rfl, rfl, rfl, rfl⟩
  refine ⟨_, exec_csrw (State.csrCause_effect rfl (.inr hp) (by decide)) hput, hregs.retire _, sameMemory_of_mem rfl, ?_, ?_⟩
  all_goals
    rw [State.cur_retire, State.writeTcmp, State.cur_modCur]
    split <;> rfl

theorem State.csrPut_tinv : s.csrPut 0x933 (s.x r) =
    if (s.x r).getLsbD 0 = true ∧ s.translatedOut = true then none else some (if bitOf (s.x r).toNat 0 then { s.settlePages with tlb := [] } else s) := by
  have hput : s.csrPut 0x933 (s.x r) = if 0x933 = 0x933 ∧ (s.x r).getLsbD 0 = true ∧ s.translatedOut = true then none else some (s.putPriv 0x933 (s.x r)) := rfl
  rw [hput]
  by_cases h : (s.x r).getLsbD 0 = true ∧ s.translatedOut = true
  · rw [if_pos h, if_pos ⟨rfl, h⟩]
  · rw [if_neg h, if_neg fun hn => h hn.2]
    rfl

theorem bitOf_toNat (v : Word) (i : Nat) : bitOf v.toNat i = v.getLsbD i := by
  rw [bitOf_eq_testBit]
  rfl

theorem tinv_idle (hp : s.privileged s.focus.core s.focus.ctx = true) (hb : (s.x r).getLsbD 0 = false) :
    ∃ t, exec (.tinv r) s = .next t ∧ RegsAfter s t s.x (s.cur.pc + 4) ∧ SameMemory s t ∧ t.tlb = s.tlb := by
  have hput : s.csrPut 0x933 (s.x r) = some s := by
    rw [State.csrPut_tinv, if_neg (fun h => by rw [hb] at h; exact absurd h.1 (by decide)), bitOf_toNat, hb]
    rfl
  obtain ⟨he, hregs⟩ := csrw_outside (State.csrCause_effect (n := 0x933) rfl (.inr hp) (by decide)) hput rfl rfl
  exact ⟨_, he, hregs, sameMemory_of_mem rfl, rfl⟩

theorem tinv_clears (hp : s.privileged s.focus.core s.focus.ctx = true) (hb : (s.x r).getLsbD 0 = true) (ho : s.translatedOut = false) :
    ∃ t, exec (.tinv r) s = .next t ∧ RegsAfter s t s.x (s.cur.pc + 4) ∧ SameMemory s.settlePages t ∧ t.tlb = [] := by
  have hput : s.csrPut 0x933 (s.x r) = some { s.settlePages with tlb := [] } := by
    rw [State.csrPut_tinv, if_neg (fun h => by rw [ho] at h; exact absurd h.2 (by decide)), bitOf_toNat, hb]
    rfl
  have hregs : RegsNow s { s.settlePages with tlb := [] } s.x := ((RegsNow.refl s).kept (.settlePages s)).of_ctx (fun _ _ => rfl) rfl
  exact ⟨_, exec_csrw (n := 0x933) (State.csrCause_effect rfl (.inr hp) (by decide)) hput, hregs.retire _, sameMemory_of_mem (State.retire_mem ..), rfl⟩

theorem tinv_waits (hp : s.privileged s.focus.core s.focus.ctx = true) (hb : (s.x r).getLsbD 0 = true) (ho : s.translatedOut = true) : Waits (.tinv r) s :=
  csrw_waits (n := 0x933) (State.csrCause_effect rfl (.inr hp) (by decide)) (by rw [State.csrPut_tinv, if_pos ⟨hb, ho⟩])

theorem State.wrack_retire (u : State) (pc : Word) : (u.retire pc).wrack = u.wrack := rfl

theorem wrctl_write (hp : s.privileged s.focus.core s.focus.ctx = true) :
    ∃ t, exec (.wrctlWrite r) s = .next t ∧ RegsAfter s t s.x (s.cur.pc + 4) ∧ SameMemory s t ∧
      t.wrack.hold = (if (s.x r).getLsbD 12 then true else if s.focus.core = harbourId then false else s.wrack.hold) := by
  have hput : s.csrPut 0x977 (s.x r) = some (if bitOf (s.x r).toNat 12 then { s with wrack := { s.wrack with hold := true } }
      else if s.focus.core == harbourId then { s with wrack := { s.wrack with hold := false, lost := 0 } } else s) := rfl
  rw [bitOf_toNat] at hput
  obtain ⟨he, hregs⟩ := csrw_outside (State.csrCause_effect (n := 0x977) rfl (.inr hp) (by decide)) hput (by split_ifs <;> rfl) (by split_ifs <;> rfl)
  refine ⟨_, he, hregs, sameMemory_of_mem ((State.retire_mem ..).trans (by split_ifs <;> rfl)), ?_⟩
  rw [State.wrack_retire]
  by_cases h12 : (s.x r).getLsbD 12 = true
  · rw [if_pos h12, if_pos h12]
  · rw [if_neg h12, if_neg h12]
    by_cases hh : s.focus.core = harbourId
    · rw [if_pos hh, if_pos (beq_iff_eq.2 hh)]
    · rw [if_neg hh, if_neg fun h => hh (beq_iff_eq.1 h)]

theorem cmclr_write : ∃ t, exec (.cmclr r) s = .next t ∧ RegsAfter s t s.x (s.cur.pc + 4) ∧ SameMemory s t ∧
    t.here.cm = if (s.x r).getLsbD 0 then [] else s.here.cm := by
  have hput : s.csrPut 0x263 (s.x r) = some (if bitOf (s.x r).toNat 0 then s.modHere fun k => { k with cm := [] } else s) := rfl
  have hrun := exec_csrw (State.csrCause_effect (n := 0x263) rfl (.inl (by decide)) (by decide)) hput
  rw [bitOf_toNat] at hrun
  refine ⟨_, hrun, ?_, ?_, ?_⟩
  · refine RegsNow.retire ?_ _
    split
    · exact (RegsNow.refl s).modHere rfl
    · exact .refl s
  · refine sameMemory_of_mem ((State.retire_mem ..).trans ?_)
    split <;> rfl
  · rw [State.here_retire]
    split
    · rw [State.core_modHere]
    · rfl

/-! ### The tile service queue (24 R411) -/

theorem tsqPop_empty (hh : s.focus.core = harbourId) (hq : s.mgmt.tsq = []) (hr : s.cur.log.replay = none) :
    ∃ t, exec (.tsqPop rd) s = .next t ∧ RegsAfter s t (putX s rd 0) (s.cur.pc + 4) ∧ SameMemory s t := by
  have hget : s.csrGet 0x98D = .val s.popTsq.1 s.popTsq.2 := rfl
  have hpop : s.popTsq = (0, s) := by rw [State.popTsq, hq]
  rw [hpop] at hget
  exact ⟨_, exec_csrr (n := 0x98D) (State.csrCause_harbour hh rfl (by decide)) hr hget rd, (((RegsNow.refl s).setX ..).kept (.logFrom ..)).retire _,
    sameMemory_of_mem (by simp)⟩

theorem State.refillTsq_rest (s : State) : s.refillTsq = { s with mgmt := s.refillTsq.mgmt } ∧ s.refillTsq.mgmt.tsAnswering = s.mgmt.tsAnswering := by
  unfold State.refillTsq
  split <;> exact ⟨rfl, rfl⟩

theorem tsqPop_oldest (hh : s.focus.core = harbourId) {c e : Nat} {rest : List (Nat × Nat)} (hq : s.mgmt.tsq = (c, e) :: rest) (hr : s.cur.log.replay = none) :
    ∃ t, exec (.tsqPop rd) s = .next t ∧ RegsAfter s t (putX s rd (BitVec.ofNat 64 (2 ^ 63 + c % 2 ^ 11 * 2 ^ 52 + e % 2 ^ 52))) (s.cur.pc + 4) ∧ SameMemory s t ∧
      e ∈ t.mgmt.tsAnswering := by
  have hget : s.csrGet 0x98D = .val s.popTsq.1 s.popTsq.2 := rfl
  have hpop : s.popTsq = (2 ^ 63 + c % 2 ^ 11 * 2 ^ 52 + e % 2 ^ 52,
      { s with mgmt := { s.mgmt with tsq := rest, tsAnswering := s.mgmt.tsAnswering ++ [e] } }.refillTsq) := by rw [State.popTsq, hq]
  rw [hpop] at hget
  obtain ⟨hrest, hans⟩ := State.refillTsq_rest { s with mgmt := { s.mgmt with tsq := rest, tsAnswering := s.mgmt.tsAnswering ++ [e] } }
  generalize { s with mgmt := { s.mgmt with tsq := rest, tsAnswering := s.mgmt.tsAnswering ++ [e] } }.refillTsq = u at hget hrest hans
  have hregs : RegsNow s u s.x := RegsNow.of_cores (by rw [hrest]; exact ⟨rfl, rfl⟩)
  refine ⟨_, exec_csrr (n := 0x98D) (State.csrCause_harbour hh rfl (by decide)) hr hget rd, ((hregs.setX ..).kept (.logFrom ..)).retire _, ?_, ?_⟩
  · refine sameMemory_of_mem ?_
    rw [State.logInput, State.retire_mem, State.logFrom, State.modCur_mem, State.setX_mem, hrest]
  · show e ∈ u.mgmt.tsAnswering
    rw [hans]
    exact List.mem_append_right _ (List.mem_singleton.2 rfl)

/-- An answer with no command waiting for it evaluates no rule. -/
theorem State.answerTsq_streams {e : Nat} (h : ∀ w ∈ s.mgmt.tsWaiters, w.1 = e → ∃ c, w.2 = .stream c) : s.answerTsq e =
    { s with mgmt := { s.mgmt with
      tsAnswering := s.mgmt.tsAnswering.filter (fun d => decide (d ≠ e)), tsWaiters := s.mgmt.tsWaiters.filter fun w => decide (w.1 ≠ e) } } := by
  have hnone (f : Nat × TileWaiter → Option (QueueId × Nat)) (hf : ∀ n c, f (n, .stream c) = none) :
      (s.mgmt.tsWaiters.filter fun w => decide (w.1 = e)).filterMap f = [] := by
    rw [List.filterMap_eq_nil_iff]
    intro w hw
    obtain ⟨hmem, he⟩ := List.mem_filter.1 hw
    obtain ⟨c, hc⟩ := h w hmem (of_decide_eq_true he)
    rw [← hf w.1 c, ← hc]
  unfold State.answerTsq
  dsimp only
  rw [hnone _ fun _ _ => rfl, State.rules]
  generalize (State.commandCount _ + 2) * _ + _ = fuel
  cases fuel <;> rfl

theorem tsdone_answers (hh : s.focus.core = harbourId) (h : ∀ w ∈ s.mgmt.tsWaiters, w.1 = (s.x r).toNat % 2 ^ 52 → ∃ c, w.2 = .stream c) :
    ∃ t, exec (.tsdone r) s = .next t ∧ RegsAfter s t s.x (s.cur.pc + 4) ∧ SameMemory s t ∧
      (∀ w, w ∈ t.mgmt.tsWaiters ↔ w ∈ s.mgmt.tsWaiters ∧ w.1 ≠ (s.x r).toNat % 2 ^ 52) ∧ ¬(s.x r).toNat % 2 ^ 52 ∈ t.mgmt.tsAnswering := by
  have hput : s.csrPut 0x98E (s.x r) = some (s.answerTsq ((s.x r).toNat % 2 ^ 52)) := rfl
  rw [State.answerTsq_streams h] at hput
  obtain ⟨he, hregs⟩ := csrw_outside (n := 0x98E) (State.csrCause_harbour hh rfl (by decide)) hput rfl rfl
  refine ⟨_, he, hregs, sameMemory_of_mem rfl, fun w => ?_, fun hmem => ?_⟩
  · exact List.mem_filter.trans (and_congr_right fun _ => decide_eq_true_iff)
  · exact of_decide_eq_true (List.mem_filter.1 hmem).2 rfl

/-! ### HBM4E channels (24 R420) and the watchdog (24 R421) -/

theorem State.csrPut_hbm (hn : n = 0x981 ∨ n = 0x985) (hk : hselKey s.cur.hsel.toNat = some key) (w : Word) :
    s.csrPut n w = s.putHbm n key (bitsOf s.cur.hsel.toNat 15 10) w.toNat := by
  rcases hn with rfl | rfl
  all_goals
    show (match hselKey s.cur.hsel.toNat with | none => some s | some key => s.putHbm _ key (bitsOf s.cur.hsel.toNat 15 10) w.toNat) = _
    rw [hk]

theorem Hbm.mode_write (v : Hbm) (lane w : Nat) : (v.write 0x981 lane w).mode = if w % 4 = 3 then v.mode else w % 4 := by
  have hw : bitsOf w 1 0 = w % 4 := by simp [bitsOf]
  show (if bitsOf w 1 0 = 3 then v else { v with mode := bitsOf w 1 0 }).mode = _
  rw [hw]
  split <;> rfl

theorem State.pseudo_setPseudo (s : State) (key : Nat) (v : Hbm) : (s.setPseudo key v).pseudo key = v := Tbl.get_set_same ..

theorem State.pseudo_retire (s : State) (pc : Word) (key : Nat) : (s.retire pc).pseudo key = s.pseudo key := rfl

theorem RegsNow.setPseudo (h : RegsNow s u s.x) (key : Nat) (v : Hbm) : RegsNow s (u.setPseudo key v) s.x := h.of_ctx (fun _ _ => rfl) rfl

/-- A mode that leaves the channel in mission mode, or that no access holds up, is taken. -/
theorem State.putHbm_mode (ht : (s.pseudo key).test = 0) (lane : Nat) {w : Nat} (h : (s.pseudo key).mode ≠ 2 ∨ 2 ≤ w % 4 ∨ s.channelOut key = false) :
    ∃ u, Kept s u ∧ s.putHbm 0x981 key lane w = some (u.setPseudo key ((s.pseudo key).write 0x981 lane w)) := by
  have htest : ¬((s.pseudo key).test ≠ 0 ∧ 0x981 ≠ 0x984) := fun hn => hn.1 ht
  unfold State.putHbm
  dsimp only
  rw [if_neg htest]
  by_cases hm : (s.pseudo key).mode = 2 ∧ w % 4 < 2
  · have ho : s.channelOut key = false := by
      rcases h with h | h | h
      · exact absurd hm.1 h
      · omega
      · exact h
    rw [if_pos ⟨rfl, hm⟩, ho, if_neg Bool.false_ne_true]
    exact ⟨_, .settlePages s, rfl⟩
  · rw [if_neg fun hn => hm hn.2]
    exact ⟨s, .refl s, rfl⟩

theorem State.putHbm_mode_waits (ht : (s.pseudo key).test = 0) (lane : Nat) {w : Nat} (hm : (s.pseudo key).mode = 2) (hw : w % 4 < 2)
    (ho : s.channelOut key = true) : s.putHbm 0x981 key lane w = none := by
  unfold State.putHbm
  dsimp only
  rw [if_neg (fun hn => hn.1 ht), if_pos ⟨rfl, hm, hw⟩, if_pos ho]

theorem hctl_write (hh : s.focus.core = harbourId) (hk : hselKey s.cur.hsel.toNat = some key) (ht : (s.pseudo key).test = 0)
    (h : (s.pseudo key).mode ≠ 2 ∨ 2 ≤ (s.x r).toNat % 4 ∨ s.channelOut key = false) :
    ∃ t, exec (.hctlWrite r) s = .next t ∧ RegsAfter s t s.x (s.cur.pc + 4) ∧
      (t.pseudo key).mode = if (s.x r).toNat % 4 = 3 then (s.pseudo key).mode else (s.x r).toNat % 4 := by
  obtain ⟨u, hu, hput⟩ := State.putHbm_mode ht (bitsOf s.cur.hsel.toNat 15 10) h
  rw [← State.csrPut_hbm (.inl rfl) hk] at hput
  refine ⟨_, exec_csrw (n := 0x981) (State.csrCause_harbour hh rfl (by decide)) hput, (((RegsNow.refl s).kept hu).setPseudo ..).retire _, ?_⟩
  rw [State.pseudo_retire, State.pseudo_setPseudo, Hbm.mode_write]

theorem hctl_waits (hh : s.focus.core = harbourId) (hk : hselKey s.cur.hsel.toNat = some key) (ht : (s.pseudo key).test = 0) (hm : (s.pseudo key).mode = 2)
    (hw : (s.x r).toNat % 4 < 2) (ho : s.channelOut key = true) : Waits (.hctlWrite r) s :=
  csrw_waits (n := 0x981) (State.csrCause_harbour hh rfl (by decide)) (by rw [State.csrPut_hbm (.inl rfl) hk, State.putHbm_mode_waits ht _ hm hw ho])

theorem hrep_write (hh : s.focus.core = harbourId) (hk : hselKey s.cur.hsel.toNat = some key) (ht : (s.pseudo key).test = 0) :
    ∃ t, exec (.hrepWrite r) s = .next t ∧ RegsAfter s t s.x (s.cur.pc + 4) ∧
      (t.pseudo key).rep = if (s.pseudo key).mode = 1 then storedRepair (s.x r).toNat else (s.pseudo key).rep := by
  have hput : s.csrPut 0x985 (s.x r) = some (s.setPseudo key ((s.pseudo key).write 0x985 (bitsOf s.cur.hsel.toNat 15 10) (s.x r).toNat)) := by
    rw [State.csrPut_hbm (.inr rfl) hk, State.putHbm]
    rw [if_neg (fun hn => hn.1 ht), if_neg (fun hn => absurd hn.1 (by decide))]
  refine ⟨_, exec_csrw (n := 0x985) (State.csrCause_harbour hh rfl (by decide)) hput, ((RegsNow.refl s).setPseudo ..).retire _, ?_⟩
  rw [State.pseudo_retire, State.pseudo_setPseudo]
  show (if (s.pseudo key).mode = 1 then { s.pseudo key with rep := storedRepair (s.x r).toNat } else s.pseudo key).rep = _
  split <;> rfl

theorem hwdt_write (hh : s.focus.core = harbourId) :
    ∃ t, exec (.hwdtWrite r) s = .next t ∧ RegsAfter s t s.x (s.cur.pc + 4) ∧ SameMemory s t ∧ t.mgmt.hwdt = (s.x r).toNat % 2 ^ 32 := by
  have hput : s.csrPut 0x98B (s.x r) = some { s with mgmt := { s.mgmt with hwdt := (s.x r).toNat % 2 ^ 32, hwdtDue := s.time + (s.x r).toNat % 2 ^ 32 * 1000000 } } := rfl
  obtain ⟨he, hregs⟩ := csrw_outside (n := 0x98B) (State.csrCause_harbour hh rfl (by decide)) hput rfl rfl
  exact ⟨_, he, hregs, sameMemory_of_mem rfl, rfl⟩

/-! ### Obligation O16 -/

theorem token_traps (hx : s.focus.ctx ≠ 1) : Traps (.tkpush r) s 0x02 0 ∧ Traps (.tkvx r) s 0x02 0 ∧ Traps (.tkmx r) s 0x02 0 :=
  ⟨(traps_of_csrCause (State.csrCause_foreign (n := 0x290) hx rfl (by decide))).2, (traps_of_csrCause (State.csrCause_foreign (n := 0x291) hx rfl (by decide))).1,
    (traps_of_csrCause (State.csrCause_foreign (n := 0x292) hx rfl (by decide))).1⟩

theorem unfence_lifts (s : State) (core : Nat) :
    ∃ t, exec (.cntctlUnfence core) s = .next t ∧ (t.core core).fenced = false ∧ SameMemory s t ∧ ∀ c, c ≠ core → t.core c = s.core c := by
  refine ⟨_, rfl, ?_, sameMemory_of_mem rfl, fun c hc => State.core_modCore_other _ _ _ _ hc⟩
  rw [State.unfence, State.core_modCore_same]

end

/-- Settles O16: each register's effect is that of a write or read of its number, the checks of R119 passed. -/
theorem csrEffects : Obligations.CsrEffects := by
  unfold Obligations.CsrEffects
  refine ⟨fun s ra hx hw ht => tkpush_xv hx hw ht, fun s ra hx hw ht => tkpush_waits hx hw ht, fun s rd n hx hr => ⟨fun ht => ?_, fun ht => ?_, fun ht => ?_, fun ht => ?_⟩,
    fun s r hx => token_traps hx, fun s ra hp => ⟨tcmp_write hp, fun hb => tinv_idle hp hb, fun hb ho => tinv_clears hp hb ho, fun hb ho => tinv_waits hp hb ho, wrctl_write hp⟩,
    fun s ra => cmclr_write, fun s r hh => ⟨fun hq hr => tsqPop_empty hh hq hr, fun c e rest hq hr => tsqPop_oldest hh hq hr, fun h => tsdone_answers hh h,
      fun key hk ht => ⟨fun h => hctl_write hh hk ht h, fun hm hw ho => hctl_waits hh hk ht hm hw ho, hrep_write hh hk ht⟩, hwdt_write hh⟩, unfence_lifts⟩
  · exact csrr_popToken (n := 0x291) (State.csrCause_token hx rfl (by decide)) hr rfl ht
  · exact csrr_popToken (n := 0x292) (State.csrCause_token hx rfl (by decide)) hr rfl ht
  · exact csrr_popToken_waits (n := 0x291) (State.csrCause_token hx rfl (by decide)) hr rfl ht
  · exact csrr_popToken_waits (n := 0x292) (State.csrCause_token hx rfl (by decide)) hr rfl ht

end Sys2Proof.Machine

/-! # What a vector word puts in flight (06 R124 to R129) -/

namespace Sys2Proof.Machine
open Sys2Proof Sys2Proof.Spec

/-- A word's body leaves the state as it was but for the divider's last issue. -/
structure BodyKeeps (s u : State) : Prop where
  focus : u.focus = s.focus
  here : u.here = { s.here with vs := { s.vs with lastDiv := u.vs.lastDiv } }
  ctx : ∀ c n, u.ctx c n = s.ctx c n
  mem : u.mem = s.mem

theorem BodyKeeps.refl (s : State) : BodyKeeps s s := ⟨rfl, rfl, fun _ _ => rfl, rfl⟩

/-- What the issue of a word leaves that put one result in flight: the result, as that word's, behind those that were there. -/
structure InFlight (s t : State) (h : VHdr) (r : Landing) : Prop where
  issued : VecIssued s t h.pop 1
  next : VecNext s t
  land : t.vs.land = s.vs.land ++ [{ r with word := s.vs.pc }]

section
variable {s u : State} {h : VHdr} {r : Landing}

/-- The state behind a word whose only landing carries its push token. -/
theorem State.vecGoOn_inFlight (ha : s.vs.atStop = 0) (hu : BodyKeeps s u) (hp : r.push = h.push) :
    InFlight s (s.vecGoOn u h.pop h.push 1 1 [r] none) h r ∧ (s.vecGoOn u h.pop h.push 1 1 [r] none).vs.lastDiv = u.vs.lastDiv := by
  obtain ⟨gone, -, hctx, hmem⟩ := State.vecGoOn_spec s u h.pop h.push 1 1 [r] none hu.focus
  rw [heldToken_carried _ _ _ _ (by simp [hp])] at gone
  generalize s.vecGoOn u h.pop h.push 1 1 [r] none = t at gone hctx hmem ⊢
  obtain ⟨hvs, htok, hacc, hvfst, -, -, -⟩ := gone
  rw [hu.here] at hvs htok hacc hvfst hmem
  replace hvs : t.vs = _ := hvs
  have issued : VecIssued s t h.pop 1 := {
    cycle := by rw [hvs]; rfl
    st := by rw [hvs]; exact ⟨rfl, rfl, rfl, ha⟩
    grid := by rw [hvs]; rfl
    sregs := by rw [hvs]; rfl
    fmt := by rw [hvs]; rfl
    acc := hacc
    status := hvfst
    token := htok
    rest := fun hoff => ⟨fun a => State.byte_eq _ _ ((hmem hoff).trans hu.mem) a, fun c n => (hctx c n).trans (hu.ctx c n)⟩ }
  have next : VecNext s t := ⟨by rw [hvs]; rfl, by rw [hvs]; rfl, by rw [hvs]; exact ⟨rfl, rfl, rfl⟩⟩
  exact ⟨⟨issued, next, by rw [hvs]; rfl⟩, by rw [hvs]; rfl⟩

variable {classOk : VStream → Slot → Bool} {body : VStream → Slot → VOut}

/-- A word that issues with one landing, which carries its push token, puts that landing in flight. -/
theorem vecIssue_inFlight (hr : VecReady s none h.slot h.pop 1) (hc : classOk s.vs (Slot.of (s.vs.entry h.slot)) = true)
    (hb : body s.vs (Slot.of (s.vs.entry h.slot)) = .ok u [r] none) (hu : BodyKeeps s u) (hp : r.push = h.push) :
    ∃ t, vecIssue s none h.slot h.pop h.push 1 1 classOk body = .next t ∧ InFlight s t h r ∧ t.vs.lastDiv = u.vs.lastDiv :=
  ⟨_, vecIssue_ok s u none h.slot h.pop h.push 1 1 classOk body [r] none hr.follows hr.ends hr.slotFine hc hr.tokens hb, State.vecGoOn_inFlight hr.follows hu hp⟩

/-- A word whose body leaves the state as it was. -/
theorem vecWord_inFlight {classOk : Slot → Bool} (hr : VecReady s none h.slot h.pop 1) (hc : classOk (Slot.of (s.vs.entry h.slot)) = true)
    (hb : body s.vs (Slot.of (s.vs.entry h.slot)) = .ok s [r] none) (hp : r.push = h.push) : ∃ t, vecWord s h classOk body = .next t ∧ InFlight s t h r :=
  have ⟨t, ht, hf, _⟩ := vecIssue_inFlight (classOk := fun _ => classOk) hr hc hb (.refl s) hp
  ⟨t, ht, hf⟩

end

section
variable {s t : State} {h : VHdr} {lat : Nat} {dest : LandDest} {m a : Word} {flags : Nat}

/-- A value for each of the lanes that a result writes, whichever lanes were active. -/
theorem InFlight.written {vals : List Elem} {val : Nat → Elem} (hf : InFlight s t h { result (s.vs.cycle + lat) h dest m vals flags with active := a })
    (hv : ∀ l, l < 64 → m.getLsbD l = true → vals.getD l 0 = val l) : LandsOne s t h lat dest m val flags :=
  ⟨_, hf.land, rfl, rfl, rfl, rfl, rfl, rfl, hv⟩

theorem InFlight.one {vals : List Elem} {val : Nat → Elem} (hf : InFlight s t h (result (s.vs.cycle + lat) h dest m vals flags))
    (hv : ∀ l, l < 64 → m.getLsbD l = true → vals.getD l 0 = val l) : LandsOne s t h lat dest m val flags :=
  InFlight.written (a := m) hf hv

/-- A 64-bit value. -/
theorem InFlight.word {w : Word} (hf : InFlight s t h { result (s.vs.cycle + lat) h dest m (halves w) flags with active := a }) :
    LandsWord s t h lat dest m w flags :=
  ⟨_, hf.land, rfl, rfl, rfl, rfl, rfl, rfl, rfl⟩

end

end Sys2Proof.Machine

/-! # Words that write each active lane (06 R124, R126 to R136, R145, R146, R149, R150, 07 R179 to R181) -/

namespace Sys2Proof.Machine
open Sys2Proof Sys2Proof.Spec

/-! ### The lanes of one result -/

section
variable {s t : State} {h : VHdr} {r : Landing}

/-- The values that a word gathers over its active lanes land in them. -/
theorem InFlight.lanes {lat : Nat} {dest : LandDest} {m : Word} {f : Nat → Nat × Nat}
    (hf : InFlight s t h (result (s.vs.cycle + lat) h dest m (overLanes m f).1 (overLanes m f).2)) :
    LandsOne s t h lat dest m (fun l => BitVec.ofNat 32 (f l).1) (flagsOf m fun l => (f l).2) := by
  rw [overLanes_flags] at hf
  exact hf.one fun l hl hm => overLanes_value m f l hl hm

theorem InFlight.lanes_congr {lat : Nat} {dest : LandDest} {m : Word} {f g : Nat → Nat × Nat}
    (hf : InFlight s t h (result (s.vs.cycle + lat) h dest m (overLanes m f).1 (overLanes m f).2)) (hfg : ∀ l, f l = g l) :
    LandsOne s t h lat dest m (fun l => BitVec.ofNat 32 (g l).1) (flagsOf m fun l => (g l).2) := by
  rw [← funext hfg]
  exact hf.lanes

/-- A lane word whose slot is of its class puts its lanes in flight. -/
theorem lanesWord_lands {d : VOp} {lat : Nat} {classOk : Slot → Bool} {f : VStream → Slot → Nat → Nat × Nat} (hr : VecReady s none h.slot h.pop 1)
    (hc : classOk (Slot.of (s.vs.entry h.slot)) = true) :
    ∃ t, lanesWord s h d lat classOk f = .next t ∧ VecIssued s t h.pop 1 ∧ VecNext s t ∧
      LandsOne s t h lat (s.vs.dest d) (s.vs.mask h.guard) (fun l => BitVec.ofNat 32 (f s.vs (Slot.of (s.vs.entry h.slot)) l).1)
        (flagsOf (s.vs.mask h.guard) fun l => (f s.vs (Slot.of (s.vs.entry h.slot)) l).2) := by
  obtain ⟨t, ht, hf⟩ := vecWord_inFlight (body := fun v sl => .ok s [result (v.cycle + lat) h (v.dest d) (v.mask h.guard) (overLanes (v.mask h.guard) (f v sl)).1
    (overLanes (v.mask h.guard) (f v sl)).2] none) hr hc rfl rfl
  exact ⟨t, ht, hf.issued, hf.next, hf.lanes⟩

/-! ### Bit words on 32 bits (06 R136) -/

theorem toNat_ofNat_and (x y : Nat) : (BitVec.ofNat 32 x &&& BitVec.ofNat 32 y).toNat = (x &&& y) % 2 ^ 32 := by
  rw [BitVec.toNat_and, BitVec.toNat_ofNat, BitVec.toNat_ofNat, Nat.and_mod_two_pow]

theorem toNat_ofNat_or (x y : Nat) : (BitVec.ofNat 32 x ||| BitVec.ofNat 32 y).toNat = (x ||| y) % 2 ^ 32 := by
  rw [BitVec.toNat_or, BitVec.toNat_ofNat, BitVec.toNat_ofNat, Nat.or_mod_two_pow]

theorem toNat_ofNat_xor (x y : Nat) : (BitVec.ofNat 32 x ^^^ BitVec.ofNat 32 y).toNat = (x ^^^ y) % 2 ^ 32 := by
  rw [BitVec.toNat_xor, BitVec.toNat_ofNat, BitVec.toNat_ofNat, Nat.xor_mod_two_pow]

/-- A shift amount taken from a word keeps its low five bits. -/
theorem toNat_ofNat_amount (y : Nat) : (BitVec.ofNat 32 y).toNat % 32 = y % 32 := by rw [BitVec.toNat_ofNat]; omega

theorem toNat_ofNat_shl (x y : Nat) : (BitVec.ofNat 32 x <<< ((BitVec.ofNat 32 y).toNat % 32)).toNat = x * 2 ^ (y % 32) % 2 ^ 32 := by
  rw [toNat_ofNat_amount, BitVec.toNat_shiftLeft, BitVec.toNat_ofNat, Nat.shiftLeft_eq, Nat.mod_mul_mod]

theorem toNat_ofNat_shr (x y : Nat) : (BitVec.ofNat 32 x >>> ((BitVec.ofNat 32 y).toNat % 32)).toNat = x % 2 ^ 32 / 2 ^ (y % 32) % 2 ^ 32 := by
  rw [toNat_ofNat_amount, BitVec.toNat_ushiftRight, BitVec.toNat_ofNat, Nat.shiftRight_eq_div_pow,
    Nat.mod_eq_of_lt (Nat.lt_of_le_of_lt (Nat.div_le_self _ _) (Nat.mod_lt _ (by decide)))]

/-- A 32-bit pattern read as two's complement. -/
theorem toInt_ofNat_sext (x : Nat) : (BitVec.ofNat 32 x).toInt = sextNat 32 x := by
  rw [BitVec.toInt_eq_toNat_cond, BitVec.toNat_ofNat, sextNat]
  split <;> split <;> omega

theorem toNat_ofNat_sra (x y : Nat) :
    ((BitVec.ofNat 32 x).sshiftRight ((BitVec.ofNat 32 y).toNat % 32)).toNat = (sextNat 32 x / 2 ^ (y % 32) % 2 ^ 32).toNat % 2 ^ 32 := by
  rw [toNat_ofNat_amount, BitVec.sshiftRight, BitVec.toNat_ofInt, toInt_ofNat_sext, Int.shiftRight_eq_div_pow]
  push_cast
  omega

/-- A bit word is a lane word of any class. -/
theorem exec_bitWord {d a b : VOp} {sl : Slot} (F : BitVec 32 → BitVec 32 → BitVec 32) (G : Nat → Nat → Nat)
    (hF : ∀ x y, (F (BitVec.ofNat 32 x) (BitVec.ofNat 32 y)).toNat = G x y % 2 ^ 32) :
    ∃ classOk g, bitWord s h d a b F = lanesWord s h d 1 classOk g ∧ classOk sl = true ∧ g s.vs sl = fun l => (G (s.vs.lane a l) (s.vs.lane b l) % 2 ^ 32, 0) :=
  ⟨classAny, _, rfl, rfl, funext fun l => by rw [hF]⟩

/-! ### The table of the lane words -/

/-- Each word of the table is a lane word of its latency and class, whose lanes are the table's. The bit words, which the model computes on 32 bits, are its cases 15 to 20. -/
theorem exec_laneWord {i : Instr} {d : VOp} {lat : Nat} {ok : Bool} {f : Nat → Nat × Nat} {sl : Slot} (hi : laneWord i s.vs sl = some (h, d, lat, ok, f)) :
    ∃ classOk g, exec i s = lanesWord s h d lat classOk g ∧ classOk sl = ok ∧ g s.vs sl = f := by
  unfold laneWord at hi
  extract_lets int bits at hi
  split at hi
  all_goals cases hi
  all_goals simp only [exec, execVaddF, execVsubF, execVmulF, execVfmaF, execVminF, execVmaxF, execVabsF, execVnegF, execVaddI, execVsubI, execVmulI, execVmacI,
    execVminI, execVmaxI, execVand, execVor, execVxor, execVshl, execVshr, execVsra, execVcmul, execVcfma, execVtwid, execVperm, execVbcst, execVmovg, execVclmp, execVboxd,
    execVdwc, execVlut, fpWord2, fpSelect, intWord]
  case h_15 => exact exec_bitWord _ (fun x y => x &&& y) toNat_ofNat_and
  case h_16 => exact exec_bitWord _ (fun x y => x ||| y) toNat_ofNat_or
  case h_17 => exact exec_bitWord _ (fun x y => x ^^^ y) toNat_ofNat_xor
  case h_18 => exact exec_bitWord _ (fun x y => x * 2 ^ (y % 32)) toNat_ofNat_shl
  case h_19 => exact exec_bitWord _ (fun x y => x % 2 ^ 32 / 2 ^ (y % 32)) toNat_ofNat_shr
  case h_20 => exact exec_bitWord (fun x y => x.sshiftRight (y.toNat % 32)) (fun x y => (sextNat 32 x / 2 ^ (y % 32) % 2 ^ 32).toNat) toNat_ofNat_sra
  all_goals exact ⟨_, _, rfl, rfl, rfl⟩

/-! ### The divider (06 R128, R133) -/

/-- Each of the divider's words is one that runs through `divWord` with the table's lanes. -/
theorem exec_dividerWord {i : Instr} {d : VOp} {f : Nat → Nat × Nat} {sl : Slot} (hi : dividerWord i s.vs sl = some (h, d, f)) :
    ∃ g, exec i s = divWord s h d g ∧ g s.vs sl = f := by
  unfold dividerWord at hi
  split at hi
  all_goals cases hi
  all_goals
    simp only [exec, execVdivF, execVsqrtF]
    exact ⟨_, rfl, rfl⟩

theorem State.here_modVs (s : State) (f : VStream → VStream) : (s.modVs f).here = { s.here with vs := f s.vs } := State.core_modCore_same ..

theorem State.vs_modVs (s : State) (f : VStream → VStream) : (s.modVs f).vs = f s.vs := congrArg Core.vs (s.here_modVs f)

theorem bodyKeeps_lastDiv (s : State) (c : Option Nat) : BodyKeeps s (s.modVs fun v => { v with lastDiv := c }) :=
  ⟨rfl, by rw [State.vs_modVs, State.here_modVs], fun k n => State.ctx_modCore s _ rfl k n, rfl⟩

/-- The divider's word behind a pause of 12 cycles. -/
theorem divWord_lands {d : VOp} {f : VStream → Slot → Nat → Nat × Nat} (hr : VecReady s none h.slot h.pop 1)
    (hc : isFloat (Slot.of (s.vs.entry h.slot)).fmt = true) (hd : ∀ c, s.vs.lastDiv = some c → c + 12 ≤ s.vs.cycle) :
    ∃ t, divWord s h d f = .next t ∧ VecIssued s t h.pop 1 ∧ VecNext s t ∧ t.vs.lastDiv = some s.vs.cycle ∧
      LandsOne s t h 12 (s.vs.dest d) (s.vs.mask h.guard) (fun l => BitVec.ofNat 32 (f s.vs (Slot.of (s.vs.entry h.slot)) l).1)
        (flagsOf (s.vs.mask h.guard) fun l => (f s.vs (Slot.of (s.vs.entry h.slot)) l).2) := by
  have hfree : (s.vs.lastDiv.any fun t => decide (s.vs.cycle < t + 12)) = false := by
    cases hl : s.vs.lastDiv with
    | none => rfl
    | some c => simpa using hd c hl
  obtain ⟨t, ht, hf, hdiv⟩ : ∃ t, divWord s h d f = .next t ∧
      InFlight s t h (result (s.vs.cycle + 12) h (s.vs.dest d) (s.vs.mask h.guard) (overLanes (s.vs.mask h.guard) (f s.vs (Slot.of (s.vs.entry h.slot)))).1
        (overLanes (s.vs.mask h.guard) (f s.vs (Slot.of (s.vs.entry h.slot)))).2) ∧ t.vs.lastDiv = (s.modVs fun v => { v with lastDiv := some v.cycle }).vs.lastDiv := by
    unfold divWord vecWord
    exact vecIssue_inFlight hr hc (by simp only [hfree, Bool.false_eq_true, if_false]) (bodyKeeps_lastDiv s (some s.vs.cycle)) rfl
  exact ⟨t, ht, hf.issued, hf.next, hdiv.trans (by rw [State.vs_modVs]), hf.lanes⟩

/-- The divider's word too soon behind another (06 R128). -/
theorem divWord_busy {d : VOp} {f : VStream → Slot → Nat → Nat × Nat} {c : Nat} (hr : VecReady s none h.slot h.pop 1)
    (hc : isFloat (Slot.of (s.vs.entry h.slot)).fmt = true) (hl : s.vs.lastDiv = some c) (hd : s.vs.cycle < c + 12) : divWord s h d f = .next (s.stopHere 0x01) := by
  unfold divWord vecWord
  exact vecIssue_stop s s none h.slot h.pop h.push 1 1 (fun _ => classFloat) _ 0x01 hr.ends hr.slotFine hc hr.tokens (by simp [hl, hd])

end

/-! ### Obligation O20 -/

/-- Settles O20: every word of the table runs through `lanesWord`, the divider's through `divWord`, and each puts one result in flight. -/
theorem laneWordsLandTheirValues : Obligations.LaneWordsLandTheirValues := by
  unfold Obligations.LaneWordsLandTheirValues
  refine ⟨fun i s h d lat ok f hi hr hok => ?_, fun i s h d f hi hr hc hd => ?_⟩
  · obtain ⟨classOk, g, he, hg, rfl⟩ := exec_laneWord hi
    rw [he]
    exact lanesWord_lands hr (hg.trans hok)
  · obtain ⟨g, he, rfl⟩ := exec_dividerWord hi
    rw [he]
    exact divWord_lands hr hc hd

end Sys2Proof.Machine

/-! # Compares, VSEL and VNMS (06 R137 to R139, 07 R178) -/

namespace Sys2Proof.Machine
open Sys2Proof Sys2Proof.Spec

/-! ### Lane masks, and lists of one entry for each lane -/

theorem getD_map_range {α : Type} (f : Nat → α) (d : α) {l : Nat} (hl : l < 64) : ((List.range 64).map f).getD l d = f l := by
  rw [List.getD_eq_getElem?_getD, List.getElem?_map, List.getElem?_range hl, Option.map_some, Option.getD_some]

/-- Bits summed at their places: bit i is the i-th, below the k that are summed. -/
theorem testBit_sum (f : Nat → Bool) (k : Nat) :
    (List.range k).foldl (fun n l => n + b2n (f l) * 2 ^ l) 0 < 2 ^ k ∧
      ∀ i, ((List.range k).foldl (fun n l => n + b2n (f l) * 2 ^ l) 0).testBit i = (decide (i < k) && f i) := by
  induction k with
  | zero => exact ⟨Nat.one_pos, fun i => by simp⟩
  | succ k ih =>
    obtain ⟨hlt, hbit⟩ := ih
    rw [List.range_succ, List.foldl_append, List.foldl_cons, List.foldl_nil]
    generalize (List.range k).foldl (fun n l => n + b2n (f l) * 2 ^ l) 0 = n at hlt hbit
    refine ⟨?_, fun i => ?_⟩
    · rw [Nat.pow_succ]
      cases f k <;> simp only [b2n, Bool.false_eq_true, if_false, if_true] <;> omega
    · rw [Nat.add_comm, Nat.mul_comm, Nat.testBit_two_pow_mul_add _ hlt, hbit]
      by_cases hi : i < k
      · simp [hi, Nat.lt_succ_of_lt hi]
      · rw [if_neg hi]
        by_cases he : i = k
        · subst he
          cases f i <;> simp [b2n]
        · rw [decide_eq_false (by omega), Bool.false_and, b2n]
          refine Nat.testBit_lt_two_pow (Nat.lt_of_lt_of_le (m := 2) (by split <;> decide) ?_)
          exact Nat.le_self_pow (by omega) 2

theorem maskOf_getLsbD (f : Nat → Bool) {l : Nat} (hl : l < 64) : (maskOf f).getLsbD l = f l := by
  rw [maskOf, BitVec.getLsbD_ofNat, (testBit_sum f 64).2]
  simp [hl]

theorem flagsOf_congr {m : Word} {f g : Nat → Nat} (h : ∀ l, l < 64 → f l = g l) : flagsOf m f = flagsOf m g :=
  List.foldl_ext _ _ _ fun n l hl => by rw [h l (List.mem_range.1 hl)]

theorem flagsOf_zero (m : Word) : flagsOf m (fun _ => 0) = 0 :=
  foldl_keeps (· = 0) _ _ (fun n l _ hn => by simp [hn]) _ rfl

/-- Flags joined over the active lanes alone. -/
theorem foldl_lanesOf_flags (m : Word) (f : Nat → Nat) : (lanesOf m).foldl (fun n l => n ||| f l) 0 = flagsOf m f := by
  rw [lanesOf, List.foldl_filter, flagsOf]
  refine List.foldl_ext _ _ _ fun n l _ => ?_
  split <;> simp

/-! ### Compares and VSEL (06 R137 to R139) -/

section
variable {s t : State} {h : VHdr}

/-- A compare whose slot is of its class puts the bits of its active lanes in flight. -/
theorem compareWord_lands {pd : Nat} {classOk : Slot → Bool} {f : VStream → Slot → Nat → Bool × Nat} (hr : VecReady s none h.slot h.pop 1)
    (hc : classOk (Slot.of (s.vs.entry h.slot)) = true) :
    ∃ t w, compareWord s h pd classOk f = .next t ∧ VecIssued s t h.pop 1 ∧ VecNext s t ∧
      LandsWord s t h 1 (.pred pd) (s.vs.mask h.guard) w (flagsOf (s.vs.mask h.guard) fun l => (f s.vs (Slot.of (s.vs.entry h.slot)) l).2) ∧
      ∀ l, l < 64 → w.getLsbD l = ((s.vs.mask h.guard).getLsbD l && (f s.vs (Slot.of (s.vs.entry h.slot)) l).1) := by
  obtain ⟨t, ht, hf⟩ : ∃ t, compareWord s h pd classOk f = .next t ∧ InFlight s t h _ := by
    unfold compareWord
    exact vecWord_inFlight hr hc rfl rfl
  rw [foldl_lanesOf_flags, flagsOf_congr fun l hl => congrArg Prod.snd (getD_map_range (f s.vs (Slot.of (s.vs.entry h.slot))) (false, 0) hl)] at hf
  refine ⟨t, _, ht, hf.issued, hf.next, hf.word, fun l hl => ?_⟩
  rw [BitVec.getLsbD_and, maskOf_getLsbD _ hl, getD_map_range _ _ hl, Bool.and_comm]

theorem exec_vsel_lands {d a b : VOp} (hr : VecReady s none h.slot h.pop 1) :
    ∃ t, exec (.vsel h d a b) s = .next t ∧ VecIssued s t h.pop 1 ∧ VecNext s t ∧
      LandsOne s t h 1 (s.vs.dest d) (BitVec.allOnes 64) (fun l => BitVec.ofNat 32 (if (s.vs.mask h.guard).getLsbD l then s.vs.lane a l else s.vs.lane b l)) 0 := by
  obtain ⟨t, ht, hf⟩ : ∃ t, exec (.vsel h d a b) s = .next t ∧ InFlight s t h _ := by
    show ∃ t, execVsel h d a b s = .next t ∧ _
    unfold execVsel
    exact vecWord_inFlight hr rfl rfl rfl
  exact ⟨t, ht, hf.issued, hf.next, hf.one fun l hl _ => getD_map_range _ _ hl⟩
end

/-! ### VNMS (07 R178) -/

section
variable (sl : Slot) (cell : Nat → Nat → Nat) (thr : Val)

/-- The flags that a kept rank raises beyond those that were there. -/
def nmsRead (f j : Nat) : Nat :=
  ((List.range 64).filter fun l => decide (j < l)).foldl (fun f l => f ||| (fpVal sl.fmt sl.flush (cell j l)).sigFlag) (f ||| thr.sigFlag)

/-- The first k ranks settled: those kept, what they suppress, and the flags that they raised. -/
structure NmsUpTo (m : Word) (k : Nat) (a : Word × Word × Nat) : Prop where
  keep : ∀ l, l < 64 → a.1.getLsbD l = (decide (l < k) && (m.getLsbD l && !(List.range l).any fun j => a.1.getLsbD j && nmsOver sl cell thr j l))
  sup : ∀ l, l < 64 → a.2.1.getLsbD l = (List.range k).any fun j => a.1.getLsbD j && nmsOver sl cell thr j l
  flags : a.2.2 = (List.range k).foldl (fun f j => if a.1.getLsbD j then nmsRead sl cell thr f j else f) 0

variable {sl cell thr} {m : Word} {k : Nat} {a : Word × Word × Nat}

theorem nmsStep_keeps (hk : m.getLsbD k = true) (hs : a.2.1.getLsbD k = false) : nmsStep sl m cell thr a k =
    (a.1 ||| maskOf fun l => decide (l = k), a.2.1 ||| maskOf (nmsOver sl cell thr k), nmsRead sl cell thr a.2.2 k) := by
  rw [nmsStep, if_pos (by rw [hk, hs]; rfl)]
  rfl

theorem nmsStep_drops (hk : (m.getLsbD k && !a.2.1.getLsbD k) = false) : nmsStep sl m cell thr a k = a := by
  rw [nmsStep, if_neg (by rw [hk]; decide)]

theorem NmsUpTo.start : NmsUpTo sl cell thr m 0 (0, 0, 0) := ⟨fun l _ => by simp, fun l _ => by simp, rfl⟩

/-- The masks that settled ranks are told by agree where the kept lanes do. -/
theorem any_kept_congr {w w' : Word} {n l : Nat} (h : ∀ j, j < n → w'.getLsbD j = w.getLsbD j) :
    ((List.range n).any fun j => w'.getLsbD j && nmsOver sl cell thr j l) = (List.range n).any fun j => w.getLsbD j && nmsOver sl cell thr j l :=
  Bool.eq_iff_iff.2 (by simp only [List.any_eq_true, List.mem_range]; exact exists_congr fun j => and_congr_right fun hj => by rw [h j hj])

theorem any_range_succ (f : Nat → Bool) (n : Nat) : (List.range (n + 1)).any f = ((List.range n).any f || f n) := by
  rw [List.range_succ, List.any_append, List.any_cons, List.any_nil, Bool.or_false]

theorem NmsUpTo.unsettled (hk : k < 64) (ha : NmsUpTo sl cell thr m k a) : a.1.getLsbD k = false := by
  rw [ha.keep k hk]
  simp

/-- A rank that is active and not suppressed is kept, and suppresses the later ranks above the threshold. -/
theorem NmsUpTo.succ_keeps (hk : k < 64) (ha : NmsUpTo sl cell thr m k a) (hm : m.getLsbD k = true) (hs : a.2.1.getLsbD k = false) :
    NmsUpTo sl cell thr m (k + 1) (nmsStep sl m cell thr a k) := by
  obtain ⟨hkeep, hsup, hflags⟩ := ha
  rw [nmsStep_keeps hm hs]
  have hnew : ∀ l, l < 64 → (a.1 ||| maskOf fun l => decide (l = k)).getLsbD l = (a.1.getLsbD l || decide (l = k)) := fun l hl => by
    rw [BitVec.getLsbD_or, maskOf_getLsbD _ hl]
  have hold : ∀ j, j < k → (a.1 ||| maskOf fun l => decide (l = k)).getLsbD j = a.1.getLsbD j := fun j hj => by
    rw [hnew j (by omega), decide_eq_false (by omega), Bool.or_false]
  have hkk : (a.1 ||| maskOf fun l => decide (l = k)).getLsbD k = true := by rw [hnew k hk]; simp
  refine ⟨fun l hl => ?_, fun l hl => ?_, ?_⟩
  · rcases Nat.lt_trichotomy l k with hlt | rfl | hgt
    · rw [hold l hlt, hkeep l hl, any_kept_congr fun j hj => hold j (by omega), decide_eq_true hlt, decide_eq_true (Nat.lt_succ_of_lt hlt)]
    · rw [hkk, any_kept_congr hold, ← hsup l hl, hm, hs]
      simp
    · rw [hnew l hl, hkeep l hl, decide_eq_false (by omega), decide_eq_false (by omega), decide_eq_false (by omega)]
      rfl
  · rw [any_range_succ, any_kept_congr hold, hkk, ← hsup l hl, BitVec.getLsbD_or, maskOf_getLsbD _ hl, Bool.true_and]
  · rw [List.range_succ, List.foldl_append, List.foldl_cons, List.foldl_nil, hkk, if_pos rfl, hflags]
    exact congrArg (nmsRead sl cell thr · k) (List.foldl_ext _ _ _ fun f j hj => by rw [hold j (List.mem_range.1 hj)])

/-- A rank that is inactive or suppressed changes nothing. -/
theorem NmsUpTo.succ_drops (hk : k < 64) (ha : NmsUpTo sl cell thr m k a) (hc : (m.getLsbD k && !a.2.1.getLsbD k) = false) :
    NmsUpTo sl cell thr m (k + 1) (nmsStep sl m cell thr a k) := by
  have hknew := ha.unsettled hk
  obtain ⟨hkeep, hsup, hflags⟩ := ha
  rw [nmsStep_drops hc]
  refine ⟨fun l hl => ?_, fun l hl => ?_, ?_⟩
  · rcases Nat.lt_trichotomy l k with hlt | rfl | hgt
    · rw [decide_eq_true (Nat.lt_succ_of_lt hlt), hkeep l hl, decide_eq_true hlt]
    · rw [hknew, ← hsup l hl, hc, Bool.and_false]
    · rw [hkeep l hl, decide_eq_false (by omega), decide_eq_false (by omega)]
  · rw [any_range_succ, hknew, ← hsup l hl, Bool.false_and, Bool.or_false]
  · rw [List.range_succ, List.foldl_append, List.foldl_cons, List.foldl_nil, hknew, ← hflags]
    rfl

theorem NmsUpTo.succ (hk : k < 64) (ha : NmsUpTo sl cell thr m k a) : NmsUpTo sl cell thr m (k + 1) (nmsStep sl m cell thr a k) := by
  cases hc : m.getLsbD k && !a.2.1.getLsbD k with
  | true =>
    obtain ⟨hm, hs⟩ := Bool.and_eq_true_iff.1 hc
    exact ha.succ_keeps hk hm (by simpa using hs)
  | false => exact ha.succ_drops hk hc

/-- All ranks that are walked through are settled. -/
theorem nmsUpTo_foldl (hk : k ≤ 64) : NmsUpTo sl cell thr m k ((List.range k).foldl (nmsStep sl m cell thr) (0, 0, 0)) := by
  induction k with
  | zero => exact .start
  | succ k ih =>
    rw [List.range_succ, List.foldl_append]
    exact (ih (by omega)).succ (by omega)

end

theorem exec_vnms_lands {s : State} {h : VHdr} {pd i : Nat} {dir : Dir} {st : Int} {r : Bool} {off : Nat} {b : VOp} (hr : VecReady s none h.slot h.pop 1)
    (hc : isFloat (Slot.of (s.vs.entry h.slot)).fmt = true) :
    let sl := Slot.of (s.vs.entry h.slot)
    let m := s.vs.mask h.guard
    let cell (j l : Nat) : Nat := s.vs.cell (gridKey dir ((s.vs.lineOf i st r + j) % 64) off l)
    let thr := fpVal sl.fmt sl.flush (s.vs.laneF sl b 0)
    ∃ t w, exec (.vnms h pd (.grid dir i st r off) b) s = .next t ∧ VecIssued s t h.pop 1 ∧ VecNext s t ∧
      LandsWord s t h 12 (.pred pd) (BitVec.allOnes 64) w (if m = 0 then 0 else nmsFlags sl cell thr w ||| immFlag sl b) ∧
      ∀ l, l < 64 → w.getLsbD l = (m.getLsbD l && !(List.range l).any fun j => w.getLsbD j && nmsOver sl cell thr j l) := by
  extract_lets sl m cell thr
  have hall : NmsUpTo sl cell thr m 64 ((List.range 64).foldl (nmsStep sl m cell thr) (0, 0, 0)) := nmsUpTo_foldl (Nat.le_refl 64)
  obtain ⟨t, ht, hf⟩ : ∃ t, exec (.vnms h pd (.grid dir i st r off) b) s = .next t ∧
      InFlight s t h { result (s.vs.cycle + 12) h (.pred pd) (BitVec.allOnes 64) (halves ((List.range 64).foldl (nmsStep sl m cell thr) (0, 0, 0)).1)
        (if m = 0 then 0 else ((List.range 64).foldl (nmsStep sl m cell thr) (0, 0, 0)).2.2 ||| immFlag sl b) with active := m } := by
    show ∃ t, execVnms h pd (.grid dir i st r off) b s = .next t ∧ _
    unfold execVnms
    exact vecWord_inFlight hr hc rfl rfl
  generalize (List.range 64).foldl (nmsStep sl m cell thr) (0, 0, 0) = x at hall hf
  obtain ⟨hkeep, -, hflags⟩ := hall
  rw [hflags] at hf
  exact ⟨t, x.1, ht, hf.issued, hf.next, hf.word, fun l hl => by rw [hkeep l hl, decide_eq_true hl, Bool.true_and]⟩

/-! ### Obligation O22 -/

/-- Settles O22: compares run through `compareWord`, and VNMS settles one rank after another. -/
theorem comparesAndSelects : Obligations.ComparesAndSelects := by
  unfold Obligations.ComparesAndSelects
  refine ⟨fun s h pd rel a b hr => ⟨fun hc => ?_, fun hc => ?_⟩, fun s h d a b hr => exec_vsel_lands hr, fun s h pd dir i st r off b hr hc => exec_vnms_lands hr hc⟩
  · show ∃ t w, execVcmpF h pd rel a b s = .next t ∧ _
    unfold execVcmpF
    exact compareWord_lands hr hc
  · show ∃ t w, execVcmpI h pd rel a b s = .next t ∧ _
    unfold execVcmpI
    obtain ⟨t, w, he, hi, hn, hw, hb⟩ := compareWord_lands (pd := pd) (classOk := classInt) (f := fun v sl l => (relInt sl.fmt rel (v.lane a l) (v.lane b l), 0)) hr hc
    rw [flagsOf_zero] at hw
    exact ⟨t, w, he, hi, hn, hw, hb⟩

end Sys2Proof.Machine

/-! # Conversions and packing (06 R140 to R144, 02 R20, R34) -/

namespace Sys2Proof.Machine
open Sys2Proof Sys2Proof.Spec

theorem any_lanesOf_eq_false {m : Word} {p : Nat → Bool} (h : ∀ l, l < 64 → m.getLsbD l = true → p l = false) : (lanesOf m).any p = false := by
  simp only [lanesOf, List.any_eq_false, List.mem_filter, List.mem_range, Bool.not_eq_true]
  exact fun l hl => h l hl.1 hl.2

theorem any_lanesOf_eq_true {m : Word} {p : Nat → Bool} {l : Nat} (hl : l < 64) (hm : m.getLsbD l = true) (hp : p l = true) : (lanesOf m).any p = true :=
  List.any_eq_true.2 ⟨l, List.mem_filter.2 ⟨List.mem_range.2 hl, hm⟩, hp⟩

/-- The mask of the lanes below n. -/
theorem maskOf_below (n : Nat) : (maskOf fun l => decide (l < n)) = BitVec.ofNat 64 (2 ^ n - 1) :=
  BitVec.eq_of_getLsbD_eq fun l hl => by rw [maskOf_getLsbD _ hl, BitVec.getLsbD_ofNat, Nat.testBit_two_pow_sub_one, decide_eq_true hl, Bool.true_and]

theorem getD_map_ofNat (xs : List Nat) (l : Nat) : (xs.map (BitVec.ofNat 32)).getD l 0 = BitVec.ofNat 32 (xs.getD l 0) :=
  List.getD_map xs 0 (BitVec.ofNat 32)

/-- Flags of lanes of which the inactive ones raise none. -/
theorem foldl_flags_ite (m : Word) (g : Nat → Nat × Nat) (c : Nat) :
    ((List.range 64).map fun l => if m.getLsbD l then g l else (c, 0)).foldl (fun f r => f ||| r.2) 0 = flagsOf m fun l => (g l).2 := by
  rw [List.foldl_map, flagsOf]
  refine List.foldl_ext _ _ _ fun n l _ => ?_
  split <;> rfl

section
variable {s : State} {h : VHdr} {d a : VOp} {src : Nat} {ps pd : Bool} {body : VStream → Slot → Slot → VOut}

/-! ### Words of two slots (06 R140) -/

/-- A conversion whose slots do not fit stops the stream. -/
theorem convWord_wrongSlots (hr : VecReady s none h.slot h.pop 1)
    (hw : slotReserved (s.vs.entry src) = true ∨ convertible (Slot.of (s.vs.entry src)) (Slot.of (s.vs.entry h.slot)) ps pd = false) :
    convWord s h src ps pd body = .next (s.stopHere 0x07) :=
  vecIssue_wrongSlot _ _ _ _ _ _ _ _ _ hr.ends (.inr (by rcases hw with hw | hw <;> simp [hw]))

variable (hr : VecReady s none h.slot h.pop 1) (hs : slotReserved (s.vs.entry src) = false)
  (hc : convertible (Slot.of (s.vs.entry src)) (Slot.of (s.vs.entry h.slot)) ps pd = true)
include hr hs hc

/-- A conversion whose body puts one result in flight. -/
theorem convWord_inFlight {r : Landing} (hb : body s.vs (Slot.of (s.vs.entry src)) (Slot.of (s.vs.entry h.slot)) = .ok s [r] none) (hp : r.push = h.push) :
    ∃ t, convWord s h src ps pd body = .next t ∧ InFlight s t h r :=
  have ⟨t, ht, hf, _⟩ := vecIssue_inFlight (classOk := fun v sl => !slotReserved (v.entry src) && convertible (Slot.of (v.entry src)) sl ps pd)
    (body := fun v sl => body v (Slot.of (v.entry src)) sl) hr (by rw [hs, hc]; rfl) hb (.refl s) hp
  ⟨t, ht, hf⟩

/-- A conversion whose body stops the stream. -/
theorem convWord_stops {cause : Nat} (hb : body s.vs (Slot.of (s.vs.entry src)) (Slot.of (s.vs.entry h.slot)) = .stop s cause) :
    convWord s h src ps pd body = .next (s.stopHere cause) :=
  vecIssue_stop _ s _ _ _ _ _ _ _ _ cause hr.ends hr.slotFine (by rw [hs, hc]; rfl) hr.tokens hb

end

/-! ### The lanes of an image (06 R143) -/

/-- The code that VPACK converts an active lane to, with the flags of its read and its conversion. -/
def packLane (v : VStream) (sa sl : Slot) (a : VOp) (l : Nat) : Nat × Nat :=
  ((convertElem sl (readElem sa (v.lane a l)).1).1 % 2 ^ codeBits sl.fmt, (readElem sa (v.lane a l)).2 ||| (convertElem sl (readElem sa (v.lane a l)).1).2)

/-- The codes of an image and their flags, inactive lanes as the destination's zero. -/
def packLanes (v : VStream) (sa sl : Slot) (m : Word) (a : VOp) : List (Nat × Nat) :=
  (List.range 64).map fun l => if m.getLsbD l then packLane v sa sl a l else (if sl.fmt = 7 then 0x10 else 0, 0)

theorem packLanes_codes (v : VStream) (sa sl : Slot) (m : Word) (a : VOp) : (packLanes v sa sl m a).map (·.1) = (List.range 64).map (packCode v sa sl m a) := by
  rw [packLanes, List.map_map]
  refine List.map_congr_left fun l _ => ?_
  rw [Function.comp, packCode]
  split <;> rfl

/-! ### VCVT, VPACK and VUNPK (06 R141 to R144) -/

section
variable {s : State} {h : VHdr} {d a : VOp} {src : Nat} (hr : VecReady s none h.slot h.pop 1) (hs : slotReserved (s.vs.entry src) = false)
include hr hs

theorem exec_vcvt_lands (hc : convertible (Slot.of (s.vs.entry src)) (Slot.of (s.vs.entry h.slot)) false false = true)
    (hb : ∀ l, l < 64 → (s.vs.mask h.guard).getLsbD l = true → badDigit (Slot.of (s.vs.entry src)) (s.vs.lane a l) = false) :
    let sa := Slot.of (s.vs.entry src)
    let sl := Slot.of (s.vs.entry h.slot)
    let m := s.vs.mask h.guard
    let conv (l : Nat) : Nat × Nat := let x := readElem sa (s.vs.lane a l); ((convertElem sl x.1).1, x.2 ||| (convertElem sl x.1).2)
    ∃ t, exec (.vcvt h d a src) s = .next t ∧ VecIssued s t h.pop 1 ∧ VecNext s t ∧
      LandsOne s t h 2 (s.vs.dest d) m (fun l => BitVec.ofNat 32 (conv l).1) (flagsOf m fun l => (conv l).2) := by
  extract_lets sa sl m conv
  obtain ⟨t, ht, hf⟩ : ∃ t, exec (.vcvt h d a src) s = .next t ∧ InFlight s t h (result (s.vs.cycle + 2) h (s.vs.dest d) m (overLanes m conv).1 (overLanes m conv).2) := by
    show ∃ t, execVcvt h d a src s = .next t ∧ _
    unfold execVcvt
    exact convWord_inFlight hr hs hc (if_neg (by rw [any_lanesOf_eq_false hb]; decide)) rfl
  exact ⟨t, ht, hf.issued, hf.next, hf.lanes⟩

theorem exec_vcvt_stops (hc : convertible (Slot.of (s.vs.entry src)) (Slot.of (s.vs.entry h.slot)) false false = true) {l : Nat} (hl : l < 64)
    (hm : (s.vs.mask h.guard).getLsbD l = true) (hb : badDigit (Slot.of (s.vs.entry src)) (s.vs.lane a l) = true) :
    exec (.vcvt h d a src) s = .next (s.stopHere 0x07) := by
  show execVcvt h d a src s = _
  unfold execVcvt
  exact convWord_stops hr hs hc (if_pos (any_lanesOf_eq_true (p := fun l => badDigit (Slot.of (s.vs.entry src)) (s.vs.lane a l)) hl hm hb))

theorem exec_vpack_lands (hc : convertible (Slot.of (s.vs.entry src)) (Slot.of (s.vs.entry h.slot)) false true = true)
    (hb : ∀ l, l < 64 → (s.vs.mask h.guard).getLsbD l = true → badDigit (Slot.of (s.vs.entry src)) (s.vs.lane a l) = false) :
    let sa := Slot.of (s.vs.entry src)
    let sl := Slot.of (s.vs.entry h.slot)
    let m := s.vs.mask h.guard
    ∃ t, exec (.vpack h d a src) s = .next t ∧ VecIssued s t h.pop 1 ∧ VecNext s t ∧
      LandsOne s t h 2 (s.vs.dest d) (BitVec.ofNat 64 (2 ^ packedLanes sl.fmt - 1))
        (fun l => BitVec.ofNat 32 ((packImage sl.fmt ((List.range 64).map (packCode s.vs sa sl m a))).getD l 0))
        (flagsOf m fun l => (packLane s.vs sa sl a l).2) := by
  extract_lets sa sl m
  obtain ⟨t, ht, hf⟩ : ∃ t, exec (.vpack h d a src) s = .next t ∧ InFlight s t h { result (s.vs.cycle + 2) h (s.vs.dest d) (maskOf fun l => decide (l < packedLanes sl.fmt))
      ((packImage sl.fmt ((packLanes s.vs sa sl m a).map (·.1))).map (BitVec.ofNat 32)) ((packLanes s.vs sa sl m a).foldl (fun f r => f ||| r.2) 0) with active := m } := by
    show ∃ t, execVpack h d a src s = .next t ∧ _
    unfold execVpack
    exact convWord_inFlight hr hs hc (if_neg (by rw [any_lanesOf_eq_false hb]; decide)) rfl
  rw [packLanes_codes, maskOf_below, packLanes, foldl_flags_ite] at hf
  exact ⟨t, ht, hf.issued, hf.next,
    hf.written (vals := (packImage sl.fmt ((List.range 64).map (packCode s.vs sa sl m a))).map (BitVec.ofNat 32)) fun l _ _ => getD_map_ofNat _ l⟩

theorem exec_vpack_stops (hc : convertible (Slot.of (s.vs.entry src)) (Slot.of (s.vs.entry h.slot)) false true = true) {l : Nat} (hl : l < 64)
    (hm : (s.vs.mask h.guard).getLsbD l = true) (hb : badDigit (Slot.of (s.vs.entry src)) (s.vs.lane a l) = true) :
    exec (.vpack h d a src) s = .next (s.stopHere 0x07) := by
  show execVpack h d a src s = _
  unfold execVpack
  exact convWord_stops hr hs hc (if_pos (any_lanesOf_eq_true (p := fun l => badDigit (Slot.of (s.vs.entry src)) (s.vs.lane a l)) hl hm hb))

variable (hc : convertible (Slot.of (s.vs.entry src)) (Slot.of (s.vs.entry h.slot)) true false = true)
include hc

theorem exec_vunpk_lands (hb : s.vs.mask h.guard = 0 ∨ (Slot.of (s.vs.entry src)).badtrap = false ∨
      ∀ l, l < 64 → (imageCode (Slot.of (s.vs.entry src)).fmt (unpackImage s.vs (Slot.of (s.vs.entry src)) a) l).isSome = true) :
    let sa := Slot.of (s.vs.entry src)
    let sl := Slot.of (s.vs.entry h.slot)
    let m := s.vs.mask h.guard
    ∃ t, exec (.vunpk h d a src) s = .next t ∧ VecIssued s t h.pop 1 ∧ VecNext s t ∧
      LandsOne s t h 2 (s.vs.dest d) m (fun l => BitVec.ofNat 32 (convertElem sl (unpacked s.vs sa a l).1).1)
        (flagsOf m fun l => (unpacked s.vs sa a l).2 ||| (convertElem sl (unpacked s.vs sa a l).1).2) := by
  extract_lets sa sl m
  have hfine : (decide (m ≠ 0) && sa.badtrap && (List.range 64).any fun l => (imageCode sa.fmt (unpackImage s.vs sa a) l).isNone) = false := by
    rcases hb with hb | hb | hb
    · rw [decide_eq_false (not_not_intro hb)]; rfl
    · rw [hb, Bool.and_false]; rfl
    · rw [List.any_eq_false.2 fun l hl => by rw [Option.isNone_iff_eq_none]; exact Option.isSome_iff_ne_none.1 (hb l (List.mem_range.1 hl)), Bool.and_false]
  obtain ⟨t, ht, hf⟩ : ∃ t, exec (.vunpk h d a src) s = .next t ∧ InFlight s t h _ := by
    show ∃ t, execVunpk h d a src s = .next t ∧ _
    unfold execVunpk
    exact convWord_inFlight hr hs hc (if_neg (ne_true_of_eq_false hfine)) rfl
  refine ⟨t, ht, hf.issued, hf.next,
    hf.lanes_congr (g := fun l => ((convertElem sl (unpacked s.vs sa a l).1).1, (unpacked s.vs sa a l).2 ||| (convertElem sl (unpacked s.vs sa a l).1).2)) fun l => ?_⟩
  unfold unpacked unpackImage
  cases imageCode sa.fmt (joinBits 32 ((List.range (packedLanes sa.fmt)).map (s.vs.lane a))) l <;> rfl

theorem exec_vunpk_stops (hm : s.vs.mask h.guard ≠ 0) (hb : (Slot.of (s.vs.entry src)).badtrap = true) {l : Nat} (hl : l < 64)
    (hi : imageCode (Slot.of (s.vs.entry src)).fmt (unpackImage s.vs (Slot.of (s.vs.entry src)) a) l = none) :
    ∃ (t : State) (r : Landing), exec (.vunpk h d a src) s = .next t ∧ VecIssued s t h.pop 1 ∧ VecNext s t ∧ t.vs.land = s.vs.land ++ [r] ∧ r.due = s.vs.cycle + 2 ∧
      r.kind = .stop 0x07 ∧ r.push = h.push := by
  obtain ⟨t, ht, hf⟩ : ∃ t, exec (.vunpk h d a src) s = .next t ∧ InFlight s t h { result (s.vs.cycle + 2) h .tokens 0 [] 0 with kind := .stop 0x07 } := by
    show ∃ t, execVunpk h d a src s = .next t ∧ _
    unfold execVunpk
    refine convWord_inFlight hr hs hc (if_pos ?_) rfl
    rw [decide_eq_true hm, hb]
    exact List.any_eq_true.2 ⟨l, List.mem_range.2 hl, Option.isNone_iff_eq_none.2 hi⟩
  exact ⟨t, _, ht, hf.issued, hf.next, hf.land, rfl, rfl, rfl⟩

end

/-! ### Obligation O23 -/

/-- Settles O23: the three conversions run through `convWord`, and a digit without a value stops VCVT and VPACK in their body and VUNPK at its landing. -/
theorem conversionsLand : Obligations.ConversionsLand := by
  unfold Obligations.ConversionsLand
  refine ⟨fun s h d a src hr => ⟨fun hw => ?_, fun hw => ?_, fun hw => ?_⟩, fun s h d a src hr hs => ?_⟩
  · show execVcvt h d a src s = _
    exact convWord_wrongSlots hr hw
  · show execVpack h d a src s = _
    exact convWord_wrongSlots hr hw
  · show execVunpk h d a src s = _
    exact convWord_wrongSlots hr hw
  exact ⟨exec_vcvt_lands hr hs, fun l hc hl hm hb => exec_vcvt_stops hr hs hc hl hm hb, exec_vpack_lands hr hs, fun l hc hl hm hb => exec_vpack_stops hr hs hc hl hm hb,
    exec_vunpk_lands hr hs, fun l hc hm hb hl hi => exec_vunpk_stops hr hs hc hm hb hl hi⟩

end Sys2Proof.Machine

/-! # Reductions and VTOPK (06 R147 to R149, 07 R177, 02 R45) -/

namespace Sys2Proof.Machine
open Sys2Proof Sys2Proof.Spec

/-! ### The tree of sums (02 R45) -/

theorem treePairs_range (g : Nat → Nat → Nat × Nat) (n : Nat) (f : Nat → Nat) :
    treePairs g ((List.range (2 * n)).map f) = (List.range n).map fun i => g (f (2 * i)) (f (2 * i + 1)) := by
  induction n generalizing f with
  | zero => rfl
  | succ n ih =>
    have htwo : (List.range (2 * (n + 1))).map f = f 0 :: f 1 :: (List.range (2 * n)).map fun i => f (i + 2) := by
      rw [show 2 * (n + 1) = 2 * n + 1 + 1 by omega, List.range_succ_eq_map, List.range_succ_eq_map]
      simp [Function.comp_def]
    rw [htwo, treePairs, ih, List.range_succ_eq_map, List.map_cons, List.map_map]
    rfl

/-- What a fold of flags starts from stays in it. -/
theorem foldl_or_start {α : Type} (xs : List α) (f : α → Nat) (n : Nat) : xs.foldl (fun n x => n ||| f x) n = n ||| xs.foldl (fun n x => n ||| f x) 0 := by
  induction xs generalizing n with
  | nil => simp
  | cons x xs ih => rw [List.foldl_cons, List.foldl_cons, ih, ih (0 ||| f x), Nat.zero_or, Nat.or_assoc]

/-- k levels over 2^k values: their sum in the tree of neighbours, and the flags of all levels. -/
theorem tree_range (g : Nat → Nat → Nat × Nat) (k : Nat) (f : Nat → Nat) (fl : Nat) :
    tree g k ((List.range (2 ^ k)).map f) fl = (treeSum g k f, fl ||| treeFlags g k f) := by
  induction k generalizing f fl with
  | zero => simp [tree, treeSum, treeFlags]
  | succ k ih =>
    rw [tree, Nat.pow_succ', treePairs_range, List.map_map, List.foldl_map, foldl_or_start]
    exact (ih _ _).trans (by rw [treeSum, treeFlags, Nat.or_assoc]; rfl)

/-! ### The best lane (06 R148) -/

/-- Whether a key is better than another: greater for a maximum, less for a minimum. -/
def outranks (max : Bool) (x y : Int) : Prop := if max then y < x else x < y

theorem outranks_of_not {max : Bool} {x y z : Int} (h : ¬outranks max z y) (h' : outranks max x y) : outranks max x z := by
  cases max <;> simp only [outranks, Bool.false_eq_true, if_false, if_true] at h h' ⊢ <;> omega

theorem outranks_asymm {max : Bool} {x y : Int} (h : outranks max x y) : ¬outranks max y x := by
  cases max <;> simp only [outranks, Bool.false_eq_true, if_false, if_true] at h ⊢ <;> omega

/-- The lane that no other lane of a list outranks, and that outranks those below it. -/
def IsBest (max : Bool) (key : Nat → Int) (p : Nat → Prop) (l : Nat) : Prop :=
  ∀ k, p k → ¬outranks max (key k) (key l) ∧ (k < l → outranks max (key l) (key k))

theorem IsBest.unique {max : Bool} {key : Nat → Int} {p : Nat → Prop} {l l' : Nat} (hl : p l) (hl' : p l') (h : IsBest max key p l) (h' : IsBest max key p l') : l = l' := by
  rcases Nat.lt_trichotomy l l' with hlt | he | hgt
  · exact absurd ((h' l hl).2 hlt) (h l' hl').1
  · exact he
  · exact absurd ((h l' hl').2 hgt) (h' l hl).1

section
variable {max : Bool} {xs : List (Int × Nat × Nat)} {b c : Int × Nat × Nat}

theorem bestLane_concat_first (hb : bestLane max xs = none) : bestLane max (xs ++ [c]) = some c := by
  rw [bestLane, List.foldl_append, ← bestLane, hb]
  rfl

theorem bestLane_concat_better (hb : bestLane max xs = some b) (h : outranks max c.1 b.1) : bestLane max (xs ++ [c]) = some c := by
  rw [bestLane, List.foldl_append, ← bestLane, hb]
  exact if_pos h

theorem bestLane_concat_worse (hb : bestLane max xs = some b) (h : ¬outranks max c.1 b.1) : bestLane max (xs ++ [c]) = some b := by
  rw [bestLane, List.foldl_append, ← bestLane, hb]
  exact if_neg h

end

/-- Among lanes in ascending order `bestLane` finds the best, where there is a lane at all. -/
theorem bestLane_lanes (max : Bool) (key : Nat → Int) (bits : Nat → Nat) (ls : List Nat) (hs : ls.Pairwise (· < ·)) :
    (ls = [] ∧ bestLane max (ls.map fun l => (key l, bits l, l)) = none) ∨
      ∃ l ∈ ls, IsBest max key (· ∈ ls) l ∧ bestLane max (ls.map fun l => (key l, bits l, l)) = some (key l, bits l, l) := by
  induction ls using List.reverseRecOn with
  | nil => exact .inl ⟨rfl, rfl⟩
  | append_singleton ls x ih =>
    obtain ⟨hls, -, hlast⟩ := List.pairwise_append.1 hs
    have hirr : ¬outranks max (key x) (key x) := fun h => outranks_asymm h h
    have hmem : ∀ k, k ∈ ls ++ [x] → k ∈ ls ∨ k = x := fun k hk => by simpa using hk
    rw [List.map_append, List.map_cons, List.map_nil]
    rcases ih hls with ⟨rfl, hb⟩ | ⟨l, hl, hbest, hb⟩
    · refine .inr ⟨x, by simp, fun k hk => ?_, bestLane_concat_first hb⟩
      obtain rfl : k = x := by simpa using hk
      exact ⟨hirr, fun hlt => absurd hlt (Nat.lt_irrefl k)⟩
    · by_cases hx : outranks max (key x) (key l)
      · refine .inr ⟨x, by simp, fun k hk => ?_, bestLane_concat_better hb hx⟩
        rcases hmem k hk with hk | rfl
        · have hxk := outranks_of_not (hbest k hk).1 hx
          exact ⟨outranks_asymm hxk, fun _ => hxk⟩
        · exact ⟨hirr, fun hlt => absurd hlt (Nat.lt_irrefl k)⟩
      · refine .inr ⟨l, by simp [hl], fun k hk => ?_, bestLane_concat_worse hb hx⟩
        rcases hmem k hk with hk | rfl
        · exact hbest k hk
        · exact ⟨hx, fun hlt => absurd (hlast l hl k (by simp)) (Nat.lt_asymm hlt)⟩

/-- The lanes that take part in VREDM. -/
def redmLanes (v : VStream) (sl : Slot) (m : Word) (a : VOp) : List Nat :=
  (lanesOf m).filter fun l => !(isFloat sl.fmt && (fpVal sl.fmt sl.flush (v.lane a l)).isNan)

/-- Their keys, bits and numbers. -/
def redmCands (v : VStream) (sl : Slot) (m : Word) (a : VOp) : List (Int × Nat × Nat) :=
  (redmLanes v sl m a).map fun l =>
    if isFloat sl.fmt then (orderKey sl.fmt (readBits sl.fmt sl.flush (v.lane a l)), readBits sl.fmt sl.flush (v.lane a l), l)
    else (v.int sl a l, intElem sl.fmt (v.int sl a l), l)

/-- What VREDM writes for the best of them. -/
def redmWord (sl : Slot) (mode : Nat) : Option (Int × Nat × Nat) → Word
  | some c => if 2 ≤ mode then BitVec.ofNat 64 c.2.2 else scalarOf sl.fmt c.2.1
  | none =>
    if 2 ≤ mode then BitVec.allOnes 64
    else if isFloat sl.fmt then BitVec.ofNat 64 (canonicalNan sl.fmt) else scalarOf sl.fmt (intElem sl.fmt (if mode = 0 then intMin sl.fmt else intMax sl.fmt))

section
variable (v : VStream) (sl : Slot) (m : Word) (a : VOp)

theorem mem_redmLanes (l : Nat) : l ∈ redmLanes v sl m a ↔ l < 64 ∧ redmCand v sl m a l = true := by
  simp only [redmLanes, lanesOf, List.mem_filter, List.mem_range, redmCand, Bool.and_eq_true, and_assoc]

theorem redmLanes_ascend : (redmLanes v sl m a).Pairwise (· < ·) := (List.pairwise_lt_range.filter _).filter _

theorem redmCands_eq : redmCands v sl m a = (redmLanes v sl m a).map fun l => (redmKey v sl a l, redmBits v sl a l, l) := by
  refine List.map_congr_left fun l _ => ?_
  unfold redmKey redmBits
  split <;> rfl

/-- What VREDM writes is the best candidate's. -/
theorem redmResult_word (mode : Nat) : RedmResult v sl m a mode (redmWord sl mode (bestLane (decide (mode = 0 ∨ mode = 2)) (redmCands v sl m a))) := by
  have hbetter (x y : Nat) : outranks (decide (mode = 0 ∨ mode = 2)) (redmKey v sl a x) (redmKey v sl a y) ↔
      if mode = 0 ∨ mode = 2 then redmKey v sl a y < redmKey v sl a x else redmKey v sl a x < redmKey v sl a y := by
    simp only [outranks, decide_eq_true_eq]
  rw [redmCands_eq]
  refine ⟨fun l hl hcl hbest => ?_, fun hnone => ?_⟩
  · have hmem := (mem_redmLanes v sl m a l).2 ⟨hl, hcl⟩
    have hlbest : IsBest (decide (mode = 0 ∨ mode = 2)) (redmKey v sl a) (· ∈ redmLanes v sl m a) l := fun k hk => by
      rw [hbetter, hbetter]
      obtain ⟨hk64, hck⟩ := (mem_redmLanes v sl m a k).1 hk
      exact hbest k hk64 hck
    rcases bestLane_lanes (decide (mode = 0 ∨ mode = 2)) (redmKey v sl a) (redmBits v sl a) _ (redmLanes_ascend v sl m a) with ⟨he, -⟩ | ⟨l', hl', hbest', hb⟩
    · rw [he] at hmem
      cases hmem
    · obtain rfl := hlbest.unique hmem hl' hbest'
      rw [hb]
      rfl
  · have he : redmLanes v sl m a = [] := List.eq_nil_iff_forall_not_mem.2 fun l hl => by
      obtain ⟨h64, hc⟩ := (mem_redmLanes v sl m a l).1 hl
      rw [hnone l h64] at hc
      cases hc
    rw [he]
    rfl

end

/-! ### VPOPC, VREDS and VREDM (06 R147 to R149) -/

section
variable {s : State} {h : VHdr} {sd : Nat} {a : VOp} (hr : VecReady s none h.slot h.pop 1)
include hr

theorem exec_vpopc_lands : ∃ t, exec (.vpopc h sd a) s = .next t ∧ VecIssued s t h.pop 1 ∧ VecNext s t ∧
    LandsWord s t h 2 (.scalar sd) (s.vs.mask h.guard)
      (BitVec.ofNat 64 ((List.range 64).filter fun l => (s.vs.mask h.guard).getLsbD l && decide (s.vs.lane a l ≠ 0)).length) 0 := by
  obtain ⟨t, ht, hf⟩ : ∃ t, exec (.vpopc h sd a) s = .next t ∧ InFlight s t h (result (s.vs.cycle + 2) h (.scalar sd) (s.vs.mask h.guard)
      (halves (BitVec.ofNat 64 ((lanesOf (s.vs.mask h.guard)).filter fun l => decide (s.vs.lane a l ≠ 0)).length)) 0) := by
    show ∃ t, execVpopc h sd a s = .next t ∧ _
    unfold execVpopc
    exact vecWord_inFlight hr rfl rfl rfl
  rw [lanesOf, List.filter_filter] at hf
  simp only [Bool.and_comm (decide _)] at hf
  exact ⟨t, ht, hf.issued, hf.next, hf.word⟩

variable (hc : (isFloat (Slot.of (s.vs.entry h.slot)).fmt || isInteger (Slot.of (s.vs.entry h.slot)).fmt) = true)
include hc

theorem exec_vreds_lands :
    let sl := Slot.of (s.vs.entry h.slot)
    let m := s.vs.mask h.guard
    let term (l : Nat) : Nat := if m.getLsbD l then s.vs.lane a l else if isFloat sl.fmt then 2 ^ magBits sl.fmt else 0
    ∃ t, exec (.vreds h sd a) s = .next t ∧ VecIssued s t h.pop 1 ∧ VecNext s t ∧
      LandsWord s t h (if isFloat sl.fmt then 24 else 6) (.scalar sd) m (scalarOf sl.fmt (treeSum (reduceAdd sl) 6 term))
        (if m = 0 then 0 else treeFlags (reduceAdd sl) 6 term) := by
  extract_lets sl m term
  obtain ⟨t, ht, hf⟩ : ∃ t, exec (.vreds h sd a) s = .next t ∧ InFlight s t h (result (s.vs.cycle + if isFloat sl.fmt then 24 else 6) h (.scalar sd) m
      (halves (scalarOf sl.fmt (tree (reduceAdd sl) 6 ((List.range (2 ^ 6)).map term) 0).1)) (if m = 0 then 0 else (tree (reduceAdd sl) 6 ((List.range (2 ^ 6)).map term) 0).2)) := by
    show ∃ t, execVreds h sd a s = .next t ∧ _
    unfold execVreds
    exact vecWord_inFlight hr hc rfl rfl
  rw [tree_range, Nat.zero_or] at hf
  exact ⟨t, ht, hf.issued, hf.next, hf.word⟩

theorem exec_vredm_lands {mode : Nat} :
    let sl := Slot.of (s.vs.entry h.slot)
    let m := s.vs.mask h.guard
    ∃ t w, exec (.vredm h sd a mode) s = .next t ∧ VecIssued s t h.pop 1 ∧ VecNext s t ∧ RedmResult s.vs sl m a mode w ∧
      LandsWord s t h 6 (.scalar sd) m w (if isFloat sl.fmt then flagsOf m fun l => (fpVal sl.fmt sl.flush (s.vs.lane a l)).sigFlag else 0) := by
  extract_lets sl m
  obtain ⟨t, ht, hf⟩ : ∃ t, exec (.vredm h sd a mode) s = .next t ∧ InFlight s t h (result (s.vs.cycle + 6) h (.scalar sd) m
      (halves (redmWord sl mode (bestLane (decide (mode = 0 ∨ mode = 2)) (redmCands s.vs sl m a))))
      (if isFloat sl.fmt then (lanesOf m).foldl (fun f l => f ||| (fpVal sl.fmt sl.flush (s.vs.lane a l)).sigFlag) 0 else 0)) := by
    show ∃ t, execVredm h sd a mode s = .next t ∧ _
    unfold execVredm
    exact vecWord_inFlight hr hc rfl rfl
  rw [foldl_lanesOf_flags] at hf
  exact ⟨t, _, ht, hf.issued, hf.next, redmResult_word .., hf.word⟩

end

/-! ### VTOPK (07 R177) -/

section
variable {s : State} {h : VHdr} {a b : VOp} {dir : Dir} {i : Nat} {st : Int} {r : Bool} {off : Nat} (hr : VecReady s none h.slot h.pop 1)
  (hc : (isFloat (Slot.of (s.vs.entry h.slot)).fmt || isInteger (Slot.of (s.vs.entry h.slot)).fmt) = true)
include hr hc

theorem exec_vtopk_noLane (hm : s.vs.mask h.guard = 0) :
    ∃ (t : State) (x : Landing), exec (.vtopk h (.grid dir i st r off) a b) s = .next t ∧ VecIssued s t h.pop 1 ∧ VecNext s t ∧ t.vs.land = s.vs.land ++ [x] ∧
      x.due = s.vs.cycle + 8 ∧ x.kind = .result ∧ x.dest = .grid dir (s.vs.lineOf i st r) off ∧ x.lanes = 0 ∧ x.second = [] ∧ x.push = h.push ∧ x.flags = 0 := by
  obtain ⟨t, ht, hf⟩ : ∃ t, exec (.vtopk h (.grid dir i st r off) a b) s = .next t ∧ InFlight s t h (result (s.vs.cycle + 8) h (.grid dir (s.vs.lineOf i st r) off) 0 [] 0) := by
    show ∃ t, execVtopk h (.grid dir i st r off) a b s = .next t ∧ _
    unfold execVtopk
    exact vecWord_inFlight hr hc (if_pos hm) rfl
  exact ⟨t, _, ht, hf.issued, hf.next, hf.land, rfl, rfl, rfl, rfl, rfl, rfl, rfl⟩

theorem exec_vtopk_lands (hm : s.vs.mask h.guard ≠ 0) (hk : s.vs.lineOf i st r ≠ 63) :
    let sl := Slot.of (s.vs.entry h.slot)
    let k := s.vs.lineOf i st r
    let old := (List.range 64).map fun p => (s.vs.cell (gridKey dir k off p), s.vs.cell (gridKey dir (k + 1) off p), p)
    let new := ((List.range 64).filter fun l => (s.vs.mask h.guard).getLsbD l).map fun l => (s.vs.lane a l, s.vs.lane b l, 64 + l)
    ∃ (t : State) (x : Landing), exec (.vtopk h (.grid dir i st r off) a b) s = .next t ∧ VecIssued s t h.pop 1 ∧ VecNext s t ∧ t.vs.land = s.vs.land ++ [x] ∧
      x.due = s.vs.cycle + 8 ∧ x.kind = .result ∧ x.dest = .grid dir k off ∧ x.lanes = BitVec.allOnes 64 ∧ x.push = h.push ∧
      x.values = (topRows sl (old ++ new)).1.map (BitVec.ofNat 32) ∧ x.second = (topRows sl (old ++ new)).2.map (BitVec.ofNat 32) ∧
      x.flags = sigFlags sl ((old ++ new).map (·.1)) := by
  extract_lets sl k old new
  obtain ⟨t, ht, hf⟩ : ∃ t, exec (.vtopk h (.grid dir i st r off) a b) s = .next t ∧
      InFlight s t h { result (s.vs.cycle + 8) h (.grid dir k off) (BitVec.allOnes 64) ((topRows sl (old ++ new)).1.map (BitVec.ofNat 32)) (sigFlags sl ((old ++ new).map (·.1))) with
        active := s.vs.mask h.guard, second := (topRows sl (old ++ new)).2.map (BitVec.ofNat 32) } := by
    show ∃ t, execVtopk h (.grid dir i st r off) a b s = .next t ∧ _
    unfold execVtopk
    exact vecWord_inFlight hr hc ((if_neg hm).trans (if_neg hk)) rfl
  exact ⟨t, _, ht, hf.issued, hf.next, hf.land, rfl, rfl, rfl, rfl, rfl, rfl, rfl, rfl⟩

theorem exec_vtopk_stops (hm : s.vs.mask h.guard ≠ 0) (hk : s.vs.lineOf i st r = 63) : exec (.vtopk h (.grid dir i st r off) a b) s = .next (s.stopHere 0x01) := by
  show execVtopk h (.grid dir i st r off) a b s = _
  unfold execVtopk vecWord
  exact vecIssue_stop s s none h.slot h.pop h.push 1 1 (fun _ => classNumber) _ 0x01 hr.ends hr.slotFine hc hr.tokens ((if_neg hm).trans (if_pos hk))

end

/-! ### Obligation O24 -/

/-- Settles O24: VREDS folds the tree of 02 R45 level by level, VREDM keeps the first best lane, and VTOPK lands both rows as one result. -/
theorem reductionsLand : Obligations.ReductionsLand := by
  unfold Obligations.ReductionsLand
  exact fun s h hr => ⟨fun sd a => exec_vpopc_lands hr, fun hc => ⟨fun sd a => exec_vreds_lands hr hc, fun sd a mode => exec_vredm_lands hr hc,
    fun dir i st r off a b => ⟨exec_vtopk_noLane hr hc, exec_vtopk_lands hr hc, exec_vtopk_stops hr hc⟩⟩⟩

end Sys2Proof.Machine

/-! # Landings and the end of a stream (06 R124, R126, 07 R169, R173) -/

namespace Sys2Proof.Machine
open Sys2Proof Sys2Proof.Spec

/-! ### A line of the grid (03 R60) -/

/-- Two lanes of a line name two elements. -/
theorem gridKey_injective {d : Dir} {k off l l' : Nat} (hl : l < 64) (hl' : l' < 64) (h : gridKey d k off l = gridKey d k off l') : l = l' := by
  cases d <;> simp only [gridKey] at h <;> omega

theorem Tbl.get_foldl_set_other {key : Nat → Nat} {val : Nat → Elem} {ls : List Nat} {n : Nat} (h : ∀ l ∈ ls, key l ≠ n) (g : Tbl Elem) :
    Tbl.get 0 (ls.foldl (fun g l => Tbl.set 0 g (key l) (val l)) g) n = Tbl.get 0 g n := by
  induction ls generalizing g with
  | nil => rfl
  | cons a ls ih => rw [List.foldl_cons, ih fun l hl => h l (List.mem_cons_of_mem _ hl), Tbl.get_set_other _ _ _ _ _ (h a List.mem_cons_self).symm]

theorem Tbl.get_foldl_set_mem {key : Nat → Nat} {val : Nat → Elem} {ls : List Nat} {l : Nat} (hl : l ∈ ls) (hinj : ∀ k ∈ ls, key k = key l → k = l) (g : Tbl Elem) :
    Tbl.get 0 (ls.foldl (fun g l => Tbl.set 0 g (key l) (val l)) g) (key l) = val l := by
  induction ls generalizing g with
  | nil => cases hl
  | cons a ls ih =>
    rw [List.foldl_cons]
    by_cases hmem : l ∈ ls
    · exact ih hmem (fun k hk => hinj k (List.mem_cons_of_mem _ hk)) _
    · obtain rfl : l = a := (List.mem_cons.1 hl).resolve_right hmem
      rw [Tbl.get_foldl_set_other fun k hk he => hmem (hinj k (List.mem_cons_of_mem _ hk) he ▸ hk), Tbl.get_set_same]

section
variable (g : Tbl Elem) (d : Dir) (k off : Nat) (lanes : Word) (vals : List Elem)

theorem writeLanes_written {l : Nat} (hl : l < 64) (hm : lanes.getLsbD l = true) : Tbl.get 0 (writeLanes g d k off lanes vals) (gridKey d k off l) = vals.getD l 0 :=
  Tbl.get_foldl_set_mem (key := gridKey d k off) (val := fun l => vals.getD l 0) (List.mem_filter.2 ⟨List.mem_range.2 hl, hm⟩)
    (fun _ hk he => gridKey_injective (List.mem_range.1 (List.mem_filter.1 hk).1) hl he) g

theorem writeLanes_other {n : Nat} (h : ∀ l, l < 64 → lanes.getLsbD l = true → gridKey d k off l ≠ n) : Tbl.get 0 (writeLanes g d k off lanes vals) n = Tbl.get 0 g n :=
  Tbl.get_foldl_set_other (key := gridKey d k off) (val := fun l => vals.getD l 0)
    (fun l hl => h l (List.mem_range.1 (List.mem_filter.1 hl).1) (List.mem_filter.1 hl).2) g

end

/-! ### One result for a grid line (06 R124, R126, 07 R169) -/

/-- Flags that no enable bit meets, the enables being those that stand with the flags raised. -/
theorem raised_notEnabled {v : BitVec 32} {f : Nat} (h : f % 32 &&& ((v.toNat ||| f) / 2 ^ 10) = 0) :
    f &&& ((v ||| BitVec.ofNat 32 f).toNat / 2 ^ 10 &&& 0x1F) = 0 := by
  refine Nat.eq_of_testBit_eq fun i => ?_
  have hi := congrArg (·.testBit i) h
  simp only [Nat.testBit_and, Nat.testBit_div_two_pow, Nat.testBit_or, Nat.zero_testBit, show (32 : Nat) = 2 ^ 5 from rfl, Nat.testBit_mod_two_pow, BitVec.toNat_or,
    BitVec.toNat_ofNat, show (0x1F : Nat) = 2 ^ 5 - 1 from rfl, Nat.testBit_two_pow_sub_one] at hi ⊢
  by_cases h5 : i < 5
  · simpa [h5, show i + 10 < 32 by omega] using hi
  · simp [h5]

/-- The core behind one result that has landed in a grid line: its lanes, its token. -/
def Core.landed (k : Core) (r : Landing) (d : Dir) (i off : Nat) : Core :=
  let k1 : Core := { k with vs := { k.vs with grid := writeLanes k.vs.grid d i off r.lanes r.values } }
  if r.push = 0 then k1 else k1.setToken r.push (k1.token r.push + 1)

theorem Core.pushTokens_room {k : Core} {q n : Nat} (h : n ≤ 15 - k.token q) : k.pushTokens q n = (if n = 0 then k else k.setToken q (k.token q + n), 0) := by
  rw [Core.pushTokens, Nat.min_eq_left h, Nat.sub_self]

section
variable {r : Landing} {d : Dir} {i off : Nat} (hk : r.kind = .result) (hd : r.dest = .grid d i off) (h2 : r.second = [])
include hk hd h2

/-- A result for a grid line whose token has room lands whole. -/
theorem landOne_grid {a : Landed} (cycle : Nat) (ht : r.push = 0 ∨ a.k.token r.push < 15) :
    landOne cycle a r = { a with k := a.k.landed r d i off, flags := a.flags ||| r.flags } := by
  have htok : r.tokens = if r.push = 0 then 0 else 1 := by rw [Landing.tokens, hd]
  have happly : a.k.applyLanding r = { a.k with vs := { a.k.vs with grid := writeLanes a.k.vs.grid d i off r.lanes r.values } } := by
    rw [Core.applyLanding, hd, h2]
    rfl
  have hpush : (a.k.applyLanding r).pushTokens r.push r.tokens = (a.k.landed r d i off, 0) := by
    have htoken : (a.k.applyLanding r).token r.push = a.k.token r.push := by rw [happly]; rfl
    rw [Core.pushTokens_room (by rw [htok, htoken]; split <;> omega), htok, happly, Core.landed]
    by_cases hp : r.push = 0
    · rw [if_pos hp, if_pos hp, if_pos rfl]
    · rw [if_neg hp, if_neg hp, if_neg (by decide)]
  rw [landOne, if_neg (by rw [hk]; exact fun h => nomatch h.1), hk]
  dsimp only
  rw [hpush]
  rfl

/-- What is due at a core whose only landing is such a result, and raises no enabled flag: it lands and nothing stops. -/
theorem State.vecLand_grid {s : State} {core : Nat} (hl : (s.core core).vs.land = [r]) (hdue : r.due ≤ (s.core core).vs.cycle)
    (hf : r.flags % 32 &&& (((s.core core).vfst.toNat ||| r.flags) / 2 ^ 10) = 0) (ht : r.push = 0 ∨ (s.core core).token r.push < 15) :
    (s.vecLand core).mem = s.mem ∧ ∃ lead raiser q, (s.vecLand core).core core =
      { (s.core core).landed r d i off with
        vfst := (s.core core).vfst ||| BitVec.ofNat 32 r.flags, vq := q
        vs := { ((s.core core).landed r d i off).vs with land := [], frozen := false, lead := lead, raiser := raiser } } := by
  unfold State.vecLand
  extract_lets k0 v0 k c due later v1 a ka va k1 enables v2 k2 left s0 s1 trapped
  have hdue' : due = [r] := by
    show k0.vs.land.filter _ = _
    rw [hl]
    exact List.filter_cons_of_pos (by simpa using hdue)
  have hlater : later = [] := by
    show k0.vs.land.filter _ = _
    rw [hl]
    exact List.filter_cons_of_neg (by simpa using hdue)
  have ha : a = { k := ({ k with vs := { k.vs with land := [] } } : Core).landed r d i off, kept := [], flags := r.flags, stop := none, fence := false } := by
    show due.foldl (landOne c) _ = _
    rw [hdue', hlater, List.foldl_cons, List.foldl_nil, landOne_grid hk hd h2 c ht, Nat.zero_or]
  have hvfst : k1.vfst = k0.vfst ||| BitVec.ofNat 32 r.flags := by
    show a.k.vfst ||| BitVec.ofNat 32 a.flags = _
    rw [ha]
    dsimp only
    rw [Core.landed]
    split <;> rfl
  have henabled : a.flags &&& enables = 0 := by
    show a.flags &&& (k1.vfst.toNat / 2 ^ 10 &&& 0x1F) = 0
    rw [hvfst, ha]
    exact raised_notEnabled hf
  have hstop : a.stop.or trapped = none := by
    show a.stop.or (if a.flags &&& enables ≠ 0 then some 0x12 else none) = none
    rw [henabled, ha]
    rfl
  have hfence : a.fence = false := by rw [ha]
  rw [if_neg (by rw [hfence]; exact Bool.false_ne_true), hstop]
  have hs1 : s1.mem = s0.mem ∧ ∃ q, s1.core core = { s0.core core with vq := q } := by
    show (if left then s0.escape core else s0).mem = _ ∧ ∃ q, (if left then s0.escape core else s0).core core = _
    split
    · exact ⟨(State.modJobEntry_core ..).2.1, (State.modJobEntry_core ..).2.2 core⟩
    · exact ⟨rfl, (s0.core core).vq, rfl⟩
  obtain ⟨hmem, q, hq⟩ := hs1
  have hk2 : k2 = { k0.landed r d i off with
      vfst := k0.vfst ||| BitVec.ofNat 32 r.flags
      vs := { (k0.landed r d i off).vs with land := [], frozen := false, lead := k.vs.lead, raiser := raiserOf enables due } } := by
    show ({ k1 with vs := { k1.vs with frozen := k1.vs.land.any fun r => decide (r.due ≤ c), raiser := raiserOf enables due } } : Core) = _
    have hk1 : k1 = { k0.landed r d i off with
        vfst := k0.vfst ||| BitVec.ofNat 32 r.flags, vs := { (k0.landed r d i off).vs with land := [], lead := k.vs.lead } } := by
      show ({ a.k with vfst := a.k.vfst ||| BitVec.ofNat 32 a.flags, vs := { a.k.vs with land := a.kept ++ a.k.vs.land } } : Core) = _
      rw [ha, Core.landed, Core.landed]
      by_cases hp : r.push = 0
      · simp only [hp, if_true]; rfl
      · simp only [hp, if_false]; rfl
    rw [hk1]
    rfl
  exact ⟨hmem, k.vs.lead, raiserOf enables due, q, by rw [hq, show s0.core core = k2 from State.core_setCore_same .., hk2]⟩

end

theorem Core.landed_vs (k : Core) (r : Landing) (d : Dir) (i off : Nat) :
    (k.landed r d i off).vs = { k.vs with grid := writeLanes k.vs.grid d i off r.lanes r.values } := by
  unfold Core.landed
  split <;> rfl

theorem Core.landed_token (k : Core) (r : Landing) (d : Dir) (i off q : Nat) :
    (k.landed r d i off).token q = if q = r.push ∧ r.push ≠ 0 then k.token q + 1 else k.token q := by
  unfold Core.landed
  by_cases hp : r.push = 0
  · rw [if_pos hp, if_neg fun h => h.2 hp]
    rfl
  · rw [if_neg hp]
    by_cases hq : q = r.push
    · rw [if_pos ⟨hq, hp⟩, hq, Core.token_setToken_same]
      rfl
    · rw [if_neg fun h => hq h.1, Core.token_setToken_other _ _ hq]
      rfl

/-! ### The end of a stream (07 R173) -/

/-- Settling a job changes nothing of its core but the entry in the vector queue, and no byte of memory. -/
theorem State.settleJob_core (s : State) (core : Nat) : (s.settleJob core).mem = s.mem ∧ ∃ q, (s.settleJob core).core core = { s.core core with vq := q } := by
  have hdrop : (s.dropStall core).mem = s.mem ∧ (s.dropStall core).core core = s.core core := by
    unfold State.dropStall
    split <;> exact ⟨rfl, rfl⟩
  unfold State.settleJob
  dsimp only
  split
  · exact ⟨rfl, (s.core core).vq, rfl⟩
  · split
    · rw [← hdrop.1, ← hdrop.2]
      exact ⟨rfl, _, State.core_modCore_same ..⟩
    · exact ⟨rfl, (s.core core).vq, rfl⟩

section
variable {s : State} {core : Nat}

theorem exec_streamEnd_vector (hr : (s.core core).vs.st = .running) (hs : (s.core core).vs.stopIssued = true) (hl : (s.core core).vs.land = []) :
    ∃ t, exec (.streamEnd core false) s = .next t ∧ (t.core core).vs.st = .ended ∧ (t.core core).ms = (s.core core).ms ∧ SameMemory s t := by
  obtain ⟨hmem, q, hq⟩ := State.settleJob_core (s.modCore core fun k => { k with vs := { k.vs with st := .ended } }) core
  rw [State.core_modCore_same] at hq
  refine ⟨_, ?_, ?_, ?_, State.byte_eq _ _ hmem⟩
  · show execStreamEnd core false s = _
    rw [execStreamEnd]
    dsimp only
    rw [if_neg Bool.false_ne_true, if_pos ⟨hr, hs, hl⟩]
  · rw [hq]
  · rw [hq]

theorem exec_streamEnd_matrix (hr : (s.core core).ms.st = .running) (hs : (s.core core).ms.stopIssued = true) (hn : (s.core core).ms.step = none)
    (hl : (s.core core).ms.mldi = []) :
    ∃ t, exec (.streamEnd core true) s = .next t ∧ (t.core core).ms.st = .ended ∧ (t.core core).vs = (s.core core).vs ∧ SameMemory s t := by
  obtain ⟨hmem, q, hq⟩ := State.settleJob_core (s.modMs core fun m => { m with st := .ended }) core
  rw [State.modMs, State.core_modCore_same] at hq
  refine ⟨_, ?_, ?_, ?_, State.byte_eq _ _ hmem⟩
  · show execStreamEnd core true s = _
    rw [execStreamEnd]
    dsimp only
    rw [if_pos rfl, if_pos ⟨hr, hs, hn, hl⟩]
  · rw [State.modMs, hq]
  · rw [State.modMs, hq]

theorem exec_vectorLanding_due {r : Landing} (hst : (s.core core).vs.st = .running) (hl : (s.core core).vs.land = [r]) (hr : (s.core core).landable r = true)
    (hh : s.vecHeld core = false) (hm : (s.core core).matrixBehind = false) : exec (.vectorLanding core) s = .next (s.vecLand core) := by
  show execVectorLanding core s = _
  rw [execVectorLanding, if_neg]
  rw [hst, hl, List.any_cons, hr, Bool.true_or, hh, hm]
  decide

end

/-! ### Obligation O31 -/

/-- Settles O31: the core behind a landing is `Core.landed`, and a stream that ends changes its state and its job's entry alone. -/
theorem landingsAndStreamEnd : Obligations.LandingsAndStreamEnd := by
  unfold Obligations.LandingsAndStreamEnd
  refine ⟨fun s core r d i off hst hl hk hd h2 hdue hh hm hf ht => ?_, fun s core hr hs hl => exec_streamEnd_vector hr hs hl,
    fun s core hr hs hn hl => exec_streamEnd_matrix hr hs hn hl⟩
  have hland : (s.core core).landable r = true := by
    rw [Core.landable, decide_eq_true hdue, hk, hd]
    rfl
  obtain ⟨hmem, lead, raiser, q, hcore⟩ := State.vecLand_grid hk hd h2 hl hdue hf ht
  have hvs := Core.landed_vs (s.core core) r d i off
  refine ⟨s.vecLand core, exec_vectorLanding_due hst hl hland hh hm, ?_⟩
  rw [hcore, hvs]
  exact ⟨rfl, rfl, rfl, fun l hlt hlane => writeLanes_written _ d i off r.lanes r.values hlt hlane, fun n hn => writeLanes_other _ d i off r.lanes r.values hn, rfl,
    fun q => Core.landed_token (s.core core) r d i off q, State.byte_eq _ _ hmem⟩

end Sys2Proof.Machine

/-! # Vector words that stop the stream (06 R128, R130, 03 R48, R74, 10 R244 to R246) -/

namespace Sys2Proof.Machine
open Sys2Proof Sys2Proof.Spec

/-! ### The vector frame in memory (10 R246) -/

theorem State.readD_writeD_outside (s : State) {l m : Nat} {v : Word} (h : m + 8 ≤ l ∨ l + 8 ≤ m) : (s.writeD l v).readD m = s.readD m :=
  State.readD_writeDs_outside s l [v] m h

/-- The part of a vector frame that holds registers, loops, the word, the cycle and the cause. -/
def vframeState (v : VStream) (cause : Nat) : List Word :=
  (List.range 32).map v.getS ++ (List.range 16).map v.getP ++ v.l0.words ++ v.l1.words ++
    [BitVec.ofNat 64 v.pc, BitVec.ofNat 64 v.rotBase, BitVec.ofNat 64 (v.fmtRow + loopSelCode v.fmtLoop * 2 ^ 4), BitVec.ofNat 64 v.cycle, BitVec.ofNat 64 cause]

/-- The records of a frame, one after another from the b-th byte on. -/
def State.writeRecords (b c : Nat) (recs : List Landing) (p : State × Nat) : State × Nat :=
  recs.foldl (fun p r => (p.1.writeDs (b + 0x4480 + 288 * p.2) (r.words c), p.2 + 1)) p

theorem State.readD_writeRecords {b c m : Nat} (recs : List Landing) (p : State × Nat) (h : m + 8 ≤ b + 0x4480) :
    (State.writeRecords b c recs p).1.readD m = p.1.readD m := by
  unfold State.writeRecords
  induction recs generalizing p with
  | nil => rfl
  | cons r recs ih => rw [List.foldl_cons, ih, State.readD_writeDs_outside _ _ _ _ (.inl (by omega))]

/-- A frame is written over memory alone. -/
theorem State.writeVFrame_rest (s : State) (core cause : Nat) : ∃ m, s.writeVFrame core cause = { s with mem := m } := by
  unfold State.writeVFrame
  extract_lets k v b recs s1 s2 s3 s4
  have keep {u : State} (hu : ∃ m, u = { s with mem := m }) (l : Nat) (ws : List Word) : ∃ m, u.writeDs l ws = { s with mem := m } := by
    obtain ⟨m, rfl⟩ := hu
    exact ⟨_, State.writeDs_rest ..⟩
  have h3 : ∃ m, s3 = { s with mem := m } := keep (keep (keep ⟨s.mem, rfl⟩ _ _) _ _) _ _
  have h4 : ∃ m, s4 = { s with mem := m } := by
    obtain ⟨m, hm⟩ := keep h3 (b + 0x4400) [k.vfst.setWidth 64, BitVec.ofNat 64 v.raiser.1, BitVec.ofNat 64 v.raiser.2]
    exact ⟨_, (State.write_rest ..).trans (by rw [hm])⟩
  exact foldl_keeps (fun q : State × Nat => ∃ m, q.1 = { s with mem := m }) _ recs (fun q _ _ hq => keep hq _ _) (s4, 0) h4

theorem State.readD_writeVFrame (s : State) (core cause : Nat) {i : Nat} {w : Word} (hw : (vframeState (s.core core).vs cause)[i]? = some w) (hi : i < 61) :
    (s.writeVFrame core cause).readD (vframeLoc core + 0x4000 + 8 * i) = w := by
  unfold State.writeVFrame
  extract_lets k v b recs s1 s2 s3 s4
  have h2 : s2.readD (b + 0x4000 + 8 * i) = w := State.readD_writeDs s1 (b + 0x4000) (vframeState v cause) hw
  have h3 : s3.readD (b + 0x4000 + 8 * i) = w := (State.readD_writeDs_outside _ _ _ _ (.inl (by omega))).trans h2
  have h4 : s4.readD (b + 0x4000 + 8 * i) = w := by
    dsimp only [s4]
    rw [State.readD_writeD_outside _ (by omega), State.readD_writeDs_outside _ _ _ _ (.inl (by omega)), h3]
  exact (State.readD_writeRecords recs (s4, 0) (by omega)).trans h4

/-! ### What a stop leaves (10 R244, R245) -/

theorem State.raiseStall_eq (s : State) (core time : Nat) : ∃ g, s.raiseStall core time = { s with groups := g } := by
  unfold State.raiseStall
  split
  · exact ⟨s.groups, rfl⟩
  · dsimp only
    split <;> exact ⟨_, rfl⟩

/-- A core's vector stream as its own stop leaves it. -/
def VStream.halted (v : VStream) (cause : Nat) (report : Bool) : VStream :=
  { v with st := .stopped, cause := cause, frozen := false, atRdv := false, rdv := if v.atRdv then v.rdv - 1 else v.rdv
           raiser := if cause = 0x12 then v.raiser else (0, 0), atStop := if report then stopCode cause true else 0 }

/-- A core whose vector stream stops, behind its frame. -/
def State.halted (s : State) (core cause : Nat) (report : Bool) : State :=
  (s.modCore core fun k => { k with vs := k.vs.halted cause report }).writeVFrame core cause

theorem State.vecStop_eq (s : State) (core cause : Nat) (report : Bool) :
    s.vecStop core cause report = ((s.halted core cause report).trace core 3 4 3 (s.core core).vs.cycle (s.core core).vs.pc cause).stopSpread core cause report := by
  have hk : (s.modCore core fun k => { k with vs := k.vs.halted cause report }).core core = { s.core core with vs := (s.core core).vs.halted cause report } :=
    State.core_modCore_same ..
  show (State.trace _ core 3 4 3 ((s.modCore core fun k => { k with vs := k.vs.halted cause report }).core core).vs.cycle
    ((s.modCore core fun k => { k with vs := k.vs.halted cause report }).core core).vs.pc cause).stopSpread core cause report = _
  rw [hk]
  rfl

/-- What is behind a stop's frame differs from what was before it in memory and in the stream alone. -/
theorem State.halted_eq (s : State) (core cause : Nat) (report : Bool) :
    ∃ m, s.halted core cause report = { s.modCore core (fun k => { k with vs := k.vs.halted cause report }) with mem := m } := State.writeVFrame_rest ..

theorem State.core_halted (s : State) (core cause : Nat) (report : Bool) (c : Nat) :
    (s.halted core cause report).core c = if c = core then { s.core core with vs := (s.core core).vs.halted cause report } else s.core c := by
  obtain ⟨m, hm⟩ := s.halted_eq core cause report
  have hcores : (s.halted core cause report).cores = (s.modCore core fun k => { k with vs := k.vs.halted cause report }).cores := by rw [hm]
  rw [State.core_of_cores hcores, State.modCore, State.core_setCore]

/-- A stopped vector stream does not follow its own stop. -/
theorem Core.follow_stopped {k : Core} (h : k.vs.st = .stopped) (code : Nat) : (k.follow code).vs = k.vs := by
  have hne : k.vs.st ≠ .running := by rw [h]; decide
  rw [Core.follow]
  exact if_neg fun hr => hne hr.1

/-- Nobody but the core's own streams has part in a stop: no job, or a job of no group that its pushing context is there to trap for. -/
def State.StopIsOwn (s : State) (core : Nat) : Prop :=
  ∀ j, (s.core core).job = some j → j.group = none ∧ (s.ctx j.core j.ctx).st ≠ .frozen ∧ s.pusherThere j = true

/-- Such a stop makes the matrix stream follow and raises the stall wire, and does no more. -/
theorem State.stopSpread_own {s : State} {core : Nat} (h : s.StopIsOwn core) (cause : Nat) (report : Bool) :
    ∃ g, s.stopSpread core cause report = { s.modCore core (fun k => k.follow (stopCode 0 false)) with groups := g } := by
  unfold State.stopSpread
  extract_lets s0 rose s1
  obtain ⟨g, hg⟩ : ∃ g, s1 = { s0 with groups := g } := State.raiseStall_eq ..
  have hctx (k n : Nat) : s1.ctx k n = s.ctx k n := by
    rw [hg]
    exact State.ctx_modCore s core (f := fun k => k.follow (stopCode 0 false)) rfl k n
  clear_value s1
  split
  · exact ⟨g, hg⟩
  · next j hj =>
    obtain ⟨hgroup, hfrozen, hthere⟩ := h j hj
    extract_lets s2 frozen
    have hs2 : s2 = s1 := by
      dsimp only [s2]
      rw [hgroup]
    have hthere2 : s2.pusherThere j = true := by
      rw [hs2, State.pusherThere, hctx]
      exact hthere
    have hfrozen2 : frozen = false := decide_eq_false (by rw [hs2, hctx]; exact hfrozen)
    rw [if_neg (by rw [hfrozen2, hthere2]; simp), hs2]
    exact ⟨g, hg⟩

theorem State.StopIsOwn.of_kept {s u : State} {core : Nat} (h : s.StopIsOwn core) (hj : (u.core core).job = (s.core core).job) (hctx : ∀ k n, u.ctx k n = s.ctx k n) :
    u.StopIsOwn core := fun j hjob => by
  rw [State.pusherThere, hctx]
  exact h j (hj ▸ hjob)

theorem State.ctx_halted (s : State) (core cause : Nat) (report : Bool) (k n : Nat) : (s.halted core cause report).ctx k n = s.ctx k n := by
  rw [State.ctx, State.ctx, State.core_halted]
  split
  · next he => rw [he]; rfl
  · rfl

/-- The core behind such a stop: stopped, its other stream following, and but for the trace as it was. -/
theorem State.core_vecStop_own {s : State} {core : Nat} (h : s.StopIsOwn core) (cause : Nat) (report : Bool) :
    ∃ th td, (s.vecStop core cause report).core core =
      ({ s.core core with vs := (s.core core).vs.halted cause report, trhead := th, trdrops := td } : Core).follow (stopCode 0 false) := by
  have htrace := State.trace_core (s.halted core cause report) core 3 4 3 (s.core core).vs.cycle (s.core core).vs.pc cause
  rw [State.vecStop_eq]
  generalize (s.halted core cause report).trace core 3 4 3 (s.core core).vs.cycle (s.core core).vs.pc cause = u at htrace
  obtain ⟨hf, hc⟩ := htrace
  obtain ⟨th, td, hk⟩ := hc core
  rw [State.core_halted, if_pos rfl] at hk
  have hctx (k n : Nat) : u.ctx k n = s.ctx k n := by
    obtain ⟨_, _, hk⟩ := hc k
    rw [← State.ctx_halted s core cause report, State.ctx, State.ctx, hk, Core.ctx, Core.ctx]
  obtain ⟨g, hg⟩ := State.stopSpread_own (h.of_kept (by rw [hk]) hctx) cause report
  have hcores : (u.stopSpread core cause report).cores = (u.modCore core fun k => k.follow (stopCode 0 false)).cores := by rw [hg]
  exact ⟨th, td, by rw [State.core_of_cores hcores, State.core_modCore_same, hk]⟩

theorem streamStops_own {s : State} {core : Nat} (h : s.StopIsOwn core) (cause : Nat) : StreamStops s (s.vecStop core cause true) core cause := by
  obtain ⟨th, td, hk⟩ := State.core_vecStop_own h cause true
  have hvs : ((s.vecStop core cause true).core core).vs = (s.core core).vs.halted cause true := by
    rw [hk]
    exact Core.follow_stopped rfl _
  have hacc : ((s.vecStop core cause true).core core).acc = (s.core core).acc := by rw [hk]; rfl
  refine ⟨?_, ?_, ?_, ?_, hacc⟩
  all_goals rw [hvs]
  · exact ⟨rfl, rfl, rfl, rfl⟩
  · rfl
  · exact ⟨rfl, rfl⟩
  · rfl

/-! ### A stop that its pushing context is to trap for, with the trace off -/

section
variable {s : State} {core cause : Nat} {j : Job} (hown : s.StopIsOwn core) (hoff : (s.core core).trctl.getLsbD 0 = false)
include hown hoff

theorem State.vecStop_untraced (report : Bool) :
    ∃ g, s.vecStop core cause report = { (s.halted core cause report).modCore core (fun k => k.follow (stopCode 0 false)) with groups := g } := by
  rw [State.vecStop_eq, State.trace_off _ _ _ _ _ _ _ _ (by rw [State.core_halted, if_pos rfl]; exact hoff)]
  exact State.stopSpread_own (hown.of_kept (by rw [State.core_halted, if_pos rfl]) (s.ctx_halted core cause report)) cause report

theorem State.core_vecStop_other {c : Nat} (hc : c ≠ core) : (s.vecStop core cause true).core c = s.core c := by
  obtain ⟨g, hg⟩ := State.vecStop_untraced (cause := cause) hown hoff true
  have hcores : (s.vecStop core cause true).cores = ((s.halted core cause true).modCore core fun k => k.follow (stopCode 0 false)).cores := by rw [hg]
  rw [State.core_of_cores hcores, State.core_modCore_other _ _ _ _ hc, State.core_halted, if_neg hc]

theorem State.queue_vecStop (q : QueueId) : (s.vecStop core cause true).queue q = s.queue q := by
  obtain ⟨th, td, hk⟩ := State.core_vecStop_own hown cause true
  obtain ⟨g, hg⟩ := State.vecStop_untraced (cause := cause) hown hoff true
  obtain ⟨m, hm⟩ := s.halted_eq core cause true
  have hcore (c : Nat) : ((s.vecStop core cause true).core c).mq = (s.core c).mq ∧ ((s.vecStop core cause true).core c).vq = (s.core c).vq ∧
      ((s.vecStop core cause true).core c).cq = (s.core c).cq := by
    by_cases hc : c = core
    · rw [hc, hk]
      exact ⟨rfl, rfl, rfl⟩
    · rw [State.core_vecStop_other hown hoff hc]
      exact ⟨rfl, rfl, rfl⟩
  cases q with
  | mq c => exact (hcore c).1
  | vq c => exact (hcore c).2.1
  | cq c => exact (hcore c).2.2
  | oq u => rw [hg, hm]; rfl
  | lq d => rw [hg, hm]; rfl

theorem State.ctx_vecStop (k n : Nat) : (s.vecStop core cause true).ctx k n = s.ctx k n := by
  by_cases hc : k = core
  · obtain ⟨th, td, hk⟩ := State.core_vecStop_own hown cause true
    rw [hc, State.ctx, hk]
    rfl
  · rw [State.ctx, State.core_vecStop_other hown hoff hc]
    rfl

/-- The frame of the stop names the word, the cycle and the cause. -/
theorem State.readD_vecStop {i : Nat} {w : Word} (hw : (vframeState ((s.core core).vs.halted cause true) cause)[i]? = some w) (hi : i < 61) :
    (s.vecStop core cause true).readD (vframeLoc core + 0x4000 + 8 * i) = w := by
  obtain ⟨g, hg⟩ := State.vecStop_untraced (cause := cause) hown hoff true
  have hmem : (s.vecStop core cause true).mem = (s.halted core cause true).mem := by simp only [hg, State.modCore_mem]
  rw [State.readD_mem_congr hmem]
  exact State.readD_writeVFrame _ _ _ (by rw [State.core_modCore_same]; exact hw) hi

/-- The pushing context owes a trap of source 2 for a stop that no word of the matrix stream can share. -/
theorem State.owedAt_vecStop (hj : (s.core core).job = some j) (hlo : 0 < cause) (hhi : cause < 256) (hms : (s.core core).ms.st ≠ .stopped)
    (hboth : ((s.vecStop core cause true).core core).matBoth = false) : (s.vecStop core cause true).owedAt core = some (2, cause, (s.core core).vs.cycle) := by
  obtain ⟨th, td, hk⟩ := State.core_vecStop_own hown cause true
  have hthere : (s.vecStop core cause true).pusherThere j = true := by
    rw [State.pusherThere, State.ctx_vecStop hown hoff]
    exact (hown j hj).2.2
  have hjob : ((s.vecStop core cause true).core core).job = some j := by rw [hk]; exact hj
  have hvs : ((s.vecStop core cause true).core core).vs = (s.core core).vs.halted cause true := by
    rw [hk]
    exact Core.follow_stopped rfl _
  have hmat : ((s.vecStop core cause true).core core).ms.st = (s.core core).ms.st := by
    rw [hk]
    unfold Core.follow
    dsimp only
    split <;> rfl
  have hvec : ((s.vecStop core cause true).core core).vecBoth = false := by
    rw [Core.vecBoth, hvs]
    rfl
  have hcode : codeCause (stopCode cause true) = cause := by
    rw [codeCause, stopCode, show 1 + cause + b2n true * 256 - 1 = cause + 256 by rw [b2n, if_pos rfl]; omega]
    omega
  have hv : (decide (((s.core core).vs.halted cause true).st = .stopped) && decide (((s.core core).vs.halted cause true).atStop ≠ 0)) = true := by
    simp [VStream.halted, stopCode]
  have hm : (decide (((s.vecStop core cause true).core core).ms.st = .stopped) && decide (((s.vecStop core cause true).core core).ms.atStop ≠ 0)) = false := by
    rw [hmat, decide_eq_false hms, Bool.false_and]
  have hfull : codeCause ((s.core core).vs.halted cause true).atStop = cause := hcode
  unfold State.owedAt
  simp only [hjob, hv, hm, hthere, hvec, hboth, hvs, hfull, Nat.pos_iff_ne_zero.1 hlo, Bool.or_false, Bool.and_false, Bool.true_and, Bool.true_eq_false, Bool.false_eq_true,
    or_self, if_true, if_false, decide_true, ne_eq, not_false_eq_true]
  rfl

end

/-! ### What any stop keeps of the stream that made it -/

/-- A core's vector stream is as it was but for the stop that its pushing context has not yet taken. -/
def VecStays (core : Nat) (s t : State) : Prop := ∃ n, (t.core core).vs = { (s.core core).vs with atStop := n }

section
variable {core : Nat} {s t u : State}

theorem VecStays.of_vs (h : (t.core core).vs = (s.core core).vs) : VecStays core s t := ⟨(s.core core).vs.atStop, h⟩

theorem VecStays.refl (s : State) : VecStays core s s := .of_vs rfl

theorem VecStays.trans (h : VecStays core s t) (h' : VecStays core t u) : VecStays core s u := by
  obtain ⟨n, hn⟩ := h
  obtain ⟨n', hn'⟩ := h'
  exact ⟨n', by rw [hn', hn]⟩

theorem VecStays.ite {p : Prop} [Decidable p] (ht : VecStays core s t) (hu : VecStays core s u) : VecStays core s (if p then t else u) := by
  split
  · exact ht
  · exact hu

theorem VecStays.of_cores (h : t.cores = s.cores) : VecStays core s t := .of_vs (by rw [State.core_of_cores h])

theorem VecStays.modCore (s : State) (c : Nat) {f : Core → Core} (h : c = core → ∃ n, (f (s.core core)).vs = { (s.core core).vs with atStop := n }) :
    VecStays core s (s.modCore c f) := by
  by_cases hc : core = c
  · obtain ⟨n, hn⟩ := h hc.symm
    exact ⟨n, by rw [← hc, State.core_modCore_same, hn]⟩
  · exact .of_vs (by rw [State.core_modCore_other _ _ _ _ hc])

/-- A change of a core that leaves its vector stream. -/
theorem VecStays.modCore_of_vs (s : State) (c : Nat) {f : Core → Core} (h : ∀ k, (f k).vs = k.vs) : VecStays core s (s.modCore c f) :=
  .modCore s c fun _ => ⟨(s.core core).vs.atStop, h _⟩

theorem VecStays.modQueue (s : State) (q : QueueId) (f : Queue → Queue) : VecStays core s (s.modQueue q f) := by
  cases q with
  | mq c => exact .modCore_of_vs s c fun _ => rfl
  | vq c => exact .modCore_of_vs s c fun _ => rfl
  | cq c => exact .modCore_of_vs s c fun _ => rfl
  | oq u => exact .of_cores rfl
  | lq d => exact .of_cores rfl

theorem VecStays.report (s : State) (e : Entry) (state : Nat) : VecStays core s (s.report e state) := by
  unfold State.report
  exact .ite (.refl s) (.modCore_of_vs s e.core fun k => by split <;> rfl)

theorem VecStays.trace (s : State) (c bit kind source cycle p0 p1 : Nat) : VecStays core s (s.trace c bit kind source cycle p0 p1) := by
  obtain ⟨_, _, hk⟩ := (State.trace_core s c bit kind source cycle p0 p1).2 core
  exact .of_vs (by rw [hk])

theorem VecStays.traceCmd (s : State) (q : QueueId) (kind : Nat) (e : Entry) : VecStays core s (s.traceCmd q kind e) := by
  cases q with
  | oq u => exact .refl s
  | lq d => exact .refl s
  | mq c => exact .trace ..
  | vq c => exact .trace ..
  | cq c => exact .trace ..

theorem VecStays.hirq_wrackAdd (s : State) (event cause kind source cycle b : Nat) (detail : Word) :
    VecStays core s ((s.wrackAdd event cause kind source detail cycle).hirq b) := by
  rw [State.wrackAdd_rest]
  exact .of_cores rfl

theorem VecStays.faultCmd (s : State) (q : QueueId) (seq cause : Nat) (freeze : Bool) : VecStays core s (s.faultCmd q seq cause freeze) := by
  unfold State.faultCmd
  split
  · exact .refl s
  · extract_lets e0' e s1 code s2 s3
    have h1 : VecStays core s s1 := .modQueue ..
    have h2 : VecStays core s1 s2 := by
      dsimp only [s2]
      clear s3 s2
      clear_value code
      cases code with
      | none => exact .refl s1
      | some c => exact .modCore_of_vs s1 _ fun _ => rfl
    have h3 : VecStays core s2 s3 := (VecStays.report ..).trans (.traceCmd ..)
    have h := (h1.trans h2).trans h3
    clear_value s1 s2 s3
    exact .ite (h.trans (.hirq_wrackAdd ..)) h

theorem VecStays.raiseStall (s : State) (c time : Nat) : VecStays core s (s.raiseStall c time) := by
  obtain ⟨g, hg⟩ := State.raiseStall_eq s c time
  exact .of_cores (by rw [hg])

/-- Whatever a stop does to the other streams, the stream that made it stays. -/
theorem VecStays.stopSpread (hs : (s.core core).vs.st = .stopped) (cause : Nat) (report : Bool) : VecStays core s (s.stopSpread core cause report) := by
  unfold State.stopSpread
  extract_lets s0 rose s1
  have h1 : VecStays core s s1 :=
    (VecStays.modCore s core (f := fun k => k.follow (stopCode 0 false)) fun _ => ⟨_, Core.follow_stopped hs _⟩).trans (.raiseStall ..)
  clear_value s1
  split
  · exact h1
  · extract_lets s2 frozen
    have hround (l : List Nat) : VecStays core s1 (l.foldl (fun s c => if c = core then s else (s.modCore c fun k => k.follow (stopCode 0 true)).raiseStall c rose) s1) := by
      refine foldl_keeps (VecStays core s1) _ l (fun t c _ ht => ?_) s1 (.refl s1)
      split
      · exact ht
      · next hc => exact ht.trans ((VecStays.modCore t c fun he => absurd he hc).trans (.raiseStall ..))
    have h2 : VecStays core s s2 := by
      dsimp only [s2]
      split
      · exact .ite (h1.trans (hround _)) h1
      · exact h1
    clear_value s2 frozen
    refine .ite (h2.trans ((VecStays.modCore s2 core fun _ => ?_).trans (.faultCmd ..))) h2
    dsimp only
    split
    · exact ⟨0, rfl⟩
    · exact ⟨_, rfl⟩

/-- A stop of a core's vector stream leaves it at its cycle and its word, with its results in flight. -/
theorem vecStop_stays (s : State) (core cause : Nat) (report : Bool) :
    ∃ n, ((s.vecStop core cause report).core core).vs = { (s.core core).vs.halted cause report with atStop := n } := by
  rw [State.vecStop_eq]
  have hh : ((s.halted core cause report).core core).vs = (s.core core).vs.halted cause report := by rw [State.core_halted, if_pos rfl]
  have htrace := State.trace_core (s.halted core cause report) core 3 4 3 (s.core core).vs.cycle (s.core core).vs.pc cause
  obtain ⟨_, _, hk⟩ := htrace.2 core
  have hvs : (((s.halted core cause report).trace core 3 4 3 (s.core core).vs.cycle (s.core core).vs.pc cause).core core).vs = (s.core core).vs.halted cause report := by
    rw [hk, ← hh]
  obtain ⟨n, hn⟩ := VecStays.stopSpread (s := (s.halted core cause report).trace core 3 4 3 (s.core core).vs.cycle (s.core core).vs.pc cause) (by rw [hvs]; rfl) cause report
  exact ⟨n, by rw [hn, hvs]⟩

end

/-! ### Obligation O21 -/

/-- A lane word whose slot is reserved or of another class stops the stream (06 R130). -/
theorem lanesWord_wrongSlot {s : State} {h : VHdr} {d : VOp} {lat : Nat} {classOk : Slot → Bool} {f : VStream → Slot → Nat → Nat × Nat} (he : s.vs.endsWrong none = false)
    (hw : slotReserved (s.vs.entry h.slot) = true ∨ classOk (Slot.of (s.vs.entry h.slot)) = false) : lanesWord s h d lat classOk f = .next (s.stopHere 0x07) := by
  unfold lanesWord vecWord
  exact vecIssue_wrongSlot s none h.slot h.pop h.push 1 1 (fun _ => classOk) _ he hw

theorem exec_illegalVectorWord_stops (s : State) (w : Nat) : ∃ t, exec (.illegalVectorWord w) s = .next t ∧ t.vs.st = .stopped ∧ t.vs.cause = 0x01 ∧
    t.vs.cycle = s.vs.cycle ∧ t.vs.pc = s.vs.pc ∧ t.vs.land = s.vs.land := by
  obtain ⟨n, hn⟩ := vecStop_stays s s.focus.core 0x01 true
  have hfocus : (s.vecStop s.focus.core 0x01 true).focus = s.focus := by
    obtain ⟨m, hm⟩ := s.halted_eq s.focus.core 0x01 true
    rw [State.vecStop_eq, (CtxsKept.stopSpread ..).focus, (State.trace_core ..).1, hm]
    rfl
  have hvs : (s.vecStop s.focus.core 0x01 true).vs = { s.vs.halted 0x01 true with atStop := n } := by
    rw [State.vs, State.here, hfocus, hn]
    rfl
  refine ⟨_, rfl, ?_⟩
  show (s.vecStop s.focus.core 0x01 true).vs.st = _ ∧ (s.vecStop s.focus.core 0x01 true).vs.cause = _ ∧ (s.vecStop s.focus.core 0x01 true).vs.cycle = _ ∧
    (s.vecStop s.focus.core 0x01 true).vs.pc = _ ∧ (s.vecStop s.focus.core 0x01 true).vs.land = _
  rw [hvs]
  exact ⟨rfl, rfl, rfl, rfl, rfl⟩

/-- Settles O21: the issue stops before the word's body where its slot does not fit, and a stop writes the frame and keeps the stream. -/
theorem vectorWordsThatStop : Obligations.VectorWordsThatStop := by
  unfold Obligations.VectorWordsThatStop
  refine ⟨⟨fun i s h d lat ok f hi he hw => ?_, fun s w => rfl, exec_illegalVectorWord_stops, fun s core cause hn => ?_, fun s core cause j hj hfrozen hthere hgroup hoff => ?_⟩,
    fun i s h d f c hi hr hc hl hd => ?_⟩
  · obtain ⟨classOk, g, hexec, hg, -⟩ := exec_laneWord hi
    rw [hexec]
    exact lanesWord_wrongSlot he (by rw [hg]; exact hw)
  · exact streamStops_own (fun j hj => nomatch hn.symm.trans hj) cause
  · have hown : s.StopIsOwn core := fun j' hj' => by
      obtain rfl : j = j' := Option.some.inj (hj.symm.trans hj')
      exact ⟨hgroup, hfrozen, hthere⟩
    obtain ⟨th, td, hk⟩ := State.core_vecStop_own hown cause true
    exact ⟨streamStops_own hown cause, by rw [hk]; exact hj, State.queue_vecStop hown hoff, fun c hc => State.core_vecStop_other hown hoff hc,
      State.readD_vecStop hown hoff (i := 56) rfl (by decide), State.readD_vecStop hown hoff (i := 59) rfl (by decide), State.readD_vecStop hown hoff (i := 60) rfl (by decide),
      State.owedAt_vecStop hown hoff hj⟩
  · obtain ⟨g, hexec, -⟩ := exec_dividerWord hi
    rw [hexec]
    exact divWord_busy hr hc hl hd

end Sys2Proof.Machine

/-! # Scalar words and the accumulator store (07 R159, R161) -/

namespace Sys2Proof.Machine
open Sys2Proof Sys2Proof.Spec

/-! ### Scalar words (07 R161) -/

section
variable {s : State} {h : VHdr}

/-- Each word of the table is a scalar word of its register, whose value is the table's. -/
theorem exec_scalarOp {i : Instr} {sd : Nat} {w : Word} (hi : Spec.scalarOp i s.vs = some (h, sd, w)) : ∃ f, exec i s = scalarWord s h sd f ∧ f s.vs = w := by
  unfold Spec.scalarOp at hi
  split at hi
  all_goals cases hi
  all_goals
    simp only [exec, execVsadd, execVsaddi, execVsmov]
    refine ⟨_, rfl, ?_⟩
  case h_5 o hscalar himm =>
    cases o with
    | scalar n => exact absurd rfl (hscalar n)
    | imm w => exact absurd rfl (himm w)
    | _ => rfl
  all_goals rfl

/-- A scalar word puts its value in flight, whatever its guard. -/
theorem scalarWord_lands {sd : Nat} {f : VStream → Word} (hr : VecReady s none h.slot h.pop 1) :
    ∃ t, scalarWord s h sd f = .next t ∧ VecIssued s t h.pop 1 ∧ VecNext s t ∧ LandsWord s t h 1 (.scalar sd) (s.vs.mask h.guard) (f s.vs) 0 := by
  obtain ⟨t, ht, hf⟩ := vecWord_inFlight (classOk := classAny) (body := fun v _ => .ok s [scalarLanding (v.cycle + 1) h sd (v.mask h.guard) (f v) 0] none) hr rfl rfl rfl
  exact ⟨t, ht, hf.issued, hf.next, InFlight.word hf⟩

/-! ### VACLD and VACZ (07 R159) -/

theorem VStream.accOutside_eq_false_iff {v : VStream} {f : AccField} {m : Word} :
    v.accOutside f m = false ↔ ∀ l, l ∈ lanesOf m → 0 ≤ v.accElem f l ∧ v.accElem f l < 131072 := by
  simp [VStream.accOutside, List.any_eq_false]

variable {d : VOp} {f : AccField} (hr : VecReady s none h.slot h.pop 1)
include hr

theorem exec_vacld_lands (hin : s.vs.accOutside f (s.vs.mask h.guard) = false)
    (hp : ∀ l, l ∈ lanesOf (s.vs.mask h.guard) → Tbl.get false s.here.accPoison (accKey f.tile (s.vs.accElem f l) / 16) = false) :
    ∃ t, exec (.vacld h d f) s = .next t ∧ VecIssued s t h.pop 1 ∧ VecNext s t ∧
      LandsOne s t h 6 (s.vs.dest d) (s.vs.mask h.guard) (fun l => Tbl.get 0 s.here.acc (accKey f.tile (s.vs.accElem f l))) 0 := by
  have hclean : ((lanesOf (s.vs.mask h.guard)).any fun l => Tbl.get false s.here.accPoison (accKey f.tile (s.vs.accElem f l) / 16)) = false :=
    List.any_eq_false.2 fun l hl => ne_true_of_eq_false (hp l hl)
  obtain ⟨t, ht, hf⟩ : ∃ t, exec (.vacld h d f) s = .next t ∧ InFlight s t h (result (s.vs.cycle + 6) h (s.vs.dest d) (s.vs.mask h.guard)
      (overLanes (s.vs.mask h.guard) fun l => ((Tbl.get 0 s.here.acc (accKey f.tile (s.vs.accElem f l))).toNat, 0)).1 0) := by
    show ∃ t, execVacld h d f s = .next t ∧ _
    unfold execVacld
    exact vecWord_inFlight hr rfl (by simp only [hin, hclean, Bool.false_eq_true, if_false]) rfl
  refine ⟨t, ht, hf.issued, hf.next, hf.one fun l hl hm => ?_⟩
  rw [overLanes_value _ _ l hl hm, BitVec.ofNat_toNat, BitVec.setWidth_eq]

theorem exec_vacz_lands (hin : s.vs.accOutside f (s.vs.mask h.guard) = false) :
    ∃ t, exec (.vacz h f) s = .next t ∧ VecIssued s t h.pop 1 ∧ VecNext s t ∧
      LandsOne s t h 6 (.accum f.tile) (s.vs.mask h.guard) (fun l => BitVec.ofNat 32 (s.vs.accElem f l).toNat) 0 := by
  obtain ⟨t, ht, hf⟩ : ∃ t, exec (.vacz h f) s = .next t ∧ InFlight s t h (result (s.vs.cycle + 6) h (.accum f.tile) (s.vs.mask h.guard)
      (overLanes (s.vs.mask h.guard) fun l => ((s.vs.accElem f l).toNat, 0)).1 0) := by
    show ∃ t, execVacz h f s = .next t ∧ _
    unfold execVacz
    exact vecWord_inFlight hr rfl (if_neg (ne_true_of_eq_false hin)) rfl
  exact ⟨t, ht, hf.issued, hf.next, hf.one fun l hl hm => overLanes_value _ _ l hl hm⟩

variable (hout : s.vs.accOutside f (s.vs.mask h.guard) = true)
include hout

theorem exec_vacld_outside : exec (.vacld h d f) s = .next (s.stopHere 0x01) := by
  show execVacld h d f s = _
  unfold execVacld vecWord
  exact vecIssue_stop s s none h.slot h.pop h.push 1 1 (fun _ => classAny) _ 0x01 hr.ends hr.slotFine rfl hr.tokens (if_pos hout)

theorem exec_vacz_outside : exec (.vacz h f) s = .next (s.stopHere 0x01) := by
  show execVacz h f s = _
  unfold execVacz vecWord
  exact vecIssue_stop s s none h.slot h.pop h.push 1 1 (fun _ => classAny) _ 0x01 hr.ends hr.slotFine rfl hr.tokens (if_pos hout)

end

/-! ### Obligations O25 and O27 -/

/-- Settles O25: every word of the table runs through `scalarWord`, which lands one 64-bit value. -/
theorem scalarWordsLand : Obligations.ScalarWordsLand := by
  unfold Obligations.ScalarWordsLand
  intro i s h sd w hi hr
  obtain ⟨f, he, rfl⟩ := exec_scalarOp hi
  rw [he]
  exact scalarWord_lands hr

/-- Settles O27: the elements that the lanes name are inside the tile exactly where the model's check passes. -/
theorem accumulatorWordsLand : Obligations.AccumulatorWordsLand := by
  unfold Obligations.AccumulatorWordsLand
  intro s h d f hr
  extract_lets m inside
  have hiff : s.vs.accOutside f m = false ↔ inside := VStream.accOutside_eq_false_iff
  refine ⟨fun hin hp => exec_vacld_lands hr (hiff.2 hin) hp, fun hin => exec_vacz_lands hr (hiff.2 hin), fun hout => ?_⟩
  have ho : s.vs.accOutside f m = true := eq_true_of_ne_false (mt hiff.1 hout)
  exact ⟨exec_vacld_outside hr ho, exec_vacz_outside hr ho⟩

end Sys2Proof.Machine

/-! # The token of a word that lands nothing of its own (06 R129)

Such a word leaves its tokens in flight as a landing that names the word (`VStream.goOn`), while `Spec.pushes` gives a landing that names word 0: the two agree at word 0 alone. -/

namespace Sys2Proof.Machine
open Sys2Proof Sys2Proof.Spec

section
variable {s u t : State} {named next : Option Nat} {slot pop push np nq : Nat}

theorem heldToken_nil (s : State) (push nq : Nat) : heldToken s.vs.cycle push nq [] = pushes s push nq := by
  unfold heldToken pushes
  by_cases hp : push = 0 <;> by_cases hn : nq = 0 <;> simp [hp, hn]

/-- Behind a word that lands nothing of its own stand its tokens, as that word's. -/
theorem State.land_vecGoOn_nil (hf : u.focus = s.focus) (hl : u.vs.land = s.vs.land) :
    (s.vecGoOn u pop push np nq [] next).vs.land = s.vs.land ++ (pushes s push nq).map fun r => { r with word := s.vs.pc } := by
  obtain ⟨gone, -, -, -⟩ := State.vecGoOn_spec s u pop push np nq [] next hf
  rw [heldToken_nil] at gone
  rw [State.vs, gone.vs, ← hl]
  rfl

theorem pushes_named_ne (hp : push ≠ 0) (hn : nq ≠ 0) (hpc : s.vs.pc ≠ 0) : ((pushes s push nq).map fun r => { r with word := s.vs.pc }) ≠ pushes s push nq := by
  rw [pushes, if_neg (not_or.2 ⟨hp, hn⟩)]
  intro h
  exact hpc (congrArg Landing.word (List.head_eq_of_cons_eq h))

/-- A word behind the stream's first that pushes tokens and lands nothing of its own does not leave `pushes` in flight. -/
theorem vecIssue_not_pushes {classOk : VStream → Slot → Bool} {body : VStream → Slot → VOut} (hr : VecReady s named slot pop np)
    (hc : classOk s.vs (Slot.of (s.vs.entry slot)) = true) (hb : body s.vs (Slot.of (s.vs.entry slot)) = .ok u [] next) (hf : u.focus = s.focus)
    (hl : u.vs.land = s.vs.land) (hp : push ≠ 0) (hn : nq ≠ 0) (hpc : s.vs.pc ≠ 0) (he : vecIssue s named slot pop push np nq classOk body = .next t) :
    t.vs.land ≠ s.vs.land ++ pushes s push nq := by
  rw [vecIssue_ok s u named slot pop push np nq classOk body [] next hr.follows hr.ends hr.slotFine hc hr.tokens hb] at he
  cases he
  rw [State.land_vecGoOn_nil hf hl]
  exact fun h => pushes_named_ne hp hn hpc (List.append_cancel_left h)

end

/-! ### Words that land nothing of their own -/

section
variable {s t : State} {h : VHdr} {slot pop push : Nat}

theorem exec_vnop_not_pushes (hr : VecReady s none h.slot h.pop 1) (hp : h.push ≠ 0) (hpc : s.vs.pc ≠ 0) (he : exec (.vnop h) s = .next t) :
    t.vs.land ≠ s.vs.land ++ pushes s h.push 1 := by
  simp only [exec, execVnop, flowWordV] at he
  exact vecIssue_not_pushes hr rfl rfl rfl rfl hp one_ne_zero hpc he

theorem exec_vkac_not_pushes {a : VOp} {const : Nat} (hr : VecReady s none h.slot h.pop 1) (hp : h.push ≠ 0) (hpc : s.vs.pc ≠ 0)
    (hk : let f := (lanesOf (s.vs.mask h.guard)).foldl (fun f l => f ^^^ s.vs.lane a l) 0
      (f % 2 ^ 22) ^^^ (f / 2 ^ 22) = const) (he : exec (.vkac h a const) s = .next t) :
    t.vs.land ≠ s.vs.land ++ pushes s h.push 1 := by
  simp only [exec, execVkac, vecWord] at he
  exact vecIssue_not_pushes hr rfl (if_pos hk) rfl rfl hp one_ne_zero hpc he

/-- A VLOOP that starts a loop without rotation. -/
theorem exec_vloop_not_pushes {loop drain off : Nat} {count : VCount} {r : Nat × HwLoop × HwLoop} (hr : VecReady s none slot pop 1) (hp : push ≠ 0) (hpc : s.vs.pc ≠ 0)
    (hl : startLoop s.vs.pc loop off (s.vs.count count) drain false s.vs.l0 s.vs.l1 = some r)
    (he : exec (.vloop slot pop push loop false drain count off) s = .next t) : t.vs.land ≠ s.vs.land ++ pushes s push 1 := by
  simp only [exec, execVloop, flowWordV] at he
  refine vecIssue_not_pushes (u := s.modVs fun w => { w with l0 := r.2.1, l1 := r.2.2 }) (next := some r.1) hr rfl ?_ rfl ?_ hp one_ne_zero hpc he
  · simp only [hl]
    rfl
  · rw [State.vs_modVs]

/-- A store whose guard leaves no lane active. -/
theorem exec_vst_not_pushes {d a : VOp} {j : Job} (hr : VecReady s none h.slot h.pop 1) (hj : s.here.job = some j) (hm : s.vs.mask h.guard = 0) (hp : h.push ≠ 0)
    (hpc : s.vs.pc ≠ 0) (he : exec (.vst h d a) s = .next t) : t.vs.land ≠ s.vs.land ++ pushes s h.push 1 := by
  simp only [exec, execVst, storeWord, vecWord] at he
  refine vecIssue_not_pushes (u := s) (next := none) hr rfl ?_ rfl rfl hp one_ne_zero hpc he
  simp only [hj, hm, show lanesOf 0 = [] from rfl, List.map_nil]
  simp [State.laneChecks, State.addrChecks, State.logLanes, State.cleanCovered]

end

/-! ### Obligations O26, O28, O29 and O30 -/

/-- A job that declares no lines. -/
def plainJob : Job :=
  { seq := 0, core := 0, ctx := 1, iter := none, priv := false, det := false, slack := 0, reads := [], writes := [], group := none, shapes := [], debug := false, code := [] }

/-- A module out of reset but for core 0's running vector stream, which stands at its second word, word 1, at cycle 0. -/
def secondWord : State := State.reset.modHere fun k => { k with job := some plainJob, vs := { k.vs with st := .running, pc := 1 } }

/-- A header that pushes a token onto queue 1; its guard makes every lane active, or none. -/
def pushHdr (neg : Bool) : VHdr := { guard := { p := 0, neg := neg }, slot := 0, pop := 0, push := 1 }

theorem secondWord_ready : VecReady secondWord none 0 0 1 := ⟨rfl, rfl, rfl, .inl rfl⟩

theorem secondWord_pc : secondWord.vs.pc ≠ 0 := one_ne_zero

/-- Refutes O26: a VST whose guard leaves no lane active stands at word 1 and pushes a token; the token's landing names word 1, and `pushes` word 0. -/
theorem not_vectorMemoryWords : ¬Obligations.VectorMemoryWords := by
  unfold Obligations.VectorMemoryWords
  rintro ⟨-, hstores⟩
  have hmask : secondWord.vs.mask (pushHdr true).guard = 0 := rfl
  have hfine : LanesFine secondWord plainJob (secondWord.vs.mask (pushHdr true).guard) (secondWord.vs.addr (.scratch 0 0 0 0)) true := by
    rw [hmask]
    exact ⟨by decide, .inr (by decide), .inl rfl, fun hc => absurd hc (by decide)⟩
  obtain ⟨⟨t, ht, -, -, hland, -⟩, -⟩ := (hstores (.vst (pushHdr true) (.scratch 0 0 0 0) (.grid .row 0 0 false 0)) secondWord (pushHdr true) _ _ plainJob rfl secondWord_ready rfl rfl
    fun _ => rfl).imp_left fun h => h hfine
  exact exec_vst_not_pushes secondWord_ready rfl hmask one_ne_zero secondWord_pc ht hland

/-- Refutes O28: a VLOOP of one turn stands at word 1 and pushes a token; the token's landing names word 1, and `pushes` word 0. -/
theorem not_vectorLoopsTurn : ¬Obligations.VectorLoopsTurn := by
  unfold Obligations.VectorLoopsTurn
  rintro ⟨hloops, -⟩
  obtain ⟨hfits, -⟩ := hloops secondWord 0 0 1 0 false 0 (.imm 1) 1 (.inl rfl) secondWord_ready
  obtain ⟨t, ht, -, hland, -⟩ := hfits ⟨rfl, fun _ => rfl, fun h => absurd h zero_ne_one⟩
  exact exec_vloop_not_pushes secondWord_ready one_ne_zero secondWord_pc rfl ht hland

/-- Refutes O29: a VNOP stands at word 1 and pushes a token; the token's landing names word 1, and `pushes` word 0. -/
theorem not_vectorFlowWords : ¬Obligations.VectorFlowWords := by
  unfold Obligations.VectorFlowWords
  rintro ⟨-, -, -, hnops, -⟩
  obtain ⟨t, ht, hpasses⟩ := hnops secondWord (pushHdr false) secondWord_ready
  exact exec_vnop_not_pushes secondWord_ready one_ne_zero secondWord_pc ht hpasses.land

/-- Refutes O30: a VKAC of a grid row of zeros, whose constant 0 is their fold, stands at word 1 and pushes a token; the token's landing names word 1, and `pushes` word 0. -/
theorem not_meetingsAndSoundings : ¬Obligations.MeetingsAndSoundings := by
  unfold Obligations.MeetingsAndSoundings
  rintro ⟨-, hsoundings⟩
  have hfold : (lanesOf (secondWord.vs.mask (pushHdr false).guard)).foldl (fun f l => f ^^^ secondWord.vs.lane (.grid .row 0 0 false 0) l) 0 = 0 := by decide +kernel
  obtain ⟨hmet, -⟩ := hsoundings secondWord (pushHdr false) (.grid .row 0 0 false 0) 0 secondWord_ready
  rw [hfold] at hmet
  obtain ⟨t, ht, hpasses⟩ := hmet rfl
  exact exec_vkac_not_pushes secondWord_ready one_ne_zero secondWord_pc (by rw [hfold]; rfl) ht hpasses.land

end Sys2Proof.Machine

/-! # What a matrix word puts in flight (08 R185, R186) -/

namespace Sys2Proof.Machine
open Sys2Proof Sys2Proof.Spec

theorem State.here_modMs (s : State) (f : MStream → MStream) : (s.modMs s.focus.core f).here = { s.here with ms := f s.ms } := State.core_modCore_same ..

theorem State.ms_modMs (s : State) (f : MStream → MStream) : (s.modMs s.focus.core f).ms = f s.ms := congrArg Core.ms (s.here_modMs f)

/-- A matrix word's body leaves the state as it was but for the loops, the format row, the gathers in flight, the rendezvous and the end of its own stream. -/
structure MatBodyKeeps (s u : State) : Prop where
  focus : u.focus = s.focus
  here : u.here = { s.here with ms := u.ms }
  ms : u.ms = { s.ms with l0 := u.ms.l0, l1 := u.ms.l1, fmtRow := u.ms.fmtRow, fmtLoop := u.ms.fmtLoop, mldi := u.ms.mldi, rdv := u.ms.rdv, atRdv := u.ms.atRdv
                          stopIssued := u.ms.stopIssued }
  ctx : ∀ c n, u.ctx c n = s.ctx c n
  mem : u.mem = s.mem

theorem MatBodyKeeps.refl (s : State) : MatBodyKeeps s s := ⟨rfl, rfl, rfl, fun _ _ => rfl, rfl⟩

/-- A body that changes its own stream alone, and of it what `MatBodyKeeps` lists. -/
theorem MatBodyKeeps.modMs (s : State) {f : MStream → MStream}
    (h : f s.ms = { s.ms with l0 := (f s.ms).l0, l1 := (f s.ms).l1, fmtRow := (f s.ms).fmtRow, fmtLoop := (f s.ms).fmtLoop, mldi := (f s.ms).mldi
                              rdv := (f s.ms).rdv, atRdv := (f s.ms).atRdv, stopIssued := (f s.ms).stopIssued }) : MatBodyKeeps s (s.modMs s.focus.core f) := by
  exact ⟨rfl, by rw [s.ms_modMs]; exact s.here_modMs f, by rw [s.ms_modMs]; exact h, State.ctx_modCore s _ rfl, rfl⟩

/-- What the issue of a matrix word leaves: the word's step in flight, and its stream as the body left it and the issue takes it on. -/
structure MatWent (s u t : State) (h : MHdr) (count : Nat) (st : MatStep) (next : Option Nat) : Prop where
  goes : MatGoes s t h count st
  ms : t.ms = u.ms.goOn s.ms (s.clockNow s.focus.core) h.push count st next

section
variable {s u t : State} {h : MHdr} {count : Nat} {st : MatStep} {next : Option Nat}

theorem State.matGoOn_went (ha : s.ms.atStop = 0) (hu : MatBodyKeeps s u) : MatWent s u (s.matGoOn u h.pop h.push count st next) h count st next := by
  obtain ⟨gone, -, hctx, hmem⟩ := State.matGoOn_spec s u h.pop h.push count st next hu.focus
  generalize s.matGoOn u h.pop h.push count st next = t at gone hctx hmem ⊢
  obtain ⟨hms, htok, hacc, hmfst, hevw, -, -, hvs⟩ := gone
  rw [hu.here] at htok hacc hmfst hevw hvs hmem
  replace hms : t.ms = u.ms.goOn s.ms (s.clockNow s.focus.core) h.push count st next := hms
  refine ⟨?_, hms⟩
  have hstream := hms.trans (congrArg (fun w => MStream.goOn w s.ms (s.clockNow s.focus.core) h.push count st next) hu.ms)
  exact {
    step := by rw [hstream]; rfl
    st := by rw [hstream]; exact ⟨rfl, rfl, rfl, ha⟩
    token := htok
    acc := ⟨hacc, hmfst, hevw⟩
    vector := hvs
    kept := by rw [hstream]; exact ⟨rfl, rfl, rfl⟩
    rest := fun hoff => ⟨sameMemory_of_mem ((hmem hoff).trans hu.mem), fun c n => (hctx c n).trans (hu.ctx c n)⟩ }

/-- A word that names no successor of its own goes on behind the loops as they stood. -/
theorem MatWent.matNext (ht : MatWent s u t h count st none) (h0 : u.ms.l0 = s.ms.l0) (h1 : u.ms.l1 = s.ms.l1) : MatNext s t := by
  rw [MatNext, ht.ms, ← h0, ← h1]
  rfl

theorem MatWent.passes (ht : MatWent s u t h 1 st none) (hl : u.ms = { s.ms with rdv := u.ms.rdv, atRdv := u.ms.atRdv }) : MatPasses s t h st where
  toMatGoes := ht.goes
  next := ht.matNext (by rw [hl]) (by rw [hl])
  format := by rw [ht.ms, hl]; exact ⟨rfl, rfl⟩
  mldi := by rw [ht.ms, hl]; rfl

variable {slots : MStream → Bool} {body : MStream → MOut}

/-- A word whose guard holds and whose body goes on. -/
theorem matIssue_went (hr : MatReady s h) (hl : slots s.ms = true) (hb : body s.ms = .ok u count st next) (hu : MatBodyKeeps s u) :
    ∃ t, matIssue s h slots body = .next t ∧ MatWent s u t h count st next :=
  ⟨_, matIssue_ok s u h slots body count st next hr.follows hl hr.tokens hr.guard hb, State.matGoOn_went hr.follows hu⟩

/-- A word whose body leaves the state as it was and puts its step in flight. -/
theorem matIssue_goes (hr : MatReady s h) (hl : slots s.ms = true) (hb : body s.ms = .ok s count st none) :
    ∃ t, matIssue s h slots body = .next t ∧ MatNext s t ∧ MatGoes s t h count st :=
  have ⟨t, ht, hw⟩ := matIssue_went hr hl hb (.refl s)
  ⟨t, ht, hw.matNext rfl rfl, hw.goes⟩

/-- A word whose body waits freezes the stream. -/
theorem matIssue_freeze (hr : MatReady s h) (hl : slots s.ms = true) (hb : body s.ms = .freeze u) :
    matIssue s h slots body = .next (u.modMs s.focus.core fun m => { m with frozen := true }) := by
  simp only [matIssue, hl, popReady hr.tokens, hr.guard, hb, State.matFollow, hr.follows, if_true, Bool.false_eq_true, if_false, Bool.not_true]

theorem flowWordM_went (hr : MatReady s h) (hb : body s.ms = .ok u 1 st next) (hu : MatBodyKeeps s u) :
    ∃ t, flowWordM s h body = .next t ∧ MatWent s u t h 1 st next := matIssue_went hr rfl hb hu

theorem flowWordM_stop {cause : Nat} (hr : MatReady s h) (hb : body s.ms = .stop s cause) :
    flowWordM s h body = .next (s.matStop s.focus.core cause s.ms.cycle true) := matIssue_stop s s h _ body cause rfl hr.tokens hr.guard hb

/-- A word that only goes on. -/
theorem flowWordM_passes (hr : MatReady s h) (hb : body s.ms = .ok s 1 st none) : ∃ t, flowWordM s h body = .next t ∧ MatPasses s t h st :=
  have ⟨t, ht, hw⟩ := flowWordM_went hr hb (.refl s)
  ⟨t, ht, hw.passes rfl⟩

end

end Sys2Proof.Machine

/-! # Flow words of the matrix stream (07 R163 to R165, R171, 08 R206, R207) -/

namespace Sys2Proof.Machine
open Sys2Proof Sys2Proof.Spec

/-! ### Loops (07 R163, R164, 08 R206) -/

theorem HwLoop.running_iff {l : HwLoop} : l.running = true ↔ 0 < l.remaining := by simp [HwLoop.running, Nat.pos_iff_ne_zero]

theorem HwLoop.back_of_one_lt {l : HwLoop} (h : 1 < l.remaining) : l.back = (l.start, { l with remaining := l.remaining - 1, index := l.index + 1 }) := if_pos h

theorem HwLoop.back_of_one {l : HwLoop} (h : l.remaining = 1) : l.back = (l.stop + 1, { l with remaining := 0 }) := if_neg (by omega)

theorem HwLoop.running_back_of_one_lt {l : HwLoop} (h : 1 < l.remaining) : l.back.2.running = true := by
  rw [HwLoop.back_of_one_lt h, HwLoop.running_iff]
  show 0 < l.remaining - 1
  omega

theorem HwLoop.running_back_of_one {l : HwLoop} (h : l.remaining = 1) : l.back.2.running = false := by
  rw [HwLoop.back_of_one h]
  rfl

section
variable {pc n off count : Nat} {l0 l1 : HwLoop}

/-- A word at pc may start loop n with its end word at pc + off (07 R163). -/
def LoopFits (pc n off : Nat) (l0 l1 : HwLoop) : Prop :=
  (if n = 0 then l0 else l1).running = false ∧ (n = 0 → l1.running = false) ∧ (n = 1 → l0.running = true → pc + off ≤ l0.stop)

theorem loopFits_iff : LoopFits pc n off l0 l1 ↔
    ((if n = 0 then l0 else l1).running || (decide (n = 0) && l1.running) || (decide (n = 1) && l0.running && decide (l0.stop < pc + off))) = false := by
  unfold LoopFits
  rw [Bool.or_eq_false_iff, Bool.or_eq_false_iff, and_assoc]
  refine and_congr_right fun _ => and_congr ?_ ?_ <;> simp [Bool.and_eq_false_imp]

/-- A loop that starts where 07 R163 allows it; a matrix loop has no rotation and no drain. -/
theorem startLoop_fits (hfits : LoopFits pc n off l0 l1) :
    let made : HwLoop := { start := pc + 1, stop := pc + off, remaining := count, drain := 0, rot := false, index := 0 }
    startLoop pc n off count 0 false l0 l1 = some (if count = 0 then pc + off + 1 else pc + 1, if n = 0 then made else l0, if n = 0 then l1 else made) := by
  have hcount : (if count = 0 then 0 else count + 0) = count := by split <;> omega
  unfold startLoop
  dsimp only
  rw [if_neg (ne_true_of_eq_false (loopFits_iff.1 hfits)), hcount]
  split <;> rfl

theorem startLoop_refused (hfits : ¬LoopFits pc n off l0 l1) : startLoop pc n off count 0 false l0 l1 = none := by
  unfold startLoop
  exact if_pos (eq_true_of_ne_false (mt loopFits_iff.2 hfits))

variable {loop : Nat}

/-- Where L1 ends at the word and backs up, an MLBR of L0 does no more. -/
theorem backUp_inner (h0 : loop = 0) (hr : l1.running = true) (hs : l1.stop = pc) (h : 1 < l1.remaining) : backUp loop pc l0 l1 = (l1.back.1, l0, l1.back.2, false) := by
  subst h0
  simp [backUp, hr, hs, HwLoop.running_back_of_one_lt h]

/-- Elsewhere the named loop is the one that backs up, of L0 behind an L1 that ends at the word. -/
theorem backUp_outer (h : loop = 0 ∧ l1.running = true ∧ l1.stop = pc → l1.remaining = 1) (h0 : loop = 0) :
    ∃ l1', backUp loop pc l0 l1 = (l0.back.1, l0.back.2, l1', true) := by
  subst h0
  unfold backUp
  by_cases hin : l1.running = true ∧ l1.stop = pc
  · refine ⟨l1.back.2, ?_⟩
    rw [if_neg zero_ne_one, if_pos (by simpa using hin)]
    exact if_neg (ne_true_of_eq_false (HwLoop.running_back_of_one (h ⟨rfl, hin⟩)))
  · refine ⟨l1, ?_⟩
    rw [if_neg zero_ne_one, if_neg (by simpa using hin)]

theorem backUp_one_lt (h1 : loop = 1) (h : 1 < l1.remaining) : backUp loop pc l0 l1 = (l1.back.1, l0, l1.back.2, true) := by
  subst h1
  simp [backUp, HwLoop.running_back_of_one_lt h]

theorem backUp_one_loop (h1 : loop = 1) : (backUp loop pc l0 l1).2.2.1 = l1.back.2 := by
  subst h1
  unfold backUp
  dsimp only
  rw [if_pos rfl]
  split <;> rfl

end

section
variable {s : State} {h : MHdr} {loop : Nat} (hr : MatReady s h)
include hr

theorem exec_mloop_fits {count off next : Nat} {l0 l1 : HwLoop} (hs : startLoop s.ms.pc loop off count 0 false s.ms.l0 s.ms.l1 = some (next, l0, l1)) :
    ∃ t, exec (.mloop h loop count off) s = .next t ∧ MatGoes s t h 1 emptyStep ∧ t.ms.pc = next ∧ t.ms.l0 = l0 ∧ t.ms.l1 = l1 := by
  obtain ⟨t, ht, hw⟩ : ∃ t, execMloop h loop count off s = .next t ∧ MatWent s (s.modMs s.focus.core fun m => { m with l0 := l0, l1 := l1 }) t h 1 emptyStep (some next) := by
    unfold execMloop
    exact flowWordM_went hr (by rw [hs]) (.modMs s rfl)
  refine ⟨t, ht, hw.goes, ?_⟩
  rw [hw.ms, State.ms_modMs]
  exact ⟨rfl, rfl, rfl⟩

theorem exec_mloop_refused {count off : Nat} (hs : startLoop s.ms.pc loop off count 0 false s.ms.l0 s.ms.l1 = none) :
    exec (.mloop h loop count off) s = .next (s.matStop s.focus.core 0x01 s.ms.cycle true) := by
  show execMloop h loop count off s = _
  exact flowWordM_stop hr (by rw [hs])

/-- An MLBR of a running loop goes where `backUp` says. -/
theorem exec_mlbr_running (hl : (if loop = 0 then s.ms.l0 else s.ms.l1).running = true) {r : Nat × HwLoop × HwLoop × Bool} (hb : backUp loop s.ms.pc s.ms.l0 s.ms.l1 = r) :
    ∃ t, exec (.mlbr h loop) s = .next t ∧ MatGoes s t h 1 emptyStep ∧ t.ms.pc = r.1 ∧ t.ms.l0 = r.2.1 ∧ t.ms.l1 = r.2.2.1 := by
  obtain ⟨t, ht, hw⟩ : ∃ t, execMlbr h loop s = .next t ∧ MatWent s (s.modMs s.focus.core fun m => { m with l0 := r.2.1, l1 := r.2.2.1 }) t h 1 emptyStep (some r.1) := by
    unfold execMlbr
    exact flowWordM_went hr (by simp only [hl, Bool.not_true, Bool.false_eq_true, if_false, hb]) (.modMs s rfl)
  refine ⟨t, ht, hw.goes, ?_⟩
  rw [hw.ms, State.ms_modMs]
  exact ⟨rfl, rfl, rfl⟩

theorem exec_mlbr_ended (hl : (if loop = 0 then s.ms.l0 else s.ms.l1).running = false) :
    exec (.mlbr h loop) s = .next (s.matStop s.focus.core 0x01 s.ms.cycle true) := by
  show execMlbr h loop s = _
  exact flowWordM_stop hr (by simp only [hl, Bool.not_false, if_true])

/-! ### Branches (07 R165, 08 R206) -/

/-- A flow word whose body takes a branch. -/
theorem flowWordM_branches {body : MStream → MOut} {off : Nat} (hb : body s.ms = branchM s s.ms off) :
    ∃ t, flowWordM s h body = .next t ∧ MatBranches s t h off := by
  obtain ⟨t, ht, hw⟩ := flowWordM_went (u := s.modMs s.focus.core fun w => { w with l0 := w.l0.leave (s.ms.pc + sextNat 16 off), l1 := w.l1.leave (s.ms.pc + sextNat 16 off) })
    (st := emptyStep) (next := some (wordIndex (s.ms.pc + sextNat 16 off))) hr hb (.modMs s rfl)
  have hms := hw.ms
  rw [State.ms_modMs] at hms
  exact ⟨t, ht, { toMatGoes := hw.goes, pc := by rw [hms]; rfl, loops := by rw [hms]; exact ⟨rfl, rfl⟩ }⟩

theorem exec_mbr_taken {p off : Nat} {neg : Bool} (hp : xor (s.ms.pred p) neg = true) : ∃ t, exec (.mbr h p neg off) s = .next t ∧ MatBranches s t h off := by
  show ∃ t, execMbr h p neg off s = .next t ∧ _
  unfold execMbr
  exact flowWordM_branches hr (if_pos hp)

theorem exec_mbr_untaken {p off : Nat} {neg : Bool} (hp : xor (s.ms.pred p) neg = false) : ∃ t, exec (.mbr h p neg off) s = .next t ∧ MatPasses s t h emptyStep := by
  show ∃ t, execMbr h p neg off s = .next t ∧ _
  unfold execMbr
  exact flowWordM_passes hr (if_neg (ne_true_of_eq_false hp))

theorem exec_mj {off : Nat} : ∃ t, exec (.mj h off) s = .next t ∧ MatBranches s t h off := by
  show ∃ t, execMj h off s = .next t ∧ _
  unfold execMj
  exact flowWordM_branches hr rfl

/-! ### Tokens and events (08 R207) -/

theorem exec_mtok : ∃ t, exec (.mtok h) s = .next t ∧ MatPasses s t h emptyStep := by
  show ∃ t, execMtok h s = .next t ∧ _
  unfold execMtok
  exact flowWordM_passes hr rfl

theorem exec_msig {mask : Nat} : ∃ t, exec (.msig h mask) s = .next t ∧ MatPasses s t h { emptyStep with event := mask } := by
  show ∃ t, execMsig h mask s = .next t ∧ _
  unfold execMsig
  exact flowWordM_passes hr rfl

end

/-! ### Rendezvous (07 R171) -/

/-- The count of the rendezvous at which an MRDV of the stream stands. -/
def MStream.rdvAt (m : MStream) : Nat := if m.atRdv then m.rdv else m.rdv + 1

/-- The state behind an MRDV that meets a vector stream, before its issue. -/
def State.met (s : State) (n : Nat) : State := (s.modCore s.focus.core Core.meetAtMat).modMs s.focus.core fun m => { m with rdv := n, atRdv := false }

theorem State.here_met (s : State) (n : Nat) : (s.met n).here = { s.here with vs := s.here.meetAtMat.vs, ms := { s.ms with rdv := n, atRdv := false } } := by
  have hmeet : s.here.meetAtMat = { s.here with vs := s.here.meetAtMat.vs } := by
    unfold Core.meetAtMat
    split <;> rfl
  have hhere : (s.modCore s.focus.core Core.meetAtMat).here = s.here.meetAtMat := State.core_modCore_same ..
  refine ((s.modCore s.focus.core Core.meetAtMat).here_modMs fun m => { m with rdv := n, atRdv := false }).trans ?_
  rw [State.ms, hhere, hmeet]
  rfl

section
variable {s : State} {h : MHdr} (hr : MatReady s h)
include hr

theorem exec_mrdv_meets (hn : s.ms.rdvAt ≤ s.vs.rdv) : exec (.mrdv h) s = .next (s.matGoOn (s.met s.ms.rdvAt) h.pop h.push 1 emptyStep none) := by
  show execMrdv h s = _
  unfold execMrdv
  exact matIssue_ok s _ h _ _ 1 emptyStep none hr.follows rfl hr.tokens hr.guard (if_pos hn)

/-- The vector stream has met as many rendezvous and waits at none. -/
theorem exec_mrdv_met (hn : s.ms.rdvAt ≤ s.vs.rdv) (hw : s.vs.atRdv = false) : ∃ t, exec (.mrdv h) s = .next t ∧ MatPasses s t h emptyStep ∧ t.ms.rdv = s.ms.rdvAt := by
  have hvs : s.here.meetAtMat.vs = s.here.vs := congrArg Core.vs (if_neg (ne_true_of_eq_false hw))
  have hhere := s.here_met s.ms.rdvAt
  have hms : (s.met s.ms.rdvAt).ms = { s.ms with rdv := s.ms.rdvAt, atRdv := false } := congrArg Core.ms hhere
  have hctx (c n : Nat) : (s.met s.ms.rdvAt).ctx c n = s.ctx c n := by
    refine (State.ctx_modCore _ _ (by rfl) c n).trans (State.ctx_modCore s _ ?_ c n)
    unfold Core.meetAtMat
    split <;> rfl
  have went : MatWent s (s.met s.ms.rdvAt) (s.matGoOn (s.met s.ms.rdvAt) h.pop h.push 1 emptyStep none) h 1 emptyStep none :=
    State.matGoOn_went hr.follows ⟨rfl, by rw [hms, hhere, hvs], by rw [hms], hctx, rfl⟩
  exact ⟨_, exec_mrdv_meets hr hn, went.passes (by rw [hms]), by rw [went.ms, hms]; rfl⟩

/-- A vector stream that waits at the rendezvous counts again. -/
theorem exec_mrdv_releases (hn : s.ms.rdvAt ≤ s.vs.rdv) (hw : s.vs.atRdv = true) : ∃ t, exec (.mrdv h) s = .next t ∧ MatNext s t ∧
    t.ms.step = some { emptyStep with due := s.ms.cycle, push := h.push, word := s.ms.pc } ∧ t.ms.rdv = s.ms.rdvAt ∧
      t.vs.frozen = false ∧ t.vs.cycle = s.vs.cycle ∧ t.vs.land = s.vs.land ∧ t.vs.grid = s.vs.grid := by
  obtain ⟨gone, -⟩ := State.matGoOn_spec s (s.met s.ms.rdvAt) h.pop h.push 1 emptyStep none rfl
  have hmeet : s.here.meetAtMat = _ := if_pos hw
  have hms := gone.ms
  have hvs := gone.vs
  rw [s.here_met s.ms.rdvAt] at hms hvs
  rw [hmeet] at hvs
  refine ⟨_, exec_mrdv_meets hr hn, ?_, ?_⟩
  · exact congrArg (fun m : MStream => (m.pc, m.l0, m.l1)) hms
  · rw [State.ms, State.vs, hms, hvs]
    exact ⟨rfl, rfl, rfl, rfl, rfl, rfl⟩

/-- The stream waits for a vector stream that can still come. -/
theorem exec_mrdv_waits (hn : s.vs.rdv < s.ms.rdvAt) (hm : s.here.vectorMeets = true) :
    exec (.mrdv h) s = .next (s.modMs s.focus.core fun m => { m with rdv := s.ms.rdvAt, atRdv := true, frozen := true }) := by
  show execMrdv h s = _
  unfold execMrdv
  refine (matIssue_freeze hr rfl ((if_neg (not_le.2 hn)).trans (if_pos hm))).trans ?_
  simp only [State.modMs, State.modCore, State.core_setCore_same, State.setCore_setCore]
  rfl

/-- The vector stream has ended: the rendezvous is over at once. -/
theorem exec_mrdv_alone (hn : s.vs.rdv < s.ms.rdvAt) (hm : s.here.vectorMeets = false) : ∃ t, exec (.mrdv h) s = .next t ∧ MatPasses s t h emptyStep := by
  obtain ⟨t, ht, hw⟩ : ∃ t, execMrdv h s = .next t ∧
      MatWent s (s.modMs s.focus.core fun m => { m with rdv := s.ms.rdvAt - 1, atRdv := false }) t h 1 emptyStep none := by
    unfold execMrdv
    exact flowWordM_went hr ((if_neg (not_le.2 hn)).trans (if_neg (ne_true_of_eq_false hm))) (.modMs s rfl)
  exact ⟨t, ht, hw.passes (by rw [State.ms_modMs])⟩

/-! ### The stop and the format (08 R206, R207) -/

theorem exec_mstop : ∃ t, exec (.mstop h) s = .next t ∧ MatGoes s t h 1 emptyStep ∧ t.ms.stopIssued = true ∧ t.ms.pc = s.ms.pc := by
  obtain ⟨t, ht, hw⟩ : ∃ t, execMstop h s = .next t ∧ MatWent s (s.modMs s.focus.core fun m => { m with stopIssued := true }) t h 1 emptyStep (some s.ms.pc) := by
    unfold execMstop
    exact flowWordM_went hr rfl (.modMs s rfl)
  refine ⟨t, ht, hw.goes, ?_⟩
  rw [hw.ms, State.ms_modMs]
  exact ⟨rfl, rfl⟩

theorem exec_mfmt {sel : LoopSel} {base : Nat} :
    ∃ t, exec (.mfmt h sel base) s = .next t ∧ MatGoes s t h 1 emptyStep ∧ MatNext s t ∧ t.ms.fmtRow = base ∧ t.ms.fmtLoop = sel := by
  obtain ⟨t, ht, hw⟩ : ∃ t, execMfmt h sel base s = .next t ∧ MatWent s (s.modMs s.focus.core fun m => { m with fmtRow := base, fmtLoop := sel }) t h 1 emptyStep none := by
    unfold execMfmt
    exact flowWordM_went hr rfl (.modMs s rfl)
  refine ⟨t, ht, hw.goes, hw.matNext (by rw [State.ms_modMs]) (by rw [State.ms_modMs]), ?_⟩
  rw [hw.ms, State.ms_modMs]
  exact ⟨rfl, rfl⟩

end

/-! ### Obligation O33 -/

/-- MLBR of a running loop (08 R206): L1 is settled first where it ends at the word; else the named loop backs up, or ends. -/
theorem exec_mlbr_backs {s : State} {h : MHdr} {loop : Nat} (hr : MatReady s h) (hn : loop = 0 ∨ loop = 1) :
    let l := if loop = 0 then s.ms.l0 else s.ms.l1
    l.running = true → (loop = 0 ∧ s.ms.l1.running = true ∧ s.ms.l1.stop = s.ms.pc → s.ms.l1.remaining = 1) →
    ∃ t, exec (.mlbr h loop) s = .next t ∧ MatGoes s t h 1 emptyStep ∧ (if loop = 0 then t.ms.l0 else t.ms.l1) = l.back.2 ∧
      ((loop = 0 ∨ 1 < l.remaining) → t.ms.pc = l.back.1) := by
  intro l hl hin
  rcases hn with rfl | rfl
  · obtain ⟨l1', hb⟩ := backUp_outer hin rfl
    obtain ⟨t, ht, hg, hpc, h0, -⟩ := exec_mlbr_running hr hl hb
    exact ⟨t, ht, hg, h0, fun _ => hpc⟩
  · obtain ⟨t, ht, hg, hpc, -, h1⟩ := exec_mlbr_running hr hl rfl
    refine ⟨t, ht, hg, h1.trans (backUp_one_loop rfl), fun hlt => hpc.trans ?_⟩
    exact congrArg Prod.fst (backUp_one_lt rfl (hlt.resolve_left one_ne_zero))

/-- Settles O33: each flow word's body answers what the clause says, and `MatWent` carries it over the issue. -/
theorem matrixFlowWords : Obligations.MatrixFlowWords := by
  unfold Obligations.MatrixFlowWords
  refine ⟨fun s h loop count off _ hr => ⟨fun hf => exec_mloop_fits hr (startLoop_fits hf), fun hf => exec_mloop_refused hr (startLoop_refused hf)⟩,
    fun s h loop hn hr => ⟨fun hl hin hlt => ?_, fun hlt hin => ?_, fun hone hin => ?_, fun hl => exec_mlbr_ended hr hl⟩,
    fun s h p neg off hr => ⟨exec_mbr_taken hr, exec_mbr_untaken hr⟩, fun s h off hr => exec_mj hr, fun s h hr => exec_mtok hr,
    fun s h hr => ⟨exec_mrdv_met hr, exec_mrdv_releases hr, exec_mrdv_waits hr, exec_mrdv_alone hr⟩,
    fun s h hr => exec_mstop hr, fun s h loop base hr => exec_mfmt hr, fun s h mask hr => exec_msig hr⟩
  · obtain ⟨h0, hr1, hs1⟩ := hin
    obtain ⟨t, ht, hg, hpc, hl0, hl1⟩ := exec_mlbr_running hr hl (backUp_inner h0 hr1 hs1 hlt)
    rw [HwLoop.back_of_one_lt hlt] at hpc hl1
    exact ⟨t, ht, hg, hpc, hl0, hl1⟩
  · obtain ⟨t, ht, hg, hnamed, hpc⟩ := exec_mlbr_backs hr hn (HwLoop.running_iff.2 (by omega)) hin
    rw [HwLoop.back_of_one_lt hlt] at hnamed hpc
    exact ⟨t, ht, hg, hpc (.inr hlt), hnamed⟩
  · obtain ⟨t, ht, hg, hnamed, hpc⟩ := exec_mlbr_backs hr hn (HwLoop.running_iff.2 (by omega)) hin
    rw [HwLoop.back_of_one hone] at hnamed hpc
    exact ⟨t, ht, hg, hnamed, fun h0 => hpc (.inl h0)⟩

end Sys2Proof.Machine

/-! # Operands of a tile step (08 R193 to R202) -/

namespace Sys2Proof.Machine
open Sys2Proof Sys2Proof.Spec

/-! ### Operands that can be read (08 R194, R210) -/

theorem Slot.of_fmt (e : Nat) : (Slot.of e).fmt = e % 16 := by simp [Slot.of, bitsOf]

section
variable {s : State} {v : MatEnv} {h : Shape}

theorem readables_tail {u : Elt} {us : List Elt} (hu : Readables s v h (u :: us)) : Readables s v h us := fun w hw => hu w (List.mem_cons_of_mem _ hw)

theorem readables_not_outside {us : List Elt} (hu : Readables s v h us) : ∀ u ∈ us, u ≠ .outside := by
  intro u hm he
  rcases hu u hm with hp | ⟨e, c, hc, -⟩
  · exact nomatch he.symm.trans hp
  · exact nomatch he.symm.trans hc

theorem any_outside_eq_false {us : List Elt} (hu : ∀ u ∈ us, u ≠ .outside) : (us.any fun e => decide (e = .outside)) = false := by
  simpa [List.any_eq_false] using hu

/-- Operands that can be read give their codes, in order, and no flag and no poison. -/
theorem State.readElems_readables {sl : Slot} {pad : Nat} {us : List Elt} (hu : Readables s v h us) (a : Elems) :
    s.readElems v h sl pad us a = .ok { a with codes := a.codes.reverse ++ us.map (codeAt s v h pad) } := by
  induction us generalizing a with
  | nil => rw [State.readElems, List.map_nil, List.append_nil]
  | cons u us ih =>
    rcases hu u List.mem_cons_self with rfl | ⟨e, c, rfl, hc⟩
    · rw [State.readElems, ih (readables_tail hu)]
      simp [codeAt]
    · rw [State.readElems, hc]
      dsimp only
      rw [ih (readables_tail hu)]
      simp [codeAt, hc]

/-- Indices that can be read give their codes, no poison, and whether one of them comes from elsewhere than the core's slice (08 R200). -/
theorem State.readIndices_readables {pad : Nat} {us : List Elt} (hu : Readables s v h us) (a : Indices) :
    ∃ addrs, s.readIndices v h pad us a =
      .ok { a with values := a.values.reverse ++ us.map (fun u => BitVec.ofNat 32 (codeAt s v h pad u)), addrs := addrs, remote := a.remote || us.any (remoteAt s v h) } := by
  induction us generalizing a with
  | nil => exact ⟨_, by rw [State.readIndices, List.map_nil, List.append_nil, List.any_nil, Bool.or_false]⟩
  | cons u us ih =>
    rcases hu u List.mem_cons_self with rfl | ⟨e, c, rfl, hc⟩
    · rw [State.readIndices]
      obtain ⟨addrs, hi⟩ := ih (readables_tail hu) { a with values := BitVec.ofNat 32 pad :: a.values, addrs := paddedLoc :: a.addrs }
      exact ⟨addrs, hi.trans (by simp [codeAt, remoteAt])⟩
    · rw [State.readIndices]
      rw [hc]
      dsimp only
      obtain ⟨addrs, hi⟩ := ih (readables_tail hu) { a with
        values := BitVec.ofNat 32 c :: a.values, addrs := _ :: a.addrs, remote := a.remote || remoteAt s v h (.elem e) }
      exact ⟨addrs, hi.trans (by simp [codeAt, hc, Bool.or_assoc])⟩

end

/-! ### Rows of A (08 R198) -/

theorem mem_of_mem_rowsOf {α : Type} {n k : Nat} {l r : List α} (hr : r ∈ rowsOf n k l) : ∀ c ∈ r, c ∈ l := by
  induction k generalizing l with
  | zero => cases hr
  | succ k ih =>
    rcases List.mem_cons.1 hr with rfl | hr
    · exact fun c hc => List.mem_of_mem_take hc
    · exact fun c hc => List.mem_of_mem_drop (ih hr c hc)

/-- Metadata whose entries name two places in order expand a row. -/
theorem sparseRow_isSome (nil : Nat) (vs es : List Nat) (hes : ∀ c ∈ es, c % 4 < c / 4 % 4) : (sparseRow nil vs es).isSome = true := by
  fun_induction sparseRow nil vs es with
  | case1 a b vs e es p q hqp => exact absurd hqp (not_le.2 (hes e List.mem_cons_self))
  | case2 a b vs e es p q hqp ih => rw [Option.isSome_map]; exact ih fun c hc => hes c (List.mem_cons_of_mem _ hc)
  | case3 => rfl

theorem denseRows_whole {kind : StepKind} {nil depth : Nat} {t : MTile} {a es : List Nat} (hes : ∀ c ∈ es, c % 4 < c / 4 % 4) :
    (denseRows kind nil depth t a es).any Option.isNone = false := by
  have hdense : ((rowsOf depth t.m a).map some).any Option.isNone = false := by simp
  unfold denseRows
  split
  · rw [List.any_eq_false]
    intro r hr
    obtain ⟨⟨vs, ms⟩, hp, rfl⟩ := List.mem_map.1 hr
    have hsome := sparseRow_isSome nil vs ms fun c hc => hes c (mem_of_mem_rowsOf (List.of_mem_zip hp).2 c hc)
    simpa [Option.isNone_iff_eq_none, Option.isSome_iff_ne_none] using hsome
  · exact hdense

/-! ### The step (08 R187, R193 to R202) -/

/-- The model's count is the rule's. -/
theorem stepCount_eq_r187 (kind : StepKind) (h w : Nat) (g : Gen) (t : MTile) : stepCount kind h w g t = r187 kind h w g.kh g.kw t := by
  cases kind <;> rfl

/-- A step that takes effect, or meets poison, does so in n cycles. -/
def StepOut.Counts (n : Nat) : StepOut → Prop
  | .step count _ _ _ _ => count = n
  | .poison count _ => count = n
  | .halt _ => True

theorem StepOut.Counts.ite {n : Nat} {p : Prop} [Decidable p] {a b : StepOut} (ha : a.Counts n) (hb : b.Counts n) : (if p then a else b).Counts n := by
  split
  · exact ha
  · exact hb

section
variable {s : State} {v : MatEnv} {x : StepIn} {cls : PairClass} {hh ww : Nat}

theorem State.tileStepOut_counts (hp : pairClass (Slot.of x.ea).fmt (Slot.of x.eb).fmt = some (cls, hh, ww)) :
    (s.tileStepOut v x).Counts (stepCount x.kind hh ww (genOf v.snap x.t.genA) x.t) := by
  unfold State.tileStepOut
  dsimp only
  rw [hp]
  refine .ite trivial (.ite trivial (.ite trivial (.ite trivial ?_)))
  rcases v.origin x.t.genA _ _ with _ | pa
  · trivial
  rcases v.origin x.t.genB _ _ with _ | pb
  · trivial
  rcases (if decide (x.kind = .sparse) then v.origin _ _ false else some (Coord.e0 0) : Option Coord) with _ | pm
  · trivial
  refine .ite trivial (.ite trivial (.ite trivial (.ite rfl ?_)))
  rcases s.readElems v _ (Slot.of x.ea) _ _ _ with e | a
  · trivial
  rcases s.readElems v _ (Slot.of x.eb) _ _ _ with e | b
  · trivial
  rcases s.readElems v _ (Slot.of 6) _ _ _ with e | m
  · trivial
  exact .ite rfl (.ite rfl rfl)

/-- A step that takes effect has the count of its class. -/
theorem State.tileStepOut_count {count slotC flags : Nat} {writes : StepWrites} {stop : Option Nat} (ho : s.tileStepOut v x = .step count writes slotC flags stop) :
    ∃ cls hh ww, pairClass (Slot.of x.ea).fmt (Slot.of x.eb).fmt = some (cls, hh, ww) ∧ count = stepCount x.kind hh ww (genOf v.snap x.t.genA) x.t := by
  cases hp : pairClass (Slot.of x.ea).fmt (Slot.of x.eb).fmt with
  | none =>
    unfold State.tileStepOut at ho
    dsimp only at ho
    rw [hp] at ho
    cases ho
  | some c =>
    have hc := State.tileStepOut_counts (s := s) (v := v) hp
    rw [ho] at hc
    exact ⟨_, _, _, rfl, hc⟩

/-- The places of the metadata, as the step lists them. -/
theorem placesM_eq_map (p : Coord) : placesM v x p =
    (if decide (x.kind = .sparse) then (List.range x.t.m).flatMap fun (m : Nat) => (List.range (x.t.k / 4)).map fun (q : Nat) =>
        (p.add (Coord.smul q (genOf v.snap ((x.t.genA + 1) % 8)).vc)).add (Coord.smul m (genOf v.snap ((x.t.genA + 1) % 8)).vr) else []).map
      (locate (v.shape (genOf v.snap ((x.t.genA + 1) % 8)).tensor) (genOf v.snap ((x.t.genA + 1) % 8)).padon) := by
  by_cases hk : x.kind = .sparse
  · rw [placesM, if_pos hk, if_pos (decide_eq_true hk)]
  · rw [placesM, if_neg hk, if_neg (by simpa using hk)]
    rfl

variable {pa pb pm : Coord}

/-- A step that executes normally. -/
theorem State.tileStepOut_fine (hf : TileFine s v x cls hh ww pa pb pm) : ∃ slotC flags,
    s.tileStepOut v x = .step (stepCount x.kind hh ww (genOf v.snap x.t.genA) x.t)
      (if absorbs s v x pa pb then (if x.acc then .nothing else .zeros (tileElems v x)) else tileSums s v x cls pa pb pm) slotC flags none := by
  obtain ⟨hpair, ⟨hlow, hhigh⟩, hdepth, hlatch, hwindow, ⟨hpa, hpb, hpm⟩, ⟨hta, htb, htm⟩, ⟨hfa, hfb, hfm⟩, hra, hrb, hrm, hmeta⟩ := hf
  obtain ⟨pm', horigin, hplaces⟩ : ∃ pm', (if decide (x.kind = .sparse) then v.origin ((x.t.genA + 1) % 8) x.t.m false else some (Coord.e0 0)) = some pm' ∧
      placesM v x pm' = placesM v x pm := by
    by_cases hk : x.kind = .sparse
    · exact ⟨pm, by rw [decide_eq_true hk]; exact hpm hk, rfl⟩
    · exact ⟨Coord.e0 0, by rw [decide_eq_false hk]; rfl, by rw [placesM, placesM, if_neg hk, if_neg hk]⟩
  have hinside : ((placesA v x pa ++ placesB v x pb ++ placesM v x pm).any fun e => decide (e = .outside)) = false := by
    rw [List.any_append, List.any_append, any_outside_eq_false (readables_not_outside hra), any_outside_eq_false (readables_not_outside hrb),
      any_outside_eq_false (readables_not_outside hrm)]
    rfl
  have hreadA := State.readElems_readables (sl := Slot.of x.ea) (pad := padCode (Slot.of x.ea) (genOf v.snap x.t.genA).pad) hra Elems.none
  have hreadB := State.readElems_readables (sl := Slot.of x.eb) (pad := padCode (Slot.of x.eb) (genOf v.snap x.t.genB).pad) hrb Elems.none
  have hreadM := State.readElems_readables (sl := Slot.of 6) (pad := padCode (Slot.of 6) (genOf v.snap ((x.t.genA + 1) % 8)).pad) hrm Elems.none
  dsimp only [placesA, placesB] at hinside hreadA hreadB
  unfold State.tileStepOut
  dsimp only
  rw [hpair]
  dsimp only
  rw [if_neg (by omega), if_neg (by simpa using fun hk => (hdepth hk).1), if_neg fun hk => not_lt.2 (hlatch hk.1) hk.2,
    if_neg (by simpa [hwindow] using fun hk => (hdepth hk).2), hpa, hpb, horigin]
  dsimp only
  rw [← placesM_eq_map, hplaces, if_neg (by simpa [hta, htb] using htm), if_neg (ne_true_of_eq_false hinside), if_neg (by simpa [hfa, hfb] using hfm)]
  by_cases hab : absorbs s v x pa pb = true
  · exact ⟨x.ec, 0, (if_pos hab).trans (by rw [if_pos hab]; rfl)⟩
  · rw [hreadA, hreadB, hreadM, if_neg hab]
    exact ⟨_, _, (if_neg hab).trans ((if_neg Bool.false_ne_true).trans (if_neg (ne_true_of_eq_false (denseRows_whole hmeta))))⟩

end

end Sys2Proof.Machine

/-! # Tile words, MZERO, MLDI and MKAT (08 R185 to R187, R196 to R204) -/

namespace Sys2Proof.Machine
open Sys2Proof Sys2Proof.Spec

/-! ### Tile words (08 R196 to R202) -/

theorem exec_tileOf {i : Instr} {kind : StepKind} {h : MHdr} {t : MTile} (hi : tileOf i = some (kind, h, t)) (s : State) : exec i s = tileWordRun s h kind t := by
  cases i
  all_goals cases hi
  all_goals rfl

theorem State.matEnv_snap (s : State) (m : MStream) : (s.matEnv m).snap = m.snapshot := by
  unfold State.matEnv
  dsimp only
  split <;> rfl

theorem State.matEnv_idx (s : State) (m : MStream) : (s.matEnv m).idx = [m.l0.index, m.l1.index] := by
  unfold State.matEnv
  dsimp only
  split <;> rfl

section
variable {s : State} {h : MHdr} {kind : StepKind} {t : MTile} (ha : s.ms.atStop = 0)
  (hfits : slotsOk (s.ms.entry t.slotA) (s.ms.entry t.slotB) (s.ms.entry t.slotC) = true)

theorem tileWordRun_wrongSlots (hbad : slotsOk (s.ms.entry t.slotA) (s.ms.entry t.slotB) (s.ms.entry t.slotC) = false) :
    tileWordRun s h kind t = .next (s.matStop s.focus.core 0x07 s.ms.cycle true) := matIssue_wrongSlots s h _ _ hbad

include ha hfits in
theorem tileWordRun_guarded (ht : h.pop = 0 ∨ 0 < s.here.token h.pop) (hg : s.ms.pred h.guard = false) :
    ∃ u, tileWordRun s h kind t = .next u ∧ MatNext s u ∧ MatGoes s u h 1 emptyStep := by
  have went : MatWent s s (s.matGoOn s h.pop h.push 1 emptyStep none) h 1 emptyStep none := State.matGoOn_went ha (.refl s)
  exact ⟨_, matIssue_guarded s h _ _ ha hfits ht hg, went.matNext rfl rfl, went.goes⟩

variable (hr : MatReady s h)
include hr hfits

theorem tileWordRun_step {count slotC flags : Nat} {writes : StepWrites} {stop : Option Nat}
    (ho : s.tileStepOut (s.matEnv s.ms) (stepIn kind t s.ms) = .step count writes slotC flags stop) :
    ∃ u, tileWordRun s h kind t = .next u ∧ MatNext s u ∧
      MatGoes s u h count { emptyStep with tile := t.tile, writes := writes, slotC := BitVec.ofNat 32 slotC, flags := flags, stop := stop } := by
  unfold tileWordRun
  refine matIssue_goes hr hfits ?_
  dsimp only [stepIn] at ho
  rw [ho]

theorem tileWordRun_poison {count : Nat} {lines : List Nat} (ho : s.tileStepOut (s.matEnv s.ms) (stepIn kind t s.ms) = .poison count lines) :
    ∃ u, tileWordRun s h kind t = .next u ∧ MatNext s u ∧ MatGoes s u h count { emptyStep with tile := t.tile, stop := some 0x06, bad := lines } := by
  unfold tileWordRun
  refine matIssue_goes hr hfits ?_
  dsimp only [stepIn] at ho
  rw [ho]

theorem tileWordRun_stop {c : Nat} (ho : s.tileStepOut (s.matEnv s.ms) (stepIn kind t s.ms) = .halt (.stop c)) :
    tileWordRun s h kind t = .next (s.matStop s.focus.core c s.ms.cycle true) := by
  unfold tileWordRun
  refine matIssue_stop s s h _ _ c hfits hr.tokens hr.guard ?_
  dsimp only [stepIn] at ho
  rw [ho]

end

/-! ### MZERO (08 R203) -/

section
variable {s : State} {h : MHdr} {slotC m n tile offset : Nat} (hr : MatReady s h) (hz : zeroSlotOk (s.ms.entry slotC) = true)
include hr hz

theorem exec_mzero_inside (h0 : 0 ≤ effOffset s.ms.snapshot offset [s.ms.l0.index, s.ms.l1.index])
    (h1 : effOffset s.ms.snapshot offset [s.ms.l0.index, s.ms.l1.index] + (m * n : Nat) ≤ 131072) :
    ∃ t, exec (.mzero h slotC m n tile offset) s = .next t ∧ MatNext s t ∧ MatGoes s t h ((m * n + 4095) / 4096)
      { emptyStep with tile := tile
                       writes := .zeros ((List.range (m * n)).map fun i => (effOffset s.ms.snapshot offset [s.ms.l0.index, s.ms.l1.index]).toNat + i) } := by
  have hes : zeroElems s.ms.snapshot [s.ms.l0.index, s.ms.l1.index] offset (m * n) = some _ := if_neg (by omega)
  show ∃ t, execMzero h slotC m n tile offset s = .next t ∧ _
  unfold execMzero
  refine matIssue_goes hr hz ?_
  rw [hes]

theorem exec_mzero_outside (ho : effOffset s.ms.snapshot offset [s.ms.l0.index, s.ms.l1.index] < 0 ∨
      131072 < effOffset s.ms.snapshot offset [s.ms.l0.index, s.ms.l1.index] + (m * n : Nat)) :
    exec (.mzero h slotC m n tile offset) s = .next (s.matStop s.focus.core 0x01 s.ms.cycle true) := by
  have hes : zeroElems s.ms.snapshot [s.ms.l0.index, s.ms.l1.index] offset (m * n) = none := if_pos ho
  show execMzero h slotC m n tile offset s = _
  unfold execMzero
  refine matIssue_stop s s h _ _ 0x01 hz hr.tokens hr.guard ?_
  rw [hes]

end

/-! ### MLDI (08 R200) -/

/-- The tensor that a generator reads. -/
def genShape (v : MatEnv) (gen : Nat) : Shape := v.shape (genOf v.snap gen).tensor

/-- The places that an MLDI reads through a generator, from its origin. -/
def mldiPlaces (v : MatEnv) (gen : Nat) (off : Int) (count : Nat) (p : Coord) : List Elt :=
  (List.range count).map fun (j : Nat) =>
    locate (genShape v gen) (genOf v.snap gen).padon ((p.add (Coord.e0 off)).add (Coord.smul j (genOf v.snap gen).vc))

/-- The gather that an MLDI puts in flight over its places. -/
def mldiFly (s : State) (h : Shape) (pad : Nat) (us : List Elt) (addrs : List Nat) : MldiFly :=
  let remote := us.any (remoteAt s (s.matEnv s.ms) h)
  { due := s.ms.cycle + 8 + (if remote then (match s.here.job with | some j => j.slack | none => 0) else 0), addrs := addrs
    values := us.map fun u => BitVec.ofNat 32 (codeAt s (s.matEnv s.ms) h pad u), poison := false, arrived := !remote }

section
variable {s : State} {h : MHdr} {gen : Nat} {off : Int} {p : Coord} (hr : MatReady s h) (ht : (genOf (s.matEnv s.ms).snap gen).tensor ≠ 0)
include hr ht

theorem exec_mldi_lands {count : Nat} (ho : (s.matEnv s.ms).origin gen count false = some p) (hf : (genShape (s.matEnv s.ms) gen).format = 3)
    (hu : Readables s (s.matEnv s.ms) (genShape (s.matEnv s.ms) gen) (mldiPlaces (s.matEnv s.ms) gen off count p)) :
    ∃ t addrs, exec (.mldi h gen off count) s = .next t ∧ MatNext s t ∧ MatGoes s t h 1 emptyStep ∧ t.ms.mldi = s.ms.mldi ++
      [mldiFly s (genShape (s.matEnv s.ms) gen) (padCode (Slot.of 3) (genOf (s.matEnv s.ms).snap gen).pad)
        (mldiPlaces (s.matEnv s.ms) gen off count p) addrs] := by
  obtain ⟨addrs, hread⟩ := State.readIndices_readables (pad := padCode (Slot.of 3) (genOf (s.matEnv s.ms).snap gen).pad) hu
    { values := [], addrs := [], poison := false, bad := [], remote := false }
  have hin := any_outside_eq_false (readables_not_outside hu)
  generalize hfly : mldiFly s (genShape (s.matEnv s.ms) gen) _ (mldiPlaces (s.matEnv s.ms) gen off count p) addrs = f
  obtain ⟨t, he, hw⟩ : ∃ t, execMldi h gen off count s = .next t ∧ MatWent s (s.modMs s.focus.core fun m => { m with mldi := m.mldi ++ [f] }) t h 1 emptyStep none := by
    unfold execMldi
    refine matIssue_went hr rfl ?_ (.modMs s rfl)
    dsimp only [mldiPlaces, genShape] at hread hin hf ⊢
    rw [ho]
    dsimp only
    rw [if_neg ht, if_neg (ne_true_of_eq_false hin), if_neg (not_not.2 hf), hread, ← hfly]
    rfl
  refine ⟨t, addrs, he, hw.matNext (by rw [State.ms_modMs]) (by rw [State.ms_modMs]), hw.goes, ?_⟩
  rw [hw.ms, State.ms_modMs, hfly]
  rfl

/-! ### MKAT (08 R204) -/

variable {slotA slotB slotC m n k const : Nat} {cls : PairClass} {hh ww : Nat}

/-- The tile of a sounding. -/
def katTile (slotA slotB slotC m n k gen : Nat) (off : Int) : MTile :=
  { slotA := slotA, slotB := slotB, slotC := slotC, absorb := false, m := m, n := n, k := k, tile := 0, acc := false, offset := 0
    genA := gen, offA := off, genB := 0, offB := 0 }

/-- The places that a sounding reads through a generator, from its origin. -/
def katPlaces (v : MatEnv) (t : MTile) (p : Coord) : List Elt :=
  (coordsA .mma (genOf v.snap t.genA) (p.add (Coord.e0 t.offA)) [] t).map (locate (genShape v t.genA) (genOf v.snap t.genA).padon)

/-- The fold of a sounding of the stream. -/
def katFoldOf (s : State) (cls : PairClass) (t : MTile) (p : Coord) : Nat :=
  let v := s.matEnv s.ms
  let sa := Slot.of (s.ms.entry t.slotA)
  katFold cls sa (Slot.of (s.ms.entry t.slotB)) (Slot.of (s.ms.entry t.slotC)) (Slot.of (slotForC cls (s.ms.entry t.slotC))) t.m t.n t.k
    ((katPlaces v t p).map (codeAt s v (genShape v t.genA) (padCode sa (genOf v.snap t.genA).pad)))

theorem exec_mkat_folds (hl : slotsOk (s.ms.entry slotA) (s.ms.entry slotB) (s.ms.entry slotC) = true)
    (hp : pairClass (Slot.of (s.ms.entry slotA)).fmt (Slot.of (s.ms.entry slotB)).fmt = some (cls, hh, ww)) (ho : (s.matEnv s.ms).origin gen m false = some p)
    (hf : (genShape (s.matEnv s.ms) gen).format = (Slot.of (s.ms.entry slotA)).fmt)
    (hu : Readables s (s.matEnv s.ms) (genShape (s.matEnv s.ms) gen) (katPlaces (s.matEnv s.ms) (katTile slotA slotB slotC m n k gen off) p)) :
    let t0 := katTile slotA slotB slotC m n k gen off
    ∃ t, exec (.mkat h slotA slotB slotC m n k gen off const) s = .next t ∧ MatNext s t ∧ MatGoes s t h (r187 .mma hh ww 0 0 t0)
      { emptyStep with stop := if katFoldOf s cls t0 p = const then none else some 0x0A, fence := decide (katFoldOf s cls t0 p ≠ const) } := by
  have hread := State.readElems_readables (sl := Slot.of (s.ms.entry slotA)) (pad := padCode (Slot.of (s.ms.entry slotA)) (genOf (s.matEnv s.ms).snap gen).pad) hu Elems.none
  have hin := any_outside_eq_false (readables_not_outside hu)
  show ∃ t, execMkat h slotA slotB slotC m n k gen off const s = .next t ∧ _
  unfold execMkat
  refine matIssue_goes hr hl ?_
  dsimp only [katPlaces, katTile, genShape] at hread hin hf ⊢
  rw [hp, ho]
  dsimp only
  rw [if_neg ht, if_neg (ne_true_of_eq_false hin), if_neg (not_not.2 hf), hread]
  rfl

end

/-! ### Obligation O32 -/

/-- Settles O32: `tileStepOut_fine` says what a step over readable operands is, and the issue puts each body's step in flight. -/
theorem tileWordsStep : Obligations.TileWordsStep := by
  unfold Obligations.TileWordsStep
  refine ⟨fun i s kind h t hi ha => ?_, fun s h slotC m n tile offset hr hz => ⟨exec_mzero_inside hr hz, exec_mzero_outside hr hz⟩, ?_, ?_⟩
  · rw [exec_tileOf hi]
    refine ⟨fun cls hh ww pa pb pm hfits htok hg hfine => ?_, fun count writes slotC flags stop hfits htok hg ho => ?_,
      fun count lines hfits htok hg ho => tileWordRun_poison hfits ⟨ha, htok, hg⟩ ho, fun hfits htok hg => tileWordRun_guarded ha hfits htok hg,
      tileWordRun_wrongSlots, fun c hfits htok hg ho => tileWordRun_stop hfits ⟨ha, htok, hg⟩ ho⟩
    · obtain ⟨slotC, flags, ho⟩ := State.tileStepOut_fine hfine
      obtain ⟨u, hu, hnext, hgoes⟩ := tileWordRun_step hfits ⟨ha, htok, hg⟩ ho
      rw [stepCount_eq_r187, State.matEnv_snap] at hgoes
      exact ⟨u, _, hu, hnext, hgoes, rfl, rfl, rfl, rfl, rfl⟩
    · obtain ⟨cls, hh, ww, hpair, hcount⟩ := State.tileStepOut_count ho
      rw [Slot.of_fmt, Slot.of_fmt] at hpair
      rw [stepCount_eq_r187, State.matEnv_snap] at hcount
      exact ⟨tileWordRun_step hfits ⟨ha, htok, hg⟩ ho, cls, hh, ww, hpair, hcount⟩
  · intro s h gen off count p hr v g us ho ht hf hu
    have hg : g = genOf v.snap gen := by rw [State.matEnv_snap]
    clear_value g
    subst hg
    obtain ⟨t, addrs, he, hnext, hgoes, hm⟩ := exec_mldi_lands hr ht ho hf hu
    exact ⟨t, _, he, hnext, hgoes, hm, rfl, rfl, rfl⟩
  · intro s h slotA slotB slotC m n k gen off const cls hh ww p hr hl v sa g t0 us hp ho ht hf hu good count
    have hg : g = genOf v.snap gen := by rw [State.matEnv_snap]
    clear_value g
    subst hg
    obtain ⟨t, he, hnext, hgoes⟩ := exec_mkat_folds (const := const) hr ht hl hp ho hf hu
    have hiff : good ↔ katFoldOf s cls (katTile slotA slotB slotC m n k gen off) p = const := Iff.rfl
    refine ⟨fun hgood => ⟨t, he, hnext, ?_⟩, fun hbad => ⟨t, he, hnext, ?_⟩⟩
    · rw [if_pos (hiff.1 hgood), decide_eq_false (not_not.2 (hiff.1 hgood))] at hgoes
      exact hgoes
    · rw [if_neg (mt hiff.2 hbad), decide_eq_true (mt hiff.2 hbad)] at hgoes
      exact hgoes

end Sys2Proof.Machine

/-! # The last cycle of a matrix word (08 R186, R196, R200, R211) -/

namespace Sys2Proof.Machine
open Sys2Proof Sys2Proof.Spec

/-! ### Writes of the accumulator -/

section
variable {kvs : List (Nat × Elem)} {n : Nat}

theorem Tbl.get_foldl_pairs_other (h : ∀ p ∈ kvs, p.1 ≠ n) (t : Tbl Elem) : Tbl.get 0 (kvs.foldl (fun a p => Tbl.set 0 a p.1 p.2) t) n = Tbl.get 0 t n := by
  induction kvs generalizing t with
  | nil => rfl
  | cons p kvs ih => rw [List.foldl_cons, ih fun q hq => h q (List.mem_cons_of_mem _ hq), Tbl.get_set_other _ _ _ _ _ (h p List.mem_cons_self).symm]

/-- A key that the pairs give one value reads as it. -/
theorem Tbl.get_foldl_pairs_mem {v : Elem} (hm : (n, v) ∈ kvs) (hv : ∀ p ∈ kvs, p.1 = n → p.2 = v) (t : Tbl Elem) :
    Tbl.get 0 (kvs.foldl (fun a p => Tbl.set 0 a p.1 p.2) t) n = v := by
  induction kvs generalizing t with
  | nil => cases hm
  | cons p kvs ih =>
    rw [List.foldl_cons]
    by_cases hlater : (n, v) ∈ kvs
    · exact ih hlater (fun q hq => hv q (List.mem_cons_of_mem _ hq)) _
    · obtain rfl : (n, v) = p := (List.mem_cons.1 hm).resolve_right hlater
      rw [Tbl.get_foldl_pairs_other (fun q hq he => hlater ?_), Tbl.get_set_same]
      rwa [← hv q (List.mem_cons_of_mem _ hq) he, ← he]

end

section
variable (k : Core) (tile slotC : Nat)

theorem Core.acc_writeAcc (kvs : List (Nat × Elem)) : (k.writeAcc kvs).acc = kvs.foldl (fun a p => Tbl.set 0 a p.1 p.2) k.acc := rfl

/-- An MZERO's zeros land at its elements and nowhere else. -/
theorem Core.get_acc_zeros {es : List Nat} (hes : ∀ e ∈ es, e < 131072) (n : Nat) :
    Tbl.get 0 (k.writeAcc (k.foldWrites tile slotC (.zeros es)).1).acc n = if n / 131072 = tile ∧ n % 131072 ∈ es then 0 else Tbl.get 0 k.acc n := by
  rw [Core.acc_writeAcc]
  split
  · next h =>
    refine Tbl.get_foldl_pairs_mem (List.mem_map.2 ⟨n % 131072, h.2, ?_⟩) (fun p hp _ => ?_) _
    · rw [← h.1, Nat.div_add_mod]
    · obtain ⟨e, -, rfl⟩ := List.mem_map.1 hp
      rfl
  · next h =>
    refine Tbl.get_foldl_pairs_other (fun p hp hpn => h ?_) _
    obtain ⟨e, he, rfl⟩ := List.mem_map.1 hp
    have hlt := hes e he
    subst hpn
    exact ⟨by show (131072 * tile + e) / 131072 = tile; omega, by rw [show (131072 * tile + e) % 131072 = e by omega]; exact he⟩

/-- What an element becomes by its converted group sums, in order, from C or from zero (02 R42). -/
def Core.summed (acc integer : Bool) (p : Nat × List Elem) : Elem :=
  BitVec.ofNat 32 (p.2.foldl (fun a g => addGroup integer (Slot.of slotC) a g.toNat) (if acc then (Tbl.get 0 k.acc (131072 * tile + p.1)).toNat else 0, 0)).1

variable (acc integer : Bool) {es : List (Nat × List Elem)}

theorem Core.foldWrites_sums : (k.foldWrites tile slotC (.sums acc integer es)).1 = es.map fun p => (131072 * tile + p.1, k.summed tile slotC acc integer p) :=
  List.map_map ..

/-- Each element of the word becomes its sum. -/
theorem Core.get_acc_sums (hnodup : (es.map (·.1)).Nodup) {p : Nat × List Elem} (hp : p ∈ es) :
    Tbl.get 0 (k.writeAcc (k.foldWrites tile slotC (.sums acc integer es)).1).acc (131072 * tile + p.1) = k.summed tile slotC acc integer p := by
  rw [Core.acc_writeAcc, Core.foldWrites_sums]
  refine Tbl.get_foldl_pairs_mem (List.mem_map.2 ⟨p, hp, rfl⟩) (fun r hr hrn => ?_) _
  obtain ⟨q, hq, rfl⟩ := List.mem_map.1 hr
  rw [List.inj_on_of_nodup_map hnodup hq hp (Nat.add_left_cancel hrn)]

/-- No other element changes. -/
theorem Core.get_acc_sums_other {n : Nat} (hn : ∀ p ∈ es, n ≠ 131072 * tile + p.1) :
    Tbl.get 0 (k.writeAcc (k.foldWrites tile slotC (.sums acc integer es)).1).acc n = Tbl.get 0 k.acc n := by
  rw [Core.acc_writeAcc, Core.foldWrites_sums]
  refine Tbl.get_foldl_pairs_other (fun r hr hrn => ?_) _
  obtain ⟨q, hq, rfl⟩ := List.mem_map.1 hr
  exact hn q hq hrn.symm

end

/-! ### The word's end (08 R186) -/

theorem State.irqStop_congr {s t : State} {core : Nat} (hj : (t.core core).job = (s.core core).job) (hctx : ∀ c n, t.ctx c n = s.ctx c n) (hm : t.mgmt = s.mgmt) :
    t.irqStop core = s.irqStop core := by
  unfold State.irqStop State.pusherThere State.ipendOf
  simp only [hj, hctx, hm]

/-- The core behind a word's last cycle: its writes, flags, events and token are there, and the stream stands at the next cycle. -/
def Core.stepLanded (k : Core) (st : MatStep) (ws : List (Nat × Elem)) (flags lead : Nat) : Core :=
  { k.writeAcc ws with
    tokens := if st.push = 0 then k.tokens else Tbl.set 0 k.tokens st.push (k.token st.push + 1)
    mfst := k.mfst ||| BitVec.ofNat 32 flags, evw := k.evw ||| BitVec.ofNat 32 st.event
    ms := { k.ms with step := none, frozen := false, cycle := st.due + 1, lead := lead, raiser := (st.word, flags) } }

theorem Core.token_stepLanded (k : Core) (st : MatStep) (ws : List (Nat × Elem)) (flags lead q : Nat) :
    (k.stepLanded st ws flags lead).token q = if q = st.push ∧ st.push ≠ 0 then k.token q + 1 else k.token q := by
  show Tbl.get 0 (if st.push = 0 then k.tokens else Tbl.set 0 k.tokens st.push (k.token st.push + 1)) q = _
  by_cases hp : st.push = 0
  · rw [if_pos hp, if_neg fun h => h.2 hp]
    rfl
  · rw [if_neg hp]
    by_cases hq : q = st.push
    · rw [if_pos ⟨hq, hp⟩, hq, Tbl.get_set_same]
    · rw [if_neg fun h => hq h.1, Tbl.get_set_other _ _ _ _ _ hq]
      rfl

section
variable {s : State} {core : Nat} {st : MatStep}

/-- A word's events, and a token of mx, are an escape of the phase (23 R397). -/
def State.stepEscaped (s : State) (core : Nat) (st : MatStep) : State := if st.event ≠ 0 ∨ st.push = 11 then s.escape core else s

theorem State.stepEscaped_core (s : State) (core : Nat) (st : MatStep) :
    (s.stepEscaped core st).mem = s.mem ∧ (s.stepEscaped core st).mgmt = s.mgmt ∧ ∀ c, ∃ q, (s.stepEscaped core st).core c = { s.core c with vq := q } := by
  have hescape : (s.escape core).mgmt = s.mgmt := by
    unfold State.escape State.modJobEntry
    split <;> rfl
  unfold State.stepEscaped
  split
  · exact ⟨(State.modJobEntry_core ..).2.1, hescape, (State.modJobEntry_core ..).2.2⟩
  · exact ⟨rfl, rfl, fun c => ⟨(s.core c).vq, rfl⟩⟩

/-- A word's last cycle changes nothing that an interrupt of the streams depends on. -/
theorem State.irqStop_stepEscaped {k : Core} (hj : k.job = (s.core core).job) (hc : k.ctxs = (s.core core).ctxs) (st : MatStep) :
    ((s.setCore core k).stepEscaped core st).irqStop core = s.irqStop core := by
  obtain ⟨-, hmgmt, hcore⟩ := State.stepEscaped_core (s.setCore core k) core st
  refine State.irqStop_congr ?_ (fun c n => ?_) hmgmt
  · obtain ⟨q, hq⟩ := hcore core
    rw [hq, State.core_setCore_same]
    exact hj
  · obtain ⟨q, hq⟩ := hcore c
    rw [State.ctx, hq]
    exact State.ctx_modCore s core (f := fun _ => k) hc c n

/-- Flags that no enable bit meets, the enables being those that stand with the flags raised. -/
theorem mfst_notEnabled {v : BitVec 32} {f : Nat} (h : f &&& ((v.toNat ||| f) / 2 ^ 10) &&& 0x1F = 0) :
    f &&& (v ||| BitVec.ofNat 32 f).toNat / 2 ^ 10 &&& 0x1F = 0 := by
  rw [Nat.and_assoc]
  refine raised_notEnabled ?_
  rw [show f % 32 = f &&& 0x1F from (Nat.and_two_pow_sub_one_eq_mod f 5).symm, Nat.and_right_comm]
  exact h

/-- A step whose last cycle nothing stops, and what its writes come to. -/
structure LastCycle (s : State) (core : Nat) (st : MatStep) (w : List (Nat × Elem) × Nat) : Prop where
  step : (s.core core).ms.step = some st
  reads : (s.core core).readsPoison st.tile st.writes = false
  writes : (s.core core).foldWrites st.tile st.slotC.toNat st.writes = w
  stop : st.stop = none
  fence : st.fence = false
  noStop : (s.core core).ms.atStop = 0
  irq : s.irqStop core = false
  zeroed : (s.core core).zeroed = none
  enabled : ((st.flags ||| w.2) &&& (((s.core core).mfst.toNat ||| (st.flags ||| w.2)) / 2 ^ 10) &&& 0x1F) = 0
  room : st.push = 0 ∨ (s.core core).token st.push < 15

/-- The last cycle of a word that nothing stops. -/
theorem State.matLast_eq {w : List (Nat × Elem) × Nat} (hl : LastCycle s core st w) :
    ∃ lead, s.matLast core = (s.setCore core ((s.core core).stepLanded st w.1 (st.flags ||| w.2) lead)).stepEscaped core st := by
  obtain ⟨hst, hp, hw, hstop, hfence, ha, hirq, hz, hf, ht⟩ := hl
  refine ⟨thaw (s.core core).ms.frozen (s.core core).ms.lead (s.core core).matDue (s.clockNow core), ?_⟩
  unfold State.matLast
  extract_lets k0 m0 k c
  have hc : c = k := by
    dsimp only [c]
    rw [Core.beforeVacz, show k.zeroed = none from hz]
  clear_value c
  subst hc
  rw [show k.ms.step = some st from hst]
  dsimp -zeta only
  extract_lets bad w' flags written k1 stop push m1 k2 m2 s0 s1 s2
  have hbad : bad = false := hp
  have hw' : w' = w := by
    dsimp only [w']
    rw [hbad]
    exact hw
  have hflags : flags = st.flags ||| w.2 := by
    dsimp only [flags]
    rw [hbad, hw']
    rfl
  have hwritten : written = k.writeAcc w.1 := by
    dsimp only [written]
    rw [Core.underVacz, show k.zeroed = none from hz, hw']
  have hk1 : k1 = { k.writeAcc w.1 with mfst := k.mfst ||| BitVec.ofNat 32 (st.flags ||| w.2) } := by
    dsimp only [k1]
    rw [hwritten, hflags]
  have henabled : flags &&& k1.mfst.toNat / 2 ^ 10 &&& 0x1F = 0 := by
    rw [hk1, hflags]
    exact mfst_notEnabled hf
  have hgoes : stop = none := by
    dsimp only [stop]
    rw [hbad, hstop, if_neg Bool.false_ne_true, if_neg (not_not.2 henabled)]
    rfl
  have hpush : push = st.push := by
    dsimp only [push]
    rw [hgoes]
    exact if_neg (by decide)
  have hroom : ¬(push ≠ 0 ∧ 15 ≤ k1.token push) := by
    rw [hpush, hk1]
    exact fun h => (ht.resolve_left h.1).not_ge h.2
  have hs0 : s0 = s.setCore core ((s.core core).stepLanded st w.1 (st.flags ||| w.2) k.ms.lead) := by
    dsimp only [s0, m2, k2]
    rw [hpush, hk1, hflags]
    congr 1
    unfold Core.stepLanded
    split <;> rfl
  have hs2 : s2 = s0.stepEscaped core st := by
    dsimp only [s2, s1]
    rw [hfence, hpush]
    rfl
  have hirq2 : s2.irqStop core = false := by
    rw [hs2, hs0, State.irqStop_stepEscaped (k := (s.core core).stepLanded st w.1 (st.flags ||| w.2) k.ms.lead) rfl rfl]
    exact hirq
  have hat : (s2.core core).ms.atStop = 0 := by
    obtain ⟨q, hq⟩ := (State.stepEscaped_core s0 core st).2.2 core
    rw [hs2, hq, hs0, State.core_setCore_same]
    exact ha
  rw [if_neg hroom, hgoes]
  dsimp only
  rw [if_pos hat, hirq2, if_neg (by simp), hs2, hs0]

end

end Sys2Proof.Machine

/-! # What ends a matrix word, and stops of the matrix stream (08 R186, R200, 10 R244 to R246) -/

namespace Sys2Proof.Machine
open Sys2Proof Sys2Proof.Spec

/-! ### Landings of gathers (08 R200) -/

theorem Core.mldiReady_token {k : Core} (h : k.mldiReady = true) : k.token 7 < 15 := by
  unfold Core.mldiReady at h
  dsimp only at h
  split at h
  · cases h
  · rw [Bool.and_eq_true] at h
    exact of_decide_eq_true h.2

theorem Core.pushToken_room {k : Core} {q : Nat} (h : k.token q < 15) : k.pushToken q = k.setToken q (k.token q + 1) := if_pos h

theorem exec_mldiLanding_ready {s : State} {core : Nat} {f : MldiFly} {rest : List MldiFly} (hst : (s.core core).ms.st = .running) (hm : (s.core core).ms.mldi = f :: rest)
    (hp : f.poison = false) (hr : (s.core core).mldiReady = true) (hh : s.matHeld core = false) :
    ∃ t, exec (.mldiLanding core) s = .next t ∧ (t.core core).ms = { (s.core core).ms with latch := f.values, mldi := rest, frozen := false } ∧
      (∀ q, (t.core core).token q = if q = 7 then (s.core core).token q + 1 else (s.core core).token q) ∧ SameMemory s t := by
  have ht := Core.mldiReady_token hr
  refine ⟨s.setCore core (({ s.core core with ms := { (s.core core).ms.latchFrom f with mldi := rest, frozen := false } } : Core).setToken 7 ((s.core core).token 7 + 1)), ?_, ?_, ?_, ?_⟩
  · show execMldiLanding core s = _
    unfold execMldiLanding
    dsimp only
    rw [hm]
    dsimp only
    rw [if_neg (by simp [hst, hr, hh]), if_neg (ne_true_of_eq_false hp)]
    exact congrArg (fun k => Host.Outcome.next (s.setCore core k)) (Core.pushToken_room ht)
  · rw [State.core_setCore_same]
    rfl
  · intro q
    rw [State.core_setCore_same]
    split
    · next hq => rw [hq]; exact Core.token_setToken_same ..
    · next hq => exact Core.token_setToken_other _ _ hq
  · exact sameMemory_of_mem rfl

/-! ### The matrix frame in memory (10 R246) -/

/-- A frame is written over memory alone. -/
theorem State.writeMFrame_rest (s : State) (core cause : Nat) : ∃ m, s.writeMFrame core cause = { s with mem := m } := by
  have keep {u : State} (hu : ∃ m, u = { s with mem := m }) (l : Nat) (ws : List Word) : ∃ m, u.writeDs l ws = { s with mem := m } := by
    obtain ⟨m, rfl⟩ := hu
    exact ⟨_, State.writeDs_rest ..⟩
  have keepD {u : State} (hu : ∃ m, u = { s with mem := m }) (l : Nat) (w : Word) : ∃ m, u.writeD l w = { s with mem := m } := by
    obtain ⟨m, rfl⟩ := hu
    exact ⟨_, State.write_rest ..⟩
  unfold State.writeMFrame
  extract_lets k m b s1 s2 s3 s4
  have h4 : ∃ m, s4 = { s with mem := m } := keep (keep (keep (keep (keep (keep ⟨s.mem, rfl⟩ _ _) _ _) _ _) _ _) _ _) _ _
  split
  · exact keepD h4 _ _
  · exact keep (keepD h4 _ _) _ _

/-- The part of a matrix frame that holds the word, the stop cycle and the cause. -/
def mframeWord (m : MStream) (cause : Nat) : List Word :=
  [BitVec.ofNat 64 m.pc, BitVec.ofNat 64 m.stopCycle, BitVec.ofNat 64 cause, BitVec.ofNat 64 (m.fmtRow + loopSelCode m.fmtLoop * 2 ^ 4)]

theorem State.readD_writeMFrame (s : State) (core cause : Nat) {i : Nat} {w : Word} (hw : (mframeWord (s.core core).ms cause)[i]? = some w) (hi : i < 4) :
    (s.writeMFrame core cause).readD (mframeLoc core + 0x340 + 8 * i) = w := by
  unfold State.writeMFrame
  extract_lets k m b s1 s2 s3 s4
  have h2 : s2.readD (b + 0x340 + 8 * i) = w := State.readD_writeDs _ (b + 0x340) (mframeWord m cause) hw
  have h4 : s4.readD (b + 0x340 + 8 * i) = w := by
    dsimp only [s4, s3]
    rw [State.readD_writeDs_outside _ _ _ _ (.inl (by omega)), State.readD_writeDs_outside _ _ _ _ (.inl (by omega)), State.readD_writeDs_outside _ _ _ _ (.inl (by omega)), h2]
  split
  · exact (State.readD_writeD_outside _ (.inl (by omega))).trans h4
  · exact (State.readD_writeDs_outside _ _ _ _ (.inl (by omega))).trans ((State.readD_writeD_outside _ (by omega)).trans h4)

/-! ### What a stop leaves (10 R244, R245) -/

/-- A frame holds one gather: the earlier ones land, which changes the latch and the gm tokens. -/
theorem Core.keepOneMldi_eq (k : Core) : ∃ tokens deferred latch mldi, k.keepOneMldi = { k with tokens := tokens, deferred := deferred, ms := { k.ms with latch := latch, mldi := mldi } } := by
  unfold Core.keepOneMldi
  split
  · exact ⟨k.tokens, k.deferred, k.ms.latch, k.ms.mldi, rfl⟩
  · refine foldl_keeps (fun c : Core => ∃ tokens deferred latch mldi, c = { k with tokens := tokens, deferred := deferred, ms := { k.ms with latch := latch, mldi := mldi } }) _ _
      (fun c f _ hc => ?_) _ ⟨_, _, _, _, rfl⟩
    obtain ⟨tokens, deferred, latch, mldi, rfl⟩ := hc
    unfold Core.pushToken
    split <;> exact ⟨_, _, _, _, rfl⟩

theorem Core.keepOneMldi_of_le_one {k : Core} (h : k.ms.mldi.length ≤ 1) : k.keepOneMldi = k := by
  unfold Core.keepOneMldi
  split
  · rfl
  · next hne =>
    obtain ⟨f, hf⟩ := List.length_eq_one_iff.1 (Nat.le_antisymm h (List.length_pos_iff.2 hne))
    rw [hf]
    show ({ k with ms := { k.ms with mldi := [f] } } : Core) = k
    rw [← hf]

/-- A core's matrix stream as its own stop leaves it. -/
def MStream.halted (m : MStream) (cause stopCycle : Nat) (report : Bool) : MStream :=
  { m with st := .stopped, cause := cause, frozen := false, atRdv := false, rdv := if m.atRdv then m.rdv - 1 else m.rdv, stopCycle := stopCycle
           raiser := if cause = 0x12 then m.raiser else (0, 0), atStop := if report then stopCode cause true else 0 }

/-- A core whose matrix stream stops. -/
def Core.matHalted (k : Core) (cause stopCycle : Nat) (report : Bool) : Core := { k.keepOneMldi with ms := k.keepOneMldi.ms.halted cause stopCycle report }

/-- The state behind the frame of a matrix stream's stop. -/
def State.matHalted (s : State) (core cause stopCycle : Nat) (report : Bool) : State :=
  (s.setCore core ((s.core core).matHalted cause stopCycle report)).writeMFrame core cause

theorem Core.matHalted_ms (k : Core) (cause stopCycle : Nat) (report : Bool) :
    ∃ latch mldi, (k.matHalted cause stopCycle report).ms = { k.ms.halted cause stopCycle report with latch := latch, mldi := mldi } := by
  obtain ⟨_, _, latch, mldi, hk⟩ := k.keepOneMldi_eq
  exact ⟨latch, mldi, by rw [Core.matHalted, hk]; rfl⟩

theorem Core.matHalted_rest (k : Core) (cause stopCycle : Nat) (report : Bool) :
    (k.matHalted cause stopCycle report).ctxs = k.ctxs ∧ (k.matHalted cause stopCycle report).job = k.job ∧ (k.matHalted cause stopCycle report).trctl = k.trctl := by
  obtain ⟨_, _, _, _, hk⟩ := k.keepOneMldi_eq
  rw [Core.matHalted, hk]
  exact ⟨rfl, rfl, rfl⟩

theorem Core.matHalted_of_le_one {k : Core} (h : k.ms.mldi.length ≤ 1) (cause stopCycle : Nat) (report : Bool) :
    k.matHalted cause stopCycle report = { k with ms := k.ms.halted cause stopCycle report } := by rw [Core.matHalted, Core.keepOneMldi_of_le_one h]

/-- A stopped matrix stream does not follow its own stop. -/
theorem Core.follow_stopped_matrix {k : Core} (h : k.ms.st = .stopped) (code : Nat) : (k.follow code).ms = k.ms := by
  have hne : k.ms.st ≠ .running := by rw [h]; decide
  rw [Core.follow]
  exact if_neg fun hr => hne hr.1

section
variable (s : State) (core cause stopCycle : Nat) (report : Bool)

theorem State.matStop_eq : s.matStop core cause stopCycle report =
    ((s.matHalted core cause stopCycle report).trace core 3 4 4 stopCycle ((s.core core).matHalted cause stopCycle report).ms.pc cause).stopSpread core cause report := by
  have hk : (s.setCore core ((s.core core).matHalted cause stopCycle report)).core core = (s.core core).matHalted cause stopCycle report := State.core_setCore_same ..
  rw [← congrArg (fun k : Core => k.ms.pc) hk]
  rfl

/-- What is behind a stop's frame differs from what was before it in memory and in the core alone. -/
theorem State.matHalted_eq :
    ∃ m, s.matHalted core cause stopCycle report = { s.setCore core ((s.core core).matHalted cause stopCycle report) with mem := m } := State.writeMFrame_rest ..

theorem State.core_matHalted (c : Nat) : (s.matHalted core cause stopCycle report).core c = if c = core then (s.core core).matHalted cause stopCycle report else s.core c := by
  obtain ⟨m, hm⟩ := s.matHalted_eq core cause stopCycle report
  rw [hm]
  exact State.core_setCore ..

theorem State.ctx_matHalted (c n : Nat) : (s.matHalted core cause stopCycle report).ctx c n = s.ctx c n := by
  obtain ⟨m, hm⟩ := s.matHalted_eq core cause stopCycle report
  rw [hm]
  exact State.ctx_modCore s core (f := fun k => k.matHalted cause stopCycle report) (Core.matHalted_rest ..).1 c n

end

/-! ### A stop that is its core's own, with the trace off -/

section
variable {s : State} {core : Nat} (hown : s.StopIsOwn core) (hoff : (s.core core).trctl.getLsbD 0 = false)
include hown hoff

/-- Of the cores such a stop changes its own alone, in which the other stream follows; memory holds its frame. -/
theorem State.matStop_own (cause stopCycle : Nat) (report : Bool) : ∃ g, s.matStop core cause stopCycle report =
    { s.setCore core (((s.core core).matHalted cause stopCycle report).follow (stopCode 0 false)) with mem := (s.matHalted core cause stopCycle report).mem, groups := g } := by
  obtain ⟨hctxs, hjob, htrctl⟩ := (s.core core).matHalted_rest cause stopCycle report
  have hcore : (s.matHalted core cause stopCycle report).core core = (s.core core).matHalted cause stopCycle report := by rw [State.core_matHalted, if_pos rfl]
  rw [State.matStop_eq, State.trace_off _ _ _ _ _ _ _ _ (by rw [hcore, htrctl]; exact hoff)]
  obtain ⟨g, hg⟩ := State.stopSpread_own (hown.of_kept (by rw [hcore, hjob]) (s.ctx_matHalted core cause stopCycle report)) cause report
  refine ⟨g, hg.trans ?_⟩
  obtain ⟨m, hm⟩ := s.matHalted_eq core cause stopCycle report
  rw [State.modCore, hcore, hm]
  show ({ ((s.setCore core ((s.core core).matHalted cause stopCycle report)).setCore core _) with mem := m, groups := g } : State) = _
  rw [State.setCore_setCore]

variable (hone : (s.core core).ms.mldi.length ≤ 1) (cause stopCycle : Nat)
include hone

theorem State.core_matStop_own : (s.matStop core cause stopCycle true).core core =
    (({ s.core core with ms := (s.core core).ms.halted cause stopCycle true } : Core).follow (stopCode 0 false)) := by
  obtain ⟨g, hg⟩ := State.matStop_own hown hoff cause stopCycle true
  rw [hg, ← Core.matHalted_of_le_one hone]
  exact State.core_setCore_same ..

theorem State.ms_matStop_own : ((s.matStop core cause stopCycle true).core core).ms = (s.core core).ms.halted cause stopCycle true := by
  rw [State.core_matStop_own hown hoff hone]
  exact Core.follow_stopped_matrix rfl _

omit hone in
theorem State.core_matStop_other {c : Nat} (hc : c ≠ core) : (s.matStop core cause stopCycle true).core c = s.core c := by
  obtain ⟨g, hg⟩ := State.matStop_own hown hoff cause stopCycle true
  rw [hg]
  exact State.core_setCore_other _ _ _ _ hc

theorem State.queue_matStop (q : QueueId) : (s.matStop core cause stopCycle true).queue q = s.queue q := by
  have hcore (c : Nat) : ((s.matStop core cause stopCycle true).core c).mq = (s.core c).mq ∧ ((s.matStop core cause stopCycle true).core c).vq = (s.core c).vq ∧
      ((s.matStop core cause stopCycle true).core c).cq = (s.core c).cq := by
    by_cases hc : c = core
    · rw [hc, State.core_matStop_own hown hoff hone]
      exact ⟨rfl, rfl, rfl⟩
    · rw [State.core_matStop_other hown hoff cause stopCycle hc]
      exact ⟨rfl, rfl, rfl⟩
  obtain ⟨g, hg⟩ := State.matStop_own hown hoff cause stopCycle true
  cases q with
  | mq c => exact (hcore c).1
  | vq c => exact (hcore c).2.1
  | cq c => exact (hcore c).2.2
  | oq u => rw [hg]; rfl
  | lq d => rw [hg]; rfl

/-- The frame of the stop names the word, the stop cycle and the cause. -/
theorem State.readD_matStop {i : Nat} {w : Word} (hw : (mframeWord ((s.core core).ms.halted cause stopCycle true) cause)[i]? = some w) (hi : i < 4) :
    (s.matStop core cause stopCycle true).readD (mframeLoc core + 0x340 + 8 * i) = w := by
  obtain ⟨g, hg⟩ := State.matStop_own hown hoff cause stopCycle true
  rw [State.readD_mem_congr (s := s.matHalted core cause stopCycle true) (by rw [hg])]
  refine State.readD_writeMFrame _ _ _ ?_ hi
  rw [State.core_setCore_same, Core.matHalted_of_le_one hone]
  exact hw

/-- The pushing context owes a trap of source 3 for a stop that no word of the vector stream can share. -/
theorem State.owedAt_matStop {j : Job} (hj : (s.core core).job = some j) (hlo : 0 < cause) (hhi : cause < 256) (hvs : (s.core core).vs.st ≠ .stopped)
    (hboth : ((s.matStop core cause stopCycle true).core core).vecBoth = false) : (s.matStop core cause stopCycle true).owedAt core = some (3, cause, stopCycle) := by
  have hk := State.core_matStop_own hown hoff hone cause stopCycle
  have hms := State.ms_matStop_own hown hoff hone cause stopCycle
  have hthere : (s.matStop core cause stopCycle true).pusherThere j = true := by
    obtain ⟨g, hg⟩ := State.matStop_own hown hoff cause stopCycle true
    have hctx (c n : Nat) : (s.matStop core cause stopCycle true).ctx c n = s.ctx c n := by
      rw [hg]
      exact State.ctx_modCore s core (f := fun k => (k.matHalted cause stopCycle true).follow (stopCode 0 false)) (Core.matHalted_rest _ cause stopCycle true).1 c n
    rw [State.pusherThere, hctx]
    exact (hown j hj).2.2
  have hjob : ((s.matStop core cause stopCycle true).core core).job = some j := by rw [hk]; exact hj
  have hvec : ((s.matStop core cause stopCycle true).core core).vs.st = (s.core core).vs.st := by
    rw [hk]
    unfold Core.follow
    dsimp only
    split <;> rfl
  have hmat : ((s.matStop core cause stopCycle true).core core).matBoth = false := by
    rw [Core.matBoth, hms]
    rfl
  have hcode : codeCause ((s.core core).ms.halted cause stopCycle true).atStop = cause := by
    show (1 + cause + b2n true * 256 - 1) % 256 = cause
    rw [b2n, if_pos rfl]
    omega
  have hm : (decide (((s.core core).ms.halted cause stopCycle true).st = .stopped) && decide (((s.core core).ms.halted cause stopCycle true).atStop ≠ 0)) = true := by
    simp [MStream.halted, stopCode]
  have hv : (decide (((s.matStop core cause stopCycle true).core core).vs.st = .stopped) && decide (((s.matStop core cause stopCycle true).core core).vs.atStop ≠ 0)) = false := by
    rw [hvec, decide_eq_false hvs, Bool.false_and]
  unfold State.owedAt
  simp only [hjob, hms, hv, hm, hthere, hmat, hboth, hcode, Bool.or_false, Bool.false_or, Bool.false_and, Bool.true_eq_false, Bool.false_eq_true, or_self, if_true, if_false]
  rfl

end

/-! ### What any stop keeps of the stream that made it -/

/-- No core's matrix stream changes but for the stop that its pushing context has not yet taken. -/
structure MatsStay (s t : State) : Prop where
  ms : ∀ c, { (t.core c).ms with atStop := 0 } = { (s.core c).ms with atStop := 0 }

section
variable {s t u : State}

theorem MatsStay.of_ms (h : ∀ c, (t.core c).ms = (s.core c).ms) : MatsStay s t := ⟨fun c => by rw [h]⟩

theorem MatsStay.refl (s : State) : MatsStay s s := ⟨fun _ => rfl⟩

theorem MatsStay.trans (h : MatsStay s t) (h' : MatsStay t u) : MatsStay s u := ⟨fun c => (h'.ms c).trans (h.ms c)⟩

theorem MatsStay.ite {p : Prop} [Decidable p] (ht : MatsStay s t) (hu : MatsStay s u) : MatsStay s (if p then t else u) := by
  split
  · exact ht
  · exact hu

theorem MatsStay.of_cores (h : t.cores = s.cores) : MatsStay s t := .of_ms fun c => by rw [State.core_of_cores h]

theorem MatsStay.modCore (s : State) (c : Nat) {f : Core → Core} (h : ∀ k, { (f k).ms with atStop := 0 } = { k.ms with atStop := 0 }) : MatsStay s (s.modCore c f) := by
  refine ⟨fun d => ?_⟩
  by_cases hd : d = c
  · rw [hd, State.core_modCore_same]
    exact h _
  · rw [State.core_modCore_other _ _ _ _ hd]

theorem MatsStay.modQueue (s : State) (q : QueueId) (f : Queue → Queue) : MatsStay s (s.modQueue q f) := by
  cases q with
  | mq c => exact .modCore s c (f := fun k => { k with mq := f ((s.core c).mq) }) fun _ => rfl
  | vq c => exact .modCore s c (f := fun k => { k with vq := f ((s.core c).vq) }) fun _ => rfl
  | cq c => exact .modCore s c (f := fun k => { k with cq := f ((s.core c).cq) }) fun _ => rfl
  | oq u => exact .of_cores rfl
  | lq d => exact .of_cores rfl

theorem MatsStay.report (s : State) (e : Entry) (state : Nat) : MatsStay s (s.report e state) := by
  unfold State.report
  exact .ite (.refl s) (.modCore s e.core fun k => by split <;> rfl)

theorem MatsStay.trace (s : State) (c bit kind source cycle p0 p1 : Nat) : MatsStay s (s.trace c bit kind source cycle p0 p1) := by
  refine .of_ms fun d => ?_
  obtain ⟨_, _, hk⟩ := (State.trace_core s c bit kind source cycle p0 p1).2 d
  rw [hk]

theorem MatsStay.traceCmd (s : State) (q : QueueId) (kind : Nat) (e : Entry) : MatsStay s (s.traceCmd q kind e) := by
  cases q with
  | oq u => exact .refl s
  | lq d => exact .refl s
  | mq c => exact .trace ..
  | vq c => exact .trace ..
  | cq c => exact .trace ..

theorem MatsStay.faultCmd (s : State) (q : QueueId) (seq cause : Nat) (freeze : Bool) : MatsStay s (s.faultCmd q seq cause freeze) := by
  unfold State.faultCmd
  split
  · exact .refl s
  · extract_lets e0' e s1 code s2 s3
    have h2 : MatsStay s1 s2 := by
      dsimp only [s2]
      clear s3 s2
      clear_value code
      cases code with
      | none => exact .refl s1
      | some c => exact .modCore s1 _ fun _ => rfl
    have h : MatsStay s s3 := ((MatsStay.modQueue ..).trans h2).trans ((MatsStay.report ..).trans (.traceCmd ..))
    clear_value s3
    refine .ite (h.trans ?_) h
    rw [State.wrackAdd_rest]
    exact .of_cores rfl

theorem MatsStay.raiseStall (s : State) (c time : Nat) : MatsStay s (s.raiseStall c time) := by
  obtain ⟨g, hg⟩ := State.raiseStall_eq s c time
  exact .of_cores (by rw [hg])

/-- A stream that follows a stop is as it was but for that stop. -/
theorem MatsStay.follow (s : State) (c code : Nat) : MatsStay s (s.modCore c fun k => k.follow code) := .modCore s c fun k => by
  unfold Core.follow
  dsimp only
  split <;> rfl

/-- Whatever a stop does to the other streams, the matrix streams stay. -/
theorem MatsStay.stopSpread (s : State) (core cause : Nat) (report : Bool) : MatsStay s (s.stopSpread core cause report) := by
  unfold State.stopSpread
  extract_lets s0 rose s1
  have h1 : MatsStay s s1 := (MatsStay.follow s core _).trans (.raiseStall ..)
  clear_value s1
  split
  · exact h1
  · extract_lets s2 frozen
    have hround (l : List Nat) : MatsStay s1 (l.foldl (fun s c => if c = core then s else (s.modCore c fun k => k.follow (stopCode 0 true)).raiseStall c rose) s1) :=
      foldl_keeps (MatsStay s1) _ l (fun t c _ ht => .ite ht (ht.trans ((MatsStay.follow t c _).trans (.raiseStall ..)))) s1 (.refl s1)
    have h2 : MatsStay s s2 := by
      dsimp only [s2]
      split
      · exact .ite (h1.trans (hround _)) h1
      · exact h1
    clear_value s2 frozen
    refine .ite (h2.trans ((MatsStay.modCore s2 core fun k => ?_).trans (.faultCmd ..))) h2
    dsimp only
    split <;> rfl

/-- A stop of a core's matrix stream leaves it at its cycle and its word. -/
theorem matStop_stays (s : State) (core cause stopCycle : Nat) (report : Bool) :
    ∃ latch mldi n, ((s.matStop core cause stopCycle report).core core).ms = { (s.core core).ms.halted cause stopCycle report with latch := latch, mldi := mldi, atStop := n } := by
  rw [State.matStop_eq]
  obtain ⟨latch, mldi, hms⟩ := (s.core core).matHalted_ms cause stopCycle report
  have hcore : ((s.matHalted core cause stopCycle report).core core).ms = _ := (congrArg Core.ms ((s.core_matHalted core cause stopCycle report core).trans (if_pos rfl))).trans hms
  have hstay := ((MatsStay.trace (s.matHalted core cause stopCycle report) core 3 4 4 stopCycle ((s.core core).matHalted cause stopCycle report).ms.pc cause).trans
    (.stopSpread _ core cause report)).ms core
  rw [hcore] at hstay
  generalize State.stopSpread _ core cause report = t at hstay ⊢
  exact ⟨latch, mldi, (t.core core).ms.atStop, congrArg (fun m : MStream => { m with atStop := (t.core core).ms.atStop }) hstay⟩

end

/-! ### Obligation O34 -/

/-- The last cycle of a word that nothing stops, at the core. -/
theorem exec_matrixStepLastCycle_lands {s : State} {core : Nat} {st : MatStep} {w : List (Nat × Elem) × Nat} (hl : LastCycle s core st w)
    (hrun : (s.core core).ms.st = .running) (hv : (s.core core).vectorFirst = false) (hheld : s.matHeld core = false) :
    ∃ t lead q, exec (.matrixStepLastCycle core) s = .next t ∧ t.core core = { (s.core core).stepLanded st w.1 (st.flags ||| w.2) lead with vq := q } ∧ SameMemory s t := by
  obtain ⟨lead, hlast⟩ := State.matLast_eq hl
  obtain ⟨hmem, -, hcore⟩ := State.stepEscaped_core (s.setCore core ((s.core core).stepLanded st w.1 (st.flags ||| w.2) lead)) core st
  obtain ⟨q, hq⟩ := hcore core
  rw [State.core_setCore_same] at hq
  refine ⟨s.matLast core, lead, q, ?_, by rw [hlast, hq], sameMemory_of_mem (by rw [hlast, hmem]; rfl)⟩
  show execMatrixStepLastCycle core s = _
  exact if_pos ⟨hrun, hv, hheld⟩

theorem exec_illegalMatrixWord_stops (s : State) (w : Nat) :
    ∃ t, exec (.illegalMatrixWord w) s = .next t ∧ t.ms.st = .stopped ∧ t.ms.cause = 0x01 ∧ t.ms.cycle = s.ms.cycle ∧ t.ms.pc = s.ms.pc := by
  obtain ⟨latch, mldi, n, hn⟩ := matStop_stays s s.focus.core 0x01 s.ms.cycle true
  have hfocus : (s.matStop s.focus.core 0x01 s.ms.cycle true).focus = s.focus := by
    obtain ⟨m, hm⟩ := s.matHalted_eq s.focus.core 0x01 s.ms.cycle true
    rw [State.matStop_eq, (CtxsKept.stopSpread ..).focus, (State.trace_core ..).1, hm]
    rfl
  refine ⟨_, rfl, ?_⟩
  show (s.matStop s.focus.core 0x01 s.ms.cycle true).ms.st = _ ∧ (s.matStop s.focus.core 0x01 s.ms.cycle true).ms.cause = _ ∧
    (s.matStop s.focus.core 0x01 s.ms.cycle true).ms.cycle = _ ∧ (s.matStop s.focus.core 0x01 s.ms.cycle true).ms.pc = _
  rw [State.ms, State.here, hfocus, hn]
  exact ⟨rfl, rfl, rfl, rfl⟩

/-- Settles O34: the core behind a last cycle is `Core.stepLanded`, and a stop writes the frame and keeps the stream. -/
theorem matrixWordsEnd : Obligations.MatrixWordsEnd := by
  unfold Obligations.MatrixWordsEnd
  refine ⟨fun s core st hrun hst hp => ?_, fun s core f rest hst hm hp hr hh => exec_mldiLanding_ready hst hm hp hr hh, fun s w => rfl, exec_illegalMatrixWord_stops,
    fun s core cause stopCycle j hj hfrozen hthere hgroup hoff hone => ?_⟩
  · intro k w flags hstop hfence ha hirq hv hheld hz hf ht
    obtain ⟨t, lead, q, he, hcore, hmem⟩ := exec_matrixStepLastCycle_lands ⟨hst, hp, rfl, hstop, hfence, ha, hirq, hz, hf, ht⟩ hrun hv hheld
    have hacc : (t.core core).acc = (k.writeAcc w.1).acc := by rw [hcore]; rfl
    refine ⟨t, he, by rw [hcore]; rfl, by rw [hcore]; rfl, by rw [hcore]; rfl, by rw [hcore]; rfl, fun q => ?_, hmem, ?_⟩
    · rw [hcore]
      exact Core.token_stepLanded k st w.1 flags lead q
    · rw [hacc]
      dsimp only [w]
      cases st.writes with
      | nothing => rfl
      | zeros es => exact fun hes n => Core.get_acc_zeros k st.tile st.slotC.toNat hes n
      | sums acc integer es =>
        exact fun hnodup _ => ⟨fun p hp => Core.get_acc_sums k st.tile st.slotC.toNat acc integer hnodup hp,
          fun n hn => Core.get_acc_sums_other k st.tile st.slotC.toNat acc integer hn⟩
  · have hown : s.StopIsOwn core := fun j' hj' => by
      obtain rfl : j = j' := Option.some.inj (hj.symm.trans hj')
      exact ⟨hgroup, hfrozen, hthere⟩
    intro t m
    have hms : (t.core core).ms = m.halted cause stopCycle true := State.ms_matStop_own hown hoff hone cause stopCycle
    have hcore := State.core_matStop_own hown hoff hone cause stopCycle
    have hacc : (t.core core).acc = (s.core core).acc := by rw [hcore]; rfl
    have hjob : (t.core core).job = some j := by rw [hcore]; exact hj
    rw [hms]
    exact ⟨rfl, rfl, rfl, rfl, rfl, rfl, rfl, rfl, rfl, rfl, hacc, hjob, State.queue_matStop hown hoff hone cause stopCycle,
      fun c hc => State.core_matStop_other hown hoff cause stopCycle hc, State.readD_matStop hown hoff hone cause stopCycle (i := 0) rfl (by decide),
      State.readD_matStop hown hoff hone cause stopCycle (i := 1) rfl (by decide), State.readD_matStop hown hoff hone cause stopCycle (i := 2) rfl (by decide),
      State.owedAt_matStop hown hoff hone cause stopCycle hj⟩

end Sys2Proof.Machine

/-! # Pre-emption of a core and its resume (10 R248, R249) -/

namespace Sys2Proof.Machine
open Sys2Proof Sys2Proof.Spec

/-! ### PCTL -/

section
variable {s : State} {core : Nat}

theorem Tbl.get_map {α : Type} (d : α) (f : α → α) (hd : f d = d) (t : Tbl α) (k : Nat) : Tbl.get d (t.map fun p => (p.1, f p.2)) k = f (Tbl.get d t k) := by
  induction t with
  | nil => exact hd.symm
  | cons e t ih =>
    rw [List.map_cons, Tbl.get, Tbl.get, ih]
    split <;> rfl

/-- The kernels of a queue once those that hold a core are pre-empted (14 R296). -/
theorem State.kq_preemptKernels (s : State) (core q : Nat) : (s.preemptKernels core).kq q =
    (s.kq q).map fun k => if (k.st = .armed ∨ k.st = .running) ∧ core ∈ recCores k.record then { k with st := .preempted } else k :=
  Tbl.get_map _ (List.map _) rfl ..

theorem State.preempt_idle_unmapped (hst : (s.core core).preempt.state = 0) (hp : (s.core core).preempt.psnap = 0) :
    s.preempt core = s.setCore core { s.core core with preempt := { (s.core core).preempt with refused := true } } := by
  unfold State.preempt
  rw [if_neg (not_not_intro hst), if_pos hp]

/-- The core of a pre-emption that is not refused: its running streams have the stop with 0x10 ahead of them. -/
def Core.preempting (k : Core) : Core :=
  { k with
    preempt := { k.preempt with state := 1, streams := decide (k.vs.st = .running) || decide (k.ms.st = .running) }
    vs := if k.vs.st = .running ∧ k.vs.atStop = 0 then { k.vs with atStop := stopCode 0x10 false } else k.vs
    ms := if k.ms.st = .running ∧ k.ms.atStop = 0 then { k.ms with atStop := stopCode 0x10 false } else k.ms }

theorem State.preempt_idle_mapped (hst : (s.core core).preempt.state = 0) (hp : (s.core core).preempt.psnap ≠ 0) :
    s.preempt core = (s.preemptKernels core).setCore core (s.core core).preempting := by
  unfold State.preempt
  rw [if_neg (not_not_intro hst), if_neg hp]
  rfl

theorem Core.preempting_vs {k : Core} (hr : k.vs.st = .running) (ha : k.vs.atStop = 0) : k.preempting.vs.atStop = 17 := by
  rw [Core.preempting, if_pos ⟨hr, ha⟩]
  rfl

theorem Core.preempting_ms {k : Core} (hr : k.ms.st = .running) (ha : k.ms.atStop = 0) : k.preempting.ms.atStop = 17 := by
  rw [Core.preempting]
  dsimp only
  rw [if_pos ⟨hr, ha⟩]
  rfl

theorem exec_pctlPreempt_refused (hst : (s.core core).preempt.state = 0) (hp : (s.core core).preempt.psnap = 0) :
    ∃ t, exec (.pctlPreempt core) s = .next t ∧ (t.core core).preempt = { (s.core core).preempt with refused := true } ∧ (t.core core).vs = (s.core core).vs ∧
      SameMemory s t := by
  refine ⟨s.preempt core, rfl, ?_⟩
  rw [State.preempt_idle_unmapped hst hp, State.core_setCore_same]
  exact ⟨rfl, rfl, sameMemory_of_mem rfl⟩

theorem exec_pctlPreempt_accepted (hst : (s.core core).preempt.state = 0) (hp : (s.core core).preempt.psnap ≠ 0) :
    ∃ t, exec (.pctlPreempt core) s = .next t ∧ (t.core core).preempt.state = 1 ∧ SameMemory s t ∧
      (∀ q, t.kq q = (s.kq q).map fun v => if (v.st = .armed ∨ v.st = .running) ∧ core ∈ recCores v.record then { v with st := .preempted } else v) ∧
      ((s.core core).vs.st = .running → (s.core core).vs.atStop = 0 → (t.core core).vs.atStop = 17) ∧
      ((s.core core).ms.st = .running → (s.core core).ms.atStop = 0 → (t.core core).ms.atStop = 17) := by
  refine ⟨s.preempt core, rfl, ?_⟩
  rw [State.preempt_idle_mapped hst hp, State.core_setCore_same]
  exact ⟨rfl, sameMemory_of_mem rfl, State.kq_preemptKernels s core, Core.preempting_vs, Core.preempting_ms⟩

theorem exec_pctlPreempt_busy (hst : (s.core core).preempt.state ≠ 0) : exec (.pctlPreempt core) s = .next s := by
  show Host.Outcome.next (s.preempt core) = _
  unfold State.preempt
  rw [if_pos hst]

theorem exec_pctlResume_saved (hst : (s.core core).preempt.state = 2) :
    ∃ t, exec (.pctlResume core) s = .next t ∧ (t.core core).preempt.state = 3 ∧ SameMemory s t := by
  refine ⟨s.resume core, rfl, ?_, sameMemory_of_mem rfl⟩
  rw [State.resume, State.core_modCore_same, if_pos hst]

end

/-! ### The contexts at their save (10 R248 step 4) -/

/-- Whether a context is stopped by the save: it runs, waits or handles a trap. -/
def Ctx.live (c : Ctx) : Prop := c.st = .running ∨ c.st = .waiting ∨ c.st = .handler

theorem State.writeFrame_cores (s : State) (core ctx : Nat) (ret tstat tinfo : Word) : (s.writeFrame core ctx ret tstat tinfo).cores = s.cores := by
  rw [State.writeFrame_rest]

theorem State.saveCtx_live {s : State} {core n : Nat} (h : (s.ctx core n).live) : s.saveCtx core n =
    (((s.drain core n).writeFrame core n (s.ctx core n).pc (s.ctx core n).tstat (s.ctx core n).tinfo).modCtx core n fun c =>
      { c with st := .saved, savedSt := c.st }).dropWaiter core n := if_pos h

/-- The state of a context that a save of its core stops, and the state that the save keeps for its resume. -/
theorem State.st_saveCtx_same {s : State} {core n : Nat} (h : (s.ctx core n).live) :
    ((s.saveCtx core n).ctx core n).st = .saved ∧ ((s.saveCtx core n).ctx core n).savedSt = (s.ctx core n).st := by
  have hd := (Kept.drain s core n).ctx core n
  rw [State.saveCtx_live h]
  have hw := State.ctx_dropWaiter (((s.drain core n).writeFrame core n (s.ctx core n).pc (s.ctx core n).tstat (s.ctx core n).tinfo).modCtx core n
    fun c => { c with st := .saved, savedSt := c.st }) core n
  rw [State.ctx_modCtx_same, State.ctx_of_cores (State.writeFrame_cores ..)] at hw
  rw [hw.rest]
  exact ⟨rfl, hd.st_eq⟩

/-- A waiter that is dropped touches no other context but through the flip that it held up (16 R314). -/
theorem CtxKept.dropWaiter_other (s : State) {core n k m : Nat} (h : ¬(k = core ∧ m = n)) : CtxKept (s.ctx k m) ((s.dropWaiter core n).ctx k m) := by
  have hdrop : Kept (s.modCtx core n fun c => { c with waiter := none, block := none }) (s.dropWaiter core n) := by
    unfold State.dropWaiter
    dsimp only
    split
    · exact .clearFlip ..
    · exact .refl _
  have hk := hdrop.ctx k m
  rwa [State.ctx_modCtx_other _ _ _ _ _ _ h] at hk

/-- The save of one context leaves the states of the others. -/
theorem State.saveCtx_other (s : State) {core n m : Nat} (h : m ≠ n) : CtxKept (s.ctx core m) ((s.saveCtx core n).ctx core m) := by
  have hm : ¬(core = core ∧ m = n) := fun e => h e.2
  unfold State.saveCtx
  dsimp only
  split
  · refine .trans ?_ (CtxKept.dropWaiter_other _ hm)
    rw [State.ctx_modCtx_other _ _ _ _ _ _ hm, State.ctx_of_cores (State.writeFrame_cores ..)]
    exact (Kept.drain s core n).ctx core m
  · exact .refl _

theorem Ctx.live_of_kept {c d : Ctx} (h : CtxKept c d) (hc : c.live) : d.live := by
  unfold Ctx.live
  rw [h.st_eq]
  exact hc

theorem CtxKept.savedSt_eq {c d : Ctx} (h : CtxKept c d) : d.savedSt = c.savedSt := by rw [h.rest]

/-- A fold over distinct numbers takes the step of n once; the relation R, which every other step keeps, holds up to that step and from it on. -/
theorem foldl_visits {R : State → State → Prop} (hrefl : ∀ t, R t t) (htrans : ∀ t u v, R t u → R u v → R t v) {f : State → Nat → State} {n : Nat}
    (hother : ∀ t m, n ≠ m → R t (f t m)) {ns : List Nat} (hnd : ns.Nodup) (hn : n ∈ ns) (s : State) : ∃ t, R s t ∧ R (f t n) (ns.foldl f s) := by
  have hkeep (l : List Nat) (hl : n ∉ l) (u : State) : R u (l.foldl f u) :=
    foldl_keeps (R u) f l (fun v m hm hv => htrans _ _ _ hv (hother v m (ne_of_mem_of_not_mem hm hl).symm)) u (hrefl u)
  obtain ⟨a, b, rfl⟩ := List.append_of_mem hn
  obtain ⟨-, hb, hab⟩ := List.nodup_append.1 hnd
  rw [List.foldl_append, List.foldl_cons]
  exact ⟨_, hkeep a (fun ha => hab n ha n List.mem_cons_self rfl) s, hkeep b (List.nodup_cons.1 hb).1 _⟩

/-- Every context that the save of a core comes to is saved, in whatever order it comes to them. -/
theorem State.st_saveCtxs {core n : Nat} {ns : List Nat} (hnd : ns.Nodup) (hn : n ∈ ns) {s : State} (h : (s.ctx core n).live) :
    ((ns.foldl (fun s n => s.saveCtx core n) s).ctx core n).st = .saved ∧
      ((ns.foldl (fun s n => s.saveCtx core n) s).ctx core n).savedSt = (s.ctx core n).st := by
  obtain ⟨t, hbefore, hafter⟩ := foldl_visits (R := fun t u => CtxKept (t.ctx core n) (u.ctx core n)) (fun _ => .refl _) (fun _ _ _ => .trans)
    (f := fun s n => s.saveCtx core n) (fun t _ hm => t.saveCtx_other hm) hnd hn s
  obtain ⟨hst, hsv⟩ := State.st_saveCtx_same (Ctx.live_of_kept hbefore h)
  exact ⟨hafter.st_eq.trans hst, hafter.savedSt_eq.trans (hsv.trans hbefore.st_eq)⟩

/-! ### The queues at their save (10 R248 step 5) -/

/-- No command of a queue is still to be issued. -/
def Queue.settled (v : Queue) : Prop := ∀ e ∈ v.entries, e.unissued = false

/-- A core's queues are part of the core. -/
theorem State.queue_of_cores {s t : State} {core : Nat} {q : QueueId} (hq : q ∈ coreQueues core) (h : t.cores = s.cores) : t.queue q = s.queue q := by
  have hc := State.core_of_cores h core
  simp only [coreQueues, List.mem_cons, List.not_mem_nil, or_false] at hq
  rcases hq with rfl | rfl | rfl
  · exact congrArg Core.mq hc
  · exact congrArg Core.vq hc
  · exact congrArg Core.cq hc

theorem State.queue_modQueue_other (s : State) {core : Nat} {q r : QueueId} (hq : q ∈ coreQueues core) (hr : r ∈ coreQueues core) (h : r ≠ q) (f : Queue → Queue) :
    (s.modQueue q f).queue r = s.queue r := by
  simp only [coreQueues, List.mem_cons, List.not_mem_nil, or_false] at hq hr
  rcases hq with rfl | rfl | rfl
  · have hk := State.core_modCore_same s core fun k => { k with mq := f ((s.core core).mq) }
    rcases hr with rfl | rfl | rfl
    exacts [absurd rfl h, (congrArg Core.vq hk :), (congrArg Core.cq hk :)]
  · have hk := State.core_modCore_same s core fun k => { k with vq := f ((s.core core).vq) }
    rcases hr with rfl | rfl | rfl
    exacts [(congrArg Core.mq hk :), absurd rfl h, (congrArg Core.cq hk :)]
  · have hk := State.core_modCore_same s core fun k => { k with cq := f ((s.core core).cq) }
    rcases hr with rfl | rfl | rfl
    exacts [(congrArg Core.mq hk :), (congrArg Core.vq hk :), absurd rfl h]

theorem State.snapLoc_cores {s t : State} {core off l : Nat} (h : s.snapLoc core off = some (l, t)) : t.cores = s.cores := by
  unfold State.snapLoc at h
  split at h
  · next hp =>
    cases h
    exact (State.pagedAccess_cores _ _ _ _ _ _ _ hp).1
  · cases h

theorem State.writeSnap_cores (core : Nat) (vs : List Word) (s : State) (off : Nat) : (s.writeSnap core off vs).cores = s.cores := by
  induction vs generalizing s off with
  | nil => rfl
  | cons v vs ih =>
    unfold State.writeSnap
    split
    · next h => rw [ih, State.writeD_cores, State.snapLoc_cores h]
    · exact ih ..

theorem State.ctx_modQueue (s : State) (q : QueueId) (f : Queue → Queue) (k n : Nat) : (s.modQueue q f).ctx k n = s.ctx k n := by
  cases q with
  | mq c => exact State.ctx_modCore s c (f := fun k => { k with mq := f ((s.core c).mq) }) rfl k n
  | vq c => exact State.ctx_modCore s c (f := fun k => { k with vq := f ((s.core c).vq) }) rfl k n
  | cq c => exact State.ctx_modCore s c (f := fun k => { k with cq := f ((s.core c).cq) }) rfl k n
  | oq u => rfl
  | lq d => rfl

/-- A command that the save has written to its queue's save area. -/
def Entry.saved (e : Entry) : Entry := { e with st := .saved }

/-- Saving a command marks it in its queue; all else that it writes is memory. -/
theorem State.saveEntry_eq (s : State) (core : Nat) (q : QueueId) (j : Nat) (e : Entry) :
    ∃ u : State, u.cores = s.cores ∧ s.saveEntry core q j e = u.modQueue q fun v => v.modEntry e.seq Entry.saved := by
  unfold State.saveEntry
  dsimp only
  refine ⟨_, ?_, rfl⟩
  split
  · rw [State.writeSnap_cores, State.writeDs_cores]
  · exact State.writeDs_cores ..

theorem State.ctx_saveEntry (s : State) (core : Nat) (q : QueueId) (j : Nat) (e : Entry) (k n : Nat) : (s.saveEntry core q j e).ctx k n = s.ctx k n := by
  obtain ⟨u, hu, he⟩ := s.saveEntry_eq core q j e
  rw [he, State.ctx_modQueue, State.ctx_of_cores hu]

theorem State.ctx_saveQueue (s : State) (core : Nat) (q : QueueId) (k n : Nat) : (s.saveQueue core q).ctx k n = s.ctx k n :=
  foldl_keeps (fun t : State => t.ctx k n = s.ctx k n) _ _ (fun t p _ ht => (t.ctx_saveEntry core q p.2 p.1 k n).trans ht) s rfl

section
variable {s : State} {core : Nat} {q r : QueueId}

theorem State.queue_saveEntry_same (hq : q ∈ coreQueues core) (j : Nat) (e : Entry) :
    (s.saveEntry core q j e).queue q = (s.queue q).modEntry e.seq Entry.saved := by
  obtain ⟨u, hu, he⟩ := s.saveEntry_eq core q j e
  rw [he, State.queue_modQueue_same, State.queue_of_cores hq hu]

theorem State.queue_saveEntry_other (hq : q ∈ coreQueues core) (hr : r ∈ coreQueues core) (h : r ≠ q) (j : Nat) (e : Entry) :
    (s.saveEntry core q j e).queue r = s.queue r := by
  obtain ⟨u, hu, he⟩ := s.saveEntry_eq core q j e
  rw [he, State.queue_modQueue_other u hq hr h, State.queue_of_cores hr hu]

theorem Queue.mem_modEntry {v : Queue} {seq : Nat} {f : Entry → Entry} {e : Entry} (h : e ∈ (v.modEntry seq f).entries) :
    (∃ d, e = f d) ∨ e ∈ v.entries ∧ e.seq ≠ seq := by
  obtain ⟨d, hd, rfl⟩ := List.mem_map.1 h
  split
  · exact .inl ⟨d, rfl⟩
  · next hs => exact .inr ⟨hd, hs⟩

theorem Queue.settled_modEntry {v : Queue} (h : v.settled) (seq : Nat) : (v.modEntry seq Entry.saved).settled := by
  intro e he
  rcases Queue.mem_modEntry he with ⟨d, rfl⟩ | ⟨he, -⟩
  · rfl
  · exact h e he

/-- A save of one queue leaves no command to be issued in a queue that had none. -/
theorem State.saveQueue_keeps_settled (hq : q ∈ coreQueues core) (hr : r ∈ coreQueues core) (h : (s.queue r).settled) : ((s.saveQueue core q).queue r).settled := by
  refine foldl_keeps (fun t : State => (t.queue r).settled) _ _ (fun t p _ ht => ?_) s h
  by_cases hrq : r = q
  · rw [hrq] at ht ⊢
    rw [State.queue_saveEntry_same hq]
    exact Queue.settled_modEntry ht _
  · rw [State.queue_saveEntry_other hq hr hrq]
    exact ht

/-- Once each command to be issued has been saved, none is left. -/
theorem State.settled_saveEntries (hq : q ∈ coreQueues core) (ps : List (Entry × Nat)) {s : State}
    (h : ∀ e ∈ (s.queue q).entries, e.unissued = true → ∃ p ∈ ps, p.1.seq = e.seq) :
    ((ps.foldl (fun s p => s.saveEntry core q p.2 p.1) s).queue q).settled := by
  induction ps generalizing s with
  | nil =>
    intro e he
    cases hu : e.unissued with
    | false => rfl
    | true =>
      obtain ⟨p, hp, -⟩ := h e he hu
      cases hp
  | cons p ps ih =>
    refine ih fun e he hu => ?_
    rw [State.queue_saveEntry_same hq] at he
    rcases Queue.mem_modEntry he with ⟨d, rfl⟩ | ⟨he, hne⟩
    · cases hu
    · obtain ⟨p', hp', hs⟩ := h e he hu
      rcases List.mem_cons.1 hp' with rfl | hp'
      · exact absurd hs.symm hne
      · exact ⟨p', hp', hs⟩

theorem State.saveQueue_settles (hq : q ∈ coreQueues core) : ((s.saveQueue core q).queue q).settled := by
  refine State.settled_saveEntries hq _ fun e he hu => ?_
  have hmem : e ∈ ((s.queue q).entries.filter Entry.unissued).zipIdx.map Prod.fst := by
    rw [List.zipIdx_map_fst]
    exact List.mem_filter.2 ⟨he, hu⟩
  obtain ⟨p, hp, rfl⟩ := List.mem_map.1 hmem
  exact ⟨p, hp, rfl⟩

theorem State.saveQueues_settle (hr : r ∈ coreQueues core) (qs : List QueueId) (hqs : qs ⊆ coreQueues core) {s : State} (h : r ∈ qs ∨ (s.queue r).settled) :
    ((qs.foldl (fun s q => s.saveQueue core q) s).queue r).settled := by
  induction qs generalizing s with
  | nil => exact h.resolve_left List.not_mem_nil
  | cons q qs ih =>
    have hq : q ∈ coreQueues core := hqs List.mem_cons_self
    refine ih (fun x hx => hqs (List.mem_cons_of_mem _ hx)) ?_
    rcases h with h | h
    · rcases List.mem_cons.1 h with rfl | h
      · exact .inr (State.saveQueue_settles hq)
      · exact .inl h
    · exact .inr (State.saveQueue_keeps_settled hq hr h)

end

/-! ### PREEMPT_SAVED -/

/-- The core with its contexts and its queues saved and the cut written. -/
def State.savedCore (s : State) (core : Nat) : State :=
  let t := (coreQueues core).foldl (fun s q => s.saveQueue core q) ([0, 1, 2].foldl (fun s n => s.saveCtx core n) s)
  t.writeSnap core 98304 ((coreQueues core).map fun q => BitVec.ofNat 64 (t.queue q).cut)

section
variable {s : State} {core : Nat}

theorem exec_preemptSaved_drained (hst : (s.core core).preempt.state = 1) (hd : (s.core core).drained = true) :
    exec (.preemptSaved core) s = .next (((s.savedCore core).modCore core fun k => { k with preempt := { k.preempt with state := 2 } }).hirq 6) := by
  show execPreemptSaved core s = _
  unfold execPreemptSaved
  dsimp only
  rw [if_neg (by rw [hst, hd]; decide)]
  rfl

theorem State.ctx_savedCore (n : Nat) : (s.savedCore core).ctx core n = ([0, 1, 2].foldl (fun s n => s.saveCtx core n) s).ctx core n := by
  unfold State.savedCore
  rw [State.ctx_of_cores (State.writeSnap_cores ..)]
  exact foldl_keeps (fun t : State => t.ctx core n = ([0, 1, 2].foldl (fun s n => s.saveCtx core n) s).ctx core n) _ _
    (fun t q _ ht => (t.ctx_saveQueue core q core n).trans ht) _ rfl

theorem State.settled_savedCore {q : QueueId} (hq : q ∈ coreQueues core) : ((s.savedCore core).queue q).settled := by
  unfold State.savedCore
  rw [State.queue_of_cores hq (State.writeSnap_cores ..)]
  exact State.saveQueues_settle hq _ (List.Subset.refl _) (.inl hq)

theorem State.ctx_modCore_preempt (s : State) (core : Nat) (f : Core → Preempt) (c n : Nat) :
    (s.modCore core fun k => { k with preempt := f k }).ctx c n = s.ctx c n := State.ctx_modCore s core rfl c n

theorem State.queue_modCore_preempt (s : State) (core : Nat) (f : Core → Preempt) (q : QueueId) :
    (s.modCore core fun k => { k with preempt := f k }).queue q = s.queue q := State.queue_modCore s core rfl q

theorem State.core_hirq (s : State) (b c : Nat) : (s.hirq b).core c = s.core c := rfl

theorem State.ctx_hirq (s : State) (b c n : Nat) : (s.hirq b).ctx c n = s.ctx c n := rfl

theorem State.queue_hirq (s : State) (b : Nat) (q : QueueId) : (s.hirq b).queue q = s.queue q := State.queue_of_core (fun _ => rfl) rfl rfl q

theorem State.bitOf_hirq (s : State) (b : Nat) : bitOf (s.hirq b).mgmt.hirqPending b = true := by
  rw [bitOf_eq_testBit, State.hirq, Nat.testBit_or, Nat.testBit_two_pow_self, Bool.or_true]

theorem exec_preemptSaved_saves (hst : (s.core core).preempt.state = 1) (hd : (s.core core).drained = true) :
    ∃ t, exec (.preemptSaved core) s = .next t ∧ (t.core core).preempt.state = 2 ∧ bitOf t.mgmt.hirqPending 6 = true ∧
      (∀ n, n < 3 → (s.ctx core n).live → (t.ctx core n).st = .saved ∧ (t.ctx core n).savedSt = (s.ctx core n).st) ∧
      ∀ q ∈ coreQueues core, (t.queue q).settled := by
  refine ⟨_, exec_preemptSaved_drained hst hd, ?_, State.bitOf_hirq .., fun n hn hl => ?_, fun q hq => ?_⟩
  · rw [State.core_hirq, State.core_modCore_same]
  · rw [State.ctx_hirq, State.ctx_modCore_preempt, State.ctx_savedCore]
    exact State.st_saveCtxs (by decide) (by simp; omega) hl
  · rw [State.queue_hirq, State.queue_modCore_preempt]
    exact State.settled_savedCore hq

end

/-! ### RESUME_SETTLED -/

/-- A context that comes back as it was saved, its registers and the arrival that it had pending read from its frame in s (10 R248, 16 R315). -/
structure ContextBack (s : State) (core n : Nat) (c : Ctx) : Prop where
  st : c.st = (s.ctx core n).savedSt
  pc : c.pc = s.readD (frameLoc core n + 0x108)
  bpend : c.bpend = Bpend.of (s.read (frameLoc core n + 0x148) 8)
  x : ∀ r, r < 32 → c.getX r = if r = 0 then 0 else s.readD (frameLoc core n + 8 * r)

theorem ContextBack.congr {s u : State} {core n : Nat} {c : Ctx} (hm : u.mem = s.mem) (hs : (u.ctx core n).savedSt = (s.ctx core n).savedSt)
    (h : ContextBack u core n c) : ContextBack s core n c where
  st := h.st.trans hs
  pc := h.pc.trans (State.readD_mem_congr hm _)
  bpend := h.bpend.trans (by rw [State.read_mem_congr hm])
  x r hr := (h.x r hr).trans (by rw [State.readD_mem_congr hm])

theorem Ctx.getX_congr {c d : Ctx} (h : d.x = c.x) (r : Nat) : d.getX r = c.getX r := by rw [Ctx.getX, Ctx.getX, h]

theorem Ctx.savedSt_loadX (c : Ctx) (v : Nat → Word) (m : Nat) : (c.loadX v m).savedSt = c.savedSt :=
  foldl_keeps (fun d : Ctx => d.savedSt = c.savedSt) _ _ (fun _ _ _ h => (Ctx.setX_savedSt ..).trans h) c rfl

theorem Ctx.savedSt_loadP (c : Ctx) (v : Nat → Bool) (m : Nat) : (c.loadP v m).savedSt = c.savedSt :=
  foldl_keeps (fun d : Ctx => d.savedSt = c.savedSt) _ _ (fun _ _ _ h => (Ctx.setP_savedSt ..).trans h) c rfl

theorem Ctx.savedSt_loadC (c : Ctx) (v : Nat → Word) (m : Nat) : (c.loadC v m).savedSt = c.savedSt :=
  foldl_keeps (fun d : Ctx => d.savedSt = c.savedSt) _ _ (fun _ _ _ h => (Ctx.setC_savedSt ..).trans h) c rfl

theorem State.savedSt_restored (s : State) (core ctx : Nat) : (s.restored core ctx).savedSt = (s.ctx core ctx).savedSt := by
  rw [State.restored, Ctx.savedSt_loadC, Ctx.savedSt_loadP, Ctx.savedSt_loadX]

theorem State.ctx_restoreRegs_other (s : State) {core n m : Nat} (h : m ≠ n) : (s.restoreRegs core n).ctx core m = s.ctx core m := by
  unfold State.restoreRegs
  dsimp only
  rw [State.ctx_modCore _ _ (by rw [Core.restoreCounters_rest]), State.ctx_modCtx_other _ _ _ _ _ _ fun e => h e.2]

theorem State.reloadCtx_mem (s : State) (core n : Nat) : (s.reloadCtx core n).mem = s.mem := by
  unfold State.reloadCtx
  split
  · rfl
  · rw [State.modCtx_mem, State.restoreRegs_mem]

theorem State.ctx_reloadCtx_other (s : State) {core n m : Nat} (h : m ≠ n) : (s.reloadCtx core n).ctx core m = s.ctx core m := by
  unfold State.reloadCtx
  split
  · rfl
  · rw [State.ctx_modCtx_other _ _ _ _ _ _ fun e => h e.2, State.ctx_restoreRegs_other s h]

theorem State.reloadCtx_back {s : State} {core n : Nat} (h : (s.ctx core n).st = .saved) : ContextBack s core n ((s.reloadCtx core n).ctx core n) := by
  unfold State.reloadCtx
  rw [if_neg (not_not_intro h)]
  dsimp only
  rw [State.ctx_modCtx_same, State.ctx_restoreRegs]
  have hs := s.savedSt_restored core n
  have hx := fun r (hr : r < 32) => s.getX_restored core n hr
  generalize s.restored core n = c at hs hx ⊢
  refine ⟨hs, rfl, rfl, fun r hr => (Ctx.getX_congr ?_ r).trans (hx r hr)⟩
  rfl

/-- Every saved context that the reload of a core comes to is back, in whatever order it comes to them. -/
theorem State.reloadCtxs_back {core n : Nat} {ns : List Nat} (hnd : ns.Nodup) (hn : n ∈ ns) {s : State} (h : (s.ctx core n).st = .saved) :
    ContextBack s core n ((ns.foldl (fun s n => s.reloadCtx core n) s).ctx core n) := by
  obtain ⟨t, ⟨hctx, hmem⟩, hafter, -⟩ := foldl_visits (R := fun t u => u.ctx core n = t.ctx core n ∧ u.mem = t.mem) (fun _ => ⟨rfl, rfl⟩)
    (fun _ _ _ h h' => ⟨h'.1.trans h.1, h'.2.trans h.2⟩) (f := fun s n => s.reloadCtx core n)
    (fun t m hm => ⟨t.ctx_reloadCtx_other hm, t.reloadCtx_mem core m⟩) hnd hn s
  rw [hafter]
  exact (State.reloadCtx_back (by rw [hctx]; exact h)).congr hmem (by rw [hctx])

theorem Kept.reloadQueue (s : State) (core : Nat) (q : QueueId) : Kept s (s.reloadQueue core q) :=
  .foldl _ _ (fun _ _ _ => .modQueue ..) s

theorem State.modQueue_mem (s : State) (q : QueueId) (f : Queue → Queue) : (s.modQueue q f).mem = s.mem := by cases q <;> rfl

theorem State.reloadQueue_mem (s : State) (core : Nat) (q : QueueId) : (s.reloadQueue core q).mem = s.mem :=
  foldl_mem _ _ (fun _ _ => State.modQueue_mem ..) s

theorem State.restartJob_of_no_job {s : State} {core : Nat} (h : (s.core core).job = none) : s.restartJob core = s := by
  unfold State.restartJob State.jobEntry
  rw [h, Option.bind_none]
  simp

theorem State.resumeKernels_mem (s : State) (core : Nat) : (s.resumeKernels core).mem = s.mem := rfl

theorem State.core_resumeKernels (s : State) (core c : Nat) : (s.resumeKernels core).core c = s.core c := rfl

theorem State.ctx_resumeKernels (s : State) (core c n : Nat) : (s.resumeKernels core).ctx c n = s.ctx c n := rfl

section
variable {s : State} {core : Nat}

/-- The state with the queues of a core reloaded. -/
def State.queuesBack (s : State) (core : Nat) : State := (coreQueues core).foldl (fun s q => s.reloadQueue core q) s

theorem Kept.queuesBack (s : State) (core : Nat) : Kept s (s.queuesBack core) := .foldl _ _ (fun _ _ _ => .reloadQueue ..) s

theorem State.queuesBack_mem (s : State) (core : Nat) : (s.queuesBack core).mem = s.mem := foldl_mem _ _ (fun _ _ => State.reloadQueue_mem ..) s

theorem exec_resumeSettled_no_job (hst : (s.core core).preempt.state = 3) (hj : (s.core core).job = none) : exec (.resumeSettled core) s =
    .next (((([0, 1, 2].foldl (fun s n => s.reloadCtx core n) (s.queuesBack core)).modCore core fun k =>
      { k with preempt := { k.preempt with state := 0, streams := false } }).resumeKernels core).hirq 6) := by
  have hjob : ((s.queuesBack core).core core).job = none := by rw [((Kept.queuesBack s core).core core).rest]; exact hj
  show execResumeSettled core s = _
  unfold execResumeSettled
  dsimp only
  rw [if_neg (not_not_intro hst), ← State.queuesBack, State.restartJob_of_no_job hjob]

theorem exec_resumeSettled_returns (hst : (s.core core).preempt.state = 3) (hj : (s.core core).job = none) :
    ∃ t, exec (.resumeSettled core) s = .next t ∧ (t.core core).preempt.state = 0 ∧ SameMemory s t ∧
      ∀ n, n < 3 → (s.ctx core n).st = .saved → ContextBack s core n (t.ctx core n) := by
  have hk := Kept.queuesBack s core
  refine ⟨_, exec_resumeSettled_no_job hst hj, ?_, sameMemory_of_mem ?_, fun n hn hs => ?_⟩
  · rw [State.core_hirq, State.core_resumeKernels, State.core_modCore_same]
  · rw [State.hirq_mem, State.resumeKernels_mem, State.modCore_mem, foldl_mem _ _ fun t m => t.reloadCtx_mem core m]
    exact s.queuesBack_mem core
  · rw [State.ctx_hirq, State.ctx_resumeKernels, State.ctx_modCore_preempt]
    exact (State.reloadCtxs_back (by decide) (by simp; omega) ((hk.ctx core n).st_eq.trans hs)).congr (s.queuesBack_mem core) (hk.ctx core n).savedSt_eq

end

/-! ### Obligation O52 -/

/-- Settles O52: the save comes to each context and queue of the core once, and the resume reads each context back from its frame. -/
theorem coresArePreempted : Obligations.CoresArePreempted := by
  unfold Obligations.CoresArePreempted
  refine ⟨fun s core => ⟨exec_pctlPreempt_refused, exec_pctlPreempt_accepted, exec_pctlPreempt_busy, exec_pctlResume_saved⟩,
    fun s core hst hd _ => exec_preemptSaved_saves hst hd, fun s core hst hj _ => ?_⟩
  obtain ⟨t, he, hp, hm, hb⟩ := exec_resumeSettled_returns hst hj
  exact ⟨t, he, hp, hm, fun n hn hs => ⟨(hb n hn hs).st, (hb n hn hs).pc, (hb n hn hs).bpend, (hb n hn hs).x⟩⟩

end Sys2Proof.Machine

/-! # The undo log's bytes and reverse motion (22 R385, R387, R391 to R394) -/

namespace Sys2Proof.Machine
open Sys2Proof Sys2Proof.Spec

/-! ### The move of the oldest staged record (22 R387) -/

section
variable {s : State} {core ctx : Nat} {r : Rec}

/-- The first word of a record's header, which for a checkpoint holds its window's state (22 R385). -/
def UndoLog.headWord (l : UndoLog) (r : Rec) : Word := (r.header l.windows).headD 0

/-- The only record moved to LOGHEAD. -/
def UndoLog.movedOnly (l : UndoLog) (r : Rec) : UndoLog :=
  { l with recs := [{ r with at_ := some l.head.toNat, put := some (l.head.toNat, l.headWord r) }], head := BitVec.ofNat 64 ((l.head.toNat + r.bytes) % l.room) }

theorem UndoLog.moved_staged {l : UndoLog} (hl : l.recs = [r]) (ha : r.at_ = none) : l.moved = 0 := by
  simp [UndoLog.moved, hl, ha]

theorem State.moveRec_alone (hl : (s.ctx core ctx).log.recs = [r]) (ha : r.at_ = none) : s.moveRec core ctx =
    if (s.ctx core ctx).log.room < r.bytes then s
    else (s.logWrite (s.ctx core ctx).log (s.ctx core ctx).log.head.toNat (r.header (s.ctx core ctx).log.windows ++ r.body)).elim
      (s.modCtx core ctx fun c => { c with log := (s.ctx core ctx).log.disable })
      fun t => t.modCtx core ctx fun c => { c with log := (s.ctx core ctx).log.movedOnly r } := by
  have hfind : (s.ctx core ctx).log.recs.find? (fun r => r.at_.isNone) = some r := by rw [hl, List.find?_cons_of_pos (by rw [ha]; rfl)]
  have htake : (s.ctx core ctx).log.recs.takeWhile (fun r => r.at_.isSome) = [] := by rw [hl, List.takeWhile_cons_of_neg (by rw [ha]; decide)]
  unfold State.moveRec
  dsimp only
  rw [hfind]
  dsimp only
  rw [UndoLog.moved_staged hl ha, Nat.zero_add, htake, hl]
  cases s.logWrite (s.ctx core ctx).log (s.ctx core ctx).log.head.toNat (r.header (s.ctx core ctx).log.windows ++ r.body) <;> rfl

theorem exec_logRecordMove_full (hl : (s.ctx core ctx).log.recs = [r]) (ha : r.at_ = none) (hr : (s.ctx core ctx).log.room < r.bytes) :
    exec (.logRecordMove core ctx) s = .next s := by
  show Host.Outcome.next (s.moveRec core ctx) = _
  rw [State.moveRec_alone hl ha, if_pos hr]

theorem exec_logRecordMove_moves {u : State} (hl : (s.ctx core ctx).log.recs = [r]) (ha : r.at_ = none) (hr : r.bytes ≤ (s.ctx core ctx).log.room)
    (hw : s.logWrite (s.ctx core ctx).log (s.ctx core ctx).log.head.toNat (r.header (s.ctx core ctx).log.windows ++ r.body) = some u) :
    exec (.logRecordMove core ctx) s = .next (u.modCtx core ctx fun c => { c with log := (s.ctx core ctx).log.movedOnly r }) := by
  show Host.Outcome.next (s.moveRec core ctx) = _
  rw [State.moveRec_alone hl ha, if_neg (Nat.not_lt.2 hr), hw, Option.elim_some]

theorem exec_logRecordMove_disables (hl : (s.ctx core ctx).log.recs = [r]) (ha : r.at_ = none) (hr : r.bytes ≤ (s.ctx core ctx).log.room)
    (hw : s.logWrite (s.ctx core ctx).log (s.ctx core ctx).log.head.toNat (r.header (s.ctx core ctx).log.windows ++ r.body) = none) :
    exec (.logRecordMove core ctx) s = .next (s.modCtx core ctx fun c => { c with log := (s.ctx core ctx).log.disable }) := by
  show Host.Outcome.next (s.moveRec core ctx) = _
  rw [State.moveRec_alone hl ha, if_neg (Nat.not_lt.2 hr), hw, Option.elim_none]

theorem UndoLog.disable_staged {l : UndoLog} (hl : l.recs = [r]) (ha : r.at_ = none) : l.disable.recs = [] := by
  rw [UndoLog.disable, hl, List.filter_cons_of_neg (by rw [ha]; decide), List.filter_nil]

/-! ### What memory holds of a record (22 R385, R387) -/

/-- A log whose only record is small enough for the staging area: bringing it up to date stages that record. -/
theorem State.settleLog_alone (hl : (s.ctx core ctx).log.recs = [r]) (hd : (s.ctx core ctx).log.dead = []) (hs : (s.ctx core ctx).log.staged ≤ 4096) :
    s.settleLog core ctx =
      (s.stageRec core ctx (s.ctx core ctx).log (s.ctx core ctx).log.head.toNat r).1.modCtx core ctx fun c =>
        { c with log := { c.log with recs := [(s.stageRec core ctx (s.ctx core ctx).log (s.ctx core ctx).log.head.toNat r).2], dead := [] } } := by
  have hmove : (s.logWords (s.ctx core ctx).log (s.ctx core ctx).log.dead).moveOver core ctx (s.ctx core ctx).log.recs.length = s := by
    rw [hd, hl, State.logWords, List.length_singleton, State.moveOver, if_pos hs]
  unfold State.settleLog
  dsimp only
  rw [hmove, if_neg (by simp [hl]), hl]
  rfl

theorem UndoLog.staged_of_staged {l : UndoLog} (hl : l.recs = [r]) (ha : r.at_ = none) : l.staged = r.bytes := by
  simp [UndoLog.staged, hl, ha]

theorem UndoLog.staged_of_moved {l : UndoLog} {o : Nat} (hl : l.recs = [r]) (ha : r.at_ = some o) : l.staged = 0 := by
  simp [UndoLog.staged, hl, ha]

variable {l : UndoLog} {off : Nat}

theorem State.stageRec_new (ha : r.at_ = none) (hp : r.put = none) :
    s.stageRec core ctx l off r = (s.stageWords core ctx off (r.header l.windows ++ r.body), { r with put := some (off % 4096, l.headWord r) }) := by
  unfold State.stageRec
  rw [ha, hp]
  rfl

theorem State.stageRec_moved {o : Nat} (ha : r.at_ = some o) (hp : r.put.map (·.2) ≠ some (l.headWord r)) :
    s.stageRec core ctx l off r = ((s.logWrite l o [l.headWord r]).getD s, { r with put := some (o, l.headWord r) }) := by
  unfold State.stageRec
  rw [ha]
  exact if_neg hp

/-- A record whose first word stands as its window is now. -/
theorem State.stageRec_current (hp : r.put.map (·.2) = some (l.headWord r)) : s.stageRec core ctx l off r = (s, r) := by
  unfold State.stageRec
  obtain ⟨⟨o, w⟩, hput, rfl⟩ := Option.map_eq_some_iff.1 hp
  rw [hput]
  cases r.at_ with
  | none => exact if_pos rfl
  | some a => exact if_pos rfl

end

section
variable {s : State} {core ctx : Nat} {r : Rec} (hl : (s.ctx core ctx).log.recs = [r]) (hd : (s.ctx core ctx).log.dead = [])
include hl hd

theorem State.settleLog_new (ha : r.at_ = none) (hp : r.put = none) (hb : r.bytes ≤ 4096) :
    SameMemory (s.stageWords core ctx (s.ctx core ctx).log.head.toNat (r.header (s.ctx core ctx).log.windows ++ r.body)) (s.settleLog core ctx) ∧
      ((s.settleLog core ctx).ctx core ctx).log.recs = [{ r with put := some ((s.ctx core ctx).log.head.toNat % 4096, (s.ctx core ctx).log.headWord r) }] := by
  rw [State.settleLog_alone hl hd ((UndoLog.staged_of_staged hl ha).trans_le hb), State.stageRec_new ha hp, State.ctx_modCtx_same]
  exact ⟨sameMemory_of_mem (State.modCtx_mem ..), rfl⟩

theorem State.settleLog_moved {o : Nat} {u : State} (ha : r.at_ = some o) (hp : r.put.map (·.2) ≠ some ((s.ctx core ctx).log.headWord r))
    (hw : s.logWrite (s.ctx core ctx).log o [(s.ctx core ctx).log.headWord r] = some u) :
    SameMemory u (s.settleLog core ctx) ∧ ((s.settleLog core ctx).ctx core ctx).log.recs = [{ r with put := some (o, (s.ctx core ctx).log.headWord r) }] := by
  rw [State.settleLog_alone hl hd ((UndoLog.staged_of_moved hl ha).trans_le (Nat.zero_le _)), State.stageRec_moved ha hp, hw, State.ctx_modCtx_same]
  exact ⟨sameMemory_of_mem rfl, rfl⟩

theorem State.settleLog_current (hp : r.put.map (·.2) = some ((s.ctx core ctx).log.headWord r)) (hb : r.bytes ≤ 4096) : (s.settleLog core ctx).mem = s.mem := by
  have hs : (s.ctx core ctx).log.staged ≤ 4096 := by
    cases ha : r.at_ with
    | none => exact (UndoLog.staged_of_staged hl ha).trans_le hb
    | some o => exact (UndoLog.staged_of_moved hl ha).trans_le (Nat.zero_le _)
  rw [State.settleLog_alone hl hd hs, State.stageRec_current hp, State.modCtx_mem]

end

/-! ### What the cancelling of commands leaves (22 R392) -/

/-- Memory and every context are as they were. -/
structure ContextsStay (s t : State) : Prop where
  mem : t.mem = s.mem
  ctx : ∀ k n, t.ctx k n = s.ctx k n

theorem ContextsStay.refl (s : State) : ContextsStay s s := ⟨rfl, fun _ _ => rfl⟩

theorem ContextsStay.trans {s t u : State} (h : ContextsStay s t) (h' : ContextsStay t u) : ContextsStay s u :=
  ⟨h'.mem.trans h.mem, fun k n => (h'.ctx k n).trans (h.ctx k n)⟩

theorem ContextsStay.ite {s t u : State} {p : Prop} [Decidable p] (ht : ContextsStay s t) (hu : ContextsStay s u) : ContextsStay s (if p then t else u) := by
  split
  · exact ht
  · exact hu

theorem ContextsStay.foldl {α : Type} (f : State → α → State) (l : List α) (h : ∀ t a, ContextsStay t (f t a)) (s : State) : ContextsStay s (l.foldl f s) :=
  foldl_keeps (ContextsStay s) f l (fun t a _ ht => ht.trans (h t a)) s (.refl s)

theorem ContextsStay.modQueue (s : State) (q : QueueId) (f : Queue → Queue) : ContextsStay s (s.modQueue q f) := ⟨State.modQueue_mem .., State.ctx_modQueue s q f⟩

theorem ContextsStay.setOfu (s : State) (u : Nat) (v : Ofu) : ContextsStay s (s.setOfu u v) := ⟨rfl, fun _ _ => rfl⟩

theorem ContextsStay.settleDark (s : State) (u : Nat) : ContextsStay s (s.settleDark u) := .ite (.setOfu ..) (.refl s)

theorem ContextsStay.modCore (s : State) (c : Nat) {f : Core → Core} (h : (f (s.core c)).ctxs = (s.core c).ctxs) : ContextsStay s (s.modCore c f) :=
  ⟨rfl, State.ctx_modCore s c h⟩

theorem ContextsStay.cancelScope (s : State) (members : List (Nat × Nat)) : ContextsStay s (s.cancelScope members) := by
  unfold State.cancelScope
  extract_lets mine gone s1 s2
  have h1 : ContextsStay s s1 := .foldl _ _ (fun t q => by
    cases q with
    | oq u => exact ((ContextsStay.ite (.setOfu ..) (.refl t)).trans (.modQueue ..)).trans (.settleDark ..)
    | mq c => exact .modQueue ..
    | vq c => exact .modQueue ..
    | cq c => exact .modQueue ..
    | lq d => exact .modQueue ..) s
  have h2 : ContextsStay s1 s2 := .foldl _ _ (fun (t : State) (c : Nat × Core) => .modCore t c.1 (by
    dsimp only
    split
    · split <;> rfl
    · rfl)) s1
  have h := h1.trans h2
  exact ⟨h.mem, h.ctx⟩

/-! ### The return to a checkpoint (22 R392) -/

/-- A context's registers and program counter are a checkpoint's, and a debug stop holds it. -/
structure AtCheckpoint (v : Window) (c : Ctx) : Prop where
  x : c.x = v.x
  p : c.p = v.p
  commands : c.c = v.c
  pc : c.pc = v.pc
  dbg : c.dbg = true

theorem AtCheckpoint.kept {v : Window} {c d : Ctx} (h : AtCheckpoint v c) (k : CtxKept c d) : AtCheckpoint v d :=
  ⟨k.x_eq.trans h.x, k.p_eq.trans h.p, k.c_eq.trans h.commands, k.pc_eq.trans h.pc, by rw [k.rest]; exact h.dbg⟩

theorem State.atCheckpoint_restoreCtx (s : State) (core ctx : Nat) (v : Window) : AtCheckpoint v ((s.restoreCtx core ctx v).ctx core ctx) := by
  unfold State.restoreCtx
  dsimp only
  rw [State.ctx_modCore _ _ (by rw [Core.restoreCounters_rest]), State.ctx_modCtx_same]
  exact ⟨rfl, rfl, rfl, rfl, rfl⟩

theorem State.restoreCtx_mem (s : State) (core ctx : Nat) (v : Window) : (s.restoreCtx core ctx v).mem = s.mem := by
  unfold State.restoreCtx
  dsimp only
  rw [State.modCore_mem, State.modCtx_mem, State.dropWaiter_mem]

theorem Kept.reopen (s : State) (core ctx w : Nat) : Kept s (s.reopen core ctx w) := (Kept.modCtx s core ctx (⟨rfl, id, .inl rfl, rfl, rfl⟩)).trans (.openWindow ..)

theorem State.reopen_mem (s : State) (core ctx w : Nat) : (s.reopen core ctx w).mem = s.mem := rfl

/-- A store's record gives its bytes back (22 R384, R392). -/
theorem State.restoreRec_store {s : State} {r : Rec} (core : Nat) (hk : r.kind = 1) (hr : r.loc + 2 ^ r.size ≤ 2 ^ 33) :
    s.restoreRec core r = s.write r.loc (2 ^ r.size) (r.body.headD 0).toNat := by
  have hpos : 0 < 2 ^ r.size := Nat.two_pow_pos _
  have hlt : r.loc < 2 ^ 33 := by omega
  have hplace : place core r.loc = .sram r.loc := if_pos hlt
  unfold State.restoreRec
  rw [hk]
  show s.restoreAt core r.loc (2 ^ r.size) (r.body.headD 0).toNat = _
  unfold State.restoreAt
  rw [if_neg (by omega), hplace]

section
variable {s : State} {core ctx w : Nat} {v : Window}

/-- A rewind of one context: with its buffer empty, its records are restored over the memory of before. -/
theorem State.rewindTo_alone (ht : (s.ctx core ctx).log.target w = some v) (hb : (s.ctx core ctx).sbuf = []) :
    AtCheckpoint v ((s.rewindTo none [(core, ctx)] w).ctx core ctx) ∧
      ∃ u : State, u.mem = s.mem ∧ (s.rewindTo none [(core, ctx)] w).mem = (((s.ctx core ctx).log.after w).foldl (fun s r => s.restoreRec core r) u).mem := by
  have hu := ContextsStay.cancelScope (s.drain core ctx) [(core, ctx)]
  have hlog : (((s.drain core ctx).cancelScope [(core, ctx)]).ctx core ctx).log = (s.ctx core ctx).log := by
    rw [hu.ctx, State.drain_nil hb, State.ctx_modCtx_same]
  have hmem : ((s.drain core ctx).cancelScope [(core, ctx)]).mem = s.mem := by rw [hu.mem, State.drain_nil hb, State.modCtx_mem]
  unfold State.rewindTo
  dsimp only [List.foldl_cons, List.foldl_nil]
  rw [hlog, ht]
  dsimp only
  rw [if_neg (by decide)]
  exact ⟨(State.atCheckpoint_restoreCtx ..).kept ((Kept.reopen ..).ctx core ctx), _, hmem, (State.reopen_mem ..).trans (State.restoreCtx_mem ..)⟩

theorem exec_rewind_alone (hr : s.rewindRefused none [(core, ctx)] w = false) : exec (.rewind none core ctx w) s = .next (s.rewindTo none [(core, ctx)] w) :=
  if_neg (by rw [State.scope, hr]; decide)

theorem exec_rewind_refused {g : Option Nat} (hr : s.rewindRefused g (s.scope g core ctx) w = true) : exec (.rewind g core ctx w) s = .next s := if_pos hr

theorem exec_rewind_returns (hr : s.rewindRefused none [(core, ctx)] w = false) (ht : (s.ctx core ctx).log.target w = some v) (hb : (s.ctx core ctx).sbuf = []) :
    ∃ t, exec (.rewind none core ctx w) s = .next t ∧ AtCheckpoint v (t.ctx core ctx) ∧ ((s.ctx core ctx).log.after w = [] → SameMemory s t) ∧
      ∀ r, (s.ctx core ctx).log.after w = [r] → r.kind = 1 → r.loc + 2 ^ r.size ≤ 2 ^ 33 →
        Holds t r.loc (2 ^ r.size) (r.body.headD 0).toNat ∧ SameOutside s t r.loc (2 ^ r.size) := by
  obtain ⟨hat, u, hu, hmem⟩ := State.rewindTo_alone ht hb
  refine ⟨_, exec_rewind_alone hr, hat, fun ha => ?_, fun r ha hk hloc => ?_⟩
  · rw [ha] at hmem
    exact sameMemory_of_mem (hmem.trans hu)
  · rw [ha, List.foldl_cons, List.foldl_nil, State.restoreRec_store core hk hloc, State.write_mem_congr hu] at hmem
    exact holds_of_write hmem

/-! ### STEPBACK (22 R393, R394) -/

theorem exec_stepback_short {n : Nat} (h : (s.ctx core ctx).log.iret < n) : exec (.stepback none core ctx n) s = .next s := if_pos (.inl h)

/-- A context that replays up to an instruction with the recorded values and interrupts of its log. -/
def Ctx.replayTo (ins : List Rec × List (Nat × Bool)) (n : Nat) (c : Ctx) : Ctx :=
  { c with dbg := false, log := { c.log with replay := some n, inputs := ins.1, irqs := ins.2, lead := none } }

theorem exec_stepback_alone {n : Nat} (hn : n ≤ (s.ctx core ctx).log.iret) (hw : (s.ctx core ctx).log.stepTarget ((s.ctx core ctx).log.iret - n) = some w)
    (hr : s.rewindRefused none [(core, ctx)] w = false) : exec (.stepback none core ctx n) s =
      .next ((s.rewindTo none [(core, ctx)] w).modCtx core ctx (Ctx.replayTo ((s.ctx core ctx).log.inputsFrom w) ((s.ctx core ctx).log.iret - n))) := by
  show execStepback none core ctx n s = _
  unfold execStepback
  dsimp only [State.scope]
  rw [if_neg (by simp; omega), hw]
  dsimp only
  rw [if_neg (by rw [hr]; decide), List.foldl_cons, List.foldl_nil, if_pos rfl, if_pos rfl]
  rfl

theorem exec_stepback_replays {n : Nat} (hn : n ≤ (s.ctx core ctx).log.iret) (hw : (s.ctx core ctx).log.stepTarget ((s.ctx core ctx).log.iret - n) = some w)
    (hr : s.rewindRefused none [(core, ctx)] w = false) (ht : (s.ctx core ctx).log.target w = some v) (hb : (s.ctx core ctx).sbuf = []) :
    ∃ t, exec (.stepback none core ctx n) s = .next t ∧ (t.ctx core ctx).x = v.x ∧ (t.ctx core ctx).pc = v.pc ∧ (t.ctx core ctx).dbg = false ∧
      (t.ctx core ctx).log.replay = some ((s.ctx core ctx).log.iret - n) := by
  obtain ⟨hat, -⟩ := State.rewindTo_alone ht hb
  refine ⟨_, exec_stepback_alone hn hw hr, ?_⟩
  rw [State.ctx_modCtx_same]
  generalize (s.rewindTo none [(core, ctx)] w).ctx core ctx = c at hat ⊢
  exact ⟨hat.x, hat.pc, rfl, rfl⟩

end

/-! ### Obligation O54 -/

/-- Settles O54: a log with one record moves, stages or renews that record, and a motion of one context is its return to the checkpoint. -/
theorem reverseMotion : Obligations.ReverseMotion := by
  unfold Obligations.ReverseMotion
  refine ⟨fun s core ctx r hl ha => ⟨exec_logRecordMove_full hl ha, fun u hr hw => ⟨_, exec_logRecordMove_moves hl ha hr hw, sameMemory_of_mem rfl, ?_⟩,
      fun hr hw => ⟨_, exec_logRecordMove_disables hl ha hr hw, ?_⟩⟩,
    fun s core ctx r hl hd => ⟨State.settleLog_new hl hd, fun o u ha hp hw => State.settleLog_moved hl hd ha hp hw, State.settleLog_current hl hd⟩,
    fun s g core ctx w => exec_rewind_refused, fun s core ctx w v hr ht _ hb => ?_, fun s core ctx n => exec_stepback_short,
    fun s core ctx n w v hn hw hr ht _ hb => exec_stepback_replays hn hw hr ht hb⟩
  · rw [State.ctx_modCtx_same]
    exact ⟨rfl, rfl⟩
  · rw [State.ctx_modCtx_same]
    exact ⟨rfl, UndoLog.disable_staged hl ha, sameMemory_of_mem rfl⟩
  · obtain ⟨t, he, hat, hmem⟩ := exec_rewind_returns hr ht hb
    exact ⟨t, he, hat.x, hat.p, hat.commands, hat.pc, hat.dbg, hmem⟩

end Sys2Proof.Machine

/-! # Messages between queues (13 R265, R266, R271) -/

namespace Sys2Proof.Machine
open Sys2Proof Sys2Proof.Spec

/-! ### The entry of a number -/

theorem Queue.seq_of_find {v : Queue} {seq : Nat} {e : Entry} (h : v.find seq = some e) : e.seq = seq := by
  simpa using List.find?_some h

theorem Queue.mem_of_find {v : Queue} {seq : Nat} {e : Entry} (h : v.find seq = some e) : e ∈ v.entries := List.mem_of_find?_eq_some h

/-- A change of every entry that keeps which of them have a number shows in what is found under it. -/
theorem Queue.find_map {v w : Queue} {seq : Nat} {e : Entry} {f : Entry → Entry} (hw : w.entries = v.entries.map f) (h : v.find seq = some e)
    (hf : ∀ d, (f d).seq = seq ↔ d.seq = seq) : w.find seq = some (f e) := by
  have hc : ((fun d : Entry => d.seq == seq) ∘ f) = fun d => d.seq == seq := funext fun d => Bool.eq_iff_iff.2 (by simp [hf])
  rw [Queue.find, hw, List.find?_map, hc, ← Queue.find, h, Option.map_some]

theorem Queue.find_modEntry {v : Queue} {seq : Nat} {e : Entry} {f : Entry → Entry} (h : v.find seq = some e) (hf : ∀ d, d.seq = seq → (f d).seq = seq) :
    (v.modEntry seq f).find seq = some (f e) := by
  rw [Queue.find_map (w := v.modEntry seq f) rfl h fun d => ?_, if_pos (Queue.seq_of_find h)]
  by_cases hd : d.seq = seq
  · simp [hd, hf d hd]
  · simp [hd]

theorem Queue.find_free (v : Queue) (seq : Nat) : (v.free seq).find seq = none := by
  rw [Queue.find, List.find?_eq_none]
  intro e he
  simpa using (List.mem_filter.1 he).2

/-! ### What leaves memory alone -/

@[simp] theorem State.setQueue_mem (s : State) (q : QueueId) (v : Queue) : (s.setQueue q v).mem = s.mem := State.modQueue_mem s q fun _ => v

@[simp] theorem State.report_mem (s : State) (e : Entry) (state : Nat) : (s.report e state).mem = s.mem := by
  unfold State.report
  split <;> rfl

@[simp] theorem State.modQueue_msgs (s : State) (q : QueueId) (f : Queue → Queue) : (s.modQueue q f).msgs = s.msgs := by cases q <;> rfl

@[simp] theorem State.setQueue_msgs (s : State) (q : QueueId) (v : Queue) : (s.setQueue q v).msgs = s.msgs := State.modQueue_msgs s q fun _ => v

theorem State.queue_setQueue_same (s : State) (q : QueueId) (v : Queue) : (s.setQueue q v).queue q = v := State.queue_modQueue_same s q fun _ => v

/-! ### Rules of commands that have none (13 R270) -/

theorem evalRules_nil (fuel : Nat) (s : State) : evalRules fuel [] s = s := by cases fuel <;> rfl

theorem State.rules_nil (s : State) : s.rules [] = s := evalRules_nil ..

/-- A strict command has no rule to be met. -/
theorem State.rules_of_strict {s : State} {q : QueueId} {seq : Nat} {e : Entry} (h : (s.queue q).find seq = some e) (he : bitOf (e.d 0) 17 = false) :
    s.rules [(q, seq)] = s := by
  have hr : s.ruleMet q e = false := by simp [State.ruleMet, he]
  rw [State.rules, List.length_singleton, evalRules, h]
  simp only [hr, Bool.false_and, Bool.false_eq_true, if_false, evalRules_nil]

/-! ### What a command leaves behind when it leaves its queue (13 R276, R280) -/

theorem State.queue_sendSuccs (s : State) (kind : MsgKind) (q : QueueId) (seq : Nat) (refs : List (QueueId × Nat)) (r : QueueId) :
    (s.sendSuccs kind q seq refs).queue r = s.queue r := by
  rw [State.sendSuccs_rest]
  exact State.queue_of_core (s := s) (fun _ => rfl) rfl rfl r

theorem Core.queues_pushToken (k : Core) (n : Nat) : ((k.pushToken n).mq, (k.pushToken n).vq, (k.pushToken n).cq) = (k.mq, k.vq, k.cq) := by
  unfold Core.pushToken
  split <;> rfl

/-- A command that leaves is freed from its queue, and nothing that leaves with it puts anything there. -/
theorem State.queue_leave (s : State) (q : QueueId) (e : Entry) (state : Nat) : (s.leave q e state).queue q = (s.queue q).free e.seq := by
  unfold State.leave
  extract_lets s1 s2 s3 s4 s5
  have h1 : s1.queue q = (s.queue q).free e.seq := State.queue_modQueue_same ..
  have h2 : s2.queue q = s1.queue q := by
    dsimp only [s2]
    split
    · exact State.queue_modCore _ _ (Core.queues_pushToken ..) q
    · rfl
  have h3 : s3.queue q = s2.queue q := State.queue_sendSuccs ..
  have h5 : s5.queue q = s2.queue q := (State.queue_report ..).trans ((State.queue_modCore s3 _ rfl q).trans h3)
  rw [← h1, ← h2, ← h5]
  split
  · exact State.queue_traceCmd ..
  · rfl

/-- Ebbs to a command's producers are messages alone. -/
theorem State.ebbProducers_rest (s : State) (q : QueueId) (e : Entry) : s.ebbProducers q e = { s with msgs := (s.ebbProducers q e).msgs } := by
  refine foldl_keeps (fun t : State => t = { s with msgs := t.msgs }) _ _ (fun t p _ h => ?_) s rfl
  dsimp only
  split
  all_goals split
  · exact h
  · exact congrArg (State.send · _) h
  · exact h
  · exact congrArg (State.send · _) h

theorem State.queue_ebbProducers (s : State) (q : QueueId) (e : Entry) (r : QueueId) : (s.ebbProducers q e).queue r = s.queue r := by
  rw [State.ebbProducers_rest]
  exact State.queue_of_core (s := s) (fun _ => rfl) rfl rfl r

/-! ### The one message under way (13 R284) -/

section
variable {s : State} {m : Msg} {e : Entry}

/-- The state in which the last message is applied. -/
def State.delivered (s : State) : State := { s with msgs := [] }

theorem State.queue_delivered (s : State) (q : QueueId) : s.delivered.queue q = s.queue q := State.queue_of_core (s := s) (fun _ => rfl) rfl rfl q

theorem deliverNext_of_only (h : s.msgs = [m]) (hp : m.kind ≠ .ebb ∨ wasPushed (s.queue m.target).next m.seq = true) (hd : s.deliverable m = true) :
    s.deliverNext m.kind m.target = if m.kind = .ebb then s.delivered.ebb m else s.delivered.deliver m := by
  have hpick : pickMsg s.deliverable m.kind m.target (s.queue m.target).next s.msgs [] = some m := by
    rw [h, pickMsg, if_pos ⟨rfl, hp⟩, if_pos ⟨rfl, List.not_mem_nil, hd⟩]
  rw [State.deliverNext, hpick]
  simp [h, State.delivered]

theorem deliverable_of_unsaved (hf : (s.queue m.target).find m.seq = some e) (hs : e.st ≠ .saved) : s.deliverable m = true := by
  simp [State.deliverable, hf, hs]

theorem lastMessage_deliverNext (h : LastMessage s m e) : s.deliverNext m.kind m.target = if m.kind = .ebb then s.delivered.ebb m else s.delivered.deliver m :=
  deliverNext_of_only h.only (.inr h.pushed) (deliverable_of_unsaved h.found h.here)

/-- An arm or a decrement at its target (13 R265, R266): what it makes of a command that stands in its queue. -/
theorem lastMessage_deliver (h : LastMessage s m e) : s.delivered.deliver m =
    if m.kind = .arm then s.delivered.setQueue m.target ((s.queue m.target).modEntry m.seq fun e => e.addProducer (m.fromQ, m.fromSeq))
    else (s.delivered.setQueue m.target ((s.queue m.target).modEntry m.seq fun e => { e with dep := e.dep - 1 })).rules [(m.target, m.seq)] := by
  simp [State.deliver, State.queue_delivered, h.pushed, h.found]

theorem deliver_of_left (hp : wasPushed (s.queue m.target).next m.seq = true) (hf : (s.queue m.target).find m.seq = none) :
    s.delivered.deliver m = if m.kind ≠ .arm ∧ (s.queue m.target).fired.contains m.seq = true then s.delivered else s.delivered.markStale m.target := by
  simp [State.deliver, State.queue_delivered, hp, hf]

theorem deliver_of_unpushed (hp : wasPushed (s.queue m.target).next m.seq = false) :
    s.delivered.deliver m = s.delivered.setQueue m.target
      { s.queue m.target with pending := (s.queue m.target).pending ++ [{ arm := decide (m.kind = .arm), seq := m.seq, fromQ := m.fromQ, fromSeq := m.fromSeq }] } := by
  simp [State.deliver, State.queue_delivered, hp]

theorem Entry.seq_addProducer (e : Entry) (p : QueueId × Nat) : (e.addProducer p).seq = e.seq := (SameCommand.addProducer e p).1

theorem Entry.addProducer_eq (e : Entry) (p : QueueId × Nat) :
    e.addProducer p = { e with producers := if p ∈ e.producers ∨ 8 ≤ e.producers.length then e.producers else e.producers ++ [p] } := by
  unfold Entry.addProducer
  by_cases h : p ∈ e.producers ∨ 8 ≤ e.producers.length
  · rw [if_pos h, if_pos (by simpa using h)]
  · rw [if_neg h, if_neg (by simpa using h)]

/-- What an ebb leaves of its target: one demand less. -/
def Entry.ebbed (e : Entry) : Entry := { e with demand := e.demand - 1 }

theorem find_ebbed (h : LastMessage s m e) : ((s.delivered.modQueue m.target fun v => v.modEntry m.seq fun _ => e.ebbed).queue m.target).find m.seq = some e.ebbed := by
  rw [State.queue_modQueue_same, State.queue_delivered]
  exact Queue.find_modEntry h.found fun _ _ => (Queue.seq_of_find h.found :)

theorem lastMessage_ebb (h : LastMessage s m e) : s.delivered.ebb m =
    if e.demand = 1 ∧ (e.st = .pushed ∨ e.st = .waiting ∨ e.st = .ready) ∧ bitOf (e.d 0) 18 = false then
      ((s.delivered.modQueue m.target fun v => v.modEntry m.seq fun _ => e.ebbed).ebbProducers m.target e.ebbed).leave m.target e.ebbed 5
    else s.delivered.modQueue m.target fun v => v.modEntry m.seq fun _ => e.ebbed := by
  rw [State.ebb, State.queue_delivered, h.found]
  rfl

end

/-! ### Obligation O44 -/

section
variable {s : State} {m : Msg} {e : Entry}

theorem arm_arrives (h : LastMessage s m e) (hk : m.kind = .arm) :
    ∃ t b, exec (.armArrival m.target) s = .next t ∧ t.msgs = [] ∧ (t.queue m.target).find m.seq = some b ∧ SameMemory s t ∧
      b = { e with producers := if (m.fromQ, m.fromSeq) ∈ e.producers ∨ 8 ≤ e.producers.length then e.producers else e.producers ++ [(m.fromQ, m.fromSeq)] } := by
  have hn := lastMessage_deliverNext h
  rw [lastMessage_deliver h, hk, if_neg (by decide), if_pos rfl] at hn
  refine ⟨_, e.addProducer (m.fromQ, m.fromSeq), congrArg Host.Outcome.next hn, State.setQueue_msgs .., ?_, sameMemory_of_mem (State.setQueue_mem ..), Entry.addProducer_eq ..⟩
  rw [State.queue_setQueue_same]
  exact Queue.find_modEntry h.found fun d hd => (Entry.seq_addProducer d _).trans hd

/-- A decrement of a strict command changes its counter alone. -/
theorem decrement_arrives (h : LastMessage s m e) (hk : m.kind = .decrement) (hs : bitOf (e.d 0) 17 = false) :
    ∃ t, exec (.successorDecrement m.target) s = .next t ∧ t.msgs = [] ∧ (t.queue m.target).find m.seq = some { e with dep := e.dep - 1 } ∧ SameMemory s t := by
  have hn := lastMessage_deliverNext h
  rw [lastMessage_deliver h, hk, if_neg (by decide), if_neg (by decide)] at hn
  generalize ht : s.delivered.setQueue m.target _ = t at hn
  have hfind : (t.queue m.target).find m.seq = some { e with dep := e.dep - 1 } := by
    rw [← ht, State.queue_setQueue_same]
    exact Queue.find_modEntry h.found fun _ hd => hd
  rw [State.rules_of_strict hfind hs] at hn
  subst ht
  exact ⟨_, congrArg Host.Outcome.next hn, State.setQueue_msgs .., hfind, sameMemory_of_mem (State.setQueue_mem ..)⟩

theorem ebb_arrives (h : LastMessage s m e) (hk : m.kind = .ebb)
    (hkeep : e.demand ≠ 1 ∨ (e.st ≠ .pushed ∧ e.st ≠ .waiting ∧ e.st ≠ .ready) ∨ bitOf (e.d 0) 18 = true) :
    ∃ t, exec (.ebbArrival m.target) s = .next t ∧ t.msgs = [] ∧ (t.queue m.target).find m.seq = some { e with demand := e.demand - 1 } ∧ SameMemory s t := by
  have hn := lastMessage_deliverNext h
  have hno : ¬(e.demand = 1 ∧ (e.st = .pushed ∨ e.st = .waiting ∨ e.st = .ready) ∧ bitOf (e.d 0) 18 = false) := by
    rintro ⟨hd, hst, hpin⟩
    rcases hkeep with hk | ⟨h1, h2, h3⟩ | hk
    · exact hk hd
    · rcases hst with hst | hst | hst
      exacts [h1 hst, h2 hst, h3 hst]
    · rw [hk] at hpin
      cases hpin
  rw [lastMessage_ebb h, hk, if_pos rfl, if_neg hno] at hn
  exact ⟨_, congrArg Host.Outcome.next hn, State.modQueue_msgs .., find_ebbed h, sameMemory_of_mem (State.modQueue_mem ..)⟩

theorem ebb_withdraws (h : LastMessage s m e) (hk : m.kind = .ebb) (hd : e.demand = 1) (hst : e.st = .pushed ∨ e.st = .waiting ∨ e.st = .ready)
    (hpin : bitOf (e.d 0) 18 = false) : ∃ t, exec (.ebbArrival m.target) s = .next t ∧ (t.queue m.target).find m.seq = none := by
  have hn := lastMessage_deliverNext h
  rw [lastMessage_ebb h, hk, if_pos rfl, if_pos ⟨hd, hst, hpin⟩] at hn
  refine ⟨_, congrArg Host.Outcome.next hn, ?_⟩
  rw [State.queue_leave, show e.ebbed.seq = m.seq from (Queue.seq_of_find h.found :)]
  exact Queue.find_free ..

/-- An arm or a decrement whose target is still to be pushed waits for it. -/
theorem message_waits (ho : s.msgs = [m]) (hp : wasPushed (s.queue m.target).next m.seq = false) (hf : (s.queue m.target).find m.seq = none)
    (hroom : (s.queue m.target).pending.length < 32) (hk : m.kind ≠ .ebb) :
    ∃ t, s.deliverNext m.kind m.target = t ∧ t.msgs = [] ∧ SameMemory s t ∧ (t.queue m.target).pending =
      (s.queue m.target).pending ++ [{ arm := decide (m.kind = .arm), seq := m.seq, fromQ := m.fromQ, fromSeq := m.fromSeq }] := by
  have hd : s.deliverable m = true := by simp [State.deliverable, hf, hk, hroom]
  have hn := deliverNext_of_only ho (.inl hk) hd
  rw [if_neg hk, deliver_of_unpushed hp] at hn
  exact ⟨_, hn, State.setQueue_msgs .., sameMemory_of_mem (State.setQueue_mem ..), by rw [State.queue_setQueue_same]⟩

/-- A message to a command that has left (13 R262, R266): the queue is stale, but for a decrement to one that its rule has fired. -/
theorem message_to_left (ho : s.msgs = [m]) (hp : wasPushed (s.queue m.target).next m.seq = true) (hf : (s.queue m.target).find m.seq = none) :
    s.deliverNext m.kind m.target =
      if m.kind = .decrement ∧ (s.queue m.target).fired.contains m.seq = true then s.delivered else s.delivered.markStale m.target := by
  have hd : s.deliverable m = true := by simp [State.deliverable, hf, hp]
  have hebb : s.delivered.ebb m = s.delivered.markStale m.target := by rw [State.ebb, State.queue_delivered, hf]
  rw [deliverNext_of_only ho (.inr hp) hd, hebb, deliver_of_left hp hf]
  cases hk : m.kind <;> simp

theorem markStale_leaves (s : State) (q : QueueId) : (s.delivered.markStale q).msgs = [] ∧ ((s.delivered.markStale q).queue q).stale = true ∧ SameMemory s (s.delivered.markStale q) := by
  refine ⟨State.modQueue_msgs .., ?_, sameMemory_of_mem (State.modQueue_mem ..)⟩
  rw [State.markStale, State.queue_modQueue_same]

end

/-- Settles O44: the one message under way is the one that is picked, and `deliver` and `ebb` tell what it makes of its target. -/
theorem messagesArrive : Obligations.MessagesArrive := by
  refine ⟨fun s m e => arm_arrives, fun s m e => decrement_arrives, fun s m e h hk => ⟨ebb_arrives h hk, ebb_withdraws h hk⟩, ?unpushed, ?left⟩
  case unpushed =>
    intro s m ho hp hf hroom
    refine ⟨fun hk => ?_, fun hk => ?_⟩
    all_goals
      obtain ⟨t, ht, hm, hs, hpend⟩ := message_waits ho hp hf hroom (by rw [hk]; decide)
      rw [hk] at ht hpend
      exact ⟨t, congrArg Host.Outcome.next ht, hm, hs, hpend⟩
  case left =>
    intro s m ho hp hf stale
    have hto := message_to_left ho hp hf
    refine ⟨fun hk => ?_, fun hk => ?_, fun hk hfired => ?_, fun hk hfired => ?_⟩
    all_goals rw [hk] at hto
    · rw [if_neg fun h => absurd h.1 (by decide)] at hto
      exact ⟨_, congrArg Host.Outcome.next hto, markStale_leaves ..⟩
    · rw [if_neg fun h => absurd h.1 (by decide)] at hto
      exact ⟨_, congrArg Host.Outcome.next hto, markStale_leaves ..⟩
    · rw [if_neg (by rw [hfired]; simp)] at hto
      exact ⟨_, congrArg Host.Outcome.next hto, markStale_leaves ..⟩
    · rw [if_pos ⟨rfl, hfired⟩] at hto
      exact congrArg Host.Outcome.next hto

end Sys2Proof.Machine

/-! # What a command's start and end leave of the cores (13 R276, R280, 05 R109) -/

namespace Sys2Proof.Machine
open Sys2Proof Sys2Proof.Spec

/-! ### One reading of every core -/

/-- Every core reads the same through π in both states. -/
structure SameOn {α : Type} (π : Core → α) (s t : State) : Prop where
  core : ∀ c, π (t.core c) = π (s.core c)

section
variable {α : Type} {π : Core → α} {s t u : State}

theorem SameOn.refl (π : Core → α) (s : State) : SameOn π s s := ⟨fun _ => rfl⟩

theorem SameOn.trans (h : SameOn π s t) (h' : SameOn π t u) : SameOn π s u := ⟨fun c => (h'.core c).trans (h.core c)⟩

theorem SameOn.of_cores (h : t.cores = s.cores) : SameOn π s t := ⟨fun c => congrArg π (State.core_of_cores h c)⟩

theorem SameOn.modCore (s : State) (c : Nat) {f : Core → Core} (h : π (f (s.core c)) = π (s.core c)) : SameOn π s (s.modCore c f) := by
  refine ⟨fun k => ?_⟩
  by_cases hk : k = c
  · rw [hk, State.core_modCore_same, h]
  · rw [State.core_modCore_other _ _ _ _ hk]

theorem SameOn.modQueue (h : ∀ k m v w, π { k with mq := m, vq := v, cq := w } = π k) (s : State) (q : QueueId) (f : Queue → Queue) : SameOn π s (s.modQueue q f) := by
  cases q with
  | mq c => exact .modCore s c (f := fun k => { k with mq := f ((s.core c).mq) }) (h ..)
  | vq c => exact .modCore s c (f := fun k => { k with vq := f ((s.core c).vq) }) (h ..)
  | cq c => exact .modCore s c (f := fun k => { k with cq := f ((s.core c).cq) }) (h ..)
  | oq u => exact .of_cores rfl
  | lq d => exact .of_cores rfl

theorem SameOn.setCtx (h : ∀ k x, π { k with ctxs := x } = π k) (s : State) (c n : Nat) (x : Ctx) : SameOn π s (s.setCtx c n x) :=
  .modCore s c (f := fun k => k.setCtx n x) (h ..)

theorem SameOn.sealCtx (h : ∀ k x, π { k with ctxs := x } = π k) (s : State) (c n code : Nat) : SameOn π s (s.sealCtx c n code) := by
  unfold State.sealCtx
  dsimp only
  split
  · exact .refl π s
  · exact (SameOn.setCtx h ..).trans (.setCtx h ..)

theorem SameOn.sealEnd (h : ∀ k x, π { k with ctxs := x } = π k) (s : State) (e : Entry) : SameOn π s (s.sealEnd e) := by
  unfold State.sealEnd
  split
  · exact .sealCtx h ..
  · exact .refl π s

theorem SameOn.sendSuccs (s : State) (kind : MsgKind) (q : QueueId) (seq : Nat) (refs : List (QueueId × Nat)) : SameOn π s (s.sendSuccs kind q seq refs) :=
  .of_cores (by rw [State.sendSuccs_rest])

theorem SameOn.signal (h : ∀ k x, π { k with evw := x } = π k) (s : State) (c mask : Nat) : SameOn π s (s.signal c mask) :=
  .modCore s c (f := fun k => { k with evw := k.evw ||| BitVec.ofNat 32 mask }) (h ..)

theorem SameOn.endJob (h : ∀ k j, π { k with job := j } = π k) (s : State) (q : QueueId) (e : Entry) : SameOn π s (s.endJob q e) := by
  unfold State.endJob
  split
  · refine .modCore s _ ?_
    split
    · split
      · exact h ..
      · rfl
    · rfl
  · exact .refl π s

theorem SameOn.noteCopy (h : ∀ k r, π { k with refetch := r } = π k) (s : State) (c : Nat) (e : Entry) : SameOn π s (s.modCore c fun k => k.noteCopy e) := by
  refine .modCore s c ?_
  unfold Core.noteCopy
  split
  · exact h ..
  · rfl

theorem SameOn.report (h : ∀ k r l, π { k with results := r, held := l } = π k) (s : State) (e : Entry) (state : Nat) : SameOn π s (s.report e state) := by
  unfold State.report
  split
  · exact .refl π s
  · refine .modCore s _ ?_
    split
    · exact h ..
    · exact h ..

theorem SameOn.traceCmd (h : ∀ k x d, π { k with trhead := x, trdrops := d } = π k) (s : State) (q : QueueId) (kind : Nat) (e : Entry) :
    SameOn π s (s.traceCmd q kind e) := by
  have ht (core bit kind source cycle p0 p1 : Nat) : SameOn π s (s.trace core bit kind source cycle p0 p1) := by
    refine ⟨fun c => ?_⟩
    obtain ⟨x, d, hk⟩ := (State.trace_core s core bit kind source cycle p0 p1).2 c
    rw [hk]
    exact h ..
  cases q with
  | oq u => exact .refl π s
  | lq d => exact .refl π s
  | mq c => exact ht ..
  | vq c => exact ht ..
  | cq c => exact ht ..

end

/-! ### A command that faults (13 R276, R277) -/

/-- The entry of a command that faults: its state and the cause in d15. -/
def Entry.faulted (e : Entry) (cause : Nat) : Entry := { e.setD 15 (putBits (e.d 15) 24 8 cause) with st := .faulted, work := .pending }

theorem Entry.d_lt (e : Entry) (j : Nat) : e.d j < 2 ^ 64 := BitVec.isLt _

theorem Entry.d_setD_same (e : Entry) {j : Nat} (hj : j < e.image.length) (v : Nat) : (e.setD j v).d j = v % 2 ^ 64 := by
  simp [Entry.d, Entry.setD, setAt, hj]

theorem Entry.d_setD_other (e : Entry) {i j : Nat} (hj : i ≠ j) (v : Nat) : (e.setD j v).d i = e.d i := by
  simp [Entry.d, Entry.setD, setAt, List.getElem?_set_ne hj.symm]

/-- The cause that stands in d15 (13 R276). -/
theorem Entry.cause_faulted {e : Entry} (hl : e.image.length = 16) {cause : Nat} (hc : cause < 256) : bitsOf ((e.faulted cause).d 15) 31 24 = cause := by
  have hd : (e.faulted cause).d 15 = putBits (e.d 15) 24 8 cause % 2 ^ 64 := e.d_setD_same (by omega) _
  have hm : e.d 15 % 2 ^ 24 < 2 ^ 24 := Nat.mod_lt _ (by decide)
  rw [hd, putBits_split, bitsOf, Nat.mod_eq_of_lt (show cause < 2 ^ 8 by omega)]
  omega

/-- The queue of a command that faults. -/
theorem State.queue_faultCmd_freeze (s : State) (q : QueueId) {seq : Nat} {e : Entry} (h : (s.queue q).find seq = some e) (cause : Nat) (freeze : Bool) :
    (s.faultCmd q seq cause freeze).queue q =
      { (s.queue q).modEntry seq (fun _ => e.faulted cause) with fault := true, frozen := (s.queue q).frozen || freeze } := by
  unfold State.faultCmd
  split
  · next hn =>
    rw [h] at hn
    cases hn
  · next d hd =>
    rw [h] at hd
    cases hd
    extract_lets e0 e1 s1 code s2 s3
    have h1 : s1.queue q = { (s.queue q).modEntry seq (fun _ => e.faulted cause) with fault := true, frozen := (s.queue q).frozen || freeze } :=
      State.queue_modQueue_same ..
    have h2 : s2.queue q = s1.queue q := by
      dsimp only [s2]
      clear s3 s2
      clear_value code
      cases code with
      | none => rfl
      | some c => exact State.queue_modCore s1 _ rfl q
    have h3 : s3.queue q = s2.queue q := (State.queue_traceCmd ..).trans (State.queue_report ..)
    rw [← h1, ← h2, ← h3]
    clear_value s3
    split
    · rw [State.wrackAdd_rest]
      exact State.queue_of_core (s := s3) (fun _ => rfl) rfl rfl q
    · rfl

theorem faulted_faultCmd {s : State} {q : QueueId} {seq : Nat} {e : Entry} (h : (s.queue q).find seq = some e) (hl : e.image.length = 16) {cause : Nat}
    (hc : cause < 256) (freeze : Bool) : Faulted (s.faultCmd q seq cause freeze) q seq cause ∧ (freeze = true → ((s.faultCmd q seq cause freeze).queue q).frozen = true) := by
  rw [Faulted, State.queue_faultCmd_freeze s q h]
  refine ⟨⟨rfl, e.faulted cause, ?_, rfl, Entry.cause_faulted hl hc⟩, fun hf => by simp [hf]⟩
  exact Queue.find_modEntry (f := fun _ => e.faulted cause) h fun _ _ => (Queue.seq_of_find h :)

/-! ### A command that starts (13 R274, R276, R280) -/

/-- The entry of a command as its run begins. -/
def Entry.started (e : Entry) (time : Nat) : Entry :=
  { e with st := .running, work := .pending, progress := 0, begun := false, reruns := 0, met := [], refetches := none, escaped := false
           hasToken := e.hasToken || e.popQueue.isSome, ranks := none, since := time, peers := false, chunks := [], acked := 0 }

/-- A pass over a queue leaves the command that starts as it is. -/
theorem Queue.find_age {v : Queue} {seq : Nat} {e : Entry} (h : v.find seq = some e) (ready : List Nat) : (v.age seq ready).find seq = some e := by
  rw [Queue.find_map (w := v.age seq ready) rfl h fun d => ?_, if_pos (.inl (Queue.seq_of_find h))]
  split
  · rfl
  · split <;> rfl

theorem startCmd_of_overlap {s : State} {q : QueueId} {e : Entry} (h : s.phaseOverlap q e = true) : s.startCmd q e = s.faultCmd q e.seq 0x08 false := by
  rw [State.startCmd, if_pos h]

/-- A command whose sets no active phase overlaps runs, its token popped, unless its optical unit does not serve it. -/
theorem startCmd_of_clear {s : State} {q : QueueId} {e : Entry} (ho : s.phaseOverlap q e = false) (hf : (s.queue q).find e.seq = some e) :
    ∃ t : State, s.startCmd q e = (if s.unlit q e then t.faultCmd q e.seq 0x0B false else t) ∧ (t.queue q).find e.seq = some (e.started s.time) ∧
      ∀ k, e.popQueue = some k → (t.core (homeCore q e)).token k =
        if e.hasToken then (s.core (homeCore q e)).token k else (s.core (homeCore q e)).token k - 1 := by
  unfold State.startCmd
  extract_lets home ready s1 s2 s3 s4
  rw [if_neg (by simp [ho])]
  have hq1 : s1.queue q = s.queue q := by
    dsimp only [s1]
    split
    · split
      · rfl
      · exact State.queue_modCore s _ rfl q
    · rfl
  have hk1 : ∀ k, e.popQueue = some k → (s1.core home).token k = if e.hasToken then (s.core home).token k else (s.core home).token k - 1 := by
    intro k hk
    dsimp only [s1]
    rw [hk]
    dsimp only
    split
    · rfl
    · rw [State.core_modCore_same, Core.token, Core.setToken, Tbl.get_set_same]
  have hq2 : (s2.queue q).find e.seq = some (e.started s.time) := by
    dsimp only [s2]
    rw [State.queue_modQueue_same, hq1]
    exact Queue.find_age (Queue.find_modEntry (f := fun e => e.started s.time) hf fun _ hd => hd) ready
  have hq4 : s4.queue q = s2.queue q := by
    refine (State.queue_traceCmd ..).trans ?_
    dsimp only [s3]
    split
    · exact State.queue_modCore s2 _ rfl q
    · rfl
  have hk3 : SameOn Core.tokens s2 s3 := by
    dsimp only [s3]
    split
    · exact .modCore s2 _ rfl
    · exact .refl _ s2
  have hk4 : SameOn Core.tokens s1 s4 := ((SameOn.modQueue (fun _ _ _ _ => rfl) s1 q _).trans hk3).trans (.traceCmd (fun _ _ _ => rfl) ..)
  refine ⟨s4, rfl, hq4 ▸ hq2, fun k hk => ?_⟩
  rw [Core.token, hk4.core]
  exact hk1 k hk

/-! ### A command that leaves (13 R276, R280, 05 R109) -/

theorem Tbl.get_of_not_listed {β : Type} (d : β) {t : Tbl β} {k : Nat} (h : ∀ p ∈ t, p.1 ≠ k) : Tbl.get d t k = d := by
  induction t with
  | nil => rfl
  | cons p t ih =>
    rw [Tbl.get, if_neg (h p List.mem_cons_self), ih fun p hp => h p (List.mem_cons_of_mem _ hp)]

/-- A queue that holds a command is among those of the module. -/
theorem State.mem_allQueues {s : State} {q : QueueId} {b : Entry} (h : b ∈ (s.queue q).entries) : q ∈ s.allQueues := by
  have hcore (c : Nat) (hc : s.core c ≠ Core.reset) : ∃ p ∈ s.cores, p.1 = c := by
    by_contra hno
    exact hc (Tbl.get_of_not_listed _ fun p hp hpc => hno ⟨p, hp, hpc⟩)
  have hne (v : Queue) (hv : v = Queue.reset) (hb : b ∈ v.entries) : False := by
    rw [hv] at hb
    cases hb
  simp only [State.allQueues, List.mem_append, List.mem_flatMap, List.mem_map]
  cases q with
  | mq c =>
    obtain ⟨p, hp, rfl⟩ := hcore c fun hc => hne _ (congrArg Core.mq hc) h
    exact .inl (.inl ⟨p, hp, by simp⟩)
  | vq c =>
    obtain ⟨p, hp, rfl⟩ := hcore c fun hc => hne _ (congrArg Core.vq hc) h
    exact .inl (.inl ⟨p, hp, by simp⟩)
  | cq c =>
    obtain ⟨p, hp, rfl⟩ := hcore c fun hc => hne _ (congrArg Core.cq hc) h
    exact .inl (.inl ⟨p, hp, by simp⟩)
  | oq u =>
    by_contra hno
    exact hne _ (congrArg Ofu.queue (Tbl.get_of_not_listed Ofu.reset fun p hp hpc => hno (.inl (.inr ⟨p, hp, congrArg _ hpc⟩)))) h
  | lq d =>
    by_contra hno
    exact hne _ (Tbl.get_of_not_listed Queue.reset fun p hp hpc => hno (.inr ⟨p, hp, congrArg _ hpc⟩)) h

/-- A command has no consumers where no command of any queue lists it. -/
theorem State.consumers_eq_nil {s : State} {q : QueueId} {seq : Nat} :
    s.consumers q seq = [] ↔ ∀ v, ∀ b ∈ (s.queue v).entries, b.producers.contains (q, seq) = false := by
  simp only [State.consumers, List.flatMap_eq_nil_iff, List.map_eq_nil_iff, List.filter_eq_nil_iff, Bool.not_eq_true]
  exact ⟨fun h v b hb => h v (State.mem_allQueues hb) b hb, fun h v _ b hb => h v b hb⟩

theorem State.consumers_of_queues {s t : State} (h : ∀ v, t.queue v = s.queue v) {q : QueueId} {seq : Nat} (hs : s.consumers q seq = []) :
    t.consumers q seq = [] := by
  rw [State.consumers_eq_nil] at hs ⊢
  intro v b hb
  exact hs v b (h v ▸ hb)

theorem State.queue_endJob (s : State) (q : QueueId) (e : Entry) (v : QueueId) : (s.endJob q e).queue v = s.queue v := by
  unfold State.endJob
  split
  · refine State.queue_modCore s _ ?_ v
    split
    · split <;> rfl
    · rfl
  · rfl

/-! ### What leaves with a command -/

/-- Another queue is not touched by a change of one. -/
theorem State.queue_modQueue_ne (s : State) {q r : QueueId} (h : r ≠ q) (f : Queue → Queue) : (s.modQueue q f).queue r = s.queue r := by
  cases q with
  | mq c =>
    cases r with
    | mq d => exact congrArg Core.mq (State.core_modCore_other s c d _ fun hd => h (hd ▸ rfl))
    | vq d => exact (SameOn.modCore (π := Core.vq) s c rfl).core d
    | cq d => exact (SameOn.modCore (π := Core.cq) s c rfl).core d
    | oq u => rfl
    | lq d => rfl
  | vq c =>
    cases r with
    | mq d => exact (SameOn.modCore (π := Core.mq) s c rfl).core d
    | vq d => exact congrArg Core.vq (State.core_modCore_other s c d _ fun hd => h (hd ▸ rfl))
    | cq d => exact (SameOn.modCore (π := Core.cq) s c rfl).core d
    | oq u => rfl
    | lq d => rfl
  | cq c =>
    cases r with
    | mq d => exact (SameOn.modCore (π := Core.mq) s c rfl).core d
    | vq d => exact (SameOn.modCore (π := Core.vq) s c rfl).core d
    | cq d => exact congrArg Core.cq (State.core_modCore_other s c d _ fun hd => h (hd ▸ rfl))
    | oq u => rfl
    | lq d => rfl
  | oq u =>
    cases r with
    | oq w => exact congrArg Ofu.queue (Tbl.get_set_other _ _ _ _ _ fun hw => h (hw ▸ rfl))
    | _ => rfl
  | lq d =>
    cases r with
    | lq w => exact Tbl.get_set_other _ _ _ _ _ fun hw => h (hw ▸ rfl)
    | _ => rfl

/-- Freeing an entry leaves every queue's next number. -/
theorem State.next_free (s : State) (q : QueueId) (seq : Nat) (r : QueueId) : ((s.modQueue q fun v => v.free seq).queue r).next = (s.queue r).next := by
  by_cases h : r = q
  · rw [h, State.queue_modQueue_same]
    rfl
  · rw [State.queue_modQueue_ne s h]

/-- The entry freed and its token pushed. -/
def State.freed (s : State) (q : QueueId) (e : Entry) : State :=
  match e.pushQueue with
  | some t => (s.modQueue q fun v => v.free e.seq).modCore (homeCore q e) fun k => k.pushToken t
  | none => s.modQueue q fun v => v.free e.seq

theorem State.leave_retired (s : State) (q : QueueId) (e : Entry) : s.leave q e 4 =
    ((((s.freed q e).sendSuccs .decrement q e.seq e.succs).signal (homeCore q e) (e.d 1 / 2 ^ 32)).report e 4).traceCmd q 3 e := rfl

section
variable {α : Type} {π : Core → α} {s : State} {q : QueueId} {e : Entry}

theorem SameOn.freed (hq : ∀ k m v w, π { k with mq := m, vq := v, cq := w } = π k) (ht : ∀ k a d, π { k with tokens := a, deferred := d } = π k)
    (s : State) (q : QueueId) (e : Entry) : SameOn π s (s.freed q e) := by
  unfold State.freed
  split
  · refine (SameOn.modQueue hq s q _).trans (.modCore _ _ ?_)
    unfold Core.pushToken
    split
    · exact ht _ _ _
    · exact ht _ _ _
  · exact .modQueue hq s q _

theorem State.freed_mem (s : State) (q : QueueId) (e : Entry) : (s.freed q e).mem = s.mem := by
  unfold State.freed
  split
  · exact State.modQueue_mem ..
  · exact State.modQueue_mem ..

theorem State.freed_msgs (s : State) (q : QueueId) (e : Entry) : (s.freed q e).msgs = s.msgs := by
  unfold State.freed
  split
  · exact State.modQueue_msgs ..
  · exact State.modQueue_msgs ..

theorem State.next_freed (s : State) (q : QueueId) (e : Entry) (r : QueueId) : ((s.freed q e).queue r).next = (s.queue r).next := by
  unfold State.freed
  split
  · rw [State.queue_modCore _ _ (Core.queues_pushToken ..)]
    exact State.next_free ..
  · exact State.next_free ..

theorem Core.token_pushToken (k : Core) {t : Nat} (h : k.token t < 15) (n : Nat) : (k.pushToken t).token n = if t = n then k.token n + 1 else k.token n := by
  rw [Core.pushToken, if_pos h, Core.token, Core.setToken]
  split
  · next hn => rw [← hn, Tbl.get_set_same]
  · next hn => exact (Tbl.get_set_other 0 k.tokens t n (k.token t + 1) (Ne.symm hn) :)

/-- The token of a command that leaves, where its queue has room (13 R280). -/
theorem State.token_freed (h : ∀ t, e.pushQueue = some t → (s.core (homeCore q e)).token t < 15) (n : Nat) :
    ((s.freed q e).core (homeCore q e)).token n =
      if e.pushQueue = some n then (s.core (homeCore q e)).token n + 1 else (s.core (homeCore q e)).token n := by
  have hk : SameOn Core.tokens s (s.modQueue q fun v => v.free e.seq) := .modQueue (fun _ _ _ _ => rfl) ..
  have htoken (m : Nat) : ((s.modQueue q fun v => v.free e.seq).core (homeCore q e)).token m = (s.core (homeCore q e)).token m :=
    congrArg (fun t : Tbl Nat => Tbl.get 0 t m) (hk.core _)
  unfold State.freed
  cases hp : e.pushQueue with
  | none => simp [htoken]
  | some t =>
    have hroom : ((s.modQueue q fun v => v.free e.seq).core (homeCore q e)).token t < 15 := by
      rw [htoken]
      exact h t hp
    dsimp only
    rw [State.core_modCore_same, Core.token_pushToken _ hroom, htoken]
    simp

/-- The messages that a command's successors are sent. -/
theorem State.sendSuccs_msgs (s : State) (kind : MsgKind) (q : QueueId) (seq : Nat) (refs : List (QueueId × Nat)) : (s.sendSuccs kind q seq refs).msgs =
    s.msgs ++ refs.map fun r => { kind := kind, target := r.1, seq := resolveSeq (s.queue r.1).next r.2, fromQ := q, fromSeq := seq } := by
  induction refs generalizing s with
  | nil => simp [State.sendSuccs]
  | cons r rs ih =>
    have hq (m : Msg) (v : QueueId) : (s.send m).queue v = s.queue v := State.queue_of_core (s := s) (fun _ => rfl) rfl rfl v
    rw [State.sendSuccs, List.foldl_cons, ← State.sendSuccs, ih]
    simp only [hq, List.map_cons]
    simp [State.send]

end

/-! ### The d15 of a command that retires (13 R276) -/

section
variable (e : Entry) (v : Nat)

theorem Entry.pushQueue_setD15 : (e.setD 15 v).pushQueue = e.pushQueue := by
  rw [Entry.pushQueue, Entry.opcode, e.d_setD_other (by decide), e.d_setD_other (by decide), Entry.pushQueue, Entry.opcode]

theorem Entry.reports_setD15 : (e.setD 15 v).reports = e.reports := by simp [Entry.reports, Entry.d_setD_other]

theorem Entry.reportClass_setD15 : (e.setD 15 v).reportClass = e.reportClass := by simp [Entry.reportClass, Entry.d_setD_other]

theorem Entry.succs_setD15 : (e.setD 15 v).succs = e.succs := by
  have hd (j : Nat) (hj : j ≠ 15) : (((e.setD 15 v).image.getD j 0).toNat) = (e.image.getD j 0).toNat := e.d_setD_other hj v
  unfold Entry.succs imageSuccs
  simp only [hd 4 (by decide)]
  refine List.map_congr_left fun j hj => ?_
  have hlt : j < 8 := (List.mem_range.1 hj).trans (Nat.mod_lt _ (by decide))
  rw [hd (5 + j / 2) (by omega)]

/-- A result element's number and state (05 R109). -/
theorem Entry.element_fields {state : Nat} (hs : state < 8) : (e.element state).toNat / 2 ^ 32 = e.seq % 2 ^ 32 ∧ (e.element state).toNat / 2 ^ 18 % 8 = state := by
  have h1 : bitsOf (e.d 15) 31 24 < 256 := Nat.mod_lt _ (by decide)
  have h2 : bitsOf (e.d 15) 23 23 < 2 := Nat.mod_lt _ (by decide)
  have h3 : bitsOf (e.d 15) 17 16 < 4 := Nat.mod_lt _ (by decide)
  rw [Entry.element, BitVec.toNat_ofNat]
  omega

end

/-! ### The retirement of a command whose successors, token and report find room (13 R276) -/

theorem State.traceCmd_off {s : State} {q : QueueId} {e : Entry} (h : (s.core (homeCore q e)).trctl.getLsbD 0 = false) (kind : Nat) : s.traceCmd q kind e = s := by
  cases q with
  | oq u => rfl
  | lq d => rfl
  | mq c => exact State.trace_off _ _ _ _ _ _ _ _ h
  | vq c => exact State.trace_off _ _ _ _ _ _ _ _ h
  | cq c => exact State.trace_off _ _ _ _ _ _ _ _ h

/-- The entry freed, its token pushed, its successors told and its event bits set. -/
def State.told (s : State) (q : QueueId) (e : Entry) : State :=
  ((s.freed q e).sendSuccs .decrement q e.seq e.succs).signal (homeCore q e) (e.d 1 / 2 ^ 32)

section
variable {s : State} {q : QueueId} {e : Entry}

theorem SameOn.told {α : Type} {π : Core → α} (hq : ∀ k m v w, π { k with mq := m, vq := v, cq := w } = π k)
    (ht : ∀ k a d, π { k with tokens := a, deferred := d } = π k) (he : ∀ k x, π { k with evw := x } = π k) (s : State) (q : QueueId) (e : Entry) :
    SameOn π s (s.told q e) :=
  ((SameOn.freed hq ht s q e).trans (.sendSuccs ..)).trans (.signal he ..)

theorem State.leave_untraced (h : (s.core (homeCore q e)).trctl.getLsbD 0 = false) : s.leave q e 4 = (s.told q e).report e 4 := by
  have ht : SameOn Core.trctl s ((s.told q e).report e 4) :=
    (SameOn.told (fun _ _ _ _ => rfl) (fun _ _ _ => rfl) (fun _ _ => rfl) s q e).trans (.report (fun _ _ _ => rfl) ..)
  exact State.traceCmd_off ((congrArg (BitVec.getLsbD · 0) (ht.core _)).trans h) 3

theorem State.told_mem (s : State) (q : QueueId) (e : Entry) : (s.told q e).mem = s.mem := by
  rw [State.told, State.signal_mem, State.sendSuccs_rest]
  exact State.freed_mem ..

theorem State.told_msgs (s : State) (q : QueueId) (e : Entry) : (s.told q e).msgs = s.msgs ++ decrements s q e := by
  refine (State.sendSuccs_msgs ..).trans ?_
  simp only [State.freed_msgs, State.next_freed, decrements]

theorem State.evw_told (s : State) (q : QueueId) (e : Entry) :
    ((s.told q e).core (homeCore q e)).evw = (s.core (homeCore q e)).evw ||| BitVec.ofNat 32 (e.d 1 / 2 ^ 32) := by
  have hk : SameOn Core.evw s ((s.freed q e).sendSuccs .decrement q e.seq e.succs) :=
    (SameOn.freed (fun _ _ _ _ => rfl) (fun _ _ _ => rfl) s q e).trans (.sendSuccs ..)
  rw [State.told, State.signal, State.core_modCore_same]
  exact congrArg (· ||| _) (hk.core _)

theorem State.token_told (h : ∀ t, e.pushQueue = some t → (s.core (homeCore q e)).token t < 15) (n : Nat) :
    ((s.told q e).core (homeCore q e)).token n =
      if e.pushQueue = some n then (s.core (homeCore q e)).token n + 1 else (s.core (homeCore q e)).token n := by
  have hk : SameOn Core.tokens (s.freed q e) (s.told q e) := (SameOn.sendSuccs ..).trans (.signal (fun _ _ => rfl) ..)
  rw [← State.token_freed h]
  exact congrArg (fun t : Tbl Nat => Tbl.get 0 t n) (hk.core _)

/-- A report that finds room in its result queue (05 R109). -/
theorem State.results_report {u : State} (hr : e.reports = true) (hroom : (u.core e.core).resultRoom e.reportClass = true) (state : Nat) :
    ((u.report e state).core e.core).resultsOf e.reportClass = (u.core e.core).resultsOf e.reportClass ++ [e.element state] := by
  rw [State.report, if_neg (by simp [hr]), State.core_modCore_same, if_pos hroom]
  exact Tbl.get_set_same ..

theorem State.sealEnd_mem (s : State) (e : Entry) : (s.sealEnd e).mem = s.mem := by
  unfold State.sealEnd
  split
  · exact State.sealCtx_mem ..
  · rfl

theorem State.sealEnd_msgs (s : State) (e : Entry) : (s.sealEnd e).msgs = s.msgs := by
  unfold State.sealEnd
  split
  · rw [(Kept.sealCtx ..).rest]
  · rfl

theorem State.queue_sealEnd (s : State) (e : Entry) (r : QueueId) : (s.sealEnd e).queue r = s.queue r := by
  have h := SameOn.sealEnd (π := fun k => (k.mq, k.vq, k.cq)) (fun _ _ => rfl) s e
  refine State.queue_of_core h.core ?_ ?_ r
  all_goals
    unfold State.sealEnd
    split
    · unfold State.sealCtx
      dsimp only
      split <;> rfl
    · rfl

/-- What a retirement leaves: the entry with its d15 leaves its queue, then it is noted and its seal is made. -/
def State.retired (s : State) (q : QueueId) (e e1 : Entry) : State := ((s.leave q e1 4).modCore (homeCore q e) fun k => k.noteCopy e1).sealEnd e

theorem State.retireCmd_untold (hc : s.consumers q e.seq = []) (valid zero finite : Bool) :
    ∃ d15, s.retireCmd q e valid zero finite [] = s.retired q e (e.setD 15 d15) := by
  refine ⟨bitsOf (e.d 15) 15 0 + b2n finite * 2 ^ 17 + b2n zero * 2 ^ 16 + b2n valid * 2 ^ 23 + (s.core (homeCore q e)).cycle % 2 ^ 32 * 2 ^ 32, ?_⟩
  unfold State.retireCmd
  dsimp only [List.foldl_nil]
  rw [hc, State.rules_nil]
  rfl

end

/-- What a command that retires leaves behind (13 R276, R280, 05 R109). -/
structure Retired (s t : State) (q : QueueId) (e : Entry) : Prop where
  gone : (t.queue q).find e.seq = none
  memory : SameMemory s t
  msgs : t.msgs = s.msgs ++ decrements s q e
  evw : (t.core (homeCore q e)).evw = (s.core (homeCore q e)).evw ||| BitVec.ofNat 32 (e.d 1 / 2 ^ 32)
  token : ∀ n, (t.core (homeCore q e)).token n = if e.pushQueue = some n then (s.core (homeCore q e)).token n + 1 else (s.core (homeCore q e)).token n
  report : e.reports = true → ∃ w, (t.core e.core).resultsOf e.reportClass = (s.core e.core).resultsOf e.reportClass ++ [w] ∧
    w.toNat / 2 ^ 32 = e.seq % 2 ^ 32 ∧ w.toNat / 2 ^ 18 % 8 = 4

/-- Room for what a command takes with it to its own core: its report and its token. -/
structure RoomAtHome (s : State) (q : QueueId) (e : Entry) : Prop where
  report : e.reports = true → (s.core e.core).resultRoom e.reportClass = true
  token : ∀ t, e.pushQueue = some t → (s.core (homeCore q e)).token t < 15

theorem roomAtHome_of_retireRoom {s : State} {q : QueueId} {e : Entry} (h : s.retireRoom q e = true) : RoomAtHome s q e := by
  simp only [State.retireRoom, Bool.and_eq_true, Bool.or_eq_true, Bool.not_eq_true'] at h
  obtain ⟨⟨hreport, htoken⟩, -⟩ := h
  refine ⟨fun hr => hreport.resolve_left (by simp [hr]), fun t ht => ?_⟩
  rw [ht] at htoken
  exact of_decide_eq_true htoken

theorem retired_of_room {s : State} {q : QueueId} {e : Entry} (hroom : RoomAtHome s q e) (htr : (s.core (homeCore q e)).trctl.getLsbD 0 = false) (d15 : Nat) :
    Retired s (s.retired q e (e.setD 15 d15)) q e := by
  obtain ⟨hreport, htoken⟩ := hroom
  have hhome : homeCore q (e.setD 15 d15) = homeCore q e := by cases q <;> rfl
  generalize he1 : e.setD 15 d15 = e1 at hhome ⊢
  have hpush : e1.pushQueue = e.pushQueue := he1 ▸ e.pushQueue_setD15 d15
  have hsuccs : e1.succs = e.succs := he1 ▸ e.succs_setD15 d15
  have hreports : e1.reports = e.reports := he1 ▸ e.reports_setD15 d15
  have hclass : e1.reportClass = e.reportClass := he1 ▸ e.reportClass_setD15 d15
  have hd1 : e1.d 1 = e.d 1 := he1 ▸ e.d_setD_other (by decide) d15
  have hseq : e1.seq = e.seq := he1 ▸ rfl
  have hcore : e1.core = e.core := he1 ▸ rfl
  have hleave : s.leave q e1 4 = (s.told q e1).report e1 4 := State.leave_untraced (hhome ▸ htr)
  -- What the report, the note of a copy and the seal leave of a core's event word and tokens.
  have hafter {α : Type} {π : Core → α} (hr : ∀ k r l, π { k with results := r, held := l } = π k) (hn : ∀ k r, π { k with refetch := r } = π k)
      (hx : ∀ k x, π { k with ctxs := x } = π k) : SameOn π (s.told q e1) (s.retired q e e1) := by
    rw [State.retired, hleave]
    exact ((SameOn.report hr ..).trans (.noteCopy hn ..)).trans (.sealEnd hx ..)
  have hend {α : Type} {π : Core → α} (hn : ∀ k r, π { k with refetch := r } = π k)
      (hx : ∀ k x, π { k with ctxs := x } = π k) : SameOn π ((s.told q e1).report e1 4) (s.retired q e e1) := by
    rw [State.retired, hleave]
    exact (SameOn.noteCopy hn ..).trans (.sealEnd hx ..)
  refine ⟨?gone, sameMemory_of_mem ?memory, ?msgs, ?evw, ?token, ?report⟩
  case gone =>
    rw [State.retired, State.queue_sealEnd, State.queue_modCore, State.queue_leave, hseq]
    · exact Queue.find_free ..
    · unfold Core.noteCopy
      split <;> rfl
  case memory =>
    rw [State.retired, State.sealEnd_mem, State.modCore_mem, hleave, State.report_mem, State.told_mem]
  case msgs =>
    rw [State.retired, State.sealEnd_msgs, State.modCore_msgs, hleave]
    refine Eq.trans ?_ (State.told_msgs s q e1) |>.trans ?_
    · unfold State.report
      split <;> rfl
    · rw [decrements, hsuccs, hseq, decrements]
  case evw =>
    rw [(hafter (π := Core.evw) (fun _ _ _ => rfl) (fun _ _ => rfl) fun _ _ => rfl).core, ← hhome, State.evw_told, hd1]
  case token =>
    intro n
    have hk := (hafter (π := Core.tokens) (fun _ _ _ => rfl) (fun _ _ => rfl) fun _ _ => rfl).core (homeCore q e)
    have ht := State.token_told (s := s) (q := q) (e := e1) (by rw [hpush, hhome]; exact htoken) n
    rw [hpush, hhome] at ht
    exact (congrArg (fun t : Tbl Nat => Tbl.get 0 t n) hk).trans ht
  case report =>
    intro hr
    have hk : SameOn (fun k => (k.results, k.held)) s (s.told q e1) := .told (fun _ _ _ _ => rfl) (fun _ _ _ => rfl) (fun _ _ => rfl) ..
    have hres : ((s.told q e1).core e.core).results = (s.core e.core).results := congrArg Prod.fst (hk.core e.core)
    have hheld : ((s.told q e1).core e.core).held = (s.core e.core).held := congrArg Prod.snd (hk.core e.core)
    have hof : ((s.told q e1).core e.core).resultsOf e.reportClass = (s.core e.core).resultsOf e.reportClass := by
      rw [Core.resultsOf, hres, Core.resultsOf]
    have hin : ((s.told q e1).core e.core).resultRoom e.reportClass = true := by
      rw [Core.resultRoom, hof, hheld]
      exact hreport hr
    have hpost := State.results_report (u := s.told q e1) (e := e1) (hreports.trans hr) (by rw [hcore, hclass]; exact hin) 4
    rw [hcore, hclass, hof] at hpost
    have hlast := (hend (π := Core.results) (fun _ _ => rfl) fun _ _ => rfl).core e.core
    refine ⟨e1.element 4, (congrArg (fun t : Tbl (List Word) => Tbl.get [] t e.reportClass) hlast).trans hpost, ?_⟩
    rw [← hseq]
    exact e1.element_fields (by decide)

end Sys2Proof.Machine

/-! # Commands start, retire, fault and return to their queue (13 R268 to R280, 20 R363) -/

namespace Sys2Proof.Machine
open Sys2Proof Sys2Proof.Spec

section
variable {s t : State} {q : QueueId} {seq : Nat} {e : Entry}

/-! ### The start (13 R268, R269, R274) -/

theorem exec_commandStart (h : (s.advance q).firstReady q = some e) : exec (.commandStart q) s = .next ((s.advance q).startCmd q e) := by
  have hx : exec (.commandStart q) s = execCommandStart q s := rfl
  rw [hx, execCommandStart, h]

/-! ### The retirement (13 R276) -/

theorem exec_commandRetire_full {valid zero finite : Bool} {tiles : List (Nat × Nat × Nat)} (hf : (s.queue q).find seq = some e) (hst : e.st = .running)
    (hw : e.work = .done valid zero finite tiles) (hroom : s.retireRoom q e = false) : exec (.commandRetire q seq) s = .next s := by
  have hx : exec (.commandRetire q seq) s = execCommandRetire q seq s := rfl
  rw [hx, execCommandRetire, hf]
  simp only [hst, hw, hroom, Bool.not_false, if_true]

/-- A command that is no K.EVENT retires where it finds room. -/
theorem exec_commandRetire_room {valid zero finite : Bool} {tiles : List (Nat × Nat × Nat)} (hf : (s.queue q).find seq = some e) (hst : e.st = .running)
    (hw : e.work = .done valid zero finite tiles) (hop : e.opcode ≠ 0x14) (hoq : ∀ u, q ≠ .oq u) (hroom : s.retireRoom q e = true) :
    exec (.commandRetire q seq) s = .next ((s.endJob q e).retireCmd q e valid zero finite tiles) := by
  have hx : exec (.commandRetire q seq) s = execCommandRetire q seq s := rfl
  have hraise : s.raiseEvent q e = s := if_pos hop
  have hend (t : State) : (t.installCal q e).afterEnd q = t := by
    cases q with
    | oq u => exact absurd rfl (hoq u)
    | _ => rfl
  rw [hx, execCommandRetire, hf]
  simp only [hst, hw, hroom, hop, hraise, hend, Bool.not_true, Bool.false_eq_true, if_false]

theorem State.endJob_mem (s : State) (q : QueueId) (e : Entry) : (s.endJob q e).mem = s.mem := by
  unfold State.endJob
  split <;> rfl

theorem State.endJob_msgs (s : State) (q : QueueId) (e : Entry) : (s.endJob q e).msgs = s.msgs := by
  unfold State.endJob
  split <;> rfl

/-- What the end of a command's job leaves alone. -/
theorem retired_of_endJob (h : Retired (s.endJob q e) t q e) : Retired s t q e := by
  have hsame {α : Type} {π : Core → α} (hj : ∀ k j, π { k with job := j } = π k) (c : Nat) : π ((s.endJob q e).core c) = π (s.core c) := (SameOn.endJob hj s q e).core c
  have htoken (n : Nat) : ((s.endJob q e).core (homeCore q e)).token n = (s.core (homeCore q e)).token n :=
    hsame (π := fun k => k.token n) (fun _ _ => rfl) _
  refine ⟨h.gone, fun a => (h.memory a).trans (sameMemory_of_mem (State.endJob_mem s q e) a), h.msgs.trans ?_, h.evw.trans ?_, fun n => ?_, fun hr => ?_⟩
  · simp only [State.endJob_msgs, decrements, State.queue_endJob]
  · rw [hsame (π := Core.evw) fun _ _ => rfl]
  · rw [h.token, htoken]
  · rw [← hsame (π := fun k => k.resultsOf e.reportClass) fun _ _ => rfl]
    exact h.report hr

theorem retired_retireCmd (hroom : s.retireRoom q e = true) (hc : s.consumers q e.seq = []) (htr : (s.core (homeCore q e)).trctl.getLsbD 0 = false)
    (valid zero finite : Bool) : Retired s ((s.endJob q e).retireCmd q e valid zero finite []) q e := by
  have hsame {α : Type} {π : Core → α} (hj : ∀ k j, π { k with job := j } = π k) (c : Nat) : π ((s.endJob q e).core c) = π (s.core c) := (SameOn.endJob hj s q e).core c
  obtain ⟨hreport, htoken⟩ := roomAtHome_of_retireRoom hroom
  obtain ⟨d15, hd15⟩ := State.retireCmd_untold (State.consumers_of_queues (State.queue_endJob s q e) hc) valid zero finite
  rw [hd15]
  refine retired_of_endJob (retired_of_room ⟨fun hr => ?_, fun n hn => ?_⟩ ?_ d15)
  · exact (hsame (π := fun k => k.resultRoom e.reportClass) (fun _ _ => rfl) _).trans (hreport hr)
  · exact Eq.trans_lt (hsame (π := fun k => k.token n) (fun _ _ => rfl) _) (htoken n hn)
  · exact (hsame (π := fun k => k.trctl.getLsbD 0) (fun _ _ => rfl) _).trans htr

/-! ### The fault (13 R276) -/

theorem exec_commandFault {cause : Nat} {freeze : Bool} (hf : (s.queue q).find seq = some e) (hst : e.st = .running) (hw : e.work = .failed cause freeze)
    (hrerun : cause ≠ 0x06 ∨ e.eligible (s.core (homeCore q e)) = false) (hoq : ∀ u, q ≠ .oq u) :
    exec (.commandFault q seq) s = .next (s.faultCmd q seq cause freeze) := by
  have hx : exec (.commandFault q seq) s = execCommandFault q seq s := rfl
  have hno : ¬(cause = 0x06 ∧ e.eligible (s.core (homeCore q e)) = true) := by
    rintro ⟨hc, he⟩
    rcases hrerun with h | h
    · exact h hc
    · rw [h] at he
      cases he
  have hend (t : State) : t.afterEnd q = t := by
    cases q with
    | oq u => exact absurd rfl (hoq u)
    | _ => rfl
  rw [hx, execCommandFault, hf]
  simp only [hst, hw, ne_eq, not_true_eq_false, if_false, if_neg hno, hend]

/-! ### QCTL (13 R277) -/

/-- A faulted command as QCTL returns it to waiting. -/
def Entry.retried (e : Entry) : Entry := { e with st := .waiting, work := .pending, progress := 0 }

theorem exec_qctlRetry (hoq : ∀ u, q ≠ .oq u) (hlq : ∀ d, q ≠ .lq d) : exec (.qctlRetry q seq) s = .next (s.retryCmd q seq) := by
  cases q with
  | oq u => exact absurd rfl (hoq u)
  | lq d => exact absurd rfl (hlq d)
  | _ => rfl

theorem exec_qctlCancel (hoq : ∀ u, q ≠ .oq u) (hlq : ∀ d, q ≠ .lq d) : exec (.qctlCancel q seq) s = .next (s.cancelCmd q seq) := by
  cases q with
  | oq u => exact absurd rfl (hoq u)
  | lq d => exact absurd rfl (hlq d)
  | _ => rfl

/-- A strict command that is retried waits again, and nothing fires. -/
theorem retryCmd_leaves (hf : (s.queue q).find seq = some e) (hst : e.st = .faulted) (hs : bitOf (e.d 0) 17 = false) :
    ((s.retryCmd q seq).queue q).find seq = some e.retried ∧ SameMemory s (s.retryCmd q seq) := by
  unfold State.retryCmd
  split
  · next hn =>
    rw [hf] at hn
    cases hn
  · next d hd =>
    rw [hf] at hd
    cases hd
    extract_lets s1 s2
    have hfind : (s2.queue q).find seq = some e.retried := by
      rw [State.queue_modCore s1 _ rfl, State.queue_modQueue_same]
      exact Queue.find_modEntry (f := Entry.retried) hf fun _ hd => hd
    have hmem : s2.mem = s.mem := State.modQueue_mem ..
    rw [if_neg (by simp [hst]), State.rules_of_strict hfind hs]
    exact ⟨hfind, sameMemory_of_mem hmem⟩

theorem cancelCmd_leaves (hf : (s.queue q).find seq = some e) (hst : e.st = .faulted) :
    (∀ b, b ∈ ((s.cancelCmd q seq).queue q).entries ↔ b ∈ (s.queue q).entries ∧ b.seq ≠ seq) ∧ (s.cancelCmd q seq).msgs = s.msgs ∧ SameMemory s (s.cancelCmd q seq) := by
  unfold State.cancelCmd
  split
  · next hn =>
    rw [hf] at hn
    cases hn
  · next d hd =>
    rw [hf] at hd
    cases hd
    extract_lets s1
    rw [if_neg (by simp [hst])]
    refine ⟨fun b => ?_, State.modQueue_msgs .., sameMemory_of_mem (State.modQueue_mem ..)⟩
    rw [State.queue_modCore, State.queue_modQueue_same]
    · simp [Queue.free]
    · dsimp only
      split
      · split <;> rfl
      · rfl

end

/-! ### Obligation O45 -/

/-- Settles O45: a start is `startCmd` of the first ready command, a retirement frees the entry and sends what leaves with it, a fault and QCTL change the entry. -/
theorem commandsStartAndEnd : Obligations.CommandsStartAndEnd := by
  refine ⟨?start, ?retire, ?fault, ?qctl⟩
  case start =>
    intro s q e u hfirst hfind hlen
    refine ⟨fun hclear hunlit => ?_, fun hclear hlit => ?_, fun hover => ?_⟩
    · obtain ⟨t, ht, hstarted, -⟩ := startCmd_of_clear hclear hfind
      refine ⟨_, exec_commandStart hfirst, ?_⟩
      rw [ht, if_pos hunlit]
      exact (faulted_faultCmd hstarted hlen (by decide) false).1
    · obtain ⟨t, ht, hstarted, htoken⟩ := startCmd_of_clear hclear hfind
      refine ⟨t, e.started u.time, ?_, hstarted, rfl, rfl, rfl, rfl, htoken⟩
      rw [exec_commandStart hfirst, ht, if_neg (by simp [hlit])]
    · refine ⟨_, exec_commandStart hfirst, ?_⟩
      rw [startCmd_of_overlap hover]
      exact (faulted_faultCmd hfind hlen (by decide) false).1
  case retire =>
    intro s q seq e v z f hfind hst hw hop
    refine ⟨exec_commandRetire_full hfind hst hw, fun hroom hc hoq htr => ?_⟩
    have hseq : e.seq = seq := Queue.seq_of_find hfind
    have h := retired_retireCmd hroom (hseq ▸ hc) htr v z f
    exact ⟨_, exec_commandRetire_room hfind hst hw hop hoq hroom, hseq ▸ h.gone, h.memory, h.msgs, h.evw, h.token, h.report⟩
  case fault =>
    intro s q seq e c f hfind hst hw hc hlen hrerun hoq
    exact ⟨_, exec_commandFault hfind hst hw hrerun hoq, faulted_faultCmd hfind hlen hc f⟩
  case qctl =>
    intro s q seq e hfind hst hoq hlq
    refine ⟨fun hs => ?_, _, exec_qctlCancel hoq hlq, cancelCmd_leaves hfind hst⟩
    obtain ⟨hwaits, hmem⟩ := retryCmd_leaves hfind hst hs
    exact ⟨_, e.retried, exec_qctlRetry hoq hlq, hwaits, rfl, rfl, rfl, hmem⟩

end Sys2Proof.Machine

/-! # Commands that read a line listed as clean (13 R279, 14 R293, 17 R335)

The statements about copies, feeds and placed records ask of a source range that no byte of it is poisoned. A byte is poisoned when its line's value in the poison table is true; a
command's read asks whether the table lists one of its lines at all. The two differ on a table that lists a line with the value false. No write of the model leaves such a table (it is
not canonical, `Tbl.wf`), but the statements quantify over every state, and there the read faults with 0x06. -/

namespace Sys2Proof.Machine

open Sys2Proof.Spec Sys2Proof.Tests

/-! ### A line listed as clean -/

/-- The state whose poison table lists one line, with the value false. -/
def State.listClean (s : State) (line : Nat) : State := { s with poison := [(line, false)] }

/-- Such a table is not canonical. -/
theorem wf_poison_listClean (s : State) (line : Nat) : Tbl.wf false (s.listClean line).poison = false := by
  simp [Tbl.wf, State.listClean]

/-- A table that lists a line as clean poisons no byte. -/
theorem poisoned_listClean (s : State) (line l : Nat) : (s.listClean line).poisoned l = false := by
  by_cases h : line = l / 64 <;> simp [State.poisoned, State.listClean, Tbl.get, h]

/-- What a command reads in plain SRAM of a state that lists a line as clean is clear to the statements. -/
theorem clearSram_listClean {s : State} {line : Nat} {e : Entry} {a n : Nat} (hin : a + n ≤ 2 ^ 33) (hpriv : e.priv = true) :
    ClearSram (s.listClean line) e a n :=
  clearSram hin hpriv (poisoned_listClean s line)

/-- A turn whose work the model evaluates to a fault leaves no other work. -/
theorem workIs_of_workAfter {i : Instr} {s t : State} {a m : Nat} {w v : Work} (hafter : workAfter i s a = some (m, some w)) (ht : exec i s = .next t)
    (hw : WorkIs t s.focus.queue s.focus.seq v) : v = w := by
  obtain ⟨e, hfind, -, rfl⟩ := hw
  simp only [workAfter, ht, hfind, Option.map_some, Option.some.injEq, Prod.mk.injEq] at hafter
  exact hafter.2

/-! ### Obligation O35 -/

/-- The tests' K.COPY of 64 bytes from 0x100, with the source's line 4 listed as clean. -/
def copyFromListed : State := (copies (copyOf 0x100 0x140 64)).listClean 4

theorem copyFine_copyFromListed : CopyFine copyFromListed (.cq 0) (copyOf 0x100 0x140 64) where
  begins := by decide +kernel
  apart := by decide +kernel
  modes := by decide +kernel
  log := rfl
  list h := absurd h (by decide +kernel)
  rowsFrom _ := only_row (by decide +kernel) ⟨by decide +kernel, clearSram_listClean (by decide +kernel) rfl⟩
  rowsTo := only_row (by decide +kernel) ⟨by decide +kernel, by decide +kernel, .inl rfl⟩
  listKept h := absurd h (by decide +kernel)

theorem workAfter_copyFromListed : workAfter (.kCopy (hd 3) (od 0)) copyFromListed 0x140 = some (0, some (.failed 6 false)) := by decide +kernel

/-- Refutes O35: a K.COPY whose source line the poison table lists with the value false is a normal copy to the statement, and its read faults with 0x06. The table is not canonical;
the counterexample says nothing of states that the model reaches. -/
theorem not_copiesMoveTheirRows : ¬ Obligations.CopiesMoveTheirRows := by
  unfold Obligations.CopiesMoveTheirRows
  intro h
  obtain ⟨-, -, hmoves, -, -⟩ := h (.kCopy (hd 3) (od 0)) copyFromListed (.cq 0) (copyOf 0x100 0x140 64) rfl ⟨rfl, by decide +kernel, rfl, rfl⟩
  obtain ⟨t, ht, ⟨v, z, f, tiles, hdone⟩, -, -⟩ := hmoves copyFine_copyFromListed
  cases workIs_of_workAfter workAfter_copyFromListed ht hdone

/-! ### Obligation O36 -/

/-- The tests' K.FEED of two doublewords at 0x100, with their line 4 listed as clean. -/
def feedFromListed : State := (feeding (feedOf 0x100 2)).listClean 4

theorem feedOf_element_clear {j : Nat} (hj : j < (feedOf 0x100 2).rowBytes) :
    0 ≤ ((feedOf 0x100 2).d 7 : Int) + (j : Nat) * sextNat 32 (bitsOf ((feedOf 0x100 2).d 10) 31 0) ∧
      ClearSram feedFromListed (feedOf 0x100 2) (((feedOf 0x100 2).d 7 : Int) + (j : Nat) * sextNat 32 (bitsOf ((feedOf 0x100 2).d 10) 31 0)).toNat
        (2 ^ bitsOf ((feedOf 0x100 2).d 11) 3 2) := by
  have hcount : (feedOf 0x100 2).rowBytes = 2 := by decide +kernel
  have hbase : (feedOf 0x100 2).d 7 = 256 := by decide +kernel
  have hstride : sextNat 32 (bitsOf ((feedOf 0x100 2).d 10) 31 0) = 8 := by decide +kernel
  have hsize : 2 ^ bitsOf ((feedOf 0x100 2).d 11) 3 2 = 8 := by decide +kernel
  rw [hbase, hstride, hsize]
  exact ⟨by omega, clearSram_listClean (by omega) rfl⟩

theorem workAfter_feedFromListed : workAfter (.kFeed (hd 3) (od 0)) feedFromListed 0x140 = some (0, some (.failed 6 false)) := by decide +kernel

/-- Refutes O36: a K.FEED whose elements lie in a line that the poison table lists with the value false can read them to the statement, and its first read faults with 0x06. The table
is not canonical; the counterexample says nothing of states that the model reaches. -/
theorem not_smallCommandsFinish : ¬ Obligations.SmallCommandsFinish := by
  unfold Obligations.SmallCommandsFinish
  rintro ⟨-, -, -, hfeed⟩
  obtain ⟨-, -, hgoes⟩ := hfeed feedFromListed (.cq 0) (feedOf 0x100 2) (hd 3) (od 0) ⟨rfl, by decide +kernel, rfl, rfl⟩
  obtain ⟨hvalues, -⟩ := hgoes (by decide +kernel)
  obtain ⟨t, ht, hdone, -, -⟩ := hvalues (by decide +kernel) (fun _ _ => feedOf_element_clear) (by decide +kernel) (by decide +kernel) (by decide +kernel)
  cases workIs_of_workAfter workAfter_feedFromListed ht hdone

/-! ### Obligation O37 -/

/-- The tests' K.KERNEL of the record at 0x1000, which does not wait for it, with the record's first line 0x40 listed as clean. -/
def placeFromListed : State := (placing 0x1000 false).listClean 0x40

theorem workAfter_placeFromListed : workAfter (.kKernel (hd 3) (od 0)) placeFromListed 0x140 = some (0, some (.failed 6 false)) := by decide +kernel

/-- Refutes O37: a K.KERNEL whose record lies in a line that the poison table lists with the value false can read it to the statement, and its read faults with 0x06, so that no record
is placed. The table is not canonical; the counterexample says nothing of states that the model reaches. -/
theorem not_jobsNestsAndKernelCommands : ¬ Obligations.JobsNestsAndKernelCommands := by
  unfold Obligations.JobsNestsAndKernelCommands
  rintro ⟨-, -, hkernel⟩
  obtain ⟨-, -, -, hplaces, -⟩ := hkernel placeFromListed (.cq 0) (kernelOf 0x1000 false) (hd 3) (od 0) ⟨rfl, by decide +kernel, rfl, rfl⟩ rfl
  obtain ⟨t, ht, k, -, -, -, -, -, hdone, -⟩ := hplaces (by decide +kernel) (clearSram_listClean (by decide +kernel) rfl) (by decide +kernel) (by decide +kernel)
  cases workIs_of_workAfter workAfter_placeFromListed ht (hdone (by decide +kernel))

end Sys2Proof.Machine

/-! # Kernels start, hand out iterations and leave (14 R288 to R297) -/

namespace Sys2Proof.Machine

open Sys2Proof Sys2Proof.Spec

/-! ### The records of a queue (14 R288) -/

theorem State.kq_modKernel (s : State) (q i : Nat) (f : Kernel → Kernel) : (s.modKernel q i f).kq q = (s.kq q).map fun k => if k.id = i then f k else k :=
  Tbl.get_set_same ..

/-- A change of the head's kernel leaves the changed head at the head. -/
theorem State.kq_modKernel_head {s : State} {q : Nat} {k : Kernel} {ks : List Kernel} (h : s.kq q = k :: ks) (f : Kernel → Kernel) :
    ∃ ks', (s.modKernel q k.id f).kq q = f k :: ks' := by
  rw [State.kq_modKernel, h, List.map_cons, if_pos rfl]
  exact ⟨_, rfl⟩

theorem State.kq_of_kqs {s t : State} (h : t.kqs = s.kqs) (q : Nat) : t.kq q = s.kq q := by rw [State.kq, State.kq, h]

/-! ### The start (14 R292) -/

theorem exec_kernelStart_armed {s : State} {q : Nat} {k : Kernel} {ks : List Kernel} (h : s.kq q = k :: ks) (hst : k.st = .armed) (htime : recD k.record 6 ≤ s.time) :
    exec (.kernelStart q) s = .next (s.modKernel q k.id fun k => { k with st := .running, ran := true }) := by
  show execKernelStart q s = _
  unfold execKernelStart
  rw [h]
  exact if_pos ⟨hst, htime⟩

/-! ### A context that starts (14 R290) -/

/-- The registers that a hand-off loads: each non-zero preload field below `m` with its value. -/
def preloads (pre vals : List Nat) (bound : Bool) (m : Nat) : List (Nat × Nat) :=
  (List.range m).filterMap fun v => if pre.getD v 0 = 0 ∨ (v = 7 ∧ bound = false) then none else some (pre.getD v 0, vals.getD v 0)

/-- A context with registers loaded, one after another. -/
def Ctx.preload (c : Ctx) (regs : List (Nat × Nat)) : Ctx := regs.foldl (fun c p => c.setX p.1 (BitVec.ofNat 64 p.2)) c

theorem preloads_succ (pre vals : List Nat) (bound : Bool) (m : Nat) : preloads pre vals bound (m + 1) = preloads pre vals bound m ++
    if pre.getD m 0 = 0 ∨ (m = 7 ∧ bound = false) then [] else [(pre.getD m 0, vals.getD m 0)] := by
  rw [preloads, List.range_succ, List.filterMap_append, preloads]
  congr 1
  rw [List.filterMap_cons, List.filterMap_nil]
  by_cases h : pre.getD m 0 = 0 ∨ (m = 7 ∧ bound = false)
  · rw [if_pos h, if_pos h]
  · rw [if_neg h, if_neg h]

/-- One more field loads its register where it names one. -/
theorem Ctx.getX_preload_succ (c : Ctx) (pre vals : List Nat) (bound : Bool) (m r : Nat) : (c.preload (preloads pre vals bound (m + 1))).getX r =
    if pre.getD m 0 = r ∧ r ≠ 0 ∧ ¬(m = 7 ∧ bound = false) then BitVec.ofNat 64 (vals.getD m 0) else (c.preload (preloads pre vals bound m)).getX r := by
  rw [preloads_succ, Ctx.preload, List.foldl_append]
  by_cases h : pre.getD m 0 = 0 ∨ (m = 7 ∧ bound = false)
  · rw [if_pos h, if_neg (by rintro ⟨rfl, h0, h7⟩; exact h.elim h0 h7)]
    rfl
  · rw [if_neg h]
    obtain ⟨h0, h7⟩ := not_or.1 h
    rw [List.foldl_cons, List.foldl_nil, Ctx.getX_setX]
    refine if_congr ⟨fun hr => ?_, fun hr => ⟨hr.1.symm, h0⟩⟩ rfl rfl
    exact ⟨hr.1.symm, by rw [hr.1]; exact h0, h7⟩

/-- A register that no field names keeps its value. -/
theorem Ctx.getX_preload_other (c : Ctx) {pre : List Nat} (vals : List Nat) {m r : Nat} (h : ∀ v, v < m → v < 7 → pre.getD v 0 ≠ r) (hm : m ≤ 8) :
    (c.preload (preloads pre vals false m)).getX r = c.getX r := by
  induction m with
  | zero => rfl
  | succ m ih =>
    rw [Ctx.getX_preload_succ, if_neg, ih (fun v hv => h v (by omega)) (by omega)]
    rintro ⟨hr, -, h7⟩
    exact h m (by omega) (by simp at h7; omega) hr

/-- A register takes the value of the last field that names it. -/
theorem Ctx.getX_preload_last (c : Ctx) {pre : List Nat} (vals : List Nat) {m v r : Nat} (hr : pre.getD v 0 = r) (h0 : r ≠ 0) (hv : v < 7) (hvm : v < m) (hm : m ≤ 8)
    (hlast : ∀ u, v < u → u < 7 → pre.getD u 0 ≠ r) : (c.preload (preloads pre vals false m)).getX r = BitVec.ofNat 64 (vals.getD v 0) := by
  induction m with
  | zero => omega
  | succ m ih =>
    rw [Ctx.getX_preload_succ]
    by_cases hvm' : v = m
    · subst hvm'
      exact if_pos ⟨hr, h0, by omega⟩
    · rw [if_neg, ih (by omega) (by omega)]
      rintro ⟨hu, -, h7⟩
      exact hlast m (by omega) (by simp at h7; omega) hu

theorem Ctx.preload_rest (c : Ctx) (regs : List (Nat × Nat)) : c.preload regs = { c with x := (c.preload regs).x } := by
  refine foldl_keeps (fun d : Ctx => d = { c with x := d.x }) (fun d p => d.setX p.1 (BitVec.ofNat 64 p.2)) regs (fun d p _ hd => ?_) c rfl
  rw [Ctx.setX_rest]
  exact congrArg (fun e : Ctx => { e with x := (d.setX p.1 (BitVec.ofNat 64 p.2)).x }) hd

theorem Ctx.x_setX_congr {c d : Ctx} (h : c.x = d.x) (n : Nat) (v : Word) : (c.setX n v).x = (d.setX n v).x := by
  unfold Ctx.setX
  split
  · exact h
  · rw [h]

theorem Ctx.getX_preload_congr {c d : Ctx} (h : c.x = d.x) (regs : List (Nat × Nat)) (r : Nat) : (c.preload regs).getX r = (d.preload regs).getX r := by
  induction regs generalizing c d with
  | nil => rw [Ctx.preload, Ctx.preload, List.foldl_nil, List.foldl_nil, Ctx.getX, Ctx.getX, h]
  | cons p regs ih => exact ih (Ctx.x_setX_congr h ..)

/-- A context of a core as an iteration starts it, before its registers are loaded. -/
def Ctx.begun (c : Ctx) (entry : Nat) (priv : Bool) (ref : IterRef) (code : Nat) : Ctx :=
  { c with x := [], p := [], c := [], pc := BitVec.ofNat 64 entry, st := .running, priv := priv, iter := some ref, codeSince := code, codeFenced := none
           waiter := none, block := none, log := c.log.windows.foldl (fun l w => l.drop w.num) c.log }

/-- Context n of a core stands at the entry of a record with the registers of an iteration (14 R290). -/
structure StartsAt (r : List Word) (regs : List (Nat × Nat)) (n : Nat) (c : Ctx) : Prop where
  st : c.st = .running
  pc : c.pc = BitVec.ofNat 64 (recD r (1 + n))
  priv : c.priv = recPriv r
  x : ∀ m, c.getX m = ((Ctx.reset.preload regs).setX 31 iterationEnd).getX m

theorem StartsAt.kept {r : List Word} {regs : List (Nat × Nat)} {n : Nat} {c d : Ctx} (h : StartsAt r regs n c) (k : CtxKept c d) : StartsAt r regs n d where
  st := k.st_eq.trans h.st
  pc := k.pc_eq.trans h.pc
  priv := k.priv_eq.trans h.priv
  x m := by rw [← h.x, Ctx.getX, Ctx.getX, k.x_eq]

section
variable (s : State) (core : Nat) (r : List Word) (ref : IterRef) (regs : List (Nat × Nat))

theorem startsAt_begun (c : Ctx) (n code : Nat) : StartsAt r regs n (((c.begun (recD r (1 + n)) (recPriv r) ref code).preload regs).setX 31 iterationEnd) where
  st := by rw [Ctx.setX_st, Ctx.preload_rest]; rfl
  pc := by rw [Ctx.setX_pc, Ctx.preload_rest]; rfl
  priv := by rw [Ctx.setX_priv, Ctx.preload_rest]; rfl
  x m := by
    rw [Ctx.getX_setX, Ctx.getX_setX]
    exact if_congr Iff.rfl rfl (Ctx.getX_preload_congr (c := c.begun (recD r (1 + n)) (recPriv r) ref code) (d := Ctx.reset) rfl regs m)

theorem State.startCtx_eq {n : Nat} (h : recD r (1 + n) ≠ 0) : s.startCtx core n r ref regs =
    (s.modCtx core n fun c => ((c.begun (recD r (1 + n)) (recPriv r) ref s.overwritten.length).preload regs).setX 31 iterationEnd).openWindow core n 2
      (BitVec.ofNat 64 (recD r (1 + n))) := if_neg h

theorem startsAt_startCtx {n : Nat} (h : recD r (1 + n) ≠ 0) : StartsAt r regs n ((s.startCtx core n r ref regs).ctx core n) := by
  rw [State.startCtx_eq s core r ref regs h]
  refine StartsAt.kept ?_ ((Kept.openWindow ..).ctx core n)
  rw [State.ctx_modCtx_same]
  exact startsAt_begun ..

theorem State.startCtx_other {n m : Nat} (h : m ≠ n) : CtxKept (s.ctx core m) ((s.startCtx core n r ref regs).ctx core m) := by
  by_cases h0 : recD r (1 + n) = 0
  · rw [State.startCtx, if_pos h0]
    exact .refl _
  · rw [State.startCtx_eq s core r ref regs h0]
    refine CtxKept.trans ?_ ((Kept.openWindow ..).ctx core m)
    rw [State.ctx_modCtx_other _ _ _ _ _ _ fun hm => h hm.2]
    exact .refl _

theorem State.startCtx_mem (n : Nat) : (s.startCtx core n r ref regs).mem = s.mem := by
  unfold State.startCtx
  dsimp only
  split
  · rfl
  · rw [State.openWindow_mem, State.modCtx_mem]

theorem State.startCtx_kqs (n : Nat) : (s.startCtx core n r ref regs).kqs = s.kqs := by
  unfold State.startCtx
  dsimp only
  split <;> rfl

/-- The three contexts of a core start. -/
def State.startAll : State := [0, 1, 2].foldl (fun s n => s.startCtx core n r ref regs) s

theorem State.startAll_eq : s.startAll core r ref regs = ((s.startCtx core 0 r ref regs).startCtx core 1 r ref regs).startCtx core 2 r ref regs := by
  simp only [State.startAll, List.foldl_cons, List.foldl_nil]

theorem startsAt_startAll {n : Nat} (hn : n < 3) (h : recD r (1 + n) ≠ 0) : StartsAt r regs n ((s.startAll core r ref regs).ctx core n) := by
  rw [State.startAll_eq]
  obtain rfl | rfl | rfl : n = 0 ∨ n = 1 ∨ n = 2 := by omega
  · exact ((startsAt_startCtx _ _ _ _ _ h).kept (State.startCtx_other _ _ _ _ _ (by decide))).kept (State.startCtx_other _ _ _ _ _ (by decide))
  · exact (startsAt_startCtx _ _ _ _ _ h).kept (State.startCtx_other _ _ _ _ _ (by decide))
  · exact startsAt_startCtx _ _ _ _ _ h

theorem State.startAll_mem : (s.startAll core r ref regs).mem = s.mem := by
  rw [State.startAll_eq, State.startCtx_mem, State.startCtx_mem, State.startCtx_mem]

theorem State.startAll_kqs : (s.startAll core r ref regs).kqs = s.kqs := by
  rw [State.startAll_eq, State.startCtx_kqs, State.startCtx_kqs, State.startCtx_kqs]

end

/-! ### The index tuple of an iteration (14 R289) -/

theorem digits_length (ns : List Nat) (i : Nat) : (digits ns i).length = ns.length := by
  induction ns generalizing i with
  | nil => rfl
  | cons n ns ih => rw [digits, List.length_cons, List.length_cons, ih]

theorem zDescend_length (ns : List Nat) (pos : Nat) (pre : List Nat) (i : Nat) : (zDescend ns pos pre i).length = pre.length := by
  induction pos generalizing pre i with
  | zero => rfl
  | succ pos ih =>
    rw [zDescend]
    split
    · exact ih ..
    · rw [ih, List.length_set]

theorem recIndex_length (r : List Word) (i : Nat) : (recIndex r i).length = 6 := by
  unfold recIndex
  dsimp only
  split
  · rw [List.length_reverse, digits_length, List.length_reverse]; rfl
  · rw [digits_length]; rfl
  · rw [zDescend_length]; rfl

/-! ### The hand-off (14 R289, R290) -/

/-- The values of the preload fields: the indices, the iteration number, the member index. -/
def handedValues (r : List Word) (i member : Nat) : List Nat := recIndex r i ++ [i, if recBind r then member else 0]

theorem State.handOff_eq (s : State) (kq : Nat) (k : Kernel) (core i member : Nat) : s.handOff kq k core i member =
    ((s.modCore core Core.emptyRings).startAll core k.record { kq := kq, record := k.id, i := i }
      (preloads (recPre k.record) (handedValues k.record i member) (recBind k.record) 8)).modKernel kq k.id fun k =>
        { k with handed := k.handed + 1, live := k.live ++ [(core, i)] } := rfl

/-- A running kernel, neither bound nor placed deterministically, hands its next iteration to the first of its cores that is free, which no lower-numbered queue takes (14 R288, R289). -/
structure HandsTo (s : State) (kq : Nat) (k : Kernel) (c : Nat) : Prop where
  running : k.st = .running
  unbound : recBind k.record = false
  single : recLock k.record = false
  anyCore : recDet k.record = false
  more : k.handed < recTotal k.record
  free : ((recCores k.record).filter fun c => (s.core c).free && !k.live.any fun p => p.1 == c).head? = some c
  first : s.takenBefore kq [(c, k.handed)] = false

section
variable {s : State} {kq c : Nat} {k : Kernel} {ks : List Kernel}

theorem startsAt_handOff (s : State) (kq : Nat) (k : Kernel) (core i member : Nat) {n : Nat} (hn : n < 3) (h : recD k.record (1 + n) ≠ 0) :
    StartsAt k.record (preloads (recPre k.record) (handedValues k.record i member) (recBind k.record) 8) n ((s.handOff kq k core i member).ctx core n) := by
  rw [State.handOff_eq]
  exact (startsAt_startAll _ core k.record _ _ hn h).kept ((Kept.modKernel ..).ctx core n)

theorem State.handOff_mem (s : State) (kq : Nat) (k : Kernel) (core i member : Nat) : (s.handOff kq k core i member).mem = s.mem := by
  rw [State.handOff_eq, State.modKernel_mem, State.startAll_mem, State.modCore_mem]

theorem State.kq_handOff_head (h : s.kq kq = k :: ks) (core i member : Nat) :
    ∃ ks', (s.handOff kq k core i member).kq kq = { k with handed := k.handed + 1, live := k.live ++ [(core, i)] } :: ks' := by
  rw [State.handOff_eq]
  refine State.kq_modKernel_head (k := k) ((State.kq_of_kqs ?_ kq).trans h) _
  rw [State.startAll_kqs, State.modCore_kqs]

theorem HandsTo.nextHand (hh : HandsTo s kq k c) : s.nextHand k = [(c, k.handed)] := by
  obtain ⟨cs, hcs⟩ := List.head?_eq_some_iff.1 hh.free
  obtain ⟨m, hm⟩ := Nat.exists_eq_succ_of_ne_zero (Nat.sub_ne_zero_of_lt hh.more)
  unfold State.nextHand State.handsNow
  dsimp only
  rw [hh.single, hh.anyCore, if_neg Bool.false_ne_true, if_neg Bool.false_ne_true, if_neg Bool.false_ne_true, hcs, hm, List.take_succ_cons, List.zipIdx_cons, List.map_cons,
    List.take_succ_cons, List.take_zero, Nat.add_zero]

theorem State.bindX_unbound {r : List Word} (h : recBind r = false) (s : State) (core : Nat) : s.bindX core r = some (0, s) := by
  unfold State.bindX
  exact if_pos (by rw [h]; rfl)

theorem State.bindWaits_unbound (h : recBind k.record = false) : s.bindWaits k = false := by
  unfold State.bindWaits
  rw [h]
  rfl

theorem exec_iterationHandoff_free (h : s.kq kq = k :: ks) (hh : HandsTo s kq k c) :
    exec (.iterationHandoff kq) s = .next ((s.handOff kq k c k.handed 0).modKernel kq k.id fun k' =>
      if recDet k'.record then { k' with nextOf := Tbl.set ((recCores k.record).idxOf c) k'.nextOf c (k.handed + (recCores k.record).length) } else k') := by
  show execIterationHandoff kq s = _
  unfold execIterationHandoff
  rw [h]
  dsimp only
  rw [hh.nextHand, if_neg (by simp [hh.running, State.bindWaits_unbound hh.unbound, hh.first])]
  simp only [List.foldl_cons, List.foldl_nil, Option.bind_some, State.bindX_unbound hh.unbound, Option.map_some, List.nil_append]

/-- The registers of a context of a free hand-off: the last field that names a register gives its value, and x31 is the iteration-end address. -/
theorem StartsAt.registers {i : Nat} {n : Nat} {d : Ctx} (hbind : recBind k.record = false)
    (h : StartsAt k.record (preloads (recPre k.record) (handedValues k.record i 0) (recBind k.record) 8) n d) : d.getX 31 = iterationEnd ∧
      (∀ v r, v < 6 → (recPre k.record).getD v 0 = r → r ≠ 0 → r ≠ 31 → (∀ u, v < u → u < 7 → (recPre k.record).getD u 0 ≠ r) →
        d.getX r = BitVec.ofNat 64 ((recIndex k.record i).getD v 0)) ∧
      ∀ r, r ≠ 31 → (∀ v, v < 7 → (recPre k.record).getD v 0 ≠ r) → d.getX r = 0 := by
  rw [hbind] at h
  refine ⟨?_, fun v r hv hr h0 h31 hlast => ?_, fun r h31 hnone => ?_⟩
  · rw [h.x, Ctx.getX_setX, if_pos (by decide)]
  · rw [h.x, Ctx.getX_setX, if_neg (fun h => h31 h.1), Ctx.getX_preload_last _ _ hr h0 (by omega) (by omega) (le_refl 8) hlast, handedValues,
      List.getD_append _ _ _ _ (by rw [recIndex_length]; exact hv)]
  · rw [h.x, Ctx.getX_setX, if_neg (fun h => h31 h.1), Ctx.getX_preload_other _ _ (fun v _ => hnone v) (le_refl 8)]
    unfold Ctx.getX
    split <;> rfl

theorem iterationHandoff_hands (h : s.kq kq = k :: ks) (hh : HandsTo s kq k c) :
    ∃ t k' ks', exec (.iterationHandoff kq) s = .next t ∧ SameMemory s t ∧ t.kq kq = k' :: ks' ∧ k'.handed = k.handed + 1 ∧ k'.live = k.live ++ [(c, k.handed)] ∧
      ∀ n, n < 3 → recD k.record (1 + n) ≠ 0 →
        StartsAt k.record (preloads (recPre k.record) (handedValues k.record k.handed 0) (recBind k.record) 8) n (t.ctx c n) := by
  obtain ⟨ks', hks⟩ := State.kq_handOff_head h c k.handed 0
  obtain ⟨ks'', hks'⟩ := State.kq_modKernel_head hks fun k' =>
    if recDet k'.record then { k' with nextOf := Tbl.set ((recCores k.record).idxOf c) k'.nextOf c (k.handed + (recCores k.record).length) } else k'
  refine ⟨_, _, _, exec_iterationHandoff_free h hh, sameMemory_of_mem ?_, hks', ?_, ?_, fun n hn hentry => ?_⟩
  · rw [State.modKernel_mem, State.handOff_mem]
  · rw [hh.anyCore, if_neg Bool.false_ne_true]
  · rw [hh.anyCore, if_neg Bool.false_ne_true]
  · exact (startsAt_handOff s kq k c k.handed 0 hn hentry).kept ((Kept.modKernel ..).ctx c n)

end

/-! ### The completion (14 R297) -/

theorem State.mapCtxs_kqs (s : State) (f : Nat → Nat → Ctx → Ctx) : (s.mapCtxs f).kqs = s.kqs := by
  unfold State.mapCtxs
  refine foldl_keeps (fun t : State => t.kqs = s.kqs) _ _ ?_ s rfl
  exact fun _ _ _ h => h

theorem State.notice_kqs (s : State) (l n : Nat) : (s.notice l n).kqs = s.kqs := by
  unfold State.notice
  refine foldl_keeps (fun t : State => t.kqs = s.kqs) _ _ (fun t e _ ht => ?_) _ (State.mapCtxs_kqs ..)
  split
  · exact ht
  · exact ht

theorem State.sealCtx_kqs (s : State) (core ctx code : Nat) : (s.sealCtx core ctx code).kqs = s.kqs := by
  unfold State.sealCtx
  dsimp only
  split <;> rfl

theorem State.sealOwner_mem (s : State) (owner : Option (Nat × Nat)) (code : Nat) : (s.sealOwner owner code).mem = s.mem := by
  cases owner with
  | none => rfl
  | some p => exact State.sealCtx_mem ..

theorem State.sealOwner_kqs (s : State) (owner : Option (Nat × Nat)) (code : Nat) : (s.sealOwner owner code).kqs = s.kqs := by
  cases owner with
  | none => rfl
  | some p => exact State.sealCtx_kqs ..

/-- The doubleword of a completion (14 R297). -/
def completionWord (st cause ended : Nat) : Nat := ended % 2 ^ 32 * 2 ^ 32 + cause % 256 * 256 + st

section
variable {r : List Word} (s : State) (owner : Option (Nat × Nat)) (priv : Bool) (st cause ended : Nat)

theorem State.complete_nowhere (hirq : recIrq r = false) (ha : recD r 11 = 0) : s.complete r owner priv st cause ended = s := by
  unfold State.complete
  dsimp only
  rw [hirq, if_neg Bool.false_ne_true, if_pos (.inl ha)]

theorem State.complete_flat (hirq : recIrq r = false) (h0 : recD r 11 ≠ 0) (h8 : recD r 11 % 8 = 0) (hflat : recD r 11 < 2 ^ 33)
    (hopen : priv = true ∨ inSystemArea (recD r 11) = false) : s.complete r owner priv st cause ended =
      ((s.writeD (recD r 11) (BitVec.ofNat 64 (completionWord st cause ended))).notice (recD r 11) 8).sealOwner owner 2 := by
  have hout : priv = true ∨ recD r 11 % 2 ^ 22 < 0x3E0000 := hopen.imp_right fun h => by
    simp only [inSystemArea, Bool.and_eq_false_iff, decide_eq_false_iff_not] at h
    omega
  unfold State.complete completionWord
  dsimp only
  rw [hirq, if_neg Bool.false_ne_true, if_neg (by simp [h0, h8]), State.reach_flat _ _ _ _ _ _ hflat hout]

end

/-! ### The kernel leaves (14 R296) -/

/-- The head of a queue has nothing left to do: its iterations have ended, their commands have left, and it has faulted or handed out all of them (14 R296). -/
structure KernelOver (s : State) (kq : Nat) (k : Kernel) (ks : List Kernel) : Prop where
  head : s.kq kq = k :: ks
  live : k.live = []
  commands : s.kernelCommands kq k.id = false
  finished : k.st = .faulted ∨ (k.st = .running ∧ recTotal k.record ≤ k.handed)

section
variable {s : State} {kq : Nat} {k : Kernel} {ks : List Kernel}

/-- The code of the state in which a kernel ends (14 R288). -/
def Kernel.endCode (k : Kernel) : Nat := if k.st = .faulted then 4 else 3

/-- Without the head of a queue, with its completion made (14 R297). -/
def State.ended (s : State) (kq : Nat) (k : Kernel) (ks : List Kernel) : State :=
  ({ s with kqs := Tbl.set [] s.kqs kq ks } : State).complete k.record k.owner k.priv k.endCode k.cause k.ended

theorem exec_kernelRetire_over (h : KernelOver s kq k ks) :
    (k.placer = none → exec (.kernelRetire kq) s = .next (s.ended kq k ks)) ∧
    ∀ q seq, k.placer = some (q, seq) → exec (.kernelRetire kq) s =
      .next ((s.ended kq k ks).setWork q seq (if k.endCode = 3 then .done false false false [] else .failed k.cause false)) := by
  have hover' : (!(k.live.isEmpty && !s.kernelCommands kq k.id && (decide (k.st = .faulted) || (decide (k.st = .running) && decide (recTotal k.record ≤ k.handed))))) = false := by
    rw [h.live, h.commands]
    simpa [or_iff_not_imp_left] using h.finished
  rw [show exec (.kernelRetire kq) s = execKernelRetire kq s from rfl]
  unfold execKernelRetire
  rw [h.head]
  dsimp only
  rw [hover', if_neg Bool.false_ne_true]
  refine ⟨fun hp => ?_, fun q seq hp => ?_⟩
  · rw [hp]; rfl
  · rw [hp]; rfl

theorem kernelRetire_silent (h : KernelOver s kq k ks) (hp : k.placer = none) (hirq : recIrq k.record = false) (ha : recD k.record 11 = 0) :
    ∃ t, exec (.kernelRetire kq) s = .next t ∧ t.kq kq = ks ∧ SameMemory s t := by
  refine ⟨_, (exec_kernelRetire_over h).1 hp, ?_⟩
  rw [State.ended, State.complete_nowhere _ _ _ _ _ _ hirq ha]
  exact ⟨Tbl.get_set_same .., sameMemory_of_mem rfl⟩

theorem State.ended_writes (hirq : recIrq k.record = false) (h0 : recD k.record 11 ≠ 0) (h8 : recD k.record 11 % 8 = 0) (hflat : recD k.record 11 < 2 ^ 33)
    (hopen : k.priv = true ∨ inSystemArea (recD k.record 11) = false) : (s.ended kq k ks).kq kq = ks ∧ SameOutside s (s.ended kq k ks) (recD k.record 11) 8 ∧
      Holds (s.ended kq k ks) (recD k.record 11) 8 (completionWord k.endCode k.cause k.ended) := by
  have hword : completionWord k.endCode k.cause k.ended < 2 ^ 64 := by
    have hcode : k.endCode ≤ 4 := by unfold Kernel.endCode; split <;> decide
    unfold completionWord
    omega
  rw [State.ended, State.complete_flat _ _ _ _ _ _ hirq h0 h8 hflat hopen]
  refine ⟨?_, And.symm (holds_of_write ?_)⟩
  · rw [State.kq, State.sealOwner_kqs, State.notice_kqs, State.writeD_kqs, Tbl.get_set_same]
  · rw [State.sealOwner_mem, State.notice_mem, State.writeD, BitVec.toNat_ofNat, Nat.mod_eq_of_lt hword]
    exact State.write_mem_congr rfl ..

theorem kernelRetire_ends_placer {q : QueueId} {seq : Nat} (h : KernelOver s kq k ks) (hst : k.st = .running) (hp : k.placer = some (q, seq)) (hirq : recIrq k.record = false) (ha : recD k.record 11 = 0) :
    exec (.kernelRetire kq) s = .next (({ s with kqs := Tbl.set [] s.kqs kq ks } : State).setWork q seq (.done false false false [])) := by
  have hcode : k.endCode = 3 := if_neg (by rw [hst]; decide)
  rw [(exec_kernelRetire_over h).2 q seq hp, State.ended, State.complete_nowhere _ _ _ _ _ _ hirq ha, if_pos hcode]

end

/-! ### Obligation O46 -/

/-- Settles O46: the start, the hand-off and the end of a kernel each change the head of its queue, and a started context has the registers that the record's fields name. -/
theorem kernelsRun : Obligations.KernelsRun := by
  refine ⟨?start, ?hand, ?retire, ?placer⟩
  case start =>
    intro s kq k ks h hst htime
    obtain ⟨ks', hks⟩ := State.kq_modKernel_head h fun k => { k with st := .running, ran := true }
    exact ⟨_, _, _, exec_kernelStart_armed h hst htime, hks, rfl, sameMemory_of_mem rfl⟩
  case hand =>
    intro s kq k ks c h hst hbind hlock hdet hmore hfree htaken
    obtain ⟨t, k', ks', ht, hmem, hks, hhanded, hlive, hstarts⟩ := iterationHandoff_hands h ⟨hst, hbind, hlock, hdet, hmore, hfree, htaken⟩
    refine ⟨t, k', ks', ht, hmem, hks, hhanded, hlive, fun n hn hentry => ?_⟩
    have hctx := hstarts n hn hentry
    exact ⟨hctx.st, hctx.pc, hctx.priv, hctx.registers hbind⟩
  case retire =>
    intro s kq k ks h hlive hcmds hover hp hirq
    have hk : KernelOver s kq k ks := ⟨h, hlive, hcmds, hover⟩
    exact ⟨kernelRetire_silent hk hp hirq, fun h0 h8 hflat hopen => ⟨_, (exec_kernelRetire_over hk).1 hp, State.ended_writes hirq h0 h8 hflat hopen⟩⟩
  case placer =>
    intro s kq k ks q seq h hlive hcmds hst hall hp hirq ha
    exact kernelRetire_ends_placer ⟨h, hlive, hcmds, .inr ⟨hst, hall⟩⟩ hst hp hirq ha

end Sys2Proof.Machine

/-! # Late data, breakpoints, debug stops and trace samples (14 R294, 23 R404, R405) -/

namespace Sys2Proof.Machine

open Sys2Proof Sys2Proof.Spec

/-! ### Data that arrives late (14 R294) -/

/-- Behind landings that are no loads or have come, the first load that has not come is the one that arrives. -/
theorem arriveFirst_append {a b : List Landing} {r : Landing} (ha : ∀ x ∈ a, x.kind ≠ .load ∨ x.arrived = true) (hk : r.kind = .load) (hr : r.arrived = false) :
    arriveFirst (a ++ r :: b) = a ++ { r with arrived := true } :: b := by
  induction a with
  | nil => exact if_pos ⟨hk, hr⟩
  | cons x a ih =>
    obtain ⟨hx, ha⟩ := List.forall_mem_cons.1 ha
    have hcame : ¬(x.kind = .load ∧ x.arrived = false) := fun h => hx.elim (absurd h.1) (by simp [h.2])
    rw [List.cons_append, arriveFirst, if_neg hcame, ih ha, List.cons_append]

theorem arriveMldi_append {a b : List MldiFly} {f : MldiFly} (ha : ∀ x ∈ a, x.arrived = true) (hf : f.arrived = false) :
    arriveMldi (a ++ f :: b) = a ++ { f with arrived := true } :: b := by
  induction a with
  | nil => exact if_neg (by simp [hf])
  | cons x a ih =>
    obtain ⟨hx, ha⟩ := List.forall_mem_cons.1 ha
    rw [List.cons_append, arriveMldi, if_pos hx, ih ha, List.cons_append]

section
variable {s : State} {core : Nat}

theorem exec_elasticDataArrival_load {a b : List Landing} {r : Landing} (hl : (s.core core).vs.land = a ++ r :: b)
    (ha : ∀ x ∈ a, x.kind ≠ .load ∨ x.arrived = true) (hk : r.kind = .load) (hr : r.arrived = false) :
    ∃ t, exec (.elasticDataArrival core) s = .next t ∧
      (t.core core).vs = { (s.core core).vs with land := a ++ { r with arrived := true } :: b, frozen := false } ∧ SameMemory s t := by
  have hlate : ((s.core core).vs.land.any fun x => decide (x.kind = .load) && !x.arrived) = true := by
    rw [hl, List.any_eq_true]
    exact ⟨r, by simp, by simp [hk, hr]⟩
  refine ⟨_, rfl, ?_, sameMemory_of_mem rfl⟩
  rw [State.core_modCore_same, if_pos hlate, hl, arriveFirst_append ha hk hr]

theorem exec_elasticDataArrival_gather {a b : List MldiFly} {f : MldiFly} (hv : ∀ x ∈ (s.core core).vs.land, x.kind ≠ .load ∨ x.arrived = true)
    (hl : (s.core core).ms.mldi = a ++ f :: b) (ha : ∀ x ∈ a, x.arrived = true) (hf : f.arrived = false) :
    ∃ t, exec (.elasticDataArrival core) s = .next t ∧
      (t.core core).ms = { (s.core core).ms with mldi := a ++ { f with arrived := true } :: b, frozen := false } ∧ SameMemory s t := by
  have hcame : ¬((s.core core).vs.land.any fun x => decide (x.kind = .load) && !x.arrived) = true := by
    rw [List.any_eq_true]
    rintro ⟨x, hx, hlate⟩
    simp only [Bool.and_eq_true, decide_eq_true_eq, Bool.not_eq_true'] at hlate
    exact (hv x hx).elim (absurd hlate.1) (by simp [hlate.2])
  refine ⟨_, rfl, ?_, sameMemory_of_mem rfl⟩
  rw [State.core_modCore_same, if_neg hcame, hl, arriveMldi_append ha hf]

/-! ### Cycle breakpoints (23 R404) -/

theorem exec_breakpointCycle_vector (hst : (s.core core).vs.st = .running) (hb : (s.core core).bpcyc ≠ 0)
    (hc : (s.core core).bpcyc.toNat = (s.core core).vs.cycle) : exec (.breakpointCycle core) s = .next (s.vecStop core 0x0D true) :=
  if_pos ⟨hst, hb, hc⟩

theorem Core.vectorFirst_of_stopped {k : Core} (h : k.vs.st ≠ .running) : k.vectorFirst = false := by simp [Core.vectorFirst, Core.vecCounts, h]

/-- Between two matrix words a breakpoint falls on the word at its cycle. -/
theorem Core.matrixBreak_between {k : Core} (hstep : k.ms.step = none) (hat : k.ms.atStop = 0) (hb : k.bpcyc ≠ 0) (hc : k.bpcyc.toNat = k.ms.cycle) :
    k.matrixBreak = true := by
  have hne : k.bpcyc.toNat ≠ 0 := toNat_ne_zero hb
  rw [hc] at hne
  simp [Core.matrixBreak, hstep, hat, hc, hne]

theorem exec_breakpointCycle_matrix (hv : (s.core core).vs.st ≠ .running ∨ ((s.core core).vectorFirst = false ∧ (s.core core).bpcyc.toNat ≠ (s.core core).vs.cycle))
    (hst : (s.core core).ms.st = .running) (hstep : (s.core core).ms.step = none) (hat : (s.core core).ms.atStop = 0) (hb : (s.core core).bpcyc ≠ 0)
    (hc : (s.core core).bpcyc.toNat = (s.core core).ms.cycle) :
    exec (.breakpointCycle core) s = .next (s.matStop core 0x0D (s.core core).ms.cycle true) := by
  have hfirst : (s.core core).vectorFirst = false := hv.elim Core.vectorFirst_of_stopped And.left
  have hvec : ¬((s.core core).vs.st = .running ∧ (s.core core).bpcyc ≠ 0 ∧ (s.core core).bpcyc.toNat = (s.core core).vs.cycle) :=
    fun h => hv.elim (absurd h.1) fun hv => hv.2 h.2.2
  have hstep' : ¬(s.core core).ms.step.isSome = true := by simp [hstep]
  exact (if_neg hvec).trans ((if_pos ⟨hst, Core.matrixBreak_between hstep hat hb hc, hfirst⟩).trans (if_neg hstep'))

/-! ### Debug stops and their resume (23 R404) -/

/-- The core of a job that a debug stop reaches. -/
def Core.atDebugStop (k : Core) (j : Job) : Core := { k with job := some { j with debug := true } }.follow (stopCode 0 false)

theorem exec_debugStop_job {j : Job} (hj : (s.core core).job = some j) : exec (.debugStop core) s = .next (s.modCore core fun k => k.atDebugStop j) := by
  show Host.Outcome.next (s.setCore core (match (s.core core).job with | none => s.core core | some j => (s.core core).atDebugStop j)) = _
  rw [hj]
  rfl

theorem debugStop_stops {j : Job} (hj : (s.core core).job = some j) :
    ∃ t, exec (.debugStop core) s = .next t ∧ (t.core core).job = some { j with debug := true } ∧ SameMemory s t ∧ (∀ c n, t.ctx c n = s.ctx c n) ∧
      ((s.core core).vs.st = .running → (s.core core).vs.atStop = 0 → (t.core core).vs.atStop = 1) ∧
      ((s.core core).ms.st = .running → (s.core core).ms.atStop = 0 → (t.core core).ms.atStop = 1) := by
  refine ⟨_, exec_debugStop_job hj, ?_⟩
  rw [State.core_modCore_same]
  exact ⟨rfl, sameMemory_of_mem rfl, State.ctx_modCore s core rfl, fun hst hat => congrArg VStream.atStop (if_pos ⟨hst, hat⟩),
    fun hst hat => congrArg MStream.atStop (if_pos ⟨hst, hat⟩)⟩

/-- No follow-up stop waits for the running streams of a core any more. -/
def Core.followsOver (k : Core) : Core :=
  { k with vs := if k.vs.st = .running then { k.vs with atStop := 0 } else k.vs
           ms := if k.ms.st = .running then { k.ms with atStop := 0 } else k.ms }

theorem Core.vs_followsOver {k : Core} (h : k.vs.st = .running) : k.followsOver.vs = { k.vs with atStop := 0 } := if_pos h

theorem Core.ms_followsOver {k : Core} (h : k.ms.st = .running) : k.followsOver.ms = { k.ms with atStop := 0 } := if_pos h

theorem Core.countTogether_rest (k : Core) : k.countTogether =
    { k with vs := { k.vs with lead := k.countTogether.vs.lead }, ms := { k.ms with lead := k.countTogether.ms.lead } } := by
  unfold Core.countTogether
  split <;> rfl

theorem Core.job_resumed (k : Core) : k.followsOver.countTogether.job = k.job := by rw [Core.countTogether_rest, Core.followsOver]

theorem Core.ctxs_resumed (k : Core) : k.followsOver.countTogether.ctxs = k.ctxs := by rw [Core.countTogether_rest, Core.followsOver]

theorem State.vecResume_of_running (h : (s.core core).vs.st = .running) : s.vecResume core = s := by
  unfold State.vecResume
  dsimp only
  split
  · rfl
  · exact if_pos (by simp [h])

theorem State.matResume_of_running (h : (s.core core).ms.st = .running) : s.matResume core = s := if_pos (by simp [h])

/-- A resume in its steps: no follow-up stops, both streams from their frames, one clock, and a stop again where a stream cannot be restored. -/
theorem State.resumeStreams_eq (s : State) (core : Nat) : s.resumeStreams core =
    let t := (((s.modCore core fun k => k.followsOver).vecResume core).matResume core).modCore core Core.countTogether
    if (t.core core).vs.atStop ≠ 0 ∨ (t.core core).ms.atStop ≠ 0 then t.modCore core fun k => k.follow (stopCode 0 false) else t := by
  unfold State.resumeStreams Core.followsOver
  rfl

/-- A resume that finds both streams running takes back their follow-up stops, and they count on from one cycle of the clock. -/
theorem State.resumeStreams_running (hv : (s.core core).vs.st = .running) (hm : (s.core core).ms.st = .running) :
    s.resumeStreams core = s.modCore core fun k => k.followsOver.countTogether := by
  have hvec : ((s.modCore core Core.followsOver).core core).vs.st = .running := by rw [State.core_modCore_same, Core.vs_followsOver hv]; exact hv
  have hmat : ((s.modCore core Core.followsOver).core core).ms.st = .running := by rw [State.core_modCore_same, Core.ms_followsOver hm]; exact hm
  have hback : (((s.modCore core Core.followsOver).vecResume core).matResume core).modCore core Core.countTogether =
      s.modCore core fun k => k.followsOver.countTogether := by
    rw [State.vecResume_of_running hvec, State.matResume_of_running hmat]
    simp only [State.modCore, State.core_setCore_same, State.setCore_setCore]
  have hstops : ¬(((s.modCore core fun k => k.followsOver.countTogether).core core).vs.atStop ≠ 0 ∨
      ((s.modCore core fun k => k.followsOver.countTogether).core core).ms.atStop ≠ 0) := by
    rw [State.core_modCore_same, Core.countTogether_rest, Core.vs_followsOver hv, Core.ms_followsOver hm]
    simp
  rw [State.resumeStreams_eq, hback, if_neg hstops]

/-- A context that no debug stop holds, and a core whose contexts none holds. -/
def Ctx.letGo (c : Ctx) : Ctx := { c with dbg := false }
def State.ctxsLetGo (s : State) (core : Nat) : State := [0, 1, 2].foldl (fun s n => s.modCtx core n Ctx.letGo) s

theorem State.ctxsLetGo_eq (s : State) (core : Nat) : s.ctxsLetGo core =
    ((s.modCtx core 0 Ctx.letGo).modCtx core 1 Ctx.letGo).modCtx core 2 Ctx.letGo := by
  simp only [State.ctxsLetGo, List.foldl_cons, List.foldl_nil]

theorem State.dbg_ctxsLetGo (s : State) (core : Nat) {n : Nat} (hn : n < 3) : ((s.ctxsLetGo core).ctx core n).dbg = false := by
  have hother {t : State} {n m : Nat} (h : n ≠ m) : (t.modCtx core m Ctx.letGo).ctx core n = t.ctx core n :=
    State.ctx_modCtx_other _ _ _ _ _ _ fun hm => h hm.2
  rw [State.ctxsLetGo_eq]
  obtain rfl | rfl | rfl : n = 0 ∨ n = 1 ∨ n = 2 := by omega
  · rw [hother (by decide), hother (by decide), State.ctx_modCtx_same, Ctx.letGo]
  · rw [hother (by decide), State.ctx_modCtx_same, Ctx.letGo]
  · rw [State.ctx_modCtx_same, Ctx.letGo]

theorem State.core_ctxsLetGo (s : State) (core : Nat) : (s.ctxsLetGo core).core core = { s.core core with ctxs := ((s.ctxsLetGo core).core core).ctxs } := by
  rw [State.ctxsLetGo_eq, State.core_modCtx, State.core_modCtx (s.modCtx core 0 Ctx.letGo), State.core_modCtx s]

theorem exec_debugResume_running {j : Job} (hj : (s.core core).job = some j) (hd : j.debug = true) (hv : (s.core core).vs.st = .running)
    (hm : (s.core core).ms.st = .running) :
    exec (.debugResume core) s = .next (((s.ctxsLetGo core).modCore core fun k => { k with job := some { j with debug := false } }).modCore core fun k =>
      k.followsOver.countTogether) := by
  have hstop : (j.debug && (s.core core).debugStopped) = true := by simp [hd, Core.debugStopped, hv, hm]
  have hrun : (((s.ctxsLetGo core).modCore core fun k => { k with job := some { j with debug := false } }).core core).vs.st = .running ∧
      (((s.ctxsLetGo core).modCore core fun k => { k with job := some { j with debug := false } }).core core).ms.st = .running := by
    rw [State.core_modCore_same, State.core_ctxsLetGo]
    exact ⟨hv, hm⟩
  rw [← State.resumeStreams_running hrun.1 hrun.2]
  show (match (s.core core).job with | none => _ | some j => _) = _
  rw [hj]
  exact congrArg Host.Outcome.next (if_pos hstop)

theorem debugResume_letsGo {j : Job} (hj : (s.core core).job = some j) (hd : j.debug = true) (hv : (s.core core).vs.st = .running)
    (hm : (s.core core).ms.st = .running) :
    ∃ t, exec (.debugResume core) s = .next t ∧ (t.core core).job = some { j with debug := false } ∧ (t.core core).vs.atStop = 0 ∧ (t.core core).ms.atStop = 0 ∧
      SameMemory s t ∧ ∀ n, n < 3 → (t.ctx core n).dbg = false := by
  have hv' : ({ (s.ctxsLetGo core).core core with job := some { j with debug := false } } : Core).vs.st = .running := by rw [State.core_ctxsLetGo]; exact hv
  have hm' : ({ (s.ctxsLetGo core).core core with job := some { j with debug := false } } : Core).ms.st = .running := by rw [State.core_ctxsLetGo]; exact hm
  refine ⟨_, exec_debugResume_running hj hd hv hm, ?_, ?_, ?_, sameMemory_of_mem ?_, fun n hn => ?_⟩
  · rw [State.core_modCore_same, Core.job_resumed, State.core_modCore_same]
  · rw [State.core_modCore_same, State.core_modCore_same, Core.countTogether_rest, Core.vs_followsOver hv']
  · rw [State.core_modCore_same, State.core_modCore_same, Core.countTogether_rest, Core.ms_followsOver hm']
  · rw [State.modCore_mem, State.modCore_mem, State.ctxsLetGo_eq, State.modCtx_mem, State.modCtx_mem, State.modCtx_mem]
  · rw [State.ctx_modCore _ _ (Core.ctxs_resumed _), State.ctx_modCore _ _ rfl, State.dbg_ctxsLetGo s core hn]

end

/-! ### Trace samples (23 R405) -/

section
variable {s u : State} {core l : Nat}

theorem State.traceWrite_of_room (d : List Word) (hroom : (s.core core).trlen.toNat * 65536 ≠ 0)
    (hpage : s.pagedAccess ((s.core core).trbase.toNat + (s.core core).trhead.toNat % ((s.core core).trlen.toNat * 65536)) true true true = .loc l u) :
    s.traceWrite core d = some ((u.writeDs l d).modCore core fun k =>
      { k with trhead := BitVec.ofNat 64 ((k.trhead.toNat + 32) % ((s.core core).trlen.toNat * 65536)), trdrops := 0 }) := by
  unfold State.traceWrite
  dsimp only
  rw [if_neg hroom, hpage]

/-- A record that nothing holds up, behind no dropped one, is the one that is written (23 R405, R406). -/
theorem State.trace_of_write {t : State} {bit kind source cycle p0 p1 : Nat} (hon : (s.core core).trctl.getLsbD 0 = true) (hbit : (s.core core).trctl.getLsbD bit = true)
    (hdrops : (s.core core).trdrops = 0)
    (hw : s.traceWrite core [BitVec.ofNat 64 cycle, BitVec.ofNat 64 (kind * 2 ^ 56 + source * 2 ^ 52), BitVec.ofNat 64 p0, BitVec.ofNat 64 p1] = some t) :
    s.trace core bit kind source cycle p0 p1 = t := by
  have hbit' : ((!bitOf (s.core core).trctl.toNat 0) || (decide (bit ≠ 0) && !bitOf (s.core core).trctl.toNat bit)) = false := by
    simp [bitOf_toNat, hon, hbit]
  unfold State.trace
  dsimp only
  rw [hbit', if_neg Bool.false_ne_true, if_pos hdrops, Option.bind_some, hw]

theorem exec_traceSample_off {n : Nat} (h : (s.core core).trctl.getLsbD 0 = false ∨ bitsOf (s.core core).trctl.toNat 31 16 = 0 ∨ 4 < n) :
    exec (.traceSample core n) s = .next s := by
  by_cases hask : bitsOf (s.core core).trctl.toNat 31 16 = 0 ∨ 4 < n
  · exact if_pos hask
  · have hoff : (s.core core).trctl.getLsbD 0 = false := h.resolve_right hask
    exact (if_neg hask).trans (congrArg Host.Outcome.next (State.trace_off _ _ _ _ _ _ _ _ hoff))

/-- A sample of a context holds the core's cycle, the context's program counter and its count of instructions. -/
theorem exec_traceSample_ctx {n : Nat} (hask : bitsOf (s.core core).trctl.toNat 31 16 ≠ 0) (hn : n < 3) : exec (.traceSample core n) s =
    .next (s.trace core 1 1 n (s.core core).cycle (s.ctx core n).pc.toNat (s.ctx core n).log.iret) := by
  refine (if_neg (not_or.2 ⟨hask, by omega⟩)).trans ?_
  obtain rfl | rfl | rfl : n = 0 ∨ n = 1 ∨ n = 2 := by omega
  all_goals rfl

/-- The record of a context's sample (23 R405). -/
def sampleRecord (s : State) (core n : Nat) : List Word :=
  [BitVec.ofNat 64 (s.core core).cycle, BitVec.ofNat 64 (1 * 2 ^ 56 + n * 2 ^ 52), BitVec.ofNat 64 (s.ctx core n).pc.toNat, BitVec.ofNat 64 (s.ctx core n).log.iret]

theorem sampleRecord_written (s u : State) (core n l : Nat) : SameOutside u (u.writeDs l (sampleRecord s core n)) l 32 ∧
    (u.writeDs l (sampleRecord s core n)).readD l = BitVec.ofNat 64 (s.core core).cycle ∧
    (u.writeDs l (sampleRecord s core n)).readD (l + 8) = BitVec.ofNat 64 (2 ^ 56 + n * 2 ^ 52) ∧
    (u.writeDs l (sampleRecord s core n)).readD (l + 16) = (s.ctx core n).pc := by
  refine ⟨fun a ha => State.byte_writeDs_outside u l _ a ha, ?_, ?_, ?_⟩
  · exact State.readD_writeDs u l _ (i := 0) rfl
  · refine (State.readD_writeDs u l _ (i := 1) rfl).trans ?_
    rw [Nat.one_mul]
  · refine (State.readD_writeDs u l _ (i := 2) rfl).trans ?_
    rw [BitVec.ofNat_toNat, BitVec.setWidth_eq]

theorem exec_traceSample_written {n : Nat} (hon : (s.core core).trctl.getLsbD 0 = true) (hbit : (s.core core).trctl.getLsbD 1 = true)
    (hask : bitsOf (s.core core).trctl.toNat 31 16 ≠ 0) (hn : n < 3) (hdrops : (s.core core).trdrops = 0) (hroom : (s.core core).trlen.toNat * 65536 ≠ 0)
    (hpage : s.pagedAccess ((s.core core).trbase.toNat + (s.core core).trhead.toNat % ((s.core core).trlen.toNat * 65536)) true true true = .loc l u) :
    exec (.traceSample core n) s = .next ((u.writeDs l (sampleRecord s core n)).modCore core fun k =>
      { k with trhead := BitVec.ofNat 64 ((k.trhead.toNat + 32) % ((s.core core).trlen.toNat * 65536)), trdrops := 0 }) := by
  rw [exec_traceSample_ctx hask hn, State.trace_of_write hon hbit hdrops (State.traceWrite_of_room _ hroom hpage), sampleRecord]

theorem traceSample_writes {n : Nat} (hon : (s.core core).trctl.getLsbD 0 = true) (hbit : (s.core core).trctl.getLsbD 1 = true)
    (hask : bitsOf (s.core core).trctl.toNat 31 16 ≠ 0) (hn : n < 3) (hdrops : (s.core core).trdrops = 0) (hroom : (s.core core).trlen.toNat * 65536 ≠ 0)
    (hpage : s.pagedAccess ((s.core core).trbase.toNat + (s.core core).trhead.toNat % ((s.core core).trlen.toNat * 65536)) true true true = .loc l u) :
    ∃ t, exec (.traceSample core n) s = .next t ∧ SameOutside u t l 32 ∧ t.readD l = BitVec.ofNat 64 (s.core core).cycle ∧ t.readD (l + 8) = BitVec.ofNat 64 (2 ^ 56 + n * 2 ^ 52) ∧
      t.readD (l + 16) = (s.ctx core n).pc ∧
      (t.core core).trhead = BitVec.ofNat 64 (((s.core core).trhead.toNat + 32) % ((s.core core).trlen.toNat * 65536)) := by
  obtain ⟨houtside, hcycle, hkind, hpc⟩ := sampleRecord_written s u core n l
  refine ⟨_, exec_traceSample_written hon hbit hask hn hdrops hroom hpage, fun a ha => (State.byte_eq _ _ (State.modCore_mem ..) a).trans (houtside a ha),
    (State.readD_mem_congr (State.modCore_mem ..) _).trans hcycle, (State.readD_mem_congr (State.modCore_mem ..) _).trans hkind,
    (State.readD_mem_congr (State.modCore_mem ..) _).trans hpc, ?_⟩
  rw [State.core_modCore_same, State.core_of_cores (State.writeDs_cores ..), State.core_of_cores (State.pagedAccess_cores _ _ _ _ _ _ _ hpage).1]

end

/-! ### Obligation O51 -/

/-- Settles O51: the first data that has not come arrives, a breakpoint stops the stream that is next at its cycle, a debug stop and its resume change the stops that wait for running
streams, and a sample is the record that the trace writes. -/
theorem arrivalsBreakpointsAndSamples : Obligations.ArrivalsBreakpointsAndSamples :=
  ⟨fun _ _ _ _ _ => exec_elasticDataArrival_load, fun _ _ _ _ _ => exec_elasticDataArrival_gather, fun _ _ => exec_breakpointCycle_vector,
    fun _ _ => exec_breakpointCycle_matrix, fun _ _ _ => debugStop_stops, fun _ _ _ => debugResume_letsGo, fun _ _ _ => exec_traceSample_off,
    fun _ _ _ _ _ hon hbit hask hn hdrops hroom hpage => traceSample_writes hon hbit hask hn hdrops hroom hpage⟩

end Sys2Proof.Machine
